-- ==== Sys2Proof/Word.lean ====
section
/-!
DEFINITION. The words of the Kyene K1 machine and the two table shapes every store of the model uses.
R5 numbers bits from 0 and lays multi-byte values out little-endian. R92 makes a scalar register 64 bits wide.
-/

namespace Sys2Proof

/-- A 64-bit value: a scalar register, an address, a CSR (R92, R105). -/
abbrev Word := BitVec 64

/-- A byte of memory or of a vector register (R5). -/
abbrev Byte := BitVec 8

/-- A sparse table: entries in strictly rising key order. -/
abbrev Tab (α : Type) := List (Nat × α)

/-- Sparse storage of w-bit cells: keys strictly rising, and no entry equal to 0, which is what an unlisted key reads as. -/
abbrev Cells (w : Nat) := List (Nat × BitVec w)

end Sys2Proof
end

