-- ==== Sys2Proof/Syntax.lean ====
section
/-!
DEFINITION. The instructions and events of the machine: one constructor of Instr per row of spec/opcode_table.json.
Rows with an encoding carry their register and immediate fields, each at its encoded width, so a field cannot leave its
range. Rows without an encoding are the device's own steps and carry what the step is about: a context, a slot, a packet.
A context is named by its flat index, pair × 4 + context number (R14).
-/

namespace Sys2Proof

/-- Who launched a cast (R69): a task of a partition, or a host launch slot. -/
inductive Launcher where
  | task (q cast idx : Nat)
  | host (q slot : Nat)
deriving DecidableEq, Repr

/-- A host LAUNCH message (R74). -/
structure LaunchMsg where
  q     : Nat
  slot  : Nat
  hdr   : Word
  compl : Word
deriving DecidableEq, Repr

/-- The fields of a partition entry that Ringmaster writes (R192). -/
structure PartEntry where
  bklim   : BitVec 6
  slice   : BitVec 32
  xbar    : BitVec 64
  pgrp    : BitVec 64
  subl    : BitVec 64
  pairs   : BitVec 256
  ptroot  : BitVec 64
  titbase : BitVec 64
  recbase : BitVec 64
  bstbase : BitVec 64
deriving DecidableEq, Repr

/-- The elements of a write that its home counts (R241): by place in the bytes, code and scale, read as the type code and format register
of the writer (R396), or, where it names none, as the home's TIT entry has them (R237); or plain bytes of a copy that starts `pos` bytes
before, with up to 8 bytes that precede them, for an element that their start cuts (R422). -/
inductive WVals where
  | codes (ty : Option (Nat × Nat)) (els : List (Nat × Nat × Int))
  | plain (pos : Nat) (before : List Byte)
deriving DecidableEq, Repr

/-- What a write under a TID tells its home for the delta formed there: the elements, the overflow mark, and the scale that a quantiser
under the auto policy used (R242, R249, R250). -/
structure WStat where
  vals : WVals
  ovf  : Bool
  x    : Option Int
deriving DecidableEq, Repr

/-- A write that no record counts. -/
def WStat.none : WStat := ⟨.codes .none [], false, .none⟩

/-- A fabric operation: what a packet of a class asks for or answers (R134, R165, R280, R285, R435, R441, R442). `off` is an
aperture offset of the receiving member. -/
inductive FabOp where
  /-- a read of n bytes -/
  | read (off n : Nat)
  /-- a write of bytes, with the TID its delta names and what the home counts -/
  | write (off : Nat) (bytes : List Byte) (tid : Nat) (stat : WStat)
  /-- a doubleword atomic: F code of R404, operand, expected value of `amo.cas`, whether the old value is wanted -/
  | amo (off f : Nat) (b expect : Word) (ret : Bool)
  /-- one element of a vector atomic: F code, type code, rounding mode, operand code, TID (R408) -/
  | vamo (off f ty rm code tid : Nat)
  /-- `fred` (R442): type code, scale exponent, TID, and (byte offset, code) of each active element -/
  | fred (off ty : Nat) (x : Int) (tid : Nat) (elems : List (Nat × Nat))
  /-- a `fldr` request (R441) -/
  | gather (off n : Nat)
  /-- a Carousel send or multicast arrival (R435), or the part of one that a packet holds; `more` says that another part follows,
  `poison` that a poisoned input went into it -/
  | chunk (slot op : Nat) (bytes : List Byte) (more poison : Bool)
  /-- data, or a part of it, answering the request of class cls and sequence number seq; `poison` reports a poisoned word as R295 codes
  its memory, 0 for none (R405, R407) -/
  | reply (cls seq : Nat) (data : List Byte) (poison : Nat) (more : Bool)
  /-- an error response (R285): fault code and access kind or reason bits -/
  | errReply (cls seq code bits : Nat)
  /-- a LAUNCH message, its launch status, and a completion record write (R74) -/
  | launch (msg : LaunchMsg)
  | launchStatus (q slot status : Nat)
  | record (addr : Word) (bytes : List Byte)
  /-- a management message under the binding header of R289: type 0 SPDM, 1 secured SPDM, 2 Troupe control; `code` is the SPDM request
  or response code -/
  | mgmt (typ code sess : Nat) (body : List Byte)
  /-- a piece of a checkpoint stream (R467) -/
  | ckpt (key : Nat) (bytes : List Byte)
  /-- the payload of a CLS 7 packet (R280); `zero` says that bytes 8-15 are zero -/
  | ack (cls kind seq : Nat) (zero : Bool)
deriving DecidableEq, Repr

/-- A packet on the wire: the 16- or 24-byte header P of R276 read as one value, the operation its payload carries, and the
16-byte GCM tag. The encryption itself is not modelled; the tag is what the receiver checks. -/
structure Packet where
  hdr : BitVec 192
  op  : FabOp
  tag : BitVec 128
  /-- the sub-link the packet arrived on, 4 × link + first quad (R274) -/
  via : Nat
deriving DecidableEq, Repr

/-- What a requester offers in NEGOTIATE_ALGORITHMS (R288). -/
structure AlgOffer where
  version13 : Bool
  ed448     : Bool
  sha3512   : Bool
  p521      : Bool
  aes256gcm : Bool
deriving DecidableEq, Repr

/-- PREPARE (R290): the leader that sends it, the new generation, the traffic secret, and the new membership as (member number,
CHIPID, HOST). -/
structure PrepareMsg where
  leader  : Nat
  gen     : Nat
  secret  : List Byte
  members : List (Nat × BitVec 64 × Bool)
deriving DecidableEq, Repr

/-- What bring-up finds (R459 to R461): the stage whose hardware fails, if any; the images measured into blocks 1 to 4, and the signatures
that come with the Ringmaster and the Carousel firmware; the good pair sites of each die; the spare vector lanes, DRAM rows and columns, UCIe
and Fraing lanes taken into use, as die, kind and number; the lane quads with a failed lane; the node number and the sub-links the fabric
configuration gives, as first lane quad and number of quads (R274). -/
structure BootInput where
  fails    : Option Nat
  images   : List (List Byte)
  sigs     : List (List Byte)
  sites    : List (List Nat)
  spares   : List (Nat × Nat × Nat)
  badQuads : List Nat
  node     : Nat
  sublinks : List (Nat × Nat)
deriving DecidableEq, Repr

/-- The instructions and events of the VD9, in the order of spec/opcode_table.json. -/
inductive Instr where
  /-- R327: Writes the 64-bit wrapped sum of two scalar registers to Xd. -/
  | add (d a b : BitVec 5)
  /-- R327: Writes the 64-bit wrapped difference of two scalar registers to Xd. -/
  | sub (d a b : BitVec 5)
  /-- R327: Writes the low 64 bits of the product to Xd. -/
  | mul (d a b : BitVec 5)
  /-- R327: Writes the high 64 bits of the signed product to Xd. -/
  | mulh (d a b : BitVec 5)
  /-- R327: Writes the high 64 bits of the unsigned product to Xd. -/
  | mulhu (d a b : BitVec 5)
  /-- R327: Signed division truncating toward zero, with fixed results for zero divisor and overflow. -/
  | div (d a b : BitVec 5)
  /-- R327: Unsigned division, all ones for a zero divisor. -/
  | divu (d a b : BitVec 5)
  /-- R327: Signed remainder with the sign of the dividend. -/
  | rem (d a b : BitVec 5)
  /-- R327: Unsigned remainder, the dividend for a zero divisor. -/
  | remu (d a b : BitVec 5)
  /-- R327: Bitwise and of two scalar registers. -/
  | and (d a b : BitVec 5)
  /-- R327: Bitwise or of two scalar registers. -/
  | or (d a b : BitVec 5)
  /-- R327: Bitwise exclusive or of two scalar registers. -/
  | xor (d a b : BitVec 5)
  /-- R327: Logical shift left by the low six bits of Xb. -/
  | sll (d a b : BitVec 5)
  /-- R327: Logical shift right by the low six bits of Xb. -/
  | srl (d a b : BitVec 5)
  /-- R327: Arithmetic shift right by the low six bits of Xb. -/
  | sra (d a b : BitVec 5)
  /-- R327: Writes 1 when Xa is signed-less than Xb, else 0. -/
  | slt (d a b : BitVec 5)
  /-- R327: Writes 1 when Xa is unsigned-less than Xb, else 0. -/
  | sltu (d a b : BitVec 5)
  /-- R327: Signed minimum of two scalar registers. -/
  | min (d a b : BitVec 5)
  /-- R327: Signed maximum of two scalar registers. -/
  | max (d a b : BitVec 5)
  /-- R327: Unsigned minimum of two scalar registers. -/
  | minu (d a b : BitVec 5)
  /-- R327: Unsigned maximum of two scalar registers. -/
  | maxu (d a b : BitVec 5)
  /-- R327: Writes Xa to Xd if the old Xd is nonzero, else Xb. -/
  | sel (d a b : BitVec 5)
  /-- R327: Counts leading zero bits of Xa. -/
  | clz (d a : BitVec 5)
  /-- R327: Counts one bits of Xa. -/
  | popc (d a : BitVec 5)
  /-- R328: Adds a sign-extended 12-bit immediate to Xa. -/
  | addi (d a : BitVec 5) (i : BitVec 12)
  /-- R328: Bitwise and with a sign-extended immediate. -/
  | andi (d a : BitVec 5) (i : BitVec 12)
  /-- R328: Bitwise or with a sign-extended immediate. -/
  | ori (d a : BitVec 5) (i : BitVec 12)
  /-- R328: Bitwise exclusive or with a sign-extended immediate. -/
  | xori (d a : BitVec 5) (i : BitVec 12)
  /-- R328: Logical shift left by an immediate count. -/
  | slli (d a : BitVec 5) (i : BitVec 6)
  /-- R328: Logical shift right by an immediate count. -/
  | srli (d a : BitVec 5) (i : BitVec 6)
  /-- R328: Arithmetic shift right by an immediate count. -/
  | srai (d a : BitVec 5) (i : BitVec 6)
  /-- R328: Signed compare of Xa with an immediate. -/
  | slti (d a : BitVec 5) (i : BitVec 12)
  /-- R328: Unsigned compare of Xa with a sign-extended immediate. -/
  | sltiu (d a : BitVec 5) (i : BitVec 12)
  /-- R329: Writes the sign-extended 18-bit immediate times 4,096 to Xd. -/
  | lui (d : BitVec 5) (i : BitVec 18)
  /-- R329: Writes the PC plus the 18-bit immediate times 4,096 to Xd. -/
  | auipc (d : BitVec 5) (i : BitVec 18)
  /-- R330: Scalar F32 add rounded by MDV.RM. -/
  | faddS (d a b : BitVec 5)
  /-- R330: Scalar F32 subtract rounded by MDV.RM. -/
  | fsubS (d a b : BitVec 5)
  /-- R330: Scalar F32 multiply rounded by MDV.RM. -/
  | fmulS (d a b : BitVec 5)
  /-- R330: Scalar F32 divide rounded by MDV.RM. -/
  | fdivS (d a b : BitVec 5)
  /-- R330: Scalar F32 minimum with canonical NaN. -/
  | fminS (d a b : BitVec 5)
  /-- R330: Scalar F32 maximum with canonical NaN. -/
  | fmaxS (d a b : BitVec 5)
  /-- R330: Converts a signed 64-bit integer to F32. -/
  | fcvtSL (d a : BitVec 5)
  /-- R330: Converts F32 to a clamped signed 64-bit integer. -/
  | fcvtLS (d a : BitVec 5)
  /-- R330: Writes 1 when F32 a < b. -/
  | fltS (d a b : BitVec 5)
  /-- R330: Writes 1 when F32 a <= b. -/
  | fleS (d a b : BitVec 5)
  /-- R330: Writes 1 when F32 a = b. -/
  | feqS (d a b : BitVec 5)
  /-- R331: Loads a sign-extended byte. -/
  | ldB (d a : BitVec 5) (i : BitVec 12)
  /-- R331: Loads a zero-extended byte. -/
  | ldBu (d a : BitVec 5) (i : BitVec 12)
  /-- R331: Loads a sign-extended halfword. -/
  | ldH (d a : BitVec 5) (i : BitVec 12)
  /-- R331: Loads a zero-extended halfword. -/
  | ldHu (d a : BitVec 5) (i : BitVec 12)
  /-- R331: Loads a sign-extended word. -/
  | ldW (d a : BitVec 5) (i : BitVec 12)
  /-- R331: Loads a zero-extended word. -/
  | ldWu (d a : BitVec 5) (i : BitVec 12)
  /-- R331: Loads a doubleword. -/
  | ldD (d a : BitVec 5) (i : BitVec 12)
  /-- R331: Loads a doubleword as an acquire. -/
  | ldDAq (d a : BitVec 5) (i : BitVec 12)
  /-- R331: Stores the low byte of Xd through the store buffer. -/
  | stB (d a : BitVec 5) (i : BitVec 12)
  /-- R331: Stores the low halfword of Xd through the store buffer. -/
  | stH (d a : BitVec 5) (i : BitVec 12)
  /-- R331: Stores the low word of Xd through the store buffer. -/
  | stW (d a : BitVec 5) (i : BitVec 12)
  /-- R331: Stores Xd as a doubleword through the store buffer. -/
  | stD (d a : BitVec 5) (i : BitVec 12)
  /-- R335: Branches when Xa equals Xb. -/
  | beq (a b : BitVec 5) (o : BitVec 12)
  /-- R335: Branches when Xa differs from Xb. -/
  | bne (a b : BitVec 5) (o : BitVec 12)
  /-- R335: Branches when Xa is signed-less than Xb. -/
  | blt (a b : BitVec 5) (o : BitVec 12)
  /-- R335: Branches when Xa is signed-greater-or-equal to Xb. -/
  | bge (a b : BitVec 5) (o : BitVec 12)
  /-- R335: Branches when Xa is unsigned-less than Xb. -/
  | bltu (a b : BitVec 5) (o : BitVec 12)
  /-- R335: Branches when Xa is unsigned-greater-or-equal to Xb. -/
  | bgeu (a b : BitVec 5) (o : BitVec 12)
  /-- R336: Jumps by a 24-bit word offset. -/
  | j (o : BitVec 24)
  /-- R336: Writes the return address to X31 and jumps. -/
  | call (o : BitVec 24)
  /-- R336: Jumps to Xa plus immediate, linking in Xd. -/
  | jalr (d a : BitVec 5) (i : BitVec 12)
  /-- R337: Branches to exit when the trip count is 0, otherwise decrements it. -/
  | loop (a : BitVec 5) (o : BitVec 12)
  /-- R339: Reads the numbered CSR into Xd, with the timing of R340. -/
  | csrr (d : BitVec 5) (c : BitVec 12)
  /-- R339: Writes Xa to a CSR that has no behaviour of its own, discarding reserved and RO bits. -/
  | csrw (a : BitVec 5) (c : BitVec 12)
  /-- R355: csrw of VSTART after older vector-side instructions complete, making the next vector instruction skip lower elements. -/
  | vstartWrite (a : BitVec 5)
  /-- R106: csrw of VSHARE, taking effect at the next 1,024-clk arbitration period. -/
  | vshareWrite (a : BitVec 5)
  /-- R206: csrw of SRSTEP after every older vector-side instruction has completed. -/
  | srstepWrite (a : BitVec 5)
  /-- R108: csrw of PDONE, setting which plural members a restart skips. -/
  | pdoneWrite (a : BitVec 5)
  /-- R106: csrw of WDOG; a value of 0 raises ILLEGAL_CONFIG 0x13 and is not performed. -/
  | wdogWrite (a : BitVec 5)
  /-- R106: csrw of BANKTO; a value of 0 raises ILLEGAL_CONFIG 0x13 and is not performed. -/
  | banktoWrite (a : BitVec 5)
  /-- R212: csrw of an event counter COUNT, dropping carried events at one clk. -/
  | ecntWrite (a : BitVec 5) (n : BitVec 3)
  /-- R211: csrw of an event selector: new source and context mask, OVF cleared by writing one. -/
  | eselWrite (a : BitVec 5) (n : BitVec 3)
  /-- R342: Writes the guard, type, rounding, saturate, grouping and format fields of a mode register, keeping keep-coded parts. -/
  | modeField (r : BitVec 2) (g : BitVec 6) (t : BitVec 5) (m : BitVec 3) (s : BitVec 2) (p q : BitVec 3)
  /-- R342: Writes the TID field of a mode register. -/
  | modeTid (r : BitVec 2) (t : BitVec 12)
  /-- R343: At a strip boundary, sets the section grant and register count and returns the sections granted. -/
  | vcfg (d : BitVec 5) (c : BitVec 2) (n : BitVec 4)
  /-- R345: Sets VL to min(Xa, MAXVL) for MDV's type and writes it to Xd. -/
  | vsetvl (d a : BitVec 5)
  /-- R346: Counts the active set bits of a mask into Xd. -/
  | mcnt (d : BitVec 5) (a : BitVec 4)
  /-- R346: Writes 1 to Xd if any active mask bit is set. -/
  | many (d : BitVec 5) (a : BitVec 4)
  /-- R346: Writes the index of the first active set mask bit, or all ones. -/
  | mfirst (d : BitVec 5) (a : BitVec 4)
  /-- R348: Joins every queue, waits for R267 and ends the task with exit value Xa. -/
  | texit (a : BitVec 5)
  /-- R357: Elementwise add of two register groups. -/
  | vadd (d a b : BitVec 6)
  /-- R357: Elementwise subtract of two register groups. -/
  | vsub (d a b : BitVec 6)
  /-- R357: Elementwise multiply of two register groups. -/
  | vmul (d a b : BitVec 6)
  /-- R357: Elementwise divide of two register groups. -/
  | vdiv (d a b : BitVec 6)
  /-- R357: Elementwise minimum of two register groups. -/
  | vmin (d a b : BitVec 6)
  /-- R357: Elementwise maximum of two register groups. -/
  | vmax (d a b : BitVec 6)
  /-- R357: Elementwise bitwise and on codes. -/
  | vand (d a b : BitVec 6)
  /-- R357: Elementwise bitwise or on codes. -/
  | vor (d a b : BitVec 6)
  /-- R357: Elementwise bitwise exclusive or on codes. -/
  | vxor (d a b : BitVec 6)
  /-- R357: Elementwise logical shift left of integers. -/
  | vsll (d a b : BitVec 6)
  /-- R357: Elementwise logical shift right of integers. -/
  | vsrl (d a b : BitVec 6)
  /-- R357: Elementwise arithmetic shift right of integers. -/
  | vsra (d a b : BitVec 6)
  /-- R357: Adds a scalar operand to each element. -/
  | vaddX (d a : BitVec 6) (b : BitVec 5)
  /-- R357: Subtracts a scalar operand from each element. -/
  | vsubX (d a : BitVec 6) (b : BitVec 5)
  /-- R357: Multiplies each element by a scalar operand. -/
  | vmulX (d a : BitVec 6) (b : BitVec 5)
  /-- R357: Divides each element by a scalar operand. -/
  | vdivX (d a : BitVec 6) (b : BitVec 5)
  /-- R357: Minimum of each element and a scalar operand. -/
  | vminX (d a : BitVec 6) (b : BitVec 5)
  /-- R357: Maximum of each element and a scalar operand. -/
  | vmaxX (d a : BitVec 6) (b : BitVec 5)
  /-- R357: Bitwise and of each element with a scalar operand. -/
  | vandX (d a : BitVec 6) (b : BitVec 5)
  /-- R357: Bitwise or of each element with a scalar operand. -/
  | vorX (d a : BitVec 6) (b : BitVec 5)
  /-- R357: Bitwise exclusive or of each element with a scalar operand. -/
  | vxorX (d a : BitVec 6) (b : BitVec 5)
  /-- R357: Shifts each element left by a scalar count. -/
  | vsllX (d a : BitVec 6) (b : BitVec 5)
  /-- R357: Shifts each element right logically by a scalar count. -/
  | vsrlX (d a : BitVec 6) (b : BitVec 5)
  /-- R357: Shifts each element right arithmetically by a scalar count. -/
  | vsraX (d a : BitVec 6) (b : BitVec 5)
  /-- R359: Fused a*b+c into the destination group. -/
  | vfma (d a b : BitVec 6)
  /-- R359: Fused a*b-c into the destination group. -/
  | vfms (d a b : BitVec 6)
  /-- R359: Fused -(a*b)-c into the destination group. -/
  | vfnma (d a b : BitVec 6)
  /-- R359: Fused -(a*b)+c into the destination group. -/
  | vfnms (d a b : BitVec 6)
  /-- R360: Negates each element. -/
  | vneg (d a : BitVec 6)
  /-- R360: Absolute value of each element. -/
  | vabs (d a : BitVec 6)
  /-- R360: Copies the bits of each element. -/
  | vmov (d a : BitVec 6)
  /-- R360: Correctly rounded square root of each element. -/
  | vsqrt (d a : BitVec 6)
  /-- R360: Correctly rounded reciprocal of each element. -/
  | vrcp (d a : BitVec 6)
  /-- R360: Correctly rounded reciprocal square root of each element. -/
  | vrsqrt (d a : BitVec 6)
  /-- R360: Correctly rounded 2^a of each element. -/
  | vexp2 (d a : BitVec 6)
  /-- R360: Correctly rounded log2 of each element. -/
  | vlog2 (d a : BitVec 6)
  /-- R361: Converts each element from the source type to MDV's type, with block bytes where scaled. -/
  | vcvt (d a : BitVec 6) (s : BitVec 5)
  /-- R362: Writes mask bits for equal elements of two groups. -/
  | vcmpeq (d : BitVec 4) (a b : BitVec 6)
  /-- R362: Writes mask bits for unequal elements of two groups. -/
  | vcmpne (d : BitVec 4) (a b : BitVec 6)
  /-- R362: Writes mask bits for less-than of two groups. -/
  | vcmplt (d : BitVec 4) (a b : BitVec 6)
  /-- R362: Writes mask bits for less-or-equal of two groups. -/
  | vcmple (d : BitVec 4) (a b : BitVec 6)
  /-- R362: Writes mask bits for greater-than of two groups. -/
  | vcmpgt (d : BitVec 4) (a b : BitVec 6)
  /-- R362: Writes mask bits for greater-or-equal of two groups. -/
  | vcmpge (d : BitVec 4) (a b : BitVec 6)
  /-- R362: Writes mask bits for elements equal to a scalar. -/
  | vcmpeqX (d : BitVec 4) (a : BitVec 6) (b : BitVec 5)
  /-- R362: Writes mask bits for elements unequal to a scalar. -/
  | vcmpneX (d : BitVec 4) (a : BitVec 6) (b : BitVec 5)
  /-- R362: Writes mask bits for elements less than a scalar. -/
  | vcmpltX (d : BitVec 4) (a : BitVec 6) (b : BitVec 5)
  /-- R362: Writes mask bits for elements at most a scalar. -/
  | vcmpleX (d : BitVec 4) (a : BitVec 6) (b : BitVec 5)
  /-- R362: Writes mask bits for elements greater than a scalar. -/
  | vcmpgtX (d : BitVec 4) (a : BitVec 6) (b : BitVec 5)
  /-- R362: Writes mask bits for elements at least a scalar. -/
  | vcmpgeX (d : BitVec 4) (a : BitVec 6) (b : BitVec 5)
  /-- R363: Selects each element from va or vb by a mask. -/
  | vsel (d a b : BitVec 6) (f : BitVec 4)
  /-- R364: Writes a scalar operand to every active element. -/
  | vsplat (d : BitVec 6) (a : BitVec 5)
  /-- R364: Extracts one element into a scalar register. -/
  | vextr (d : BitVec 5) (a : BitVec 6) (b : BitVec 5)
  /-- R364: Slides elements up by a scalar count. -/
  | vslideup (d a : BitVec 6) (b : BitVec 5)
  /-- R364: Slides elements down by a scalar count. -/
  | vslidedn (d a : BitVec 6) (b : BitVec 5)
  /-- R364: Permutes elements by an index register. -/
  | vperm (d a b : BitVec 6)
  /-- R364: Writes the element's position to each active element. -/
  | vstep (d : BitVec 6)
  /-- R365: Sums each row by the pairwise tree into element 0. -/
  | vredsum (d a : BitVec 6)
  /-- R365: Maximum of each row into element 0. -/
  | vredmax (d a : BitVec 6)
  /-- R365: Minimum of each row into element 0. -/
  | vredmin (d a : BitVec 6)
  /-- R365: Bitwise and of each row into element 0. -/
  | vredand (d a : BitVec 6)
  /-- R365: Bitwise or of each row into element 0. -/
  | vredor (d a : BitVec 6)
  /-- R365: Bitwise exclusive or of each row into element 0. -/
  | vredxor (d a : BitVec 6)
  /-- R366: Adds D products per element into an F32 accumulator element by the window sum. -/
  | vdot (d a b : BitVec 6)
  /-- R367: Quantises elements into the tensor's format using a record snapshot, writing the S register. -/
  | vqnt (d a : BitVec 6) (b : BitVec 3)
  /-- R369: Decodes tensor-format codes into MDV's type using the S register scale. -/
  | vdqnt (d a : BitVec 6) (b : BitVec 3)
  /-- R370: Writes an explicit scale exponent into an S register. -/
  | vsset (d : BitVec 3) (a : BitVec 5)
  /-- R370: Copies an S register into a scalar register. -/
  | vsget (d : BitVec 5) (a : BitVec 3)
  /-- R371: Keeps 2 of each 4 positions by magnitude, writing values and metadata. -/
  | vcompr24 (d a b : BitVec 6)
  /-- R371: Keeps 4 of each 8 positions by magnitude, writing values and metadata. -/
  | vcompr48 (d a b : BitVec 6)
  /-- R373: Mask and. -/
  | mand (d a b : BitVec 4)
  /-- R373: Mask or. -/
  | mor (d a b : BitVec 4)
  /-- R373: Mask exclusive or. -/
  | mxor (d a b : BitVec 4)
  /-- R373: Mask and-not. -/
  | mandn (d a b : BitVec 4)
  /-- R373: Mask complement. -/
  | mnot (d a : BitVec 4)
  /-- R373: Mask copy. -/
  | mmov (d a : BitVec 4)
  /-- R373: Sets mask bits 0 to VL-1. -/
  | mset (d : BitVec 4)
  /-- R373: Clears mask bits 0 to VL-1. -/
  | mclr (d : BitVec 4)
  /-- R378: Adds G outer products of register operands into an accumulator array. -/
  | accop (d : BitVec 2) (a b : BitVec 6)
  /-- R378: Adds G outer products of scratchpad operands named by headers into an accumulator array. -/
  | accopH (d : BitVec 2) (a b : BitVec 5)
  /-- R382: Structured-sparse 2:4 outer-product accumulate. -/
  | accsp24 (d : BitVec 2) (a b f : BitVec 6)
  /-- R382: Structured-sparse 4:8 outer-product accumulate. -/
  | accsp48 (d : BitVec 2) (a b f : BitVec 6)
  /-- R384: Zeroes an accumulator array and clears its dirty bit. -/
  | acczero (d : BitVec 2)
  /-- R385: Reads accumulator rows into a register group, rounding. -/
  | accrd (d : BitVec 6) (a : BitVec 2) (b : BitVec 5)
  /-- R386: Writes register rows into accumulator rows exactly. -/
  | accwr (d : BitVec 2) (a : BitVec 6) (b : BitVec 5)
  /-- R387: Loads an accumulator array from memory row by row. -/
  | accld (d : BitVec 2) (a : BitVec 5)
  /-- R387: Stores an accumulator array to memory row by row, rounding. -/
  | accst (d : BitVec 5) (a : BitVec 2)
  /-- R388: Quantising store of an accumulator array with snapshot, S register and block bytes. -/
  | accstQ (d : BitVec 5) (a : BitVec 2) (b : BitVec 3)
  /-- R389: Gathers scratchpad operand words into a register group by indices. -/
  | vgathr (d : BitVec 6) (a : BitVec 5) (b : BitVec 6)
  /-- R397: Unit-stride vector load. -/
  | vld (d : BitVec 6) (a : BitVec 5) (i : BitVec 12)
  /-- R397: Unit-stride vector store. -/
  | vst (d : BitVec 6) (a : BitVec 5) (i : BitVec 12)
  /-- R397: Strided vector load. -/
  | vlds (d : BitVec 6) (a b : BitVec 5)
  /-- R397: Strided vector store. -/
  | vsts (d : BitVec 6) (a b : BitVec 5)
  /-- R399: Indexed vector load after a probe pass. -/
  | vldx (d : BitVec 6) (a : BitVec 5) (b : BitVec 6)
  /-- R399: Indexed vector store after a probe pass. -/
  | vstx (d : BitVec 6) (a : BitVec 5) (b : BitVec 6)
  /-- R400: Unit-stride store that adds its progress to a progress word. -/
  | vstn (d : BitVec 6) (a b : BitVec 5)
  /-- R402: Plural load folding members by sum. -/
  | pldSum (d : BitVec 6) (a b : BitVec 5) (p : BitVec 3)
  /-- R402: Plural load folding members by maximum. -/
  | pldMax (d : BitVec 6) (a b : BitVec 5) (p : BitVec 3)
  /-- R402: Plural load folding members by minimum. -/
  | pldMin (d : BitVec 6) (a b : BitVec 5) (p : BitVec 3)
  /-- R402: Plural load folding members by maximum magnitude. -/
  | pldMaxabs (d : BitVec 6) (a b : BitVec 5) (p : BitVec 3)
  /-- R402: Plural load folding integer members by and. -/
  | pldAnd (d : BitVec 6) (a b : BitVec 5) (p : BitVec 3)
  /-- R402: Plural load folding integer members by or. -/
  | pldOr (d : BitVec 6) (a b : BitVec 5) (p : BitVec 3)
  /-- R402: Plural load folding integer members by exclusive or. -/
  | pldXor (d : BitVec 6) (a b : BitVec 5) (p : BitVec 3)
  /-- R403: Plural store of register words to every on member not in PDONE. -/
  | pst (d : BitVec 6) (a b : BitVec 5) (p : BitVec 6)
  /-- R428: Starts one microprogram run per on member through the bank queue. -/
  | prun (d a b : BitVec 5) (p : BitVec 6)
  /-- R404: Scalar atomic add returning the old doubleword. -/
  | amoAdd (d a b : BitVec 5)
  /-- R404: Scalar atomic swap. -/
  | amoSwap (d a b : BitVec 5)
  /-- R404: Scalar atomic signed maximum. -/
  | amoMax (d a b : BitVec 5)
  /-- R404: Scalar atomic signed minimum. -/
  | amoMin (d a b : BitVec 5)
  /-- R404: Scalar atomic unsigned maximum. -/
  | amoMaxu (d a b : BitVec 5)
  /-- R404: Scalar atomic unsigned minimum. -/
  | amoMinu (d a b : BitVec 5)
  /-- R404: Scalar atomic and. -/
  | amoAnd (d a b : BitVec 5)
  /-- R404: Scalar atomic or. -/
  | amoOr (d a b : BitVec 5)
  /-- R404: Scalar atomic exclusive or. -/
  | amoXor (d a b : BitVec 5)
  /-- R404: Scalar atomic compare and swap against the old Xd. -/
  | amoCas (d a b : BitVec 5)
  /-- R407: Vector atomic add at indexed addresses. -/
  | vamoAdd (d : BitVec 6) (a : BitVec 5) (b : BitVec 6)
  /-- R407: Vector atomic swap at indexed addresses. -/
  | vamoSwap (d : BitVec 6) (a : BitVec 5) (b : BitVec 6)
  /-- R407: Vector atomic maximum. -/
  | vamoMax (d : BitVec 6) (a : BitVec 5) (b : BitVec 6)
  /-- R407: Vector atomic minimum. -/
  | vamoMin (d : BitVec 6) (a : BitVec 5) (b : BitVec 6)
  /-- R407: Vector atomic unsigned maximum. -/
  | vamoMaxu (d : BitVec 6) (a : BitVec 5) (b : BitVec 6)
  /-- R407: Vector atomic unsigned minimum. -/
  | vamoMinu (d : BitVec 6) (a : BitVec 5) (b : BitVec 6)
  /-- R407: Vector atomic and. -/
  | vamoAnd (d : BitVec 6) (a : BitVec 5) (b : BitVec 6)
  /-- R407: Vector atomic or. -/
  | vamoOr (d : BitVec 6) (a : BitVec 5) (b : BitVec 6)
  /-- R407: Vector atomic exclusive or. -/
  | vamoXor (d : BitVec 6) (a : BitVec 5) (b : BitVec 6)
  /-- R409: Attempts locks in ascending address order and writes the obtained mask. -/
  | vlock (d : BitVec 4) (a : BitVec 5) (b : BitVec 6)
  /-- R410: Sleeps until one watched word holds its expected code. -/
  | waitvAny (d : BitVec 4) (a : BitVec 5) (b f : BitVec 6)
  /-- R410: Sleeps until every watched word holds its expected code. -/
  | waitvAll (d : BitVec 4) (a : BitVec 5) (b f : BitVec 6)
  /-- R410: A write lands the expected code and ends a waitv as an acquire. -/
  | waitvSatisfied (c : Nat)
  /-- R412: Arrives at a pair named barrier and returns the prior phase. -/
  | bara (d : BitVec 5) (n : BitVec 10)
  /-- R412: Arrives at a group barrier and returns the prior phase. -/
  | baraG (d : BitVec 5) (n : BitVec 10)
  /-- R412: Sleeps while a pair barrier's phase equals the operand. -/
  | barw (a : BitVec 5) (n : BitVec 10)
  /-- R412: Sleeps while a group barrier's phase equals the operand. -/
  | barwG (a : BitVec 5) (n : BitVec 10)
  /-- R412: Arrives at a pair barrier then sleeps until the phase moves, keeping an arrival record. -/
  | baraw (d : BitVec 5) (n : BitVec 10)
  /-- R412: Arrives at a group barrier then sleeps until the phase moves. -/
  | barawG (d : BitVec 5) (n : BitVec 10)
  /-- R198: A sleeping barw or baraw ends as an acquire when the phase changes. -/
  | barrierWake (c : Nat)
  /-- R414: Initialises a transaction barrier with an arrival count. -/
  | tbinit (a b : BitVec 5)
  /-- R414: Adds an expected sector count to a transaction barrier. -/
  | tbexp (a b : BitVec 5)
  /-- R414: Arrives at a transaction barrier after the context's stores. -/
  | tbarr (a : BitVec 5)
  /-- R414: Sleeps while the transaction barrier's PCOUNT equals the operand. -/
  | tbwait (a b : BitVec 5)
  /-- R202: A sleeping tbwait ends as an acquire when PCOUNT moves. -/
  | tbwaitWake (c : Nat)
  /-- R415: Walks two sorted lists counting common values, ending early before an untouched faulting page. -/
  | vsint (d : BitVec 5) (a b : BitVec 4)
  /-- R254: Orders older scalar accesses before later vector memory accesses. -/
  | fenceSv
  /-- R254: Stalls the scalar side until older vector memory accesses are performed. -/
  | fenceVs
  /-- R254: Orders older vector memory accesses before later ones. -/
  | fenceVv
  /-- R264: Orders bank-path runs and ordinary accesses both ways. -/
  | fenceXp
  /-- R247: Waits for the context's deltas to be applied and drops the pair's snapshots of their TIDs. -/
  | fenceSt
  /-- R265: Stalls until every earlier fabric operation is acknowledged. -/
  | fenceF
  /-- R269: Joins the named queues of the context and takes pending engine faults. -/
  | qfence (q : BitVec 8)
  /-- R422: Places a copy command of LEN bytes in the command hold. -/
  | cpy (d a b : BitVec 5)
  /-- R423: Places a quantising copy command. -/
  | cpyQ (d a b : BitVec 5)
  /-- R424: Places a gang multicast copy into the same register of every member. -/
  | cpyG (d a b : BitVec 5)
  /-- R425: Reads a loop-nest descriptor and places a six-level copy command. -/
  | lns (a : BitVec 5)
  /-- R427: Loads b-class words into NMU microprogram stores. -/
  | pmld (a b : BitVec 5)
  /-- R437: Loads a graph image into a free Carousel slot and returns its number. -/
  | cgld (d a : BitVec 5)
  /-- R438: Starts a run of a loaded graph slot. -/
  | cgrun (a b : BitVec 5)
  /-- R439: Frees a graph slot after earlier runs end. -/
  | cgfree (a : BitVec 5)
  /-- R440: Fabric load of a doubleword, waiting for the reply as an acquire. -/
  | fld (d a : BitVec 5) (i : BitVec 12)
  /-- R440: Posted fabric store of a doubleword. -/
  | fst (d a : BitVec 5) (i : BitVec 12)
  /-- R441: Reads the same offset on every Troupe group member and folds by sum in member order. -/
  | fldrSum (d : BitVec 6) (a b : BitVec 5)
  /-- R452: Fabric group read folded by maximum. -/
  | fldrMax (d : BitVec 6) (a b : BitVec 5)
  /-- R452: Fabric group read folded by minimum. -/
  | fldrMin (d : BitVec 6) (a b : BitVec 5)
  /-- R442: Posted fabric scatter-add of scaled elements into a remote buffer. -/
  | fred (d : BitVec 5) (a : BitVec 6) (b : BitVec 3)
  /-- R430: Bank-register lane add under a predicate mask. -/
  | badd (k : BitVec 2) (d a b : BitVec 3) (t : BitVec 1)
  /-- R430: Bank-register lane subtract. -/
  | bsub (k : BitVec 2) (d a b : BitVec 3) (t : BitVec 1)
  /-- R430: Bank-register lane multiply. -/
  | bmul (k : BitVec 2) (d a b : BitVec 3) (t : BitVec 1)
  /-- R430: Bank-register lane minimum. -/
  | bmin (k : BitVec 2) (d a b : BitVec 3) (t : BitVec 1)
  /-- R430: Bank-register lane maximum. -/
  | bmax (k : BitVec 2) (d a b : BitVec 3) (t : BitVec 1)
  /-- R430: Bank-register lane and. -/
  | band (k : BitVec 2) (d a b : BitVec 3)
  /-- R430: Bank-register lane or. -/
  | bor (k : BitVec 2) (d a b : BitVec 3)
  /-- R430: Bank-register lane exclusive or. -/
  | bxor (k : BitVec 2) (d a b : BitVec 3)
  /-- R430: Bank-register lane fused multiply-add. -/
  | bfma (k : BitVec 2) (d a b : BitVec 3) (t : BitVec 1)
  /-- R431: Writes a bank mask for equal lanes. -/
  | bcmpeq (k d : BitVec 2) (a b : BitVec 3) (t : BitVec 1)
  /-- R431: Writes a bank mask for less-than lanes. -/
  | bcmplt (k d : BitVec 2) (a b : BitVec 3) (t : BitVec 1)
  /-- R431: Writes a bank mask for less-or-equal lanes. -/
  | bcmple (k d : BitVec 2) (a b : BitVec 3) (t : BitVec 1)
  /-- R431: Selects each lane from Ba or Bb by a bank mask. -/
  | bsel (k : BitVec 2) (d a b : BitVec 3)
  /-- R432: Loads a bank word of the member's bank into a bank register. -/
  | brld (k : BitVec 2) (d : BitVec 3) (i : BitVec 12)
  /-- R432: Stores predicated lanes of a bank register to a bank word. -/
  | brst (k : BitVec 2) (d : BitVec 3) (i : BitVec 12)
  /-- R433: Jumps when every predicated lane of Ba is zero. -/
  | bskip (k : BitVec 2) (a : BitVec 3) (t : BitVec 9)
  /-- R429: Offers the NMU a yield point. -/
  | byield
  /-- R429: Ends the microprogram run. -/
  | bend
  /-- R433: Sets the run's fetch address. -/
  | bjmp (t : BitVec 9)
  /-- R443: Launches a cast from a header with release semantics and returns its identifier. -/
  | lnch (d a : BitVec 5)
  /-- R444: Takes the oldest report of the task's launcher window, sleeping up to a timeout. -/
  | lwait (d a : BitVec 5)
  /-- R176: Checks and writes a TIT entry, keeping or initialising its record, and invalidates caches. -/
  | tdef (a b : BitVec 5)
  /-- R445: Loads a format register from a TIT entry's NFMT. -/
  | tldf (d : BitVec 2) (a : BitVec 5)
  /-- R239: Resets a statistics record after its pending deltas and invalidates snapshots. -/
  | strs (a : BitVec 5)
  /-- R240: Reads a record atomically and writes it to a buffer. -/
  | strd (a b : BitVec 5)
  /-- R180: Checks and writes a bank-set table entry and drops cached copies. -/
  | pdef (a b : BitVec 5)
  /-- R446: Returns kind, member count, own rank and GVL of a group. -/
  | grpinfo (d a : BitVec 5)
  /-- R446: Returns the task index of the member of a given rank. -/
  | grpidx (d a b : BitVec 5)
  /-- R447: Raises SOFT_TRAP with an immediate detail. -/
  | trap (i : BitVec 24)
  /-- R300: Sets the PC to EPC. -/
  | rett
  /-- R448: Drops translations of a page from every TLB of the partition. -/
  | tlbinv (a : BitVec 5)
  /-- R449: Ringmaster request code 1: power down a PC, deferred by R309. -/
  | preqPowerDown (a b : BitVec 5)
  /-- R449: Ringmaster request code 2: put a PC into self-refresh. -/
  | preqSelfRefresh (a b : BitVec 5)
  /-- R449: Ringmaster request code 3: wake a PC. -/
  | preqWake (a b : BitVec 5)
  /-- R465: Ringmaster request code 4: set the pair island's frequency ceiling. -/
  | preqSetIsland (a b : BitVec 5)
  /-- R449: Ringmaster request code 5: end the cast's slice, leading to pre-emption. -/
  | preqEndSlice (a b : BitVec 5)
  /-- R322: Scalar-side no-operation with ignored immediate. -/
  | hint (k : BitVec 3) (e : BitVec 24)
  /-- R150: A buffered scalar store leaves the store buffer and is performed at its home. -/
  | storePerformed (c : Nat)
  /-- R147: A vector-side instruction can no longer fault, retiring undo-log entries and freeing stores and commands. -/
  | faultSafePoint (c : Nat)
  /-- R149: A vector-side instruction completes and leaves the vector queue, moving VCP. -/
  | vectorCompletion (c : Nat)
  /-- R152: The command hold releases a command into its engine queue with a store-buffer mark. -/
  | commandRelease (c : Nat)
  /-- R298: After rollback or waiting, writes fault CSRs and enters THANDLER or ends the task. -/
  | trapEntry (c : Nat)
  /-- R74: A LAUNCH message is checked and accepted or answered with a status. -/
  | hostLaunch (msg : LaunchMsg)
  /-- R66: The placer places the next task of a streaming cast when a context can take it. -/
  | taskPlacement (q : Nat)
  /-- R67: The placer places every task of a co-resident cast at one instant. -/
  | coresidentPlacement (q : Nat)
  /-- R70: A task is reported once it and all lower sequence numbers have ended. -/
  | completionReport (l : Launcher)
  /-- R74: The IOD rewrites the 16-byte completion record within 4,096 clk of a report. -/
  | hostCompletionRecord (q slot : Nat)
  /-- R208: A sleep timer reaches its timeout, ending the sleeping instruction. -/
  | sleepExpiry (c : Nat)
  /-- R444: A report arrives for a sleeping lwait, which returns it as an acquire. -/
  | lwaitReport (c : Nat)
  /-- R155: The copy engine starts a command once its store-buffer mark is performed. -/
  | copyCommandStart (c : Nat)
  /-- R422: One copy of a command reads then writes, sending deltas. -/
  | copyPerformed (c : Nat)
  /-- R201: The last copy of a command is performed and its sector count is subtracted. -/
  | copyCompletion (c : Nat)
  /-- R156: A bank-queue run passes to its NMU's run queue when room frees. -/
  | runToNmu (c : Nat)
  /-- R429: An NMU starts or resumes a queued run with K0 set to all ones. -/
  | nmuRunStart (n : Nat)
  /-- R429: A run reaching 4,096 steps without yielding is made to yield. -/
  | forcedYield (n : Nat)
  /-- R123: A plural member activates after PSKEW and the compute-mode window allow. -/
  | memberActivation (stack : Nat)
  /-- R402: A plural member's reply does not arrive within BANKTO clk. -/
  | bankTimeout (c : Nat)
  /-- R244: A statistics delta is applied atomically at the record's home. -/
  | deltaApplication (p : Nat)
  /-- R159: The old value arrives and the chain's combining operations are applied and written once. -/
  | scatterAddChainApply (port : Nat)
  /-- R246: A fresh record snapshot arrives for a waiting quantiser. -/
  | snapshotFetch (p tid : Nat)
  /-- R189: Carousel starts a run, zeroing the status record and loading dependency counters. -/
  | graphRunStart (slot : Nat)
  /-- R205: An operation with DEP zero enters its unit's ready queue when room exists. -/
  | chunkFire (slot op : Nat)
  /-- R435: A chunk operation completes and lowers its successors' DEP. -/
  | chunkOpCompletion (slot op : Nat)
  /-- R436: A receive has no arrival 1 ms after firing and completes with its peer marked absent. -/
  | receiveTimeout (slot op : Nat)
  /-- R189: A run ends and Carousel writes the status record. -/
  | graphRunEnd (slot : Nat)
  /-- R275: A flit arrives, is CRC-checked and accepted, discarded or triggers a replay request. -/
  | flitReceive (l : Nat) (w : BitVec 2048)
  /-- R275: A replay request makes the sender resend from the named LSEQ. -/
  | replayRequest (l : Nat) (lseq : BitVec 12)
  /-- R279: An arriving packet is checked in order and accepted, applied or dropped. -/
  | packetReceive (p : Packet)
  /-- R280: A CLS 7 acknowledgement raises the held acknowledged sequence. -/
  | ackReceive (p : Packet)
  /-- R281: A reject makes the source retransmit the packet at once. -/
  | rejectReceive (p : Packet)
  /-- R280: The receiver sends an acknowledgement after an accepted operation completes. -/
  | ackSend (dst cls : Nat)
  /-- R281: An unacknowledged packet is retransmitted 2 µs after its last send. -/
  | retransmitTimeout (dst cls seq : Nat)
  /-- R191: A sequence counter reaches 2^47 and the IOD asks the leader for a curtain. -/
  | sequenceExhausted (m : Nat)
  /-- R288: SPDM GET_VERSION request. -/
  | getVersion (n : Nat)
  /-- R288: SPDM GET_CAPABILITIES request. -/
  | getCapabilities (n : Nat)
  /-- R288: SPDM NEGOTIATE_ALGORITHMS request. -/
  | negotiateAlgorithms (n : Nat) (offer : AlgOffer)
  /-- R288: SPDM GET_DIGESTS request. -/
  | getDigests (n : Nat)
  /-- R286: SPDM GET_CERTIFICATE request for the slot 0 chain. -/
  | getCertificate (n slot : Nat)
  /-- R288: SPDM CHALLENGE request. -/
  | challenge (n slot : Nat) (nonce : List Byte)
  /-- R287: SPDM GET_MEASUREMENTS request returning the measurement blocks. -/
  | getMeasurements (n index : Nat) (sign : Bool) (nonce : List Byte)
  /-- R288: SPDM KEY_EXCHANGE request. -/
  | keyExchange (n slot : Nat) (share : List Byte)
  /-- R288: SPDM FINISH request opening a secured session. -/
  | finish (n sess : Nat) (proof : Bool)
  /-- R288: SPDM HEARTBEAT request. -/
  | heartbeat (n sess : Nat)
  /-- R288: SPDM KEY_UPDATE request. -/
  | keyUpdate (n sess : Nat)
  /-- R288: SPDM END_SESSION request. -/
  | endSession (n sess : Nat)
  /-- R289: SPDM CHUNK_SEND carrying part of a long message. -/
  | chunkSend (n sess : Nat) (part : List Byte) (last : Bool)
  /-- R289: SPDM CHUNK_GET returning part of a long message. -/
  | chunkGet (n sess : Nat)
  /-- R288: Any other SPDM request answered with ERROR UnsupportedRequest. -/
  | unsupportedRequest (n code : Nat)
  /-- R288: A session that carries no message for 2 s ends. -/
  | sessionTimeout (sess : Nat)
  /-- R293: Troupe control PREPARE: stall fabric issue, drain generation g, then send READY. -/
  | prepare (m : PrepareMsg)
  /-- R293: Troupe control READY received by the leader. -/
  | ready (m gen : Nat)
  /-- R293: Troupe control GO: switch generation, reset sequences, derive keys, send DONE. -/
  | go (gen : Nat)
  /-- R290: Troupe control DONE received by the leader. -/
  | done (m gen : Nat)
  /-- R290: Troupe control LEAVE starting a curtain without the member. -/
  | leave (m : Nat)
  /-- R290: Troupe control FAIL_REPORT of a failed path to the leader. -/
  | failReport (m failed : Nat)
  /-- R290: Troupe control REKEY_REQUEST for a curtain without membership change. -/
  | rekeyRequest (m : Nat)
  /-- R293: A member not READY within 1 ms is marked failed and the curtain restarts. -/
  | readyTimeout (m : Nat)
  /-- R174: Ringmaster creates a partition, zeroing its tables, records and NMU state. -/
  | partitionCreation (q : Nat) (e : PartEntry)
  /-- R84: Ringmaster tears down a partition. -/
  | partitionTeardown (q : Nat)
  /-- R193: Ringmaster management write of a partition entry, refused if it breaks a limit. -/
  | partitionTableWrite (q : Nat) (e : PartEntry)
  /-- R164: Ringmaster write of a die's class budgets, effective next period. -/
  | budgetWrite (die : Nat) (row : BitVec 66)
  /-- R185: Ringmaster invalidates a partition's TLBs. -/
  | ringmasterTlbInvalidation (q : Nat)
  /-- R462: Ringmaster repairs a resource held by no partition. -/
  | runtimeRepair (die idx site : Nat)
  /-- R86: A time slice ends and the placer may pre-empt running tasks. -/
  | sliceEnd (q : Nat)
  /-- R307: Stops issue, squashes and drains, then saves the task's live state. -/
  | preemption (c : Nat)
  /-- R308: A saved task is restored onto a fitting context when one exists. -/
  | restore (k : Nat)
  /-- R161: At a strip boundary the arbiter grants the next strip by lowest spend. -/
  | stripGrant (p res : Nat)
  /-- R161: A 1,024-clk period begins, resetting spends with carry-over. -/
  | arbitrationPeriod (p : Nat)
  /-- R163: A 1,024-clk link period begins, resetting class budgets. -/
  | networkPeriod (die : Nat)
  /-- R309: A deferred power-down parks NMU state and puts the PC in self-refresh. -/
  | parkEntry (pc : Nat)
  /-- R310: Work reaching a parked PC restores its state before new work. -/
  | parkExit (pc : Nat)
  /-- R464: The patrol scrubber corrects or poisons a word atomically at its home. -/
  | scrub (key : Nat)
  /-- R466: A junction above 100 °C makes the power manager lower frequencies. -/
  | thermalThrottle (die temp : Nat)
  /-- R466: A junction at 115 °C stops every island and reports a trip to the host. -/
  | thermalTrip (die temp : Nat)
  /-- R459: Power-on or package reset runs the measured bring-up stages. -/
  | packageReset (b : BootInput)
  /-- R467: Ringmaster pre-empts partitions and streams their state to a safe tier, then restores. -/
  | checkpoint (parts : List Nat) (tier : Nat)
  /-- R106: Each clk of the 1.2 GHz reference advances CYCLE and adds the events of that clk, with any carried events, to the event counters. -/
  | clk
  /-- R275: A sub-link that loses training is declared down, and its flits in flight go to other sub-links. -/
  | sublinkLosesTraining (l : Nat)
  /-- R463: A soft error flips bits in a DRAM bank word or an on-die granule, leaving it correctable or uncorrectable until it is read or scrubbed. -/
  | softError (key : Nat) (bits : List Nat)
  /-- R465: The power manager lowers an island's frequency to hold the 2.4 kW envelope, or raises it back to its ceiling when the envelope allows. -/
  | changeOfFrequency (island mhz : Nat)
  /-- R288: The 1 s heartbeat period of a session runs out and the agent, as requester, sends HEARTBEAT. -/
  | heartbeatPeriod (sess : Nat)
deriving DecidableEq, Repr

end Sys2Proof
end

