-- ==== Sys2Proof/WellFormed.lean ====
section
/-!
DEFINITION. Which terms of Instr are instructions. Field widths are in the types; what is left are the codes a field may not
hold (R105, R318, R319, R361, R415). A step that is no instruction is well-formed as it stands.
-/

namespace Sys2Proof

/-- The CSR numbers of R105. -/
def csrExists (c : Nat) : Bool := c ≤ 0x1C || (0x20 ≤ c && c ≤ 0x27) || (0x100 ≤ c && c ≤ 0x10F)

/-- The CSRs that have a writable field and whose `csrw` is not a step of its own in the table (R105 to R107, R211). -/
def csrWritable (c : Nat) : Bool :=
  c == 0x03 || (0x0B ≤ c && c ≤ 0x10) || c == 0x1C || (0x20 ≤ c && c ≤ 0x27)

/-- The codes of the word of major 0x33 that are assigned (R318): guard, SAT, G, FS. -/
def modeCodesOk (g s p q : Nat) : Bool :=
  (g == 0 || (0x10 ≤ g && g ≤ 0x2F) || g == 0x3F) && s != 2 && !(4 ≤ p && p ≤ 6) && !(4 ≤ q && q ≤ 6)

/-- The register conditions of `vsint` (R415), on its three 6-bit fields. -/
def vsintRegsOk (d a b : Nat) : Bool :=
  a != 0 && b != 0 && a != b && d != a && d != a + 1 && d != b && d != b + 1

/-- The check that an instruction's fields hold assigned codes. -/
def Instr.wf (i : Instr) : Bool :=
  match i with
  | .csrr _ c => csrExists c.toNat
  | .csrw _ c => csrWritable c.toNat
  | .modeField _ g _ _ s p q => modeCodesOk g.toNat s.toNat p.toNat q.toNat
  | .vcvt _ _ s => s.toNat ≤ 13
  | .vsint d a b => vsintRegsOk d.toNat (2 * a.toNat) (2 * b.toNat)
  | .qfence q => q.toNat != 0
  | _ => true

end Sys2Proof
end

