-- ==== Sys2Proof/Decode.lean ====
section
/-!
DEFINITION. Decoding and encoding of Kyene K1 words (R311 to R322): total on every word, refusing by the reason code of
ILLEGAL_INSTR. Numbers are read as naturals, so that a field is a division and a remainder.
-/

namespace Sys2Proof

noncomputable section

/-- Bits [hi:lo] of w (R5). -/
def fld (w hi lo : Nat) : Nat := w / 2 ^ lo % 2 ^ (hi - lo + 1)

/-- The n-bit field of w whose lowest bit is lo. -/
def fb (n w lo : Nat) : BitVec n := BitVec.ofNat n (w / 2 ^ lo)

/-- Every listed bit range of w is zero. -/
def zeroIn (w : Nat) (rs : List (Nat × Nat)) : Bool := rs.all fun r => fld w r.1 r.2 == 0

/-- R313: a nonzero bit where zero is required raises reason 3. -/
def zeros (w : Nat) (rs : List (Nat × Nat)) (i : Instr) : Except Nat Instr :=
  if zeroIn w rs then .ok i else .error 3

/-- As `zeros`, before a further check. -/
def zerosThen (w : Nat) (rs : List (Nat × Nat)) (r : Except Nat Instr) : Except Nat Instr :=
  if zeroIn w rs then r else .error 3

/-- R317: a b-class word that breaks its layout is invalid. -/
def bz (w : Nat) (rs : List (Nat × Nat)) (i : Instr) : Option Instr :=
  if zeroIn w rs then some i else none

/-- Major 0x01, by its F code (R315). -/
def decode01 (w : Nat) : Except Nat Instr :=
  match w % 64 with
  | 0 => zeros w [(23, 23), (17, 17), (11, 11)] (.add (fb 5 w 18) (fb 5 w 12) (fb 5 w 6))
  | 1 => zeros w [(23, 23), (17, 17), (11, 11)] (.sub (fb 5 w 18) (fb 5 w 12) (fb 5 w 6))
  | 2 => zeros w [(23, 23), (17, 17), (11, 11)] (.mul (fb 5 w 18) (fb 5 w 12) (fb 5 w 6))
  | 3 => zeros w [(23, 23), (17, 17), (11, 11)] (.mulh (fb 5 w 18) (fb 5 w 12) (fb 5 w 6))
  | 4 => zeros w [(23, 23), (17, 17), (11, 11)] (.mulhu (fb 5 w 18) (fb 5 w 12) (fb 5 w 6))
  | 5 => zeros w [(23, 23), (17, 17), (11, 11)] (.div (fb 5 w 18) (fb 5 w 12) (fb 5 w 6))
  | 6 => zeros w [(23, 23), (17, 17), (11, 11)] (.divu (fb 5 w 18) (fb 5 w 12) (fb 5 w 6))
  | 7 => zeros w [(23, 23), (17, 17), (11, 11)] (.rem (fb 5 w 18) (fb 5 w 12) (fb 5 w 6))
  | 8 => zeros w [(23, 23), (17, 17), (11, 11)] (.remu (fb 5 w 18) (fb 5 w 12) (fb 5 w 6))
  | 9 => zeros w [(23, 23), (17, 17), (11, 11)] (.and (fb 5 w 18) (fb 5 w 12) (fb 5 w 6))
  | 10 => zeros w [(23, 23), (17, 17), (11, 11)] (.or (fb 5 w 18) (fb 5 w 12) (fb 5 w 6))
  | 11 => zeros w [(23, 23), (17, 17), (11, 11)] (.xor (fb 5 w 18) (fb 5 w 12) (fb 5 w 6))
  | 12 => zeros w [(23, 23), (17, 17), (11, 11)] (.sll (fb 5 w 18) (fb 5 w 12) (fb 5 w 6))
  | 13 => zeros w [(23, 23), (17, 17), (11, 11)] (.srl (fb 5 w 18) (fb 5 w 12) (fb 5 w 6))
  | 14 => zeros w [(23, 23), (17, 17), (11, 11)] (.sra (fb 5 w 18) (fb 5 w 12) (fb 5 w 6))
  | 15 => zeros w [(23, 23), (17, 17), (11, 11)] (.slt (fb 5 w 18) (fb 5 w 12) (fb 5 w 6))
  | 16 => zeros w [(23, 23), (17, 17), (11, 11)] (.sltu (fb 5 w 18) (fb 5 w 12) (fb 5 w 6))
  | 17 => zeros w [(23, 23), (17, 17), (11, 11)] (.min (fb 5 w 18) (fb 5 w 12) (fb 5 w 6))
  | 18 => zeros w [(23, 23), (17, 17), (11, 11)] (.max (fb 5 w 18) (fb 5 w 12) (fb 5 w 6))
  | 19 => zeros w [(23, 23), (17, 17), (11, 11)] (.minu (fb 5 w 18) (fb 5 w 12) (fb 5 w 6))
  | 20 => zeros w [(23, 23), (17, 17), (11, 11)] (.maxu (fb 5 w 18) (fb 5 w 12) (fb 5 w 6))
  | 21 => zeros w [(23, 23), (17, 17), (11, 11)] (.sel (fb 5 w 18) (fb 5 w 12) (fb 5 w 6))
  | 22 => zeros w [(23, 23), (17, 17), (11, 6)] (.clz (fb 5 w 18) (fb 5 w 12))
  | 23 => zeros w [(23, 23), (17, 17), (11, 6)] (.popc (fb 5 w 18) (fb 5 w 12))
  | _ => .error 2

/-- Major 0x0D, by its F code (R315). -/
def decode0D (w : Nat) : Except Nat Instr :=
  match w % 64 with
  | 0 => zeros w [(23, 23), (17, 17), (11, 11)] (.faddS (fb 5 w 18) (fb 5 w 12) (fb 5 w 6))
  | 1 => zeros w [(23, 23), (17, 17), (11, 11)] (.fsubS (fb 5 w 18) (fb 5 w 12) (fb 5 w 6))
  | 2 => zeros w [(23, 23), (17, 17), (11, 11)] (.fmulS (fb 5 w 18) (fb 5 w 12) (fb 5 w 6))
  | 3 => zeros w [(23, 23), (17, 17), (11, 11)] (.fdivS (fb 5 w 18) (fb 5 w 12) (fb 5 w 6))
  | 4 => zeros w [(23, 23), (17, 17), (11, 11)] (.fminS (fb 5 w 18) (fb 5 w 12) (fb 5 w 6))
  | 5 => zeros w [(23, 23), (17, 17), (11, 11)] (.fmaxS (fb 5 w 18) (fb 5 w 12) (fb 5 w 6))
  | 6 => zeros w [(23, 23), (17, 17), (11, 6)] (.fcvtSL (fb 5 w 18) (fb 5 w 12))
  | 7 => zeros w [(23, 23), (17, 17), (11, 6)] (.fcvtLS (fb 5 w 18) (fb 5 w 12))
  | 8 => zeros w [(23, 23), (17, 17), (11, 11)] (.fltS (fb 5 w 18) (fb 5 w 12) (fb 5 w 6))
  | 9 => zeros w [(23, 23), (17, 17), (11, 11)] (.fleS (fb 5 w 18) (fb 5 w 12) (fb 5 w 6))
  | 10 => zeros w [(23, 23), (17, 17), (11, 11)] (.feqS (fb 5 w 18) (fb 5 w 12) (fb 5 w 6))
  | _ => .error 2

/-- Major 0x37, by its F code (R315). -/
def decode37 (w : Nat) : Except Nat Instr :=
  match w % 64 with
  | 0 => zeros w [(23, 23), (17, 16), (11, 6)] (.mcnt (fb 5 w 18) (fb 4 w 12))
  | 1 => zeros w [(23, 23), (17, 16), (11, 6)] (.many (fb 5 w 18) (fb 4 w 12))
  | 2 => zeros w [(23, 23), (17, 16), (11, 6)] (.mfirst (fb 5 w 18) (fb 4 w 12))
  | _ => .error 2

/-- Major 0x40, by its F code (R315). -/
def decode40 (w : Nat) : Except Nat Instr :=
  match w % 64 with
  | 0 => zeros w [] (.vadd (fb 6 w 18) (fb 6 w 12) (fb 6 w 6))
  | 1 => zeros w [] (.vsub (fb 6 w 18) (fb 6 w 12) (fb 6 w 6))
  | 2 => zeros w [] (.vmul (fb 6 w 18) (fb 6 w 12) (fb 6 w 6))
  | 3 => zeros w [] (.vdiv (fb 6 w 18) (fb 6 w 12) (fb 6 w 6))
  | 4 => zeros w [] (.vmin (fb 6 w 18) (fb 6 w 12) (fb 6 w 6))
  | 5 => zeros w [] (.vmax (fb 6 w 18) (fb 6 w 12) (fb 6 w 6))
  | 6 => zeros w [] (.vand (fb 6 w 18) (fb 6 w 12) (fb 6 w 6))
  | 7 => zeros w [] (.vor (fb 6 w 18) (fb 6 w 12) (fb 6 w 6))
  | 8 => zeros w [] (.vxor (fb 6 w 18) (fb 6 w 12) (fb 6 w 6))
  | 9 => zeros w [] (.vsll (fb 6 w 18) (fb 6 w 12) (fb 6 w 6))
  | 10 => zeros w [] (.vsrl (fb 6 w 18) (fb 6 w 12) (fb 6 w 6))
  | 11 => zeros w [] (.vsra (fb 6 w 18) (fb 6 w 12) (fb 6 w 6))
  | _ => .error 2

/-- Major 0x41, by its F code (R315). -/
def decode41 (w : Nat) : Except Nat Instr :=
  match w % 64 with
  | 0 => zeros w [(11, 11)] (.vaddX (fb 6 w 18) (fb 6 w 12) (fb 5 w 6))
  | 1 => zeros w [(11, 11)] (.vsubX (fb 6 w 18) (fb 6 w 12) (fb 5 w 6))
  | 2 => zeros w [(11, 11)] (.vmulX (fb 6 w 18) (fb 6 w 12) (fb 5 w 6))
  | 3 => zeros w [(11, 11)] (.vdivX (fb 6 w 18) (fb 6 w 12) (fb 5 w 6))
  | 4 => zeros w [(11, 11)] (.vminX (fb 6 w 18) (fb 6 w 12) (fb 5 w 6))
  | 5 => zeros w [(11, 11)] (.vmaxX (fb 6 w 18) (fb 6 w 12) (fb 5 w 6))
  | 6 => zeros w [(11, 11)] (.vandX (fb 6 w 18) (fb 6 w 12) (fb 5 w 6))
  | 7 => zeros w [(11, 11)] (.vorX (fb 6 w 18) (fb 6 w 12) (fb 5 w 6))
  | 8 => zeros w [(11, 11)] (.vxorX (fb 6 w 18) (fb 6 w 12) (fb 5 w 6))
  | 9 => zeros w [(11, 11)] (.vsllX (fb 6 w 18) (fb 6 w 12) (fb 5 w 6))
  | 10 => zeros w [(11, 11)] (.vsrlX (fb 6 w 18) (fb 6 w 12) (fb 5 w 6))
  | 11 => zeros w [(11, 11)] (.vsraX (fb 6 w 18) (fb 6 w 12) (fb 5 w 6))
  | _ => .error 2

/-- Major 0x42, by its F code (R315). -/
def decode42 (w : Nat) : Except Nat Instr :=
  match w % 64 with
  | 0 => zeros w [] (.vfma (fb 6 w 18) (fb 6 w 12) (fb 6 w 6))
  | 1 => zeros w [] (.vfms (fb 6 w 18) (fb 6 w 12) (fb 6 w 6))
  | 2 => zeros w [] (.vfnma (fb 6 w 18) (fb 6 w 12) (fb 6 w 6))
  | 3 => zeros w [] (.vfnms (fb 6 w 18) (fb 6 w 12) (fb 6 w 6))
  | _ => .error 2

/-- Major 0x43, by its F code (R315). -/
def decode43 (w : Nat) : Except Nat Instr :=
  match w % 64 with
  | 0 => zeros w [(11, 6)] (.vneg (fb 6 w 18) (fb 6 w 12))
  | 1 => zeros w [(11, 6)] (.vabs (fb 6 w 18) (fb 6 w 12))
  | 2 => zeros w [(11, 6)] (.vmov (fb 6 w 18) (fb 6 w 12))
  | 3 => zeros w [(11, 6)] (.vsqrt (fb 6 w 18) (fb 6 w 12))
  | 4 => zeros w [(11, 6)] (.vrcp (fb 6 w 18) (fb 6 w 12))
  | 5 => zeros w [(11, 6)] (.vrsqrt (fb 6 w 18) (fb 6 w 12))
  | 6 => zeros w [(11, 6)] (.vexp2 (fb 6 w 18) (fb 6 w 12))
  | 7 => zeros w [(11, 6)] (.vlog2 (fb 6 w 18) (fb 6 w 12))
  | _ => .error 2

/-- Major 0x45, by its F code (R315). -/
def decode45 (w : Nat) : Except Nat Instr :=
  match w % 64 with
  | 0 => zeros w [(23, 22)] (.vcmpeq (fb 4 w 18) (fb 6 w 12) (fb 6 w 6))
  | 1 => zeros w [(23, 22)] (.vcmpne (fb 4 w 18) (fb 6 w 12) (fb 6 w 6))
  | 2 => zeros w [(23, 22)] (.vcmplt (fb 4 w 18) (fb 6 w 12) (fb 6 w 6))
  | 3 => zeros w [(23, 22)] (.vcmple (fb 4 w 18) (fb 6 w 12) (fb 6 w 6))
  | 4 => zeros w [(23, 22)] (.vcmpgt (fb 4 w 18) (fb 6 w 12) (fb 6 w 6))
  | 5 => zeros w [(23, 22)] (.vcmpge (fb 4 w 18) (fb 6 w 12) (fb 6 w 6))
  | _ => .error 2

/-- Major 0x46, by its F code (R315). -/
def decode46 (w : Nat) : Except Nat Instr :=
  match w % 64 with
  | 0 => zeros w [(23, 22), (11, 11)] (.vcmpeqX (fb 4 w 18) (fb 6 w 12) (fb 5 w 6))
  | 1 => zeros w [(23, 22), (11, 11)] (.vcmpneX (fb 4 w 18) (fb 6 w 12) (fb 5 w 6))
  | 2 => zeros w [(23, 22), (11, 11)] (.vcmpltX (fb 4 w 18) (fb 6 w 12) (fb 5 w 6))
  | 3 => zeros w [(23, 22), (11, 11)] (.vcmpleX (fb 4 w 18) (fb 6 w 12) (fb 5 w 6))
  | 4 => zeros w [(23, 22), (11, 11)] (.vcmpgtX (fb 4 w 18) (fb 6 w 12) (fb 5 w 6))
  | 5 => zeros w [(23, 22), (11, 11)] (.vcmpgeX (fb 4 w 18) (fb 6 w 12) (fb 5 w 6))
  | _ => .error 2

/-- Major 0x48, by its F code (R315). -/
def decode48 (w : Nat) : Except Nat Instr :=
  match w % 64 with
  | 0 => zeros w [(17, 17), (11, 6)] (.vsplat (fb 6 w 18) (fb 5 w 12))
  | 1 => zeros w [(23, 23), (11, 11)] (.vextr (fb 5 w 18) (fb 6 w 12) (fb 5 w 6))
  | 2 => zeros w [(11, 11)] (.vslideup (fb 6 w 18) (fb 6 w 12) (fb 5 w 6))
  | 3 => zeros w [(11, 11)] (.vslidedn (fb 6 w 18) (fb 6 w 12) (fb 5 w 6))
  | 4 => zeros w [] (.vperm (fb 6 w 18) (fb 6 w 12) (fb 6 w 6))
  | 5 => zeros w [(17, 6)] (.vstep (fb 6 w 18))
  | _ => .error 2

/-- Major 0x49, by its F code (R315). -/
def decode49 (w : Nat) : Except Nat Instr :=
  match w % 64 with
  | 0 => zeros w [(11, 6)] (.vredsum (fb 6 w 18) (fb 6 w 12))
  | 1 => zeros w [(11, 6)] (.vredmax (fb 6 w 18) (fb 6 w 12))
  | 2 => zeros w [(11, 6)] (.vredmin (fb 6 w 18) (fb 6 w 12))
  | 3 => zeros w [(11, 6)] (.vredand (fb 6 w 18) (fb 6 w 12))
  | 4 => zeros w [(11, 6)] (.vredor (fb 6 w 18) (fb 6 w 12))
  | 5 => zeros w [(11, 6)] (.vredxor (fb 6 w 18) (fb 6 w 12))
  | _ => .error 2

/-- Major 0x4D, by its F code (R315). -/
def decode4D (w : Nat) : Except Nat Instr :=
  match w % 64 with
  | 0 => zeros w [(23, 21), (17, 17), (11, 6)] (.vsset (fb 3 w 18) (fb 5 w 12))
  | 1 => zeros w [(23, 23), (17, 15), (11, 6)] (.vsget (fb 5 w 18) (fb 3 w 12))
  | _ => .error 2

/-- Major 0x4E, by its F code (R315). -/
def decode4E (w : Nat) : Except Nat Instr :=
  match w % 64 with
  | 0 => zeros w [] (.vcompr24 (fb 6 w 18) (fb 6 w 12) (fb 6 w 6))
  | 1 => zeros w [] (.vcompr48 (fb 6 w 18) (fb 6 w 12) (fb 6 w 6))
  | _ => .error 2

/-- Major 0x50, by its F code (R315). -/
def decode50 (w : Nat) : Except Nat Instr :=
  match w % 64 with
  | 0 => zeros w [(23, 22), (17, 16), (11, 10)] (.mand (fb 4 w 18) (fb 4 w 12) (fb 4 w 6))
  | 1 => zeros w [(23, 22), (17, 16), (11, 10)] (.mor (fb 4 w 18) (fb 4 w 12) (fb 4 w 6))
  | 2 => zeros w [(23, 22), (17, 16), (11, 10)] (.mxor (fb 4 w 18) (fb 4 w 12) (fb 4 w 6))
  | 3 => zeros w [(23, 22), (17, 16), (11, 10)] (.mandn (fb 4 w 18) (fb 4 w 12) (fb 4 w 6))
  | 4 => zeros w [(23, 22), (17, 16), (11, 6)] (.mnot (fb 4 w 18) (fb 4 w 12))
  | 5 => zeros w [(23, 22), (17, 16), (11, 6)] (.mmov (fb 4 w 18) (fb 4 w 12))
  | 6 => zeros w [(23, 22), (17, 6)] (.mset (fb 4 w 18))
  | 7 => zeros w [(23, 22), (17, 6)] (.mclr (fb 4 w 18))
  | _ => .error 2

/-- Major 0x88, by its F code (R315). -/
def decode88 (w : Nat) : Except Nat Instr :=
  match w % 64 with
  | 0 => zeros w [(23, 23), (17, 14), (11, 6)] (.accst (fb 5 w 18) (fb 2 w 12))
  | 1 => zeros w [(23, 23), (17, 14), (11, 9)] (.accstQ (fb 5 w 18) (fb 2 w 12) (fb 3 w 6))
  | _ => .error 2

/-- Major 0x98, by its operator code F[5:3] (R316). -/
def decode98 (w : Nat) : Except Nat Instr :=
  match fld w 5 3 with
  | 0 => zeros w [(17, 17), (11, 11)] (.pldSum (fb 6 w 18) (fb 5 w 12) (fb 5 w 6) (fb 3 w 0))
  | 1 => zeros w [(17, 17), (11, 11)] (.pldMax (fb 6 w 18) (fb 5 w 12) (fb 5 w 6) (fb 3 w 0))
  | 2 => zeros w [(17, 17), (11, 11)] (.pldMin (fb 6 w 18) (fb 5 w 12) (fb 5 w 6) (fb 3 w 0))
  | 3 => zeros w [(17, 17), (11, 11)] (.pldMaxabs (fb 6 w 18) (fb 5 w 12) (fb 5 w 6) (fb 3 w 0))
  | 4 => zeros w [(17, 17), (11, 11)] (.pldAnd (fb 6 w 18) (fb 5 w 12) (fb 5 w 6) (fb 3 w 0))
  | 5 => zeros w [(17, 17), (11, 11)] (.pldOr (fb 6 w 18) (fb 5 w 12) (fb 5 w 6) (fb 3 w 0))
  | 6 => zeros w [(17, 17), (11, 11)] (.pldXor (fb 6 w 18) (fb 5 w 12) (fb 5 w 6) (fb 3 w 0))
  | _ => .error 2

/-- Major 0xA0, by its F code (R315). -/
def decodeA0 (w : Nat) : Except Nat Instr :=
  match w % 64 with
  | 0 => zeros w [(23, 23), (17, 17), (11, 11)] (.amoAdd (fb 5 w 18) (fb 5 w 12) (fb 5 w 6))
  | 1 => zeros w [(23, 23), (17, 17), (11, 11)] (.amoSwap (fb 5 w 18) (fb 5 w 12) (fb 5 w 6))
  | 2 => zeros w [(23, 23), (17, 17), (11, 11)] (.amoMax (fb 5 w 18) (fb 5 w 12) (fb 5 w 6))
  | 3 => zeros w [(23, 23), (17, 17), (11, 11)] (.amoMin (fb 5 w 18) (fb 5 w 12) (fb 5 w 6))
  | 4 => zeros w [(23, 23), (17, 17), (11, 11)] (.amoMaxu (fb 5 w 18) (fb 5 w 12) (fb 5 w 6))
  | 5 => zeros w [(23, 23), (17, 17), (11, 11)] (.amoMinu (fb 5 w 18) (fb 5 w 12) (fb 5 w 6))
  | 6 => zeros w [(23, 23), (17, 17), (11, 11)] (.amoAnd (fb 5 w 18) (fb 5 w 12) (fb 5 w 6))
  | 7 => zeros w [(23, 23), (17, 17), (11, 11)] (.amoOr (fb 5 w 18) (fb 5 w 12) (fb 5 w 6))
  | 8 => zeros w [(23, 23), (17, 17), (11, 11)] (.amoXor (fb 5 w 18) (fb 5 w 12) (fb 5 w 6))
  | 9 => zeros w [(23, 23), (17, 17), (11, 11)] (.amoCas (fb 5 w 18) (fb 5 w 12) (fb 5 w 6))
  | _ => .error 2

/-- Major 0xA1, by its F code (R315). -/
def decodeA1 (w : Nat) : Except Nat Instr :=
  match w % 64 with
  | 0 => zeros w [(17, 17)] (.vamoAdd (fb 6 w 18) (fb 5 w 12) (fb 6 w 6))
  | 1 => zeros w [(17, 17)] (.vamoSwap (fb 6 w 18) (fb 5 w 12) (fb 6 w 6))
  | 2 => zeros w [(17, 17)] (.vamoMax (fb 6 w 18) (fb 5 w 12) (fb 6 w 6))
  | 3 => zeros w [(17, 17)] (.vamoMin (fb 6 w 18) (fb 5 w 12) (fb 6 w 6))
  | 4 => zeros w [(17, 17)] (.vamoMaxu (fb 6 w 18) (fb 5 w 12) (fb 6 w 6))
  | 5 => zeros w [(17, 17)] (.vamoMinu (fb 6 w 18) (fb 5 w 12) (fb 6 w 6))
  | 6 => zeros w [(17, 17)] (.vamoAnd (fb 6 w 18) (fb 5 w 12) (fb 6 w 6))
  | 7 => zeros w [(17, 17)] (.vamoOr (fb 6 w 18) (fb 5 w 12) (fb 6 w 6))
  | 8 => zeros w [(17, 17)] (.vamoXor (fb 6 w 18) (fb 5 w 12) (fb 6 w 6))
  | _ => .error 2

/-- Major 0xB8, by its F code (R315). -/
def decodeB8 (w : Nat) : Except Nat Instr :=
  match w % 64 with
  | 0 => zeros w [(23, 6)] (.fenceSv)
  | 1 => zeros w [(23, 6)] (.fenceVs)
  | 2 => zeros w [(23, 6)] (.fenceVv)
  | 3 => zeros w [(23, 6)] (.fenceXp)
  | 4 => zeros w [(23, 6)] (.fenceSt)
  | 5 => zeros w [(23, 6)] (.fenceF)
  | _ => .error 2

/-- Major 0xC0, by its F code (R315). -/
def decodeC0 (w : Nat) : Except Nat Instr :=
  match w % 64 with
  | 0 => zeros w [(23, 23), (17, 17), (11, 11)] (.cpy (fb 5 w 18) (fb 5 w 12) (fb 5 w 6))
  | 1 => zeros w [(23, 23), (17, 17), (11, 11)] (.cpyQ (fb 5 w 18) (fb 5 w 12) (fb 5 w 6))
  | 2 => zeros w [(23, 23), (17, 17), (11, 11)] (.cpyG (fb 5 w 18) (fb 5 w 12) (fb 5 w 6))
  | _ => .error 2

/-- Major 0xCE, by its F code (R315). -/
def decodeCE (w : Nat) : Except Nat Instr :=
  match w % 64 with
  | 0 => zeros w [(17, 17), (11, 11)] (.fldrSum (fb 6 w 18) (fb 5 w 12) (fb 5 w 6))
  | 1 => zeros w [(17, 17), (11, 11)] (.fldrMax (fb 6 w 18) (fb 5 w 12) (fb 5 w 6))
  | 2 => zeros w [(17, 17), (11, 11)] (.fldrMin (fb 6 w 18) (fb 5 w 12) (fb 5 w 6))
  | _ => .error 2

/-- Major 0xE7, by its F code (R315). -/
def decodeE7 (w : Nat) : Except Nat Instr :=
  match w % 64 with
  | 0 => zeros w [(23, 23), (17, 17), (11, 6)] (.grpinfo (fb 5 w 18) (fb 5 w 12))
  | 1 => zeros w [(23, 23), (17, 17), (11, 11)] (.grpidx (fb 5 w 18) (fb 5 w 12) (fb 5 w 6))
  | _ => .error 2

/-- Major 0x31 by its CSR number (R105, R339). The CSRs whose write is a step of its own in the table have their own constructor. -/
def decodeCsrw (w : Nat) : Except Nat Instr :=
  if w % 4096 = 4 then .ok (.vstartWrite (fb 5 w 12))
  else if w % 4096 = 8 then .ok (.vshareWrite (fb 5 w 12))
  else if w % 4096 = 9 then .ok (.srstepWrite (fb 5 w 12))
  else if w % 4096 = 10 then .ok (.pdoneWrite (fb 5 w 12))
  else if w % 4096 = 17 then .ok (.wdogWrite (fb 5 w 12))
  else if w % 4096 = 18 then .ok (.banktoWrite (fb 5 w 12))
  else if fld w 11 3 = 32 then .ok (.ecntWrite (fb 5 w 12) (fb 3 w 0))
  else if fld w 11 3 = 33 then .ok (.eselWrite (fb 5 w 12) (fb 3 w 0))
  else if csrWritable (w % 4096) then .ok (.csrw (fb 5 w 12) (fb 12 w 0))
  else if csrExists (w % 4096) then .error 5 else .error 4

/-- The instruction a pair reads from a 32-bit word, or the ILLEGAL_INSTR reason (R322): the rows of R322 in their order. -/
def decode (w : Nat) : Except Nat Instr :=
  if w = 0xFFFFFFFF then .error 1 else
  match w / 16777216 with
  | 0x01 => decode01 w
  | 0x02 => zeros w [(23, 23), (17, 17)] (.addi (fb 5 w 18) (fb 5 w 12) (fb 12 w 0))
  | 0x03 => zeros w [(23, 23), (17, 17)] (.andi (fb 5 w 18) (fb 5 w 12) (fb 12 w 0))
  | 0x04 => zeros w [(23, 23), (17, 17)] (.ori (fb 5 w 18) (fb 5 w 12) (fb 12 w 0))
  | 0x05 => zeros w [(23, 23), (17, 17)] (.xori (fb 5 w 18) (fb 5 w 12) (fb 12 w 0))
  | 0x06 => zeros w [(23, 23), (17, 17), (11, 6)] (.slli (fb 5 w 18) (fb 5 w 12) (fb 6 w 0))
  | 0x07 => zeros w [(23, 23), (17, 17), (11, 6)] (.srli (fb 5 w 18) (fb 5 w 12) (fb 6 w 0))
  | 0x08 => zeros w [(23, 23), (17, 17), (11, 6)] (.srai (fb 5 w 18) (fb 5 w 12) (fb 6 w 0))
  | 0x09 => zeros w [(23, 23), (17, 17)] (.slti (fb 5 w 18) (fb 5 w 12) (fb 12 w 0))
  | 0x0A => zeros w [(23, 23), (17, 17)] (.sltiu (fb 5 w 18) (fb 5 w 12) (fb 12 w 0))
  | 0x0B => zeros w [(23, 23)] (.lui (fb 5 w 18) (fb 18 w 0))
  | 0x0C => zeros w [(23, 23)] (.auipc (fb 5 w 18) (fb 18 w 0))
  | 0x0D => decode0D w
  | 0x10 => zeros w [(23, 23), (17, 17)] (.ldB (fb 5 w 18) (fb 5 w 12) (fb 12 w 0))
  | 0x11 => zeros w [(23, 23), (17, 17)] (.ldBu (fb 5 w 18) (fb 5 w 12) (fb 12 w 0))
  | 0x12 => zeros w [(23, 23), (17, 17)] (.ldH (fb 5 w 18) (fb 5 w 12) (fb 12 w 0))
  | 0x13 => zeros w [(23, 23), (17, 17)] (.ldHu (fb 5 w 18) (fb 5 w 12) (fb 12 w 0))
  | 0x14 => zeros w [(23, 23), (17, 17)] (.ldW (fb 5 w 18) (fb 5 w 12) (fb 12 w 0))
  | 0x15 => zeros w [(23, 23), (17, 17)] (.ldWu (fb 5 w 18) (fb 5 w 12) (fb 12 w 0))
  | 0x16 => zeros w [(23, 23), (17, 17)] (.ldD (fb 5 w 18) (fb 5 w 12) (fb 12 w 0))
  | 0x17 => zeros w [(23, 23), (17, 17)] (.ldDAq (fb 5 w 18) (fb 5 w 12) (fb 12 w 0))
  | 0x18 => zeros w [(23, 23), (17, 17)] (.stB (fb 5 w 18) (fb 5 w 12) (fb 12 w 0))
  | 0x19 => zeros w [(23, 23), (17, 17)] (.stH (fb 5 w 18) (fb 5 w 12) (fb 12 w 0))
  | 0x1A => zeros w [(23, 23), (17, 17)] (.stW (fb 5 w 18) (fb 5 w 12) (fb 12 w 0))
  | 0x1B => zeros w [(23, 23), (17, 17)] (.stD (fb 5 w 18) (fb 5 w 12) (fb 12 w 0))
  | 0x20 => zeros w [(23, 23), (17, 17)] (.beq (fb 5 w 18) (fb 5 w 12) (fb 12 w 0))
  | 0x21 => zeros w [(23, 23), (17, 17)] (.bne (fb 5 w 18) (fb 5 w 12) (fb 12 w 0))
  | 0x22 => zeros w [(23, 23), (17, 17)] (.blt (fb 5 w 18) (fb 5 w 12) (fb 12 w 0))
  | 0x23 => zeros w [(23, 23), (17, 17)] (.bge (fb 5 w 18) (fb 5 w 12) (fb 12 w 0))
  | 0x24 => zeros w [(23, 23), (17, 17)] (.bltu (fb 5 w 18) (fb 5 w 12) (fb 12 w 0))
  | 0x25 => zeros w [(23, 23), (17, 17)] (.bgeu (fb 5 w 18) (fb 5 w 12) (fb 12 w 0))
  | 0x26 => zeros w [] (.j (fb 24 w 0))
  | 0x27 => zeros w [] (.call (fb 24 w 0))
  | 0x28 => zeros w [(23, 23), (17, 17)] (.jalr (fb 5 w 18) (fb 5 w 12) (fb 12 w 0))
  | 0x29 => zeros w [(23, 23), (17, 12)] (.loop (fb 5 w 18) (fb 12 w 0))
  | 0x30 => zerosThen w [(23, 23), (17, 12)] (if csrExists (w % 4096) then .ok (.csrr (fb 5 w 18) (fb 12 w 0)) else .error 4)
  | 0x31 => zerosThen w [(23, 17)] (decodeCsrw w)
  | 0x33 => if modeCodesOk (fld w 21 16) (fld w 7 6) (fld w 5 3) (fld w 2 0) then .ok (.modeField (fb 2 w 22) (fb 6 w 16) (fb 5 w 11) (fb 3 w 8) (fb 2 w 6) (fb 3 w 3) (fb 3 w 0)) else .error 2
  | 0x34 => zeros w [(21, 12)] (.modeTid (fb 2 w 22) (fb 12 w 0))
  | 0x35 => zeros w [(23, 23), (17, 6)] (.vcfg (fb 5 w 18) (fb 2 w 4) (fb 4 w 0))
  | 0x36 => zeros w [(23, 23), (17, 17), (11, 0)] (.vsetvl (fb 5 w 18) (fb 5 w 12))
  | 0x37 => decode37 w
  | 0x3E => zeros w [(23, 17), (11, 0)] (.texit (fb 5 w 12))
  | 0x40 => decode40 w
  | 0x41 => decode41 w
  | 0x42 => decode42 w
  | 0x43 => decode43 w
  | 0x44 => if fld w 10 6 ≤ 13 then zeros w [(11, 11), (5, 0)] (.vcvt (fb 6 w 18) (fb 6 w 12) (fb 5 w 6)) else .error 2
  | 0x45 => decode45 w
  | 0x46 => decode46 w
  | 0x47 => zeros w [(5, 4)] (.vsel (fb 6 w 18) (fb 6 w 12) (fb 6 w 6) (fb 4 w 0))
  | 0x48 => decode48 w
  | 0x49 => decode49 w
  | 0x4A => zeros w [(5, 0)] (.vdot (fb 6 w 18) (fb 6 w 12) (fb 6 w 6))
  | 0x4B => zeros w [(11, 9), (5, 0)] (.vqnt (fb 6 w 18) (fb 6 w 12) (fb 3 w 6))
  | 0x4C => zeros w [(11, 9), (5, 0)] (.vdqnt (fb 6 w 18) (fb 6 w 12) (fb 3 w 6))
  | 0x4D => decode4D w
  | 0x4E => decode4E w
  | 0x50 => decode50 w
  | 0x80 => zeros w [(23, 20), (5, 0)] (.accop (fb 2 w 18) (fb 6 w 12) (fb 6 w 6))
  | 0x81 => zeros w [(23, 20), (17, 17), (11, 11), (5, 0)] (.accopH (fb 2 w 18) (fb 5 w 12) (fb 5 w 6))
  | 0x82 => zeros w [(23, 20)] (.accsp24 (fb 2 w 18) (fb 6 w 12) (fb 6 w 6) (fb 6 w 0))
  | 0x83 => zeros w [(23, 20)] (.accsp48 (fb 2 w 18) (fb 6 w 12) (fb 6 w 6) (fb 6 w 0))
  | 0x84 => zeros w [(23, 20), (17, 0)] (.acczero (fb 2 w 18))
  | 0x85 => zeros w [(17, 14), (11, 11), (5, 0)] (.accrd (fb 6 w 18) (fb 2 w 12) (fb 5 w 6))
  | 0x86 => zeros w [(23, 20), (11, 11), (5, 0)] (.accwr (fb 2 w 18) (fb 6 w 12) (fb 5 w 6))
  | 0x87 => zeros w [(23, 20), (17, 17), (11, 0)] (.accld (fb 2 w 18) (fb 5 w 12))
  | 0x88 => decode88 w
  | 0x89 => zeros w [(17, 17), (5, 0)] (.vgathr (fb 6 w 18) (fb 5 w 12) (fb 6 w 6))
  | 0x90 => zeros w [(17, 17)] (.vld (fb 6 w 18) (fb 5 w 12) (fb 12 w 0))
  | 0x91 => zeros w [(17, 17)] (.vst (fb 6 w 18) (fb 5 w 12) (fb 12 w 0))
  | 0x92 => zeros w [(17, 17), (11, 11), (5, 0)] (.vlds (fb 6 w 18) (fb 5 w 12) (fb 5 w 6))
  | 0x93 => zeros w [(17, 17), (11, 11), (5, 0)] (.vsts (fb 6 w 18) (fb 5 w 12) (fb 5 w 6))
  | 0x94 => zeros w [(17, 17), (5, 0)] (.vldx (fb 6 w 18) (fb 5 w 12) (fb 6 w 6))
  | 0x95 => zeros w [(17, 17), (5, 0)] (.vstx (fb 6 w 18) (fb 5 w 12) (fb 6 w 6))
  | 0x96 => zeros w [(17, 17), (11, 11), (5, 0)] (.vstn (fb 6 w 18) (fb 5 w 12) (fb 5 w 6))
  | 0x98 => decode98 w
  | 0x99 => zeros w [(17, 17), (11, 11)] (.pst (fb 6 w 18) (fb 5 w 12) (fb 5 w 6) (fb 6 w 0))
  | 0x9A => zeros w [(23, 23), (17, 17), (11, 11)] (.prun (fb 5 w 18) (fb 5 w 12) (fb 5 w 6) (fb 6 w 0))
  | 0xA0 => decodeA0 w
  | 0xA1 => decodeA1 w
  | 0xA2 => zeros w [(23, 22), (17, 17), (5, 0)] (.vlock (fb 4 w 18) (fb 5 w 12) (fb 6 w 6))
  | 0xA4 => zeros w [(23, 22), (17, 17)] (.waitvAny (fb 4 w 18) (fb 5 w 12) (fb 6 w 6) (fb 6 w 0))
  | 0xA5 => zeros w [(23, 22), (17, 17)] (.waitvAll (fb 4 w 18) (fb 5 w 12) (fb 6 w 6) (fb 6 w 0))
  | 0xA8 => if fld w 10 10 = 0 then zeros w [(23, 23), (17, 11)] (.bara (fb 5 w 18) (fb 10 w 0)) else zeros w [(23, 23), (17, 11)] (.baraG (fb 5 w 18) (fb 10 w 0))
  | 0xA9 => if fld w 10 10 = 0 then zeros w [(23, 17), (11, 11)] (.barw (fb 5 w 12) (fb 10 w 0)) else zeros w [(23, 17), (11, 11)] (.barwG (fb 5 w 12) (fb 10 w 0))
  | 0xAA => if fld w 10 10 = 0 then zeros w [(23, 23), (17, 11)] (.baraw (fb 5 w 18) (fb 10 w 0)) else zeros w [(23, 23), (17, 11)] (.barawG (fb 5 w 18) (fb 10 w 0))
  | 0xAC => zeros w [(23, 17), (11, 11), (5, 0)] (.tbinit (fb 5 w 12) (fb 5 w 6))
  | 0xAD => zeros w [(23, 17), (11, 11), (5, 0)] (.tbexp (fb 5 w 12) (fb 5 w 6))
  | 0xAE => zeros w [(23, 17), (11, 0)] (.tbarr (fb 5 w 12))
  | 0xAF => zeros w [(23, 17), (11, 11), (5, 0)] (.tbwait (fb 5 w 12) (fb 5 w 6))
  | 0xB0 => if vsintRegsOk (fld w 23 18) (fld w 17 12) (fld w 11 6) then zeros w [(23, 23), (17, 17), (12, 11), (6, 0)] (.vsint (fb 5 w 18) (fb 4 w 13) (fb 4 w 7)) else .error 2
  | 0xB8 => decodeB8 w
  | 0xB9 => if w % 256 = 0 then .error 3 else zeros w [(23, 8)] (.qfence (fb 8 w 0))
  | 0xC0 => decodeC0 w
  | 0xC1 => zeros w [(23, 17), (11, 0)] (.lns (fb 5 w 12))
  | 0xC4 => zeros w [(23, 17), (11, 11), (5, 0)] (.pmld (fb 5 w 12) (fb 5 w 6))
  | 0xC8 => zeros w [(23, 23), (17, 17), (11, 0)] (.cgld (fb 5 w 18) (fb 5 w 12))
  | 0xC9 => zeros w [(23, 17), (11, 11), (5, 0)] (.cgrun (fb 5 w 12) (fb 5 w 6))
  | 0xCA => zeros w [(23, 17), (11, 0)] (.cgfree (fb 5 w 12))
  | 0xCC => zeros w [(23, 23), (17, 17)] (.fld (fb 5 w 18) (fb 5 w 12) (fb 12 w 0))
  | 0xCD => zeros w [(23, 23), (17, 17)] (.fst (fb 5 w 18) (fb 5 w 12) (fb 12 w 0))
  | 0xCE => decodeCE w
  | 0xCF => zeros w [(23, 23), (11, 9), (5, 0)] (.fred (fb 5 w 18) (fb 6 w 12) (fb 3 w 6))
  | 0xE0 => zeros w [(23, 23), (17, 17), (11, 0)] (.lnch (fb 5 w 18) (fb 5 w 12))
  | 0xE1 => zeros w [(23, 23), (17, 17), (11, 0)] (.lwait (fb 5 w 18) (fb 5 w 12))
  | 0xE2 => zeros w [(23, 17), (11, 11), (5, 0)] (.tdef (fb 5 w 12) (fb 5 w 6))
  | 0xE3 => zeros w [(23, 20), (17, 17), (11, 0)] (.tldf (fb 2 w 18) (fb 5 w 12))
  | 0xE4 => zeros w [(23, 17), (11, 0)] (.strs (fb 5 w 12))
  | 0xE5 => zeros w [(23, 17), (11, 11), (5, 0)] (.strd (fb 5 w 12) (fb 5 w 6))
  | 0xE6 => zeros w [(23, 17), (11, 11), (5, 0)] (.pdef (fb 5 w 12) (fb 5 w 6))
  | 0xE7 => decodeE7 w
  | 0xE8 => zeros w [] (.trap (fb 24 w 0))
  | 0xE9 => zeros w [(23, 0)] (.rett)
  | 0xEA => zeros w [(23, 17), (11, 0)] (.tlbinv (fb 5 w 12))
  | 0xEB => zeros w [(23, 17), (11, 11), (5, 0)] (.preqPowerDown (fb 5 w 12) (fb 5 w 6))
  | 0xF0 | 0xF1 | 0xF2 | 0xF3 | 0xF4 | 0xF5 | 0xF6 | 0xF7 => .ok (.hint (fb 3 w 24) (fb 24 w 0))
  | n => if n = 0 then .error 1 else if n ≥ 248 then .error 1 else .error 2

/-- b-class major 0xD0, by F[4:0] (R317). -/
def decodeBD0 (w : Nat) : Option Instr :=
  match w % 32 with
  | 0 => bz w [(21, 21), (17, 15), (11, 9)] (.badd (fb 2 w 22) (fb 3 w 18) (fb 3 w 12) (fb 3 w 6) (fb 1 w 5))
  | 1 => bz w [(21, 21), (17, 15), (11, 9)] (.bsub (fb 2 w 22) (fb 3 w 18) (fb 3 w 12) (fb 3 w 6) (fb 1 w 5))
  | 2 => bz w [(21, 21), (17, 15), (11, 9)] (.bmul (fb 2 w 22) (fb 3 w 18) (fb 3 w 12) (fb 3 w 6) (fb 1 w 5))
  | 3 => bz w [(21, 21), (17, 15), (11, 9)] (.bmin (fb 2 w 22) (fb 3 w 18) (fb 3 w 12) (fb 3 w 6) (fb 1 w 5))
  | 4 => bz w [(21, 21), (17, 15), (11, 9)] (.bmax (fb 2 w 22) (fb 3 w 18) (fb 3 w 12) (fb 3 w 6) (fb 1 w 5))
  | 5 => bz w [(21, 21), (17, 15), (11, 9), (5, 5)] (.band (fb 2 w 22) (fb 3 w 18) (fb 3 w 12) (fb 3 w 6))
  | 6 => bz w [(21, 21), (17, 15), (11, 9), (5, 5)] (.bor (fb 2 w 22) (fb 3 w 18) (fb 3 w 12) (fb 3 w 6))
  | 7 => bz w [(21, 21), (17, 15), (11, 9), (5, 5)] (.bxor (fb 2 w 22) (fb 3 w 18) (fb 3 w 12) (fb 3 w 6))
  | 8 => bz w [(21, 21), (17, 15), (11, 9)] (.bfma (fb 2 w 22) (fb 3 w 18) (fb 3 w 12) (fb 3 w 6) (fb 1 w 5))
  | _ => none

/-- b-class major 0xD1, by F[4:0] (R317). -/
def decodeBD1 (w : Nat) : Option Instr :=
  match w % 32 with
  | 0 => bz w [(21, 20), (17, 15), (11, 9)] (.bcmpeq (fb 2 w 22) (fb 2 w 18) (fb 3 w 12) (fb 3 w 6) (fb 1 w 5))
  | 1 => bz w [(21, 20), (17, 15), (11, 9)] (.bcmplt (fb 2 w 22) (fb 2 w 18) (fb 3 w 12) (fb 3 w 6) (fb 1 w 5))
  | 2 => bz w [(21, 20), (17, 15), (11, 9)] (.bcmple (fb 2 w 22) (fb 2 w 18) (fb 3 w 12) (fb 3 w 6) (fb 1 w 5))
  | _ => none

/-- b-class major 0xD6, by F[4:0] (R317). -/
def decodeBD6 (w : Nat) : Option Instr :=
  match w % 32 with
  | 0 => bz w [(23, 5)] (.byield)
  | 1 => bz w [(23, 5)] (.bend)
  | _ => none

/-- The b-class instruction an NMU reads from a word of its microprogram store; none is an invalid b-class word (R317, R322).
A hint is executed by an NMU as a no-operation. -/
def decodeB (w : Nat) : Option Instr :=
  match w / 16777216 with
  | 0xD0 => decodeBD0 w
  | 0xD1 => decodeBD1 w
  | 0xD2 => bz w [(21, 21), (17, 15), (11, 9), (5, 0)] (.bsel (fb 2 w 22) (fb 3 w 18) (fb 3 w 12) (fb 3 w 6))
  | 0xD3 => bz w [(21, 21), (17, 12)] (.brld (fb 2 w 22) (fb 3 w 18) (fb 12 w 0))
  | 0xD4 => bz w [(21, 21), (17, 12)] (.brst (fb 2 w 22) (fb 3 w 18) (fb 12 w 0))
  | 0xD5 => bz w [(21, 15), (11, 9)] (.bskip (fb 2 w 22) (fb 3 w 12) (fb 9 w 0))
  | 0xD6 => decodeBD6 w
  | 0xD7 => bz w [(23, 9)] (.bjmp (fb 9 w 0))
  | 0xF0 | 0xF1 | 0xF2 | 0xF3 | 0xF4 | 0xF5 | 0xF6 | 0xF7 => some (.hint (fb 3 w 24) (fb 24 w 0))
  | _ => none

/-- The 32-bit word of an instruction, field by field from the encoding tables of R311 to R319; none for a step that is no
instruction. -/
def encode (i : Instr) : Option Nat :=
  match i with
  | .add d a b => some (0x01000000 + d.toNat * 262144 + a.toNat * 4096 + b.toNat * 64)
  | .sub d a b => some (0x01000001 + d.toNat * 262144 + a.toNat * 4096 + b.toNat * 64)
  | .mul d a b => some (0x01000002 + d.toNat * 262144 + a.toNat * 4096 + b.toNat * 64)
  | .mulh d a b => some (0x01000003 + d.toNat * 262144 + a.toNat * 4096 + b.toNat * 64)
  | .mulhu d a b => some (0x01000004 + d.toNat * 262144 + a.toNat * 4096 + b.toNat * 64)
  | .div d a b => some (0x01000005 + d.toNat * 262144 + a.toNat * 4096 + b.toNat * 64)
  | .divu d a b => some (0x01000006 + d.toNat * 262144 + a.toNat * 4096 + b.toNat * 64)
  | .rem d a b => some (0x01000007 + d.toNat * 262144 + a.toNat * 4096 + b.toNat * 64)
  | .remu d a b => some (0x01000008 + d.toNat * 262144 + a.toNat * 4096 + b.toNat * 64)
  | .and d a b => some (0x01000009 + d.toNat * 262144 + a.toNat * 4096 + b.toNat * 64)
  | .or d a b => some (0x0100000A + d.toNat * 262144 + a.toNat * 4096 + b.toNat * 64)
  | .xor d a b => some (0x0100000B + d.toNat * 262144 + a.toNat * 4096 + b.toNat * 64)
  | .sll d a b => some (0x0100000C + d.toNat * 262144 + a.toNat * 4096 + b.toNat * 64)
  | .srl d a b => some (0x0100000D + d.toNat * 262144 + a.toNat * 4096 + b.toNat * 64)
  | .sra d a b => some (0x0100000E + d.toNat * 262144 + a.toNat * 4096 + b.toNat * 64)
  | .slt d a b => some (0x0100000F + d.toNat * 262144 + a.toNat * 4096 + b.toNat * 64)
  | .sltu d a b => some (0x01000010 + d.toNat * 262144 + a.toNat * 4096 + b.toNat * 64)
  | .min d a b => some (0x01000011 + d.toNat * 262144 + a.toNat * 4096 + b.toNat * 64)
  | .max d a b => some (0x01000012 + d.toNat * 262144 + a.toNat * 4096 + b.toNat * 64)
  | .minu d a b => some (0x01000013 + d.toNat * 262144 + a.toNat * 4096 + b.toNat * 64)
  | .maxu d a b => some (0x01000014 + d.toNat * 262144 + a.toNat * 4096 + b.toNat * 64)
  | .sel d a b => some (0x01000015 + d.toNat * 262144 + a.toNat * 4096 + b.toNat * 64)
  | .clz d a => some (0x01000016 + d.toNat * 262144 + a.toNat * 4096)
  | .popc d a => some (0x01000017 + d.toNat * 262144 + a.toNat * 4096)
  | .addi d a i => some (0x02000000 + d.toNat * 262144 + a.toNat * 4096 + i.toNat * 1)
  | .andi d a i => some (0x03000000 + d.toNat * 262144 + a.toNat * 4096 + i.toNat * 1)
  | .ori d a i => some (0x04000000 + d.toNat * 262144 + a.toNat * 4096 + i.toNat * 1)
  | .xori d a i => some (0x05000000 + d.toNat * 262144 + a.toNat * 4096 + i.toNat * 1)
  | .slli d a i => some (0x06000000 + d.toNat * 262144 + a.toNat * 4096 + i.toNat * 1)
  | .srli d a i => some (0x07000000 + d.toNat * 262144 + a.toNat * 4096 + i.toNat * 1)
  | .srai d a i => some (0x08000000 + d.toNat * 262144 + a.toNat * 4096 + i.toNat * 1)
  | .slti d a i => some (0x09000000 + d.toNat * 262144 + a.toNat * 4096 + i.toNat * 1)
  | .sltiu d a i => some (0x0A000000 + d.toNat * 262144 + a.toNat * 4096 + i.toNat * 1)
  | .lui d i => some (0x0B000000 + d.toNat * 262144 + i.toNat * 1)
  | .auipc d i => some (0x0C000000 + d.toNat * 262144 + i.toNat * 1)
  | .faddS d a b => some (0x0D000000 + d.toNat * 262144 + a.toNat * 4096 + b.toNat * 64)
  | .fsubS d a b => some (0x0D000001 + d.toNat * 262144 + a.toNat * 4096 + b.toNat * 64)
  | .fmulS d a b => some (0x0D000002 + d.toNat * 262144 + a.toNat * 4096 + b.toNat * 64)
  | .fdivS d a b => some (0x0D000003 + d.toNat * 262144 + a.toNat * 4096 + b.toNat * 64)
  | .fminS d a b => some (0x0D000004 + d.toNat * 262144 + a.toNat * 4096 + b.toNat * 64)
  | .fmaxS d a b => some (0x0D000005 + d.toNat * 262144 + a.toNat * 4096 + b.toNat * 64)
  | .fcvtSL d a => some (0x0D000006 + d.toNat * 262144 + a.toNat * 4096)
  | .fcvtLS d a => some (0x0D000007 + d.toNat * 262144 + a.toNat * 4096)
  | .fltS d a b => some (0x0D000008 + d.toNat * 262144 + a.toNat * 4096 + b.toNat * 64)
  | .fleS d a b => some (0x0D000009 + d.toNat * 262144 + a.toNat * 4096 + b.toNat * 64)
  | .feqS d a b => some (0x0D00000A + d.toNat * 262144 + a.toNat * 4096 + b.toNat * 64)
  | .ldB d a i => some (0x10000000 + d.toNat * 262144 + a.toNat * 4096 + i.toNat * 1)
  | .ldBu d a i => some (0x11000000 + d.toNat * 262144 + a.toNat * 4096 + i.toNat * 1)
  | .ldH d a i => some (0x12000000 + d.toNat * 262144 + a.toNat * 4096 + i.toNat * 1)
  | .ldHu d a i => some (0x13000000 + d.toNat * 262144 + a.toNat * 4096 + i.toNat * 1)
  | .ldW d a i => some (0x14000000 + d.toNat * 262144 + a.toNat * 4096 + i.toNat * 1)
  | .ldWu d a i => some (0x15000000 + d.toNat * 262144 + a.toNat * 4096 + i.toNat * 1)
  | .ldD d a i => some (0x16000000 + d.toNat * 262144 + a.toNat * 4096 + i.toNat * 1)
  | .ldDAq d a i => some (0x17000000 + d.toNat * 262144 + a.toNat * 4096 + i.toNat * 1)
  | .stB d a i => some (0x18000000 + d.toNat * 262144 + a.toNat * 4096 + i.toNat * 1)
  | .stH d a i => some (0x19000000 + d.toNat * 262144 + a.toNat * 4096 + i.toNat * 1)
  | .stW d a i => some (0x1A000000 + d.toNat * 262144 + a.toNat * 4096 + i.toNat * 1)
  | .stD d a i => some (0x1B000000 + d.toNat * 262144 + a.toNat * 4096 + i.toNat * 1)
  | .beq a b o => some (0x20000000 + a.toNat * 262144 + b.toNat * 4096 + o.toNat * 1)
  | .bne a b o => some (0x21000000 + a.toNat * 262144 + b.toNat * 4096 + o.toNat * 1)
  | .blt a b o => some (0x22000000 + a.toNat * 262144 + b.toNat * 4096 + o.toNat * 1)
  | .bge a b o => some (0x23000000 + a.toNat * 262144 + b.toNat * 4096 + o.toNat * 1)
  | .bltu a b o => some (0x24000000 + a.toNat * 262144 + b.toNat * 4096 + o.toNat * 1)
  | .bgeu a b o => some (0x25000000 + a.toNat * 262144 + b.toNat * 4096 + o.toNat * 1)
  | .j o => some (0x26000000 + o.toNat * 1)
  | .call o => some (0x27000000 + o.toNat * 1)
  | .jalr d a i => some (0x28000000 + d.toNat * 262144 + a.toNat * 4096 + i.toNat * 1)
  | .loop a o => some (0x29000000 + a.toNat * 262144 + o.toNat * 1)
  | .csrr d c => some (0x30000000 + d.toNat * 262144 + c.toNat * 1)
  | .csrw a c => some (0x31000000 + a.toNat * 4096 + c.toNat * 1)
  | .vstartWrite a => some (0x31000004 + a.toNat * 4096)
  | .vshareWrite a => some (0x31000008 + a.toNat * 4096)
  | .srstepWrite a => some (0x31000009 + a.toNat * 4096)
  | .pdoneWrite a => some (0x3100000A + a.toNat * 4096)
  | .wdogWrite a => some (0x31000011 + a.toNat * 4096)
  | .banktoWrite a => some (0x31000012 + a.toNat * 4096)
  | .ecntWrite a n => some (0x31000100 + a.toNat * 4096 + n.toNat * 1)
  | .eselWrite a n => some (0x31000108 + a.toNat * 4096 + n.toNat * 1)
  | .modeField r g t m s p q => some (0x33000000 + r.toNat * 4194304 + g.toNat * 65536 + t.toNat * 2048 + m.toNat * 256 + s.toNat * 64 + p.toNat * 8 + q.toNat * 1)
  | .modeTid r t => some (0x34000000 + r.toNat * 4194304 + t.toNat * 1)
  | .vcfg d c n => some (0x35000000 + d.toNat * 262144 + c.toNat * 16 + n.toNat * 1)
  | .vsetvl d a => some (0x36000000 + d.toNat * 262144 + a.toNat * 4096)
  | .mcnt d a => some (0x37000000 + d.toNat * 262144 + a.toNat * 4096)
  | .many d a => some (0x37000001 + d.toNat * 262144 + a.toNat * 4096)
  | .mfirst d a => some (0x37000002 + d.toNat * 262144 + a.toNat * 4096)
  | .texit a => some (0x3E000000 + a.toNat * 4096)
  | .vadd d a b => some (0x40000000 + d.toNat * 262144 + a.toNat * 4096 + b.toNat * 64)
  | .vsub d a b => some (0x40000001 + d.toNat * 262144 + a.toNat * 4096 + b.toNat * 64)
  | .vmul d a b => some (0x40000002 + d.toNat * 262144 + a.toNat * 4096 + b.toNat * 64)
  | .vdiv d a b => some (0x40000003 + d.toNat * 262144 + a.toNat * 4096 + b.toNat * 64)
  | .vmin d a b => some (0x40000004 + d.toNat * 262144 + a.toNat * 4096 + b.toNat * 64)
  | .vmax d a b => some (0x40000005 + d.toNat * 262144 + a.toNat * 4096 + b.toNat * 64)
  | .vand d a b => some (0x40000006 + d.toNat * 262144 + a.toNat * 4096 + b.toNat * 64)
  | .vor d a b => some (0x40000007 + d.toNat * 262144 + a.toNat * 4096 + b.toNat * 64)
  | .vxor d a b => some (0x40000008 + d.toNat * 262144 + a.toNat * 4096 + b.toNat * 64)
  | .vsll d a b => some (0x40000009 + d.toNat * 262144 + a.toNat * 4096 + b.toNat * 64)
  | .vsrl d a b => some (0x4000000A + d.toNat * 262144 + a.toNat * 4096 + b.toNat * 64)
  | .vsra d a b => some (0x4000000B + d.toNat * 262144 + a.toNat * 4096 + b.toNat * 64)
  | .vaddX d a b => some (0x41000000 + d.toNat * 262144 + a.toNat * 4096 + b.toNat * 64)
  | .vsubX d a b => some (0x41000001 + d.toNat * 262144 + a.toNat * 4096 + b.toNat * 64)
  | .vmulX d a b => some (0x41000002 + d.toNat * 262144 + a.toNat * 4096 + b.toNat * 64)
  | .vdivX d a b => some (0x41000003 + d.toNat * 262144 + a.toNat * 4096 + b.toNat * 64)
  | .vminX d a b => some (0x41000004 + d.toNat * 262144 + a.toNat * 4096 + b.toNat * 64)
  | .vmaxX d a b => some (0x41000005 + d.toNat * 262144 + a.toNat * 4096 + b.toNat * 64)
  | .vandX d a b => some (0x41000006 + d.toNat * 262144 + a.toNat * 4096 + b.toNat * 64)
  | .vorX d a b => some (0x41000007 + d.toNat * 262144 + a.toNat * 4096 + b.toNat * 64)
  | .vxorX d a b => some (0x41000008 + d.toNat * 262144 + a.toNat * 4096 + b.toNat * 64)
  | .vsllX d a b => some (0x41000009 + d.toNat * 262144 + a.toNat * 4096 + b.toNat * 64)
  | .vsrlX d a b => some (0x4100000A + d.toNat * 262144 + a.toNat * 4096 + b.toNat * 64)
  | .vsraX d a b => some (0x4100000B + d.toNat * 262144 + a.toNat * 4096 + b.toNat * 64)
  | .vfma d a b => some (0x42000000 + d.toNat * 262144 + a.toNat * 4096 + b.toNat * 64)
  | .vfms d a b => some (0x42000001 + d.toNat * 262144 + a.toNat * 4096 + b.toNat * 64)
  | .vfnma d a b => some (0x42000002 + d.toNat * 262144 + a.toNat * 4096 + b.toNat * 64)
  | .vfnms d a b => some (0x42000003 + d.toNat * 262144 + a.toNat * 4096 + b.toNat * 64)
  | .vneg d a => some (0x43000000 + d.toNat * 262144 + a.toNat * 4096)
  | .vabs d a => some (0x43000001 + d.toNat * 262144 + a.toNat * 4096)
  | .vmov d a => some (0x43000002 + d.toNat * 262144 + a.toNat * 4096)
  | .vsqrt d a => some (0x43000003 + d.toNat * 262144 + a.toNat * 4096)
  | .vrcp d a => some (0x43000004 + d.toNat * 262144 + a.toNat * 4096)
  | .vrsqrt d a => some (0x43000005 + d.toNat * 262144 + a.toNat * 4096)
  | .vexp2 d a => some (0x43000006 + d.toNat * 262144 + a.toNat * 4096)
  | .vlog2 d a => some (0x43000007 + d.toNat * 262144 + a.toNat * 4096)
  | .vcvt d a s => some (0x44000000 + d.toNat * 262144 + a.toNat * 4096 + s.toNat * 64)
  | .vcmpeq d a b => some (0x45000000 + d.toNat * 262144 + a.toNat * 4096 + b.toNat * 64)
  | .vcmpne d a b => some (0x45000001 + d.toNat * 262144 + a.toNat * 4096 + b.toNat * 64)
  | .vcmplt d a b => some (0x45000002 + d.toNat * 262144 + a.toNat * 4096 + b.toNat * 64)
  | .vcmple d a b => some (0x45000003 + d.toNat * 262144 + a.toNat * 4096 + b.toNat * 64)
  | .vcmpgt d a b => some (0x45000004 + d.toNat * 262144 + a.toNat * 4096 + b.toNat * 64)
  | .vcmpge d a b => some (0x45000005 + d.toNat * 262144 + a.toNat * 4096 + b.toNat * 64)
  | .vcmpeqX d a b => some (0x46000000 + d.toNat * 262144 + a.toNat * 4096 + b.toNat * 64)
  | .vcmpneX d a b => some (0x46000001 + d.toNat * 262144 + a.toNat * 4096 + b.toNat * 64)
  | .vcmpltX d a b => some (0x46000002 + d.toNat * 262144 + a.toNat * 4096 + b.toNat * 64)
  | .vcmpleX d a b => some (0x46000003 + d.toNat * 262144 + a.toNat * 4096 + b.toNat * 64)
  | .vcmpgtX d a b => some (0x46000004 + d.toNat * 262144 + a.toNat * 4096 + b.toNat * 64)
  | .vcmpgeX d a b => some (0x46000005 + d.toNat * 262144 + a.toNat * 4096 + b.toNat * 64)
  | .vsel d a b f => some (0x47000000 + d.toNat * 262144 + a.toNat * 4096 + b.toNat * 64 + f.toNat * 1)
  | .vsplat d a => some (0x48000000 + d.toNat * 262144 + a.toNat * 4096)
  | .vextr d a b => some (0x48000001 + d.toNat * 262144 + a.toNat * 4096 + b.toNat * 64)
  | .vslideup d a b => some (0x48000002 + d.toNat * 262144 + a.toNat * 4096 + b.toNat * 64)
  | .vslidedn d a b => some (0x48000003 + d.toNat * 262144 + a.toNat * 4096 + b.toNat * 64)
  | .vperm d a b => some (0x48000004 + d.toNat * 262144 + a.toNat * 4096 + b.toNat * 64)
  | .vstep d => some (0x48000005 + d.toNat * 262144)
  | .vredsum d a => some (0x49000000 + d.toNat * 262144 + a.toNat * 4096)
  | .vredmax d a => some (0x49000001 + d.toNat * 262144 + a.toNat * 4096)
  | .vredmin d a => some (0x49000002 + d.toNat * 262144 + a.toNat * 4096)
  | .vredand d a => some (0x49000003 + d.toNat * 262144 + a.toNat * 4096)
  | .vredor d a => some (0x49000004 + d.toNat * 262144 + a.toNat * 4096)
  | .vredxor d a => some (0x49000005 + d.toNat * 262144 + a.toNat * 4096)
  | .vdot d a b => some (0x4A000000 + d.toNat * 262144 + a.toNat * 4096 + b.toNat * 64)
  | .vqnt d a b => some (0x4B000000 + d.toNat * 262144 + a.toNat * 4096 + b.toNat * 64)
  | .vdqnt d a b => some (0x4C000000 + d.toNat * 262144 + a.toNat * 4096 + b.toNat * 64)
  | .vsset d a => some (0x4D000000 + d.toNat * 262144 + a.toNat * 4096)
  | .vsget d a => some (0x4D000001 + d.toNat * 262144 + a.toNat * 4096)
  | .vcompr24 d a b => some (0x4E000000 + d.toNat * 262144 + a.toNat * 4096 + b.toNat * 64)
  | .vcompr48 d a b => some (0x4E000001 + d.toNat * 262144 + a.toNat * 4096 + b.toNat * 64)
  | .mand d a b => some (0x50000000 + d.toNat * 262144 + a.toNat * 4096 + b.toNat * 64)
  | .mor d a b => some (0x50000001 + d.toNat * 262144 + a.toNat * 4096 + b.toNat * 64)
  | .mxor d a b => some (0x50000002 + d.toNat * 262144 + a.toNat * 4096 + b.toNat * 64)
  | .mandn d a b => some (0x50000003 + d.toNat * 262144 + a.toNat * 4096 + b.toNat * 64)
  | .mnot d a => some (0x50000004 + d.toNat * 262144 + a.toNat * 4096)
  | .mmov d a => some (0x50000005 + d.toNat * 262144 + a.toNat * 4096)
  | .mset d => some (0x50000006 + d.toNat * 262144)
  | .mclr d => some (0x50000007 + d.toNat * 262144)
  | .accop d a b => some (0x80000000 + d.toNat * 262144 + a.toNat * 4096 + b.toNat * 64)
  | .accopH d a b => some (0x81000000 + d.toNat * 262144 + a.toNat * 4096 + b.toNat * 64)
  | .accsp24 d a b f => some (0x82000000 + d.toNat * 262144 + a.toNat * 4096 + b.toNat * 64 + f.toNat * 1)
  | .accsp48 d a b f => some (0x83000000 + d.toNat * 262144 + a.toNat * 4096 + b.toNat * 64 + f.toNat * 1)
  | .acczero d => some (0x84000000 + d.toNat * 262144)
  | .accrd d a b => some (0x85000000 + d.toNat * 262144 + a.toNat * 4096 + b.toNat * 64)
  | .accwr d a b => some (0x86000000 + d.toNat * 262144 + a.toNat * 4096 + b.toNat * 64)
  | .accld d a => some (0x87000000 + d.toNat * 262144 + a.toNat * 4096)
  | .accst d a => some (0x88000000 + d.toNat * 262144 + a.toNat * 4096)
  | .accstQ d a b => some (0x88000001 + d.toNat * 262144 + a.toNat * 4096 + b.toNat * 64)
  | .vgathr d a b => some (0x89000000 + d.toNat * 262144 + a.toNat * 4096 + b.toNat * 64)
  | .vld d a i => some (0x90000000 + d.toNat * 262144 + a.toNat * 4096 + i.toNat * 1)
  | .vst d a i => some (0x91000000 + d.toNat * 262144 + a.toNat * 4096 + i.toNat * 1)
  | .vlds d a b => some (0x92000000 + d.toNat * 262144 + a.toNat * 4096 + b.toNat * 64)
  | .vsts d a b => some (0x93000000 + d.toNat * 262144 + a.toNat * 4096 + b.toNat * 64)
  | .vldx d a b => some (0x94000000 + d.toNat * 262144 + a.toNat * 4096 + b.toNat * 64)
  | .vstx d a b => some (0x95000000 + d.toNat * 262144 + a.toNat * 4096 + b.toNat * 64)
  | .vstn d a b => some (0x96000000 + d.toNat * 262144 + a.toNat * 4096 + b.toNat * 64)
  | .pldSum d a b p => some (0x98000000 + d.toNat * 262144 + a.toNat * 4096 + b.toNat * 64 + p.toNat * 1)
  | .pldMax d a b p => some (0x98000008 + d.toNat * 262144 + a.toNat * 4096 + b.toNat * 64 + p.toNat * 1)
  | .pldMin d a b p => some (0x98000010 + d.toNat * 262144 + a.toNat * 4096 + b.toNat * 64 + p.toNat * 1)
  | .pldMaxabs d a b p => some (0x98000018 + d.toNat * 262144 + a.toNat * 4096 + b.toNat * 64 + p.toNat * 1)
  | .pldAnd d a b p => some (0x98000020 + d.toNat * 262144 + a.toNat * 4096 + b.toNat * 64 + p.toNat * 1)
  | .pldOr d a b p => some (0x98000028 + d.toNat * 262144 + a.toNat * 4096 + b.toNat * 64 + p.toNat * 1)
  | .pldXor d a b p => some (0x98000030 + d.toNat * 262144 + a.toNat * 4096 + b.toNat * 64 + p.toNat * 1)
  | .pst d a b p => some (0x99000000 + d.toNat * 262144 + a.toNat * 4096 + b.toNat * 64 + p.toNat * 1)
  | .prun d a b p => some (0x9A000000 + d.toNat * 262144 + a.toNat * 4096 + b.toNat * 64 + p.toNat * 1)
  | .amoAdd d a b => some (0xA0000000 + d.toNat * 262144 + a.toNat * 4096 + b.toNat * 64)
  | .amoSwap d a b => some (0xA0000001 + d.toNat * 262144 + a.toNat * 4096 + b.toNat * 64)
  | .amoMax d a b => some (0xA0000002 + d.toNat * 262144 + a.toNat * 4096 + b.toNat * 64)
  | .amoMin d a b => some (0xA0000003 + d.toNat * 262144 + a.toNat * 4096 + b.toNat * 64)
  | .amoMaxu d a b => some (0xA0000004 + d.toNat * 262144 + a.toNat * 4096 + b.toNat * 64)
  | .amoMinu d a b => some (0xA0000005 + d.toNat * 262144 + a.toNat * 4096 + b.toNat * 64)
  | .amoAnd d a b => some (0xA0000006 + d.toNat * 262144 + a.toNat * 4096 + b.toNat * 64)
  | .amoOr d a b => some (0xA0000007 + d.toNat * 262144 + a.toNat * 4096 + b.toNat * 64)
  | .amoXor d a b => some (0xA0000008 + d.toNat * 262144 + a.toNat * 4096 + b.toNat * 64)
  | .amoCas d a b => some (0xA0000009 + d.toNat * 262144 + a.toNat * 4096 + b.toNat * 64)
  | .vamoAdd d a b => some (0xA1000000 + d.toNat * 262144 + a.toNat * 4096 + b.toNat * 64)
  | .vamoSwap d a b => some (0xA1000001 + d.toNat * 262144 + a.toNat * 4096 + b.toNat * 64)
  | .vamoMax d a b => some (0xA1000002 + d.toNat * 262144 + a.toNat * 4096 + b.toNat * 64)
  | .vamoMin d a b => some (0xA1000003 + d.toNat * 262144 + a.toNat * 4096 + b.toNat * 64)
  | .vamoMaxu d a b => some (0xA1000004 + d.toNat * 262144 + a.toNat * 4096 + b.toNat * 64)
  | .vamoMinu d a b => some (0xA1000005 + d.toNat * 262144 + a.toNat * 4096 + b.toNat * 64)
  | .vamoAnd d a b => some (0xA1000006 + d.toNat * 262144 + a.toNat * 4096 + b.toNat * 64)
  | .vamoOr d a b => some (0xA1000007 + d.toNat * 262144 + a.toNat * 4096 + b.toNat * 64)
  | .vamoXor d a b => some (0xA1000008 + d.toNat * 262144 + a.toNat * 4096 + b.toNat * 64)
  | .vlock d a b => some (0xA2000000 + d.toNat * 262144 + a.toNat * 4096 + b.toNat * 64)
  | .waitvAny d a b f => some (0xA4000000 + d.toNat * 262144 + a.toNat * 4096 + b.toNat * 64 + f.toNat * 1)
  | .waitvAll d a b f => some (0xA5000000 + d.toNat * 262144 + a.toNat * 4096 + b.toNat * 64 + f.toNat * 1)
  | .bara d n => some (0xA8000000 + d.toNat * 262144 + n.toNat * 1)
  | .baraG d n => some (0xA8000400 + d.toNat * 262144 + n.toNat * 1)
  | .barw a n => some (0xA9000000 + a.toNat * 4096 + n.toNat * 1)
  | .barwG a n => some (0xA9000400 + a.toNat * 4096 + n.toNat * 1)
  | .baraw d n => some (0xAA000000 + d.toNat * 262144 + n.toNat * 1)
  | .barawG d n => some (0xAA000400 + d.toNat * 262144 + n.toNat * 1)
  | .tbinit a b => some (0xAC000000 + a.toNat * 4096 + b.toNat * 64)
  | .tbexp a b => some (0xAD000000 + a.toNat * 4096 + b.toNat * 64)
  | .tbarr a => some (0xAE000000 + a.toNat * 4096)
  | .tbwait a b => some (0xAF000000 + a.toNat * 4096 + b.toNat * 64)
  | .vsint d a b => some (0xB0000000 + d.toNat * 262144 + a.toNat * 8192 + b.toNat * 128)
  | .fenceSv => some (0xB8000000)
  | .fenceVs => some (0xB8000001)
  | .fenceVv => some (0xB8000002)
  | .fenceXp => some (0xB8000003)
  | .fenceSt => some (0xB8000004)
  | .fenceF => some (0xB8000005)
  | .qfence q => some (0xB9000000 + q.toNat * 1)
  | .cpy d a b => some (0xC0000000 + d.toNat * 262144 + a.toNat * 4096 + b.toNat * 64)
  | .cpyQ d a b => some (0xC0000001 + d.toNat * 262144 + a.toNat * 4096 + b.toNat * 64)
  | .cpyG d a b => some (0xC0000002 + d.toNat * 262144 + a.toNat * 4096 + b.toNat * 64)
  | .lns a => some (0xC1000000 + a.toNat * 4096)
  | .pmld a b => some (0xC4000000 + a.toNat * 4096 + b.toNat * 64)
  | .cgld d a => some (0xC8000000 + d.toNat * 262144 + a.toNat * 4096)
  | .cgrun a b => some (0xC9000000 + a.toNat * 4096 + b.toNat * 64)
  | .cgfree a => some (0xCA000000 + a.toNat * 4096)
  | .fld d a i => some (0xCC000000 + d.toNat * 262144 + a.toNat * 4096 + i.toNat * 1)
  | .fst d a i => some (0xCD000000 + d.toNat * 262144 + a.toNat * 4096 + i.toNat * 1)
  | .fldrSum d a b => some (0xCE000000 + d.toNat * 262144 + a.toNat * 4096 + b.toNat * 64)
  | .fldrMax d a b => some (0xCE000001 + d.toNat * 262144 + a.toNat * 4096 + b.toNat * 64)
  | .fldrMin d a b => some (0xCE000002 + d.toNat * 262144 + a.toNat * 4096 + b.toNat * 64)
  | .fred d a b => some (0xCF000000 + d.toNat * 262144 + a.toNat * 4096 + b.toNat * 64)
  | .badd k d a b t => some (0xD0000000 + k.toNat * 4194304 + d.toNat * 262144 + a.toNat * 4096 + b.toNat * 64 + t.toNat * 32)
  | .bsub k d a b t => some (0xD0000001 + k.toNat * 4194304 + d.toNat * 262144 + a.toNat * 4096 + b.toNat * 64 + t.toNat * 32)
  | .bmul k d a b t => some (0xD0000002 + k.toNat * 4194304 + d.toNat * 262144 + a.toNat * 4096 + b.toNat * 64 + t.toNat * 32)
  | .bmin k d a b t => some (0xD0000003 + k.toNat * 4194304 + d.toNat * 262144 + a.toNat * 4096 + b.toNat * 64 + t.toNat * 32)
  | .bmax k d a b t => some (0xD0000004 + k.toNat * 4194304 + d.toNat * 262144 + a.toNat * 4096 + b.toNat * 64 + t.toNat * 32)
  | .band k d a b => some (0xD0000005 + k.toNat * 4194304 + d.toNat * 262144 + a.toNat * 4096 + b.toNat * 64)
  | .bor k d a b => some (0xD0000006 + k.toNat * 4194304 + d.toNat * 262144 + a.toNat * 4096 + b.toNat * 64)
  | .bxor k d a b => some (0xD0000007 + k.toNat * 4194304 + d.toNat * 262144 + a.toNat * 4096 + b.toNat * 64)
  | .bfma k d a b t => some (0xD0000008 + k.toNat * 4194304 + d.toNat * 262144 + a.toNat * 4096 + b.toNat * 64 + t.toNat * 32)
  | .bcmpeq k d a b t => some (0xD1000000 + k.toNat * 4194304 + d.toNat * 262144 + a.toNat * 4096 + b.toNat * 64 + t.toNat * 32)
  | .bcmplt k d a b t => some (0xD1000001 + k.toNat * 4194304 + d.toNat * 262144 + a.toNat * 4096 + b.toNat * 64 + t.toNat * 32)
  | .bcmple k d a b t => some (0xD1000002 + k.toNat * 4194304 + d.toNat * 262144 + a.toNat * 4096 + b.toNat * 64 + t.toNat * 32)
  | .bsel k d a b => some (0xD2000000 + k.toNat * 4194304 + d.toNat * 262144 + a.toNat * 4096 + b.toNat * 64)
  | .brld k d i => some (0xD3000000 + k.toNat * 4194304 + d.toNat * 262144 + i.toNat * 1)
  | .brst k d i => some (0xD4000000 + k.toNat * 4194304 + d.toNat * 262144 + i.toNat * 1)
  | .bskip k a t => some (0xD5000000 + k.toNat * 4194304 + a.toNat * 4096 + t.toNat * 1)
  | .byield => some (0xD6000000)
  | .bend => some (0xD6000001)
  | .bjmp t => some (0xD7000000 + t.toNat * 1)
  | .lnch d a => some (0xE0000000 + d.toNat * 262144 + a.toNat * 4096)
  | .lwait d a => some (0xE1000000 + d.toNat * 262144 + a.toNat * 4096)
  | .tdef a b => some (0xE2000000 + a.toNat * 4096 + b.toNat * 64)
  | .tldf d a => some (0xE3000000 + d.toNat * 262144 + a.toNat * 4096)
  | .strs a => some (0xE4000000 + a.toNat * 4096)
  | .strd a b => some (0xE5000000 + a.toNat * 4096 + b.toNat * 64)
  | .pdef a b => some (0xE6000000 + a.toNat * 4096 + b.toNat * 64)
  | .grpinfo d a => some (0xE7000000 + d.toNat * 262144 + a.toNat * 4096)
  | .grpidx d a b => some (0xE7000001 + d.toNat * 262144 + a.toNat * 4096 + b.toNat * 64)
  | .trap i => some (0xE8000000 + i.toNat * 1)
  | .rett => some (0xE9000000)
  | .tlbinv a => some (0xEA000000 + a.toNat * 4096)
  | .preqPowerDown a b => some (0xEB000000 + a.toNat * 4096 + b.toNat * 64)
  | .preqSelfRefresh a b => some (0xEB000000 + a.toNat * 4096 + b.toNat * 64)
  | .preqWake a b => some (0xEB000000 + a.toNat * 4096 + b.toNat * 64)
  | .preqSetIsland a b => some (0xEB000000 + a.toNat * 4096 + b.toNat * 64)
  | .preqEndSlice a b => some (0xEB000000 + a.toNat * 4096 + b.toNat * 64)
  | .hint k e => some (0xF0000000 + k.toNat * 16777216 + e.toNat * 1)
  | .waitvSatisfied _ => none
  | .barrierWake _ => none
  | .tbwaitWake _ => none
  | .storePerformed _ => none
  | .faultSafePoint _ => none
  | .vectorCompletion _ => none
  | .commandRelease _ => none
  | .trapEntry _ => none
  | .hostLaunch _ => none
  | .taskPlacement _ => none
  | .coresidentPlacement _ => none
  | .completionReport _ => none
  | .hostCompletionRecord _ _ => none
  | .sleepExpiry _ => none
  | .lwaitReport _ => none
  | .copyCommandStart _ => none
  | .copyPerformed _ => none
  | .copyCompletion _ => none
  | .runToNmu _ => none
  | .nmuRunStart _ => none
  | .forcedYield _ => none
  | .memberActivation _ => none
  | .bankTimeout _ => none
  | .deltaApplication _ => none
  | .scatterAddChainApply _ => none
  | .snapshotFetch _ _ => none
  | .graphRunStart _ => none
  | .chunkFire _ _ => none
  | .chunkOpCompletion _ _ => none
  | .receiveTimeout _ _ => none
  | .graphRunEnd _ => none
  | .flitReceive _ _ => none
  | .replayRequest _ _ => none
  | .packetReceive _ => none
  | .ackReceive _ => none
  | .rejectReceive _ => none
  | .ackSend _ _ => none
  | .retransmitTimeout _ _ _ => none
  | .sequenceExhausted _ => none
  | .getVersion _ => none
  | .getCapabilities _ => none
  | .negotiateAlgorithms _ _ => none
  | .getDigests _ => none
  | .getCertificate _ _ => none
  | .challenge _ _ _ => none
  | .getMeasurements _ _ _ _ => none
  | .keyExchange _ _ _ => none
  | .finish _ _ _ => none
  | .heartbeat _ _ => none
  | .keyUpdate _ _ => none
  | .endSession _ _ => none
  | .chunkSend _ _ _ _ => none
  | .chunkGet _ _ => none
  | .unsupportedRequest _ _ => none
  | .sessionTimeout _ => none
  | .prepare _ => none
  | .ready _ _ => none
  | .go _ => none
  | .done _ _ => none
  | .leave _ => none
  | .failReport _ _ => none
  | .rekeyRequest _ => none
  | .readyTimeout _ => none
  | .partitionCreation _ _ => none
  | .partitionTeardown _ => none
  | .partitionTableWrite _ _ => none
  | .budgetWrite _ _ => none
  | .ringmasterTlbInvalidation _ => none
  | .runtimeRepair _ _ _ => none
  | .sliceEnd _ => none
  | .preemption _ => none
  | .restore _ => none
  | .stripGrant _ _ => none
  | .arbitrationPeriod _ => none
  | .networkPeriod _ => none
  | .parkEntry _ => none
  | .parkExit _ => none
  | .scrub _ => none
  | .thermalThrottle _ _ => none
  | .thermalTrip _ _ => none
  | .packageReset _ => none
  | .checkpoint _ _ => none
  | .clk => none
  | .sublinkLosesTraining _ => none
  | .softError _ _ => none
  | .changeOfFrequency _ _ => none
  | .heartbeatPeriod _ => none

/-- The instruction a word's own bits can name. The five requests of `preq` share one word and differ only in the request
code that X[A] holds (R449); the decoder answers the first of them, and the step picks the row by the code. (DEDUCED, log 77) -/
def Instr.canon (i : Instr) : Instr :=
  match i with
  | .preqSelfRefresh a b => .preqPowerDown a b
  | .preqWake a b => .preqPowerDown a b
  | .preqSetIsland a b => .preqPowerDown a b
  | .preqEndSlice a b => .preqPowerDown a b
  | i => i

/-- Whether a word is of a b-class major (R315): such a word is fetched by an NMU only. -/
def isBWord (w : Nat) : Bool := 0xD0 ≤ w / 16777216 && w / 16777216 ≤ 0xD7

/-- The instruction that stands in a word of the given number of bits, read by the agent that fetches such words: an NMU for
the b-class majors, a pair for every other. -/
def decodeTableWord (nbits w : Nat) : Option Instr :=
  if nbits ≤ 32 ∧ w < 4294967296 then
    if isBWord w then decodeB w
    else match decode w with
      | .ok i => some i
      | .error _ => none
  else none

end

end Sys2Proof
end

