-- ==== Sys2Proof/Config.lean ====
section
/-!
DEFINITION. What the VD9 fixes by figure, and the free values: constants without a body, so that no proof can rest on a
number where the manual leaves one open.
-/

namespace Sys2Proof.Config

/-- 48 MiB, the bytes of one bank (R16). -/
abbrev bankBytes : Nat := 0x300_0000

/-- 4 KiB, the park row at the top of each bank (R115, R117). -/
abbrev parkBytes : Nat := 0x1000

/-- The end of the banked view, 768 GiB (R116). -/
abbrev dramEnd : Nat := 0xC0_0000_0000

/-- Physical address of pair block 0 (R128). -/
abbrev pairBase : Nat := 0x8000_0000_0000

/-- Bytes of a pair block (R128). -/
abbrev pairBlock : Nat := 0x40_0000

/-- Carousel chunk buffers, 64 MiB from this physical address (R116). -/
abbrev chunkBase : Nat := 0x9000_0000_0000

/-- Tile length TLEN (R15). -/
abbrev tlen : Nat := 128

/-- Free value: the byte that stands in a transaction barrier word after software stored to it (R200), one per use.
(DESIGN CHOICE, log 5) -/
opaque freeByte : Nat → Byte

/-- Free value: whether a plural-store member that timed out was written (R403), and whether a cached snapshot that may serve a
quantiser does (R246), one per use. (DESIGN CHOICE, log 5) -/
opaque freeBool : Nat → Bool

/-- Free value: which of several crossbar masks an access is checked against while a change of XBAR settles (R193); its arguments
say where and when the access is made. -/
opaque freeMask : List Nat → Bool

/-- Free value: which of the two possible dies a transfer between diagonal dies crosses (R11); its arguments say where and when it is
made. (DESIGN CHOICE, log 79) -/
opaque dieHash : List Nat → Bool

/-- Free value: the scale byte of a block, whose largest magnitude is the given mantissa times a power of 2, in a format whose largest
finite value is 0 (R233). (DESIGN CHOICE, log 101) -/
opaque blockExp : Nat → Int → Byte

/-- SHAKE256 with the given number of output bytes (R286, R287, R292). Cryptography is not modelled bit by bit. (DESIGN CHOICE, log 6) -/
opaque shake256 : Nat → List Byte → List Byte

/-- AES-256-GCM: the tag that key, nonce, header bytes and operation have (R276, R277). (DESIGN CHOICE, log 6) -/
opaque gcmTag : List Byte → List Byte → List Byte → FabOp → BitVec 128

/-- AES-256-GCM: the encrypted payload under key, nonce and header bytes (R276, R277). -/
opaque gcmCipher : List Byte → List Byte → List Byte → FabOp → List Byte

/-- Ed448 verification of a message under a public key (R286, R459). -/
opaque ed448Verify : List Byte → List Byte → List Byte → Bool

/-- The Ouvoft key fused in the IOD, the version of a firmware image, and the fused version floor (R459). -/
opaque ouvoftKey : List Byte
opaque imageVersion : List Byte → Nat
opaque versionFloor : Nat

/-- A secured SPDM message on the wire, under the keys of its session (R289). -/
opaque secured : Nat → List Byte → List Byte

/-- Ed448 signature by the device identity key (R286, R287). -/
opaque deviceSign : List Byte → List Byte

/-- SHA3-512, for the digests that SPDM exchanges (R288). -/
opaque sha3512 : List Byte → List Byte

/-- The certificate chain of SPDM slot 0 (R286). -/
opaque certChain : List Byte

/-- The encoded public key of the device's identity (R286). -/
opaque devicePublicKey : List Byte

/-- Whether a certificate chain verifies to Ouvoft's root, or for a host to a root that the leader's policy admits, and ends in a leaf
with this key (R286, R291). -/
opaque chainVerifies : List Byte → List Byte → Bool → Bool

/-- Whether the leader's acceptance policy, which system software sets, admits a node with this certificate chain, these measurements
and this key, as a host or not (R283, R291). -/
opaque admits : List Byte → List Byte → List Byte → Bool → Bool

/-- The leader's random source (R292): 64 bytes, one per use. -/
opaque random64 : Nat → List Byte

end Sys2Proof.Config
end

