-- ==== Sys2Proof/Machine/Tab.lean ====
section
/-!
DEFINITION. Reading and writing the sparse tables of the model: Tab (any entries) and Cells (w-bit cells, unlisted = 0). Both
keep their keys strictly rising; Cells also lists no zero, so equal contents are equal lists.
-/

namespace Sys2Proof.Machine

/-- The entry under key k, if there is one. -/
def tabFind {α : Type} : Tab α → Nat → Option α
  | [], _ => none
  | (k', v) :: t, k => if k = k' then some v else if k < k' then none else tabFind t k

/-- The entry under key k, or d. -/
def tabGet {α : Type} (d : α) (t : Tab α) (k : Nat) : α := (tabFind t k).getD d

/-- Sets the entry under key k. -/
def tabSet {α : Type} : Tab α → Nat → α → Tab α
  | [], k, v => [(k, v)]
  | (k', v') :: t, k, v =>
    if k = k' then (k, v) :: t else if k < k' then (k, v) :: (k', v') :: t else (k', v') :: tabSet t k v

/-- Drops the entry under key k. -/
def tabDrop {α : Type} : Tab α → Nat → Tab α
  | [], _ => []
  | (k', v') :: t, k => if k = k' then t else if k < k' then (k', v') :: t else (k', v') :: tabDrop t k

/-- The cell at key k. (DESIGN CHOICE, log 1) -/
def cget {w : Nat} (t : Cells w) (k : Nat) : BitVec w := tabGet 0 t k

/-- Writes the cell at key k; writing 0 unlists it. -/
def cset {w : Nat} (t : Cells w) (k : Nat) (v : BitVec w) : Cells w := if v = 0 then tabDrop t k else tabSet t k v

/-- Strictly rising keys, all at least lo. -/
def keysFrom {α : Type} : Nat → Tab α → Bool
  | _, [] => true
  | lo, (k, _) :: t => decide (lo ≤ k) && keysFrom (k + 1) t

/-- The canonical form of a cell table. -/
def cellsWf {w : Nat} (t : Cells w) : Bool := keysFrom 0 t && t.all fun e => e.2 != 0

/-- The memory of the device: bytes by key, strictly rising, no byte 0 listed. An unlisted byte reads as 0 (DESIGN CHOICE where R115
gives no reset value, log entry 1). (DESIGN CHOICE, log 1) -/
abbrev Memory := Cells 8

/-- The canonical form of memory. -/
def Memory.wf (mem : Memory) : Bool := cellsWf mem

/-- Merges updates, in strictly rising key order, into cells: the update wins, and a zero unlists its cell. -/
def cmerge {w : Nat} : Nat → List (Nat × BitVec w) → Cells w → Cells w
  | 0, _, t => t
  | _, [], t => t
  | n + 1, (k, v) :: us, [] => if v = 0 then cmerge n us [] else (k, v) :: cmerge n us []
  | n + 1, (k, v) :: us, (k', v') :: t =>
    if k' < k then (k', v') :: cmerge n ((k, v) :: us) t
    else
      let rest := if k' = k then t else (k', v') :: t
      if v = 0 then cmerge n us rest else (k, v) :: cmerge n us rest

/-- Writes a batch of updates, in strictly rising key order, in one pass. -/
def csetAll {w : Nat} (us : List (Nat × BitVec w)) (t : Cells w) : Cells w := cmerge (us.length + t.length) us t

/-- Writes consecutive cells from key k. -/
def csetRange {w : Nat} (t : Cells w) (k : Nat) (vs : List (BitVec w)) : Cells w :=
  if vs.length ≤ 8 then (vs.zipIdx.foldl (fun t e => cset t (k + e.2) e.1) t)
  else csetAll (vs.zipIdx.map fun e => (k + e.2, e.1)) t

/-- Reads n consecutive cells from key k in one pass over the listed cells. -/
def crange {w : Nat} : Nat → Nat → Cells w → List (BitVec w)
  | 0, _, _ => []
  | n + 1, k, [] => 0 :: crange n (k + 1) []
  | n + 1, k, (k', v) :: t => if k' = k then v :: crange n (k + 1) t else 0 :: crange n (k + 1) ((k', v) :: t)

/-- Drops the listed cells below key k. -/
def cdropBelow {α : Type} : Nat → Tab α → Tab α
  | _, [] => []
  | k, (k', v) :: t => if k' < k then cdropBelow k t else (k', v) :: t

/-- Reads n consecutive cells from key k. -/
def cgetRange {w : Nat} (t : Cells w) (k n : Nat) : List (BitVec w) := crange n k (cdropBelow k t)

/-- Zeroes every cell with lo ≤ key < hi. -/
def cclear {α : Type} (t : Tab α) (lo hi : Nat) : Tab α := t.filter fun e => !(decide (lo ≤ e.1) && decide (e.1 < hi))

/-- Element i of a register file, or d where there is none; the file of given elements; and one element replaced. -/
def vecAt {α : Type} {n : Nat} (d : α) (v : Vector α n) (i : Nat) : α := v.toList.getD i d
def vecOf {α : Type} (n : Nat) (f : Nat → α) : Vector α n := ⟨((List.range n).map f).toArray, by simp⟩
def vecSet {α : Type} {n : Nat} (v : Vector α n) (i : Nat) (a : α) : Vector α n := v.setIfInBounds i a

/-- The little-endian value of a byte list (R5). -/
def leVal : List Byte → Nat
  | [] => 0
  | b :: bs => b.toNat + 256 * leVal bs

/-- The n bytes of v, little-endian (R5). -/
def leBytes : Nat → Nat → List Byte
  | 0, _ => []
  | n + 1, v => BitVec.ofNat 8 v :: leBytes n (v / 256)

/-- Sign extension of the low n bits of v, as an integer. -/
def sx (n v : Nat) : Int := if n = 0 then 0 else
  let r := v % 2 ^ n
  if r < 2 ^ (n - 1) then (r : Int) else (r : Int) - (2 ^ n : Nat)

/-- An integer modulo 2^n, as the code that holds it. -/
def wrapN (n : Nat) (x : Int) : Nat := (x % (2 ^ n : Nat)).toNat

/-- Bits [hi:lo] of v (R5). -/
def bitsOf (v hi lo : Nat) : Nat := v / 2 ^ lo % 2 ^ (hi + 1 - lo)

/-- Bit i of v. -/
def bitOf (v i : Nat) : Bool := v.testBit i

/-- v with bit i set to b. -/
def setBit (v i : Nat) (b : Bool) : Nat :=
  if v.testBit i == b then v else if b then v + 2 ^ i else v - 2 ^ i

/-- The set bits of v below n, rising. -/
def bitList (v n : Nat) : List Nat := (List.range n).filter fun i => v.testBit i

/-- The values of n groups of e bytes, lowest byte first. -/
def chunks (e : Nat) : Nat → List Byte → List Nat
  | 0, _ => []
  | n + 1, bs => leVal (bs.take e) :: chunks e n (bs.drop e)

end Sys2Proof.Machine
end

