-- ==== Sys2Proof/Machine/Num.lean ====
section
/-!
DEFINITION. Number formats and exact arithmetic (chapter 09, R214 to R233): codes and their exact values, Round, dither,
window sums, the fixed combination trees, and quantisation scales. A value is exact: a sign, a natural mantissa and a power
of two, with a flag for a tail below the last bit.
-/

namespace Sys2Proof.Machine

/-- The five parameters of a floating-point format (R214): sign width, exponent width, mantissa width, bias, policy. -/
structure FFmt where
  sgn  : Nat
  ew   : Nat
  mw   : Nat
  bias : Int
  pol  : Nat
deriving DecidableEq, Repr

def f32 : FFmt := ⟨1, 8, 23, 127, 0⟩
def bf16 : FFmt := ⟨1, 8, 7, 127, 0⟩
def f16 : FFmt := ⟨1, 5, 10, 15, 0⟩

/-- An element type with its format resolved (R93, R214, R218). -/
inductive Ty where
  | flt (f : FFmt)
  | int (signed : Bool) (bits : Nat)
deriving DecidableEq, Repr

/-- An exact value: NaN, an infinity, or (−1)^neg × m × 2^e, with `st` saying that the magnitude exceeds that by a tail
smaller than any kept bit (R221). -/
inductive XV where
  | nan
  | inf (neg : Bool)
  | fin (neg : Bool) (m : Nat) (e : Int) (st : Bool)
deriving DecidableEq, Repr

/-- Whether type code c of R93 is assigned. -/
def tyCodeOk (c : Nat) : Bool := c ≤ 13

/-- Bytes e of an element of type code c (R93). -/
def tySize (c : Nat) : Nat :=
  match c with
  | 0 => 4 | 1 => 2 | 2 => 2 | 3 => 1 | 4 => 8 | 5 => 4 | 6 => 2 | 7 => 1 | 8 => 1
  | 9 => 8 | 10 => 4 | 11 => 2 | 12 => 1 | 13 => 1 | _ => 1

/-- Whether type code c is an integer type (R93). -/
def tyIsInt (c : Nat) : Bool := 4 ≤ c && c ≤ 13

/-- Whether type code c is a floating-point type (R93). -/
def tyIsFlt (c : Nat) : Bool := c ≤ 3

/-- The fields of a format register (R104). -/
def fmtSgn (r : Nat) : Nat := bitsOf r 0 0
def fmtEw (r : Nat) : Nat := bitsOf r 4 1
def fmtMw (r : Nat) : Nat := bitsOf r 7 5
def fmtBias (r : Nat) : Int := sx 8 (bitsOf r 15 8)
def fmtPol (r : Nat) : Nat := bitsOf r 17 16
def fmtBlk (r : Nat) : Nat := bitsOf r 19 18

/-- Validity of a format (R104). -/
def fmtValid (r : Nat) : Bool :=
  1 ≤ fmtEw r && fmtEw r ≤ 8 && fmtSgn r + fmtEw r + fmtMw r ≤ 8 && fmtPol r != 3 && fmtBlk r != 3

/-- The format a format register holds (R104, R214). -/
def fmtOf (r : Nat) : FFmt := ⟨fmtSgn r, fmtEw r, fmtMw r, fmtBias r, fmtPol r⟩

/-- Elements per block of BLK code b; 0 for none (R219). -/
def blkLen (b : Nat) : Nat := match b with | 1 => 16 | 2 => 32 | _ => 0

/-- The type of code c; `fmt` is the format register that NF takes (R93, R214). -/
def tyOf (c fmt : Nat) : Ty :=
  match c with
  | 0 => .flt f32 | 1 => .flt bf16 | 2 => .flt f16 | 3 => .flt (fmtOf fmt)
  | 4 => .int true 64 | 5 => .int true 32 | 6 => .int true 16 | 7 => .int true 8 | 8 => .int true 4
  | 9 => .int false 64 | 10 => .int false 32 | 11 => .int false 16 | 12 => .int false 8 | _ => .int false 4

/-- The value bits of a type (R214, R218). -/
def Ty.bits (t : Ty) : Nat := match t with | .flt f => f.sgn + f.ew + f.mw | .int _ n => n

def Ty.isInt (t : Ty) : Bool := match t with | .flt _ => false | .int _ _ => true

/-- Etop and emin of R215. -/
def FFmt.etop (f : FFmt) : Nat := 2 ^ f.ew - 1
def FFmt.emin (f : FFmt) : Int := 1 - f.bias

/-- The code of the largest finite magnitude (R216). -/
def FFmt.maxCode (f : FFmt) : Nat :=
  match f.pol with
  | 0 => f.etop * 2 ^ f.mw - 1
  | 1 => (f.etop + 1) * 2 ^ f.mw - 2
  | _ => (f.etop + 1) * 2 ^ f.mw - 1

/-- The code of infinity, where the policy has one (R216). -/
def FFmt.infCode (f : FFmt) : Option Nat := if f.pol = 0 then some (f.etop * 2 ^ f.mw) else none

/-- The canonical NaN, or +maxfinite where the format has none (R216, R217). -/
def FFmt.nanCode (f : FFmt) : Nat :=
  match f.pol with
  | 0 => if f.mw = 0 then f.maxCode else f.etop * 2 ^ f.mw + 2 ^ (f.mw - 1)
  | 1 => (f.etop + 1) * 2 ^ f.mw - 1
  | _ => f.maxCode

/-- The sign bit placed on a magnitude code (R215). -/
def FFmt.withSign (f : FFmt) (neg : Bool) (c : Nat) : Nat :=
  if neg && f.sgn == 1 then c + 2 ^ (f.mw + f.ew) else c

/-- The finite value of a magnitude code (R215). -/
def FFmt.finVal (f : FFmt) (neg : Bool) (c : Nat) : XV :=
  let m := c % 2 ^ f.mw
  let e := c / 2 ^ f.mw % 2 ^ f.ew
  if e = 0 then .fin neg m (f.emin - (f.mw : Int)) false
  else .fin neg (2 ^ f.mw + m) ((e : Int) - f.bias - (f.mw : Int)) false

/-- The value of a code (R215, R216). -/
def FFmt.val (f : FFmt) (c : Nat) : XV :=
  let neg := f.sgn == 1 && c.testBit (f.mw + f.ew)
  let mag := c % 2 ^ (f.mw + f.ew)
  if f.pol = 0 && mag / 2 ^ f.mw == f.etop then
    if mag % 2 ^ f.mw = 0 then .inf neg else .nan
  else if f.pol = 1 && mag == (f.etop + 1) * 2 ^ f.mw - 1 then .nan
  else f.finVal neg mag

/-- An integer as an exact value. -/
def XV.ofInt (x : Int) : XV := .fin (decide (x < 0)) x.natAbs 0 false

/-- The integer a code of an integer type holds (R218). -/
def intVal (signed : Bool) (n c : Nat) : Int := if signed then sx n c else (c % 2 ^ n : Nat)

/-- The exact value of a code (R215, R218). -/
def Ty.val (t : Ty) (c : Nat) : XV :=
  match t with
  | .flt f => f.val c
  | .int s n => .ofInt (intVal s n c)

/-- The range of an integer type (R218). -/
def intMax (signed : Bool) (n : Nat) : Int := if signed then (2 ^ (n - 1) : Nat) - 1 else (2 ^ n : Nat) - 1
def intMin (signed : Bool) (n : Nat) : Int := if signed then -(2 ^ (n - 1) : Nat) else 0

/-- Sat(x, t): clamps to the type's range, as a code (R218). -/
def satCode (signed : Bool) (n : Nat) (x : Int) : Nat :=
  wrapN n (max (intMin signed n) (min (intMax signed n) x))

/-- Fits an exact integer into an integer type by the SAT bit (R218). -/
def fitInt (sat signed : Bool) (n : Nat) (x : Int) : Nat := if sat then satCode signed n x else wrapN n x

/-- The rounding decision of R221: f = r / 2^sh is the discarded fraction, `odd` says that lo/q is odd. -/
def roundUp (mode : Nat) (neg odd st : Bool) (r sh dither : Nat) : Bool :=
  let half := 2 ^ sh
  match mode with
  | 0 => decide (2 * r > half) || (2 * r == half && (st || odd))
  | 1 => false
  | 2 => neg && (decide (0 < r) || st)
  | 3 => !neg && (decide (0 < r) || st)
  | 4 => decide (2 * r ≥ half) && decide (0 < r)
  | _ => decide (r * 4294967296 / 2 ^ sh + dither ≥ 4294967296)

/-- Splits m × 2^e on the grid of spacing 2^q: (lo/q, remainder, shift), the fraction being remainder / 2^shift (R220). -/
def onGrid (m : Nat) (e q : Int) : Nat × Nat × Nat :=
  if q ≤ e then (m * 2 ^ (e - q).toNat, 0, 0)
  else let sh := (q - e).toNat
    (m / 2 ^ sh, m % 2 ^ sh, sh)

/-- The exponent of the grid's spacing at m × 2^e, m nonzero (R220). -/
def FFmt.gridExp (f : FFmt) (m : Nat) (e : Int) : Int := max ((Nat.log2 m : Int) + e) f.emin - (f.mw : Int)

/-- Overflow or an infinite input: the policy's row of R222. -/
def FFmt.overflow (f : FFmt) (mode : Nat) (neg isInf : Bool) : Nat :=
  let big := f.withSign neg f.maxCode
  let special := match f.pol with
    | 0 => f.withSign neg (f.etop * 2 ^ f.mw)
    | 1 => f.nanCode
    | _ => big
  if isInf then special
  else match mode with
    | 1 => big
    | 2 => if neg then special else big
    | 3 => if neg then big else special
    | _ => special

/-- Round into a floating-point format (R220). -/
def FFmt.round (f : FFmt) (mode dither : Nat) (x : XV) : Nat :=
  match x with
  | .nan => f.nanCode
  | .inf neg => if f.sgn = 0 && neg then 0 else f.overflow mode neg true
  | .fin neg m e st =>
    if f.sgn = 0 && neg then 0
    else if m = 0 then f.withSign neg 0
    else
      let q := f.gridExp m e
      let g := onGrid m e q
      let k := g.1 + (if roundUp mode neg (g.1 % 2 == 1) st g.2.1 g.2.2 dither then 1 else 0)
      let c := (q + (f.mw : Int) - f.emin).toNat * 2 ^ f.mw + k
      if f.maxCode < c then f.overflow mode neg false else f.withSign neg c

/-- Round into an integer type: out-of-range values clamp (R220, R225). -/
def intRound (signed : Bool) (n mode dither : Nat) (x : XV) : Nat :=
  match x with
  | .nan => 0
  | .inf neg => wrapN n (if neg then intMin signed n else intMax signed n)
  | .fin neg m e st =>
    let g := onGrid m e 0
    let k := g.1 + (if roundUp mode neg (g.1 % 2 == 1) st g.2.1 g.2.2 dither then 1 else 0)
    satCode signed n (if neg then -(k : Int) else k)

/-- Round(x, t, mode) with the dither word of the position (R220). -/
def Ty.round (t : Ty) (mode dither : Nat) (x : XV) : Nat :=
  match t with
  | .flt f => f.round mode dither x
  | .int s n => intRound s n mode dither x

/-- The discard word floor(f × 2^32) of a value rounded into t (R223). -/
def Ty.discard (t : Ty) (x : XV) : Nat :=
  match x with
  | .fin neg m e _ =>
    if m = 0 then 0 else
    match t with
    | .flt f => if f.sgn = 0 && neg then 0 else
        let g := onGrid m e (f.gridExp m e)
        g.2.1 * 4294967296 / 2 ^ g.2.2
    | .int _ _ => let g := onGrid m e 0
        g.2.1 * 4294967296 / 2 ^ g.2.2
  | _ => 0

/-- Dither of position (g, i): the neighbour's discard word n', the step and the index word (R223). -/
def dither (srstep n' g i : Nat) : Nat :=
  let j := g * 131072 + i
  let h := (srstep % 4294967296) * 4294967296 + n' % 4294967296
  let h := h ^^^ (j * 2 ^ 44 % 2 ^ 64)
  let h := h ^^^ (h / 2 ^ 33)
  let h := h * 0xA5C329E17B4D6F1B % 2 ^ 64
  let h := h ^^^ (h / 2 ^ 29)
  let h := h ^^^ (h * 2 ^ 17 % 2 ^ 64)
  let h := h ^^^ (h / 2 ^ 31)
  h / 2 ^ 32

/-- Rounds one row of n positions; `none` is an excluded position. Each position's dither comes from its right neighbour's
discard word, the last one's from the first's (R223, R224). -/
def roundRow (t : Ty) (mode srstep g : Nat) (xs : List (Option XV)) : List (Option Nat) :=
  if mode = 5 then
    let ns := xs.map fun x => match x with | some v => t.discard v | none => 0
    let ns' := ns.tail ++ ns.take 1
    (xs.zip ns').zipIdx.map fun e => e.1.1.map fun v => t.round 5 (dither srstep e.1.2 g e.2) v
  else xs.map fun x => x.map fun v => t.round mode 0 v

/-- Whether a finite value overflows when rounded into t: the rounded magnitude lies beyond the largest finite one (R222). -/
def Ty.overflows (t : Ty) (mode dither : Nat) (x : XV) : Bool :=
  match x with
  | .fin neg m e st =>
    if m = 0 then false else
    match t with
    | .flt f =>
      if f.sgn = 0 && neg then false else
      let q := f.gridExp m e
      let g := onGrid m e q
      let k := g.1 + (if roundUp mode neg (g.1 % 2 == 1) st g.2.1 g.2.2 dither then 1 else 0)
      decide (f.maxCode < (q + (f.mw : Int) - f.emin).toNat * 2 ^ f.mw + k)
    | .int s n =>
      let g := onGrid m e 0
      let k := g.1 + (if roundUp mode neg (g.1 % 2 == 1) st g.2.1 g.2.2 dither then 1 else 0)
      let v : Int := if neg then -(k : Int) else k
      decide (v < intMin s n) || decide (intMax s n < v)
  | _ => false

/-- Whether any position of a row overflows, with the dithers of `roundRow`. -/
def rowOverflows (t : Ty) (mode srstep g : Nat) (xs : List (Option XV)) : Bool :=
  let ns := xs.map fun x => match x with | some v => t.discard v | none => 0
  let ns' := ns.tail ++ ns.take 1
  (xs.zip ns').zipIdx.any fun e => match e.1.1 with
    | some v => t.overflows mode (if mode = 5 then dither srstep e.1.2 g e.2 else 0) v
    | none => false

/-- Signed mantissa of a finite value at exponent e0 ≤ its own. -/
def sMant (neg : Bool) (m : Nat) (e e0 : Int) : Int :=
  let v : Int := (m * 2 ^ (e - e0).toNat : Nat)
  if neg then -v else v

def XV.neg (x : XV) : XV :=
  match x with
  | .nan => .nan
  | .inf n => .inf (!n)
  | .fin n m e st => .fin (!n) m e st

def XV.abs (x : XV) : XV :=
  match x with
  | .nan => .nan
  | .inf _ => .inf false
  | .fin _ m e st => .fin false m e st

def XV.isNan (x : XV) : Bool := match x with | .nan => true | _ => false
def XV.isInf (x : XV) : Bool := match x with | .inf _ => true | _ => false
def XV.isZero (x : XV) : Bool := match x with | .fin _ m _ _ => m == 0 | _ => false
def XV.isFin (x : XV) : Bool := match x with | .fin _ _ _ _ => true | _ => false
def XV.isNeg (x : XV) : Bool := match x with | .nan => false | .inf n => n | .fin n _ _ _ => n

/-- Exact sum with the zero signs of R226; `rdn` is the mode RDN. -/
def XV.add (rdn : Bool) (x y : XV) : XV :=
  match x, y with
  | .nan, _ => .nan
  | _, .nan => .nan
  | .inf a, .inf b => if a = b then .inf a else .nan
  | .inf a, .fin _ _ _ _ => .inf a
  | .fin _ _ _ _, .inf b => .inf b
  | .fin n m e _, .fin n' m' e' _ =>
    if m = 0 && m' = 0 then .fin (if n = n' then n else rdn) 0 0 false
    else
      let e0 := min e e'
      let s := sMant n m e e0 + sMant n' m' e' e0
      if s = 0 then .fin rdn 0 0 false else .fin (decide (s < 0)) s.natAbs e0 false

def XV.sub (rdn : Bool) (x y : XV) : XV := x.add rdn y.neg

/-- Exact product (R226). -/
def XV.mul (x y : XV) : XV :=
  match x, y with
  | .nan, _ => .nan
  | _, .nan => .nan
  | .inf a, .inf b => .inf (xor a b)
  | .inf a, .fin n m _ _ => if m = 0 then .nan else .inf (xor a n)
  | .fin n m _ _, .inf b => if m = 0 then .nan else .inf (xor n b)
  | .fin n m e _, .fin n' m' e' _ => .fin (xor n n') (m * m') (e + e') false

/-- Extra quotient bits: more than any format and its discard word can look at. -/
def divBits : Nat := 192

/-- Quotient, truncated far below any rounding position, with its tail flagged (R226). -/
def XV.div (x y : XV) : XV :=
  match x, y with
  | .nan, _ => .nan
  | _, .nan => .nan
  | .inf _, .inf _ => .nan
  | .inf a, .fin n _ _ _ => .inf (xor a n)
  | .fin n _ _ _, .inf b => .fin (xor n b) 0 0 false
  | .fin n m e _, .fin n' m' e' _ =>
    if m' = 0 then (if m = 0 then .nan else .inf (xor n n'))
    else if m = 0 then .fin (xor n n') 0 0 false
    else
      let d := m * 2 ^ divBits
      .fin (xor n n') (d / m') (e - e' - (divBits : Int)) (d % m' != 0)

/-- Integer square root, one bit of the root per step. -/
def isqrtBits : Nat → Nat → Nat → Nat
  | 0, _, r => r
  | k + 1, n, r => let r' := r + 2 ^ k
    isqrtBits k n (if r' * r' ≤ n then r' else r)

def isqrt (n : Nat) : Nat := isqrtBits (Nat.log2 n / 2 + 1) n 0

/-- Square root (R360): of a negative nonzero value NaN, of −0 −0. -/
def XV.sqrt (x : XV) : XV :=
  match x with
  | .nan => .nan
  | .inf n => if n then .nan else .inf false
  | .fin n m e _ =>
    if m = 0 then .fin n 0 0 false
    else if n then .nan
    else
      let odd := (e % 2).toNat
      let d := m * 2 ^ (odd + 2 * divBits)
      let r := isqrt d
      .fin false r ((e - (odd : Int)) / 2 - (divBits : Int)) (r * r != d)

/-- Reciprocal square root (R360) of a nonzero positive finite value. -/
def rsqrtFin (m : Nat) (e : Int) : XV :=
  let odd := (e % 2).toNat
  let m2 := m * 2 ^ odd
  let k := Nat.log2 m2 / 2 + divBits
  let q := 2 ^ (2 * k) / m2
  let r := isqrt q
  .fin false r (-((e - (odd : Int)) / 2) - (k : Int)) (r * r * m2 != 2 ^ (2 * k))

def XV.rsqrt (x : XV) : XV :=
  match x with
  | .nan => .nan
  | .inf n => if n then .nan else .fin false 0 0 false
  | .fin n m e _ => if m = 0 then .inf n else if n then .nan else rsqrtFin m e

/-- Working precision, in bits, of the two transcendental functions, and the guard bits dropped from their results. -/
def trBits : Nat := 320
def trGuard : Nat := 40

/-- ln 2 × 2^trBits, by its series: sum over k of 1 / (k × 2^k). -/
def ln2 : Nat := (List.range 330).foldl (fun s i => s + 2 ^ (trBits + 8) / ((i + 1) * 2 ^ (i + 1))) 0 / 256

/-- e^(z / 2^trBits) × 2^trBits for 0 ≤ z < 2^trBits, by its series. -/
def expSeries : Nat → Nat → Nat → Nat → Nat
  | 0, _, _, _ => 0
  | n + 1, k, z, term => term + expSeries n (k + 1) z (term * z / 2 ^ trBits / (k + 1))

/-- 2^x for a finite x, correctly rounded later: an integer x is exact, any other result is irrational and carries its
leading bits (R360). (UNVERIFIED, log 39) -/
def exp2Fin (n : Bool) (m : Nat) (e : Int) : XV :=
  let g := onGrid m e 0
  let frac := g.2.1
  let ip : Int := if n then -(g.1 : Int) else g.1
  if frac = 0 then .fin false 1 ip false
  else
    let fr := if n then 2 ^ g.2.2 - frac else frac
    let ip := if n then ip - 1 else ip
    if 2000000 < ip then .fin false 1 2000000 true
    else if ip < -2000000 then .fin false 1 (-2000000) true
    else
      let y := fr * 2 ^ trBits / 2 ^ g.2.2
      let r := expSeries 100 0 (y * ln2 / 2 ^ trBits) (2 ^ trBits)
      .fin false (r / 2 ^ trGuard) (ip - (trBits - trGuard : Nat)) true

/-- 2^x (R360). -/
def XV.exp2 (x : XV) : XV :=
  match x with
  | .nan => .nan
  | .inf n => if n then .fin false 0 0 false else .inf false
  | .fin n m e _ => if m = 0 then .fin false 1 0 false else
      if 30 < (Nat.log2 m : Int) + e then
        (if n then .fin false 1 (-2000000) true else .fin false 1 2000000 true)
      else exp2Fin n m e

/-- atanh series: sum over k of u^(2k+1) / (2k+1), all × 2^trBits. -/
def atanhSeries : Nat → Nat → Nat → Nat → Nat
  | 0, _, _, _ => 0
  | n + 1, k, u2, p => p / (2 * k + 1) + atanhSeries n (k + 1) u2 (p * u2 / 2 ^ trBits)

/-- log2 of a positive finite value: a power of two is exact, any other result is irrational (R360). (UNVERIFIED, log 39) -/
def log2Fin (m : Nat) (e : Int) : XV :=
  let p := Nat.log2 m
  let ip : Int := (p : Int) + e
  if m = 2 ^ p then .ofInt ip
  else
    let t := m * 2 ^ trBits / 2 ^ p
    let one := 2 ^ trBits
    let u := (t - one) * one / (t + one)
    let ln := 2 * atanhSeries 130 0 (u * u / one) u
    let fr := ln * one / ln2
    let s : Int := ip * (one : Int) + fr
    .fin (decide (s < 0)) (s.natAbs / 2 ^ trGuard) (-((trBits - trGuard : Nat) : Int)) true

def XV.log2 (x : XV) : XV :=
  match x with
  | .nan => .nan
  | .inf n => if n then .nan else .inf false
  | .fin n m e _ => if m = 0 then .inf true else if n then .nan else log2Fin m e

/-- x × 2^k. -/
def XV.scale (x : XV) (k : Int) : XV := match x with | .fin n m e st => .fin n m (e + k) st | x => x

/-- Order of two non-NaN values: negative when x < y, 0 when equal, positive when x > y. -/
def XV.cmp (x y : XV) : Int :=
  match x, y with
  | .nan, _ => 0
  | _, .nan => 0
  | .inf a, .inf b => if a = b then 0 else if a then -1 else 1
  | .inf a, .fin _ _ _ _ => if a then -1 else 1
  | .fin _ _ _ _, .inf b => if b then 1 else -1
  | .fin n m e _, .fin n' m' e' _ => let e0 := min e e'
    let d := sMant n m e e0 - sMant n' m' e' e0
    if d < 0 then -1 else if d = 0 then 0 else 1

def XV.lt (x y : XV) : Bool := !x.isNan && !y.isNan && decide (x.cmp y < 0)
def XV.le (x y : XV) : Bool := !x.isNan && !y.isNan && decide (x.cmp y ≤ 0)
def XV.eq (x y : XV) : Bool := !x.isNan && !y.isNan && decide (x.cmp y = 0)

/-- floor(log2 |a|) of a nonzero finite value. -/
def magExp (m : Nat) (e : Int) : Int := (Nat.log2 m : Int) + e

/-- Truncation of one addend to the window whose lowest bit weighs 2^w: the signed multiple, and whether bits were lost. -/
def toWindow (w : Int) (x : XV) : Int × Bool :=
  match x with
  | .fin n m e _ => let g := onGrid m e w
    (if n then -(g.1 : Int) else g.1, g.2.1 != 0)
  | _ => (0, false)

/-- The window sum of C and the products, before its one rounding (R227). -/
def windowSum (rdn : Bool) (c : XV) (ps : List XV) : XV :=
  let as := c :: ps
  let pinf := as.any fun a => match a with | .inf n => !n | _ => false
  let ninf := as.any fun a => match a with | .inf n => n | _ => false
  if as.any XV.isNan || (pinf && ninf) then .nan
  else if pinf then .inf false
  else if ninf then .inf true
  else if as.all XV.isZero then .fin (c.isNeg || rdn) 0 0 false
  else
    let l := as.foldl (fun (o : Option Int) a => match a with
      | .fin _ m e _ => if m = 0 then o else match o with
        | none => some (magExp m e)
        | some v => some (max v (magExp m e))
      | _ => o) none
    let w := l.getD 0 - 95
    let ts := as.map (toWindow w)
    let s : Int := ts.foldl (fun s t => s + t.1) 0
    if s = 0 then .fin rdn 0 0 false
    else .fin (decide (s < 0)) s.natAbs w (ts.any fun t => t.2)

/-- One level of the pairwise tree: an empty operand returns the other (R230). -/
def treeLevel {α : Type} (op : α → α → α) : List (Option α) → List (Option α)
  | a :: b :: t => (match a, b with
      | some x, some y => some (op x y)
      | some x, none => some x
      | none, y => y) :: treeLevel op t
  | l => l

/-- The pairwise tree over the positions of a row (R230); the fuel is the number of positions. -/
def treeFold {α : Type} (op : α → α → α) : Nat → List (Option α) → Option α
  | _, [] => none
  | _, [a] => a
  | 0, a :: _ => a
  | n + 1, l => treeFold op n (treeLevel op l)

/-- Sequential fold (R231). -/
def seqFold {α : Type} (op : α → α → α) : List α → Option α
  | [] => none
  | a :: t => some (t.foldl op a)

/-- ceil(log2(a / b)) for a = m × 2^e and b = m' × 2^e', both nonzero (R232). -/
def ceilLog2Ratio (m : Nat) (e : Int) (m' : Nat) (e' : Int) : Int :=
  let t := magExp m e - magExp m' e'
  let e0 := min e (e' + t)
  if m * 2 ^ (e - e0).toNat ≤ m' * 2 ^ (e' + t - e0).toNat then t else t + 1

/-- maxfinite of a type as mantissa and exponent (R216, R219, R232). FN with EW = 1 and MW = 0 has the maxfinite of R216's table, which no
code of it has. (DEDUCED, log 85) -/
def Ty.maxFinite (t : Ty) : Nat × Int :=
  match t with
  | .flt f =>
    if f.pol = 1 && f.ew = 1 && f.mw = 0 then (1, -f.bias) else
    match f.finVal false f.maxCode with
    | .fin _ m e _ => (m, e)
    | _ => (0, 0)
  | .int s n => ((intMax s n).toNat, 0)

/-- Whether the type encodes only zeros and infinities: quantising into it is refused (R216). -/
def Ty.noFinite (t : Ty) : Bool := t.maxFinite.1 == 0

/-- The tensor scale exponent from a snapshot's largest magnitude (R232). -/
def quantX (maxabs : XV) (t : Ty) (scalebase margin : Int) : Int :=
  let x := match maxabs with
    | .fin _ m e _ => if m = 0 then scalebase else
        ceilLog2Ratio m e t.maxFinite.1 t.maxFinite.2 + margin
    | _ => scalebase
  max (-128) (min 127 x)

/-- The larger of two magnitudes, ignoring NaN and infinities (R233). -/
def maxFinAbs (xs : List XV) : XV :=
  xs.foldl (fun b x => match x with
    | .fin _ m e _ => if b.lt (.fin false m e false) then .fin false m e false else b
    | _ => b) (.fin false 0 0 false)

/-- The scale byte exponent of a block whose elements, already at the tensor scale, are xs (R233). For a format whose largest finite value is
0 the quotient that R233 takes has no value, and the exponent is a free value. (DESIGN CHOICE, log 101) -/
def blockX (t : Ty) (xs : List XV) : Int :=
  match maxFinAbs xs with
  | .fin _ m e _ => if m = 0 then 0 else if t.maxFinite.1 = 0 then sx 8 (Config.blockExp m e).toNat else
      max (-127) (min 127 (ceilLog2Ratio m e t.maxFinite.1 t.maxFinite.2))
  | _ => 0

/-- The value of an element under its scale byte: 0x80 marks a NaN block (R219). -/
def XV.underBlock (x : XV) (byte : Nat) : XV := if byte = 0x80 then .nan else x.scale (sx 8 byte)

/-- Canonical NaN first, then the smaller (larger) of two values, −0 below +0 (R330, R357). -/
def XV.minOf (x y : XV) : XV :=
  if x.isNan || y.isNan then .nan
  else if x.isZero && y.isZero then .fin (x.isNeg || y.isNeg) 0 0 false
  else if x.lt y then x else y
def XV.maxOf (x y : XV) : XV :=
  if x.isNan || y.isNan then .nan
  else if x.isZero && y.isZero then .fin (x.isNeg && y.isNeg) 0 0 false
  else if y.lt x then x else y

end Sys2Proof.Machine
end

