-- ==== Sys2Proof/Machine/State.lean ====
section
/-!
DEFINITION. The state of the VD9: contexts, pairs, near-memory units, memories, queues, tables, counters, the Troupe and the
platform. Plain data throughout. A context is named by its flat index, pair × 4 + context (R14); a location of memory by the
key that Ops.lean computes from a physical address.
-/

namespace Sys2Proof.Machine

/-- What the model could not do at all. No meaning raises it: every row of the opcode table has its effect. -/
inductive Refusal where
  /-- An instruction without a meaning. No arm of `exec` raises it. Safe: nothing is claimed of the instruction. -/
  | notModelled (mnemonic : String)
deriving DecidableEq, Repr

/-- Why a run of the model stops. -/
inductive Fault where
  /-- Raised by `step` when the agenda names a context or near-memory unit that the device does not have (R14, R16). Safe: the
  machine has no such agent, so no behaviour is cut off. -/
  | noSuchAgent (index : Nat)
deriving DecidableEq, Repr

/-- A fault about to be taken: FCAUSE.CODE, FCAUSE.DETAIL as the bits above it, FADDR, and the registers that some faults set
besides (R295, R298). -/
structure Flt where
  code   : Nat
  detail : Nat := 0
  faddr  : Nat := 0
  vstart : Option Nat := none
  pdone  : Option Nat := none
  pfmask : Option Nat := none
deriving DecidableEq, Repr

/-- Where a byte lives: a physical address (DRAM, scratchpad, chunk buffer or aperture), a byte of a context's register slice,
or an accumulator byte of a context (R116, R130). -/
inductive Loc where
  | pa (a : Nat)
  | vr (c off : Nat)
  | acc (c off : Nat)
deriving DecidableEq, Repr

/-- Second operand of a vector operation: a register or a captured scalar (R101). -/
inductive Src where
  | reg (n : Nat)
  | scal (w : Word)
deriving DecidableEq, Repr

/-- A vector-side instruction with its scalar operands captured at dispatch (R101, R146). `op` is the function code of the
instruction's encoding. -/
inductive VOp where
  | ew (op d a : Nat) (b : Src)
  | fma (op d a b : Nat)
  | un (op d a : Nat)
  | cvt (d a s : Nat)
  | cmp (op d a : Nat) (b : Src)
  | sel (d a b f : Nat)
  | splat (d : Nat) (w : Word)
  | extr (xd a : Nat) (i : Word)
  | slide (up : Bool) (d a : Nat) (n : Word)
  | perm (d a b : Nat)
  | vstep (d : Nat)
  | red (op d a : Nat)
  | dot (d a b : Nat)
  | qnt (d a s : Nat)
  | dqnt (d a s : Nat)
  | sset (s : Nat) (w : Word)
  | sget (xd s : Nat)
  | compr (n d a b : Nat)
  | mlog (op d a b : Nat)
  | mred (op xd a : Nat)
  | accop (d a b : Nat)
  | accopH (d : Nat) (a b : Word)
  | accsp (n d a b f : Nat)
  | acczero (d : Nat)
  | accrd (d n : Nat) (row : Word)
  | accwr (n a : Nat) (row : Word)
  | accld (n : Nat) (addr : Word)
  | accst (addr : Word) (n : Nat)
  | accstq (addr : Word) (n s : Nat)
  | gath (d : Nat) (base : Word) (b : Nat)
  | ld (d : Nat) (addr : Word)
  | st (d : Nat) (addr : Word)
  | lds (d : Nat) (addr stride : Word)
  | sts (d : Nat) (addr stride : Word)
  | ldx (d : Nat) (addr : Word) (b : Nat)
  | stx (d : Nat) (addr : Word) (b : Nat)
  | stn (d : Nat) (addr prog : Word)
  | pld (op d : Nat) (set off : Word)
  | pst (d : Nat) (set off : Word)
  | prun (x set off : Word)
  | vamo (op d : Nat) (addr : Word) (b : Nat)
  | vlock (m : Nat) (addr : Word) (b : Nat)
  | waitv (all : Bool) (m : Nat) (addr timeout : Word) (b f : Nat)
  | vsint (xd xa : Nat) (a na b nb : Word)
  | fence (op : Nat)
  | qfence (q : Nat)
  | fldr (op d : Nat) (grp off : Word) (xa : Nat)
  | fred (addr : Word) (a s : Nat)
deriving DecidableEq, Repr

/-- What a vector-side instruction captures at its dispatch (R101): its address and word, its mode register, the format register
that FS selects and the one of FS xor 1 (R361), and VL. -/
structure Cap where
  pc   : Word
  word : BitVec 32
  md   : BitVec 32
  fmt  : BitVec 32
  fmt2 : BitVec 32
  vl   : Nat
deriving DecidableEq, Repr

/-- One element of a vector memory access: its row, its element number, its address. -/
structure VEl where
  g  : Nat
  i  : Nat
  va : Nat
deriving DecidableEq, Repr

/-- A part of a store's element that is performed in one: the element, the part's place in it, and where it goes (R395). -/
structure StEl where
  el  : VEl
  off : Nat
  ss  : List (Loc × Nat)
deriving DecidableEq, Repr

/-- How far a started instruction has come: whether its translations have been counted (R212); the elements of a store as translated,
with the fault that ends it, and how many of them have been performed; the table entries it read when it started (R177, R180); and what
members of a plural load or additions in chains have returned, by number (R263, R407). An element of a store that is performed in two
parts stands twice in `todo`, with the place of each part in it (R395); `adds` says how many element indices a progress word counts
(R203). -/
structure Prog where
  counted : Bool
  todo    : Option (List StEl × Option Flt)
  pos     : Nat
  adds    : Nat
  tit     : Option Nat
  bst     : Option Nat
  got     : List (Nat × List Byte)
deriving DecidableEq, Repr

/-- Nothing done yet. -/
def Prog.none : Prog := ⟨false, .none, 0, 0, .none, .none, []⟩

/-- An entry of the vector queue (R146, R149). `safe` is the fault-safe point of R147; `first` marks the first instruction of
a handler (R299); `timer` is the sleep timer of a waiting `waitv` (R208), `sat` the set of its satisfied elements (R410), or the
members whose runs a waiting `prun` has entered; `done` says that all it does is done and only its completion is left. -/
structure VEnt where
  cap   : Cap
  op    : VOp
  stamp : Nat
  safe  : Bool
  first : Bool
  timer : Option Nat
  sat   : Nat
  done  : Bool
  prog  : Prog
deriving DecidableEq, Repr

/-- A register an undo-log entry restores (R109). -/
inductive UReg where
  | x (n : Nat) (v : Word)
  | vl (v : BitVec 17)
  | md (n : Nat) (v : BitVec 32)
  | fmt (n : Nat) (v : BitVec 32)
deriving DecidableEq, Repr

/-- An undo-log entry; `after` is the stamp of the youngest vector-side instruction dispatched before the write. -/
structure Undo where
  after : Nat
  reg   : UReg
deriving DecidableEq, Repr

/-- What a store-buffer entry does at its home (R150, R414); an atomic with its operation, destination register, operand, expected value
and the address of its instruction (R404, R405). -/
inductive SbOp where
  | store
  | amo (f d : Nat) (b expect pc : Word)
  | tbinit (n : Nat)
  | tbexp (n : Nat)
deriving DecidableEq, Repr

/-- A store-buffer entry: its checked and translated bytes, in program order (R150). -/
structure SbEnt where
  after : Nat
  id    : Nat
  op    : SbOp
  va    : Nat
  word  : BitVec 32
  segs  : List (Loc × List Byte)
deriving DecidableEq, Repr

/-- A copy command (R421 to R426): kind 0 `cpy` and `lns`, 1 `cpy.q`, 2 `cpy.g`; the nest is innermost first. -/
structure CopyCmd where
  kind : Nat
  src  : Nat
  dst  : Nat
  len  : Nat
  tid  : Nat
  tb   : Option Nat
  xf   : Nat
  nest : List (Nat × Int × Int)
  word : BitVec 32
deriving DecidableEq, Repr

/-- A command in the command hold (R152). -/
inductive Cmd where
  | copy (c : CopyCmd)
  | cgrun (slot : Nat) (bases : Nat)
  | fst (member off : Nat) (v : Word) (va : Nat)
deriving DecidableEq, Repr

/-- An entry of the command hold: `mark` is its number in the program order of the context's scalar stores and commands, so that the
stores older than it have lower numbers (R152). -/
structure HoldEnt where
  after : Nat
  mark  : Nat
  word  : BitVec 32
  cmd   : Cmd
deriving DecidableEq, Repr

/-- A statistics delta (R242); `rsp` is the mark of R251. -/
structure Delta where
  q    : Nat
  tid  : Nat
  aw   : Nat
  pmax : Nat
  nf   : Nat
  inc  : List Nat
  ovf  : Bool
  psn  : Bool
  rsp  : Bool
  x    : Option Int
  c    : Nat
deriving DecidableEq, Repr

/-- A released copy command and its progress: iterations done and bytes done of the present one (R155), the bytes of an element
cut by the last boundary, the registers whose scoreboard counts it holds as (context, register) (R259), and what a quantising
copy decided at its start (R423): scale, GEN, clamp, overflow; `tit` is the TIT entry it read when it started (R177),
and `sums` the deltas of what it has performed, by die (R242). -/
structure CopyEnt where
  cmd     : CopyCmd
  age     : Nat
  mark    : Nat
  started : Bool
  iter    : Nat
  pos     : Nat
  tail    : List Byte
  held    : List (Nat × Nat)
  quant   : Option (Int × Nat × Bool × Bool)
  done    : Bool
  tit     : Nat
  sums    : List (Nat × Delta)
deriving DecidableEq, Repr

/-- A microprogram run (R428): its context, task and member, the NMU it goes to, the member word's address, ARG,
the entry, and the TIT entry that the `prun` read when it started (R177). -/
structure Run where
  c      : Nat
  q      : Nat
  member : Nat
  nmu    : Nat
  bank   : Nat
  base   : Nat
  arg    : Int
  entry  : Nat
  tid    : Nat
  ty     : Nat
  fmt    : BitVec 32
  word   : BitVec 32
  age    : Nat
  tit    : Nat
deriving DecidableEq, Repr

/-- An engine fault pending for its context (R301): queue 1 C, 2 B, 3 F, 4 G; `age` is the stamp of the youngest vector-side
instruction dispatched before its command, or its own, and `ord` the number of a scalar-side command, counted from 1, by which the
oldest is found. -/
structure EngFault where
  age    : Nat
  ord    : Nat
  queue  : Nat
  flt    : Flt
  word   : BitVec 32
  member : Nat
deriving DecidableEq, Repr

/-- What a scalar-side instruction sleeps on: a named barrier whose phase it was given, with the phases it had completed then, a
transaction barrier by location and
address with its phase operand, or a report for Xd (R198, R202, R444). -/
inductive WaitOn where
  | bar (grp : Bool) (n : Nat) (phase : Bool) (gen : Nat)
  | tb (at_ : Loc) (va p : Nat)
  | report (d a : Nat)
deriving DecidableEq, Repr

/-- A sleeping scalar-side instruction (R208): what it waits for, the timer, its timeout. -/
structure Sleep where
  on      : WaitOn
  timer   : Nat
  timeout : Nat
deriving DecidableEq, Repr

/-- The arrival record of `baraw` (R412): group or pair barrier, its number, the phase before the arrival, and the address and word of the
instruction. -/
structure Arrival where
  grp   : Bool
  n     : Nat
  phase : Bool
  pc    : Word
  word  : BitVec 32
deriving DecidableEq, Repr

/-- Whether a context runs a task, drains the queues of an ended one, or holds none. -/
inductive Status where
  | idle
  | running
  | ending (faulted : Bool) (value : Word)
deriving DecidableEq, Repr

/-- Which task a context runs (R61): partition, cast, index, cast size. -/
structure TaskId where
  q    : Nat
  cast : Nat
  idx  : Nat
  size : Nat
deriving DecidableEq, Repr

/-- A snapshot of a record (R246): MAXABS, GEN and the time it was fetched. -/
structure Snap where
  q      : Nat
  tid    : Nat
  maxabs : Nat
  gen    : Nat
  time   : Nat
deriving DecidableEq, Repr

/-- A quantiser's wait for a fresh snapshot, and the snapshot once it came (R246): whether a copy command asks, its number, or the stamp of
the vector-side instruction, and the TID. -/
structure SnapReq where
  copy : Bool
  id   : Nat
  tid  : Nat
  snap : Option Snap
deriving DecidableEq, Repr

/-- A context: its registers (R91 to R107), its task and reservations, and its queues (R145). `kept` holds the sleep timers, by
address, of sleeping instructions that a pre-emption abandoned (R87); `halted` says that a pre-emption has stopped its issue. `stall`
and `vstall` name the event that a waiting scalar side and vector unit count each clk (R212); `counted` the accesses of the present
instruction whose translations are counted; `half` the first part of a load that two parts make up (R332);
`pload` the words that a `pmld` has read, and the NMUs it has still to write (R427); `sbNext` numbers the
scalar stores and the commands, `youngCopies` holds the commands younger than a pending engine fault that a pre-emption took off the queues
(R172, R302), and `wrote` lists the TIDs of writes since the last `fence.st` (R247). -/
structure Ctx where
  status   : Status
  task     : TaskId
  pc       : Word
  ir       : BitVec 32
  x        : Vector Word 32
  -- vector side: sections granted, register count code, register file, masks, accumulators, scale registers
  sec      : Nat
  vregs    : Nat
  vrf      : Cells 8
  masks    : Vector Nat 16
  acc      : Cells 32
  sreg     : Vector (BitVec 64) 8
  md       : Vector (BitVec 32) 4
  fmt      : Vector (BitVec 32) 4
  vl       : BitVec 17
  vstart   : BitVec 17
  vcp      : Word
  vhwm     : BitVec 17
  vdirty   : BitVec 64
  adirty   : BitVec 4
  score    : List Nat
  vshare   : BitVec 8
  vshareNext : BitVec 8
  srstep   : BitVec 32
  pdone    : BitVec 64
  pfmask   : BitVec 64
  fcause   : Word
  faddr    : Word
  finstr   : BitVec 32
  epc      : Word
  thandler : Word
  wdog     : Word
  banko    : BitVec 32
  tscr     : Word
  -- ceilings and reservations of the header
  maxSec   : Nat
  maxVregs : Nat
  accs     : Nat
  barriers : Nat
  spBase   : Nat
  spSize   : Nat
  -- queues
  vq       : List VEnt
  stamp    : Nat
  undo     : List Undo
  sb       : List SbEnt
  sbNext   : Nat
  hold     : List HoldEnt
  copyq    : List CopyEnt
  copyStop : Bool
  bankq    : List Run
  -- traps, sleeping, handlers
  pendTrap : Option (Flt × Word × BitVec 32)
  savedTrap : Option (Flt × Word × BitVec 32)
  engFaults : List EngFault
  youngCopies : List CopyCmd
  sleep    : Option Sleep
  kept     : List (Word × Nat)
  halted   : Bool
  stall    : Nat
  vstall   : Nat
  arrival  : Option Arrival
  firstH   : Bool
  inH      : Nat
  lastAcq  : Nat
  counted  : List Nat
  half     : Option (Word × List Byte)
  pload    : Option (List Nat × Option (List Nat))
  wrote    : List Nat
  snapReqs : List SnapReq
  joinWord : Option (BitVec 32)
  vrPoison : List Nat
  accPoison : List Nat
deriving DecidableEq, Repr

/-- A named barrier (R197); `gen` counts its completed phases, by which a sleeper knows that one has completed (R198). -/
structure Bar where
  exp   : Nat
  arr   : Nat
  phase : Bool
  gen   : Nat
deriving DecidableEq, Repr

/-- The named barriers a cast holds on a pair (R65, R197), with the number of their reservation there. -/
structure PairBars where
  q    : Nat
  cast : Nat
  bars : List Bar
  tag  : Nat
deriving DecidableEq, Repr

/-- A cached translation (R185): partition, virtual base, page size, the leaf entry and its level. -/
structure TlbEnt where
  q    : Nat
  va   : Nat
  size : Nat
  pte  : Nat
  lvl  : Nat
deriving DecidableEq, Repr

/-- A pair: caches, counters, barriers, the statistics queue, and arbitration (R160, R161): spends, beats carried over and beats
owed by context and resource (4 × resource + context), each a list with one number for each instruction or copy command, when each
resource's present strip ends, and the number of the arbitration period that the spends belong to. `icache` holds its words newest
first (R132). `barNo` numbers the reservations of named barriers. `wrAt` says when, and by which context, a CSR of the pair or the grants changed last (R341, R344). -/
structure Pair where
  tlb    : List TlbEnt
  probe  : List (Nat × TlbEnt)
  icache : List (Nat × BitVec 32)
  icasts : List (Nat × Nat)
  titc   : List (Nat × Nat × Nat)
  bstc   : List (Nat × Nat × Nat)
  snaps  : List Snap
  sq     : List Delta
  bars   : List PairBars
  barNo  : Nat
  ecnt   : Vector (BitVec 64) 8
  esel   : Vector (BitVec 64) 8
  carry  : List Nat
  spend  : List Nat
  spill  : List Nat
  need   : List (List Nat)
  till   : List Nat
  period : Nat
  wrAt   : Nat × Nat
deriving DecidableEq, Repr

/-- A run in an NMU: fetch address, steps since the last yield, and whether it has begun (R429). -/
structure NRun where
  run   : Run
  at_   : Nat
  steps : Nat
  begun : Bool
deriving DecidableEq, Repr

/-- How a PC is powered (R309): awake, powered down, or in self-refresh. -/
inductive Power where
  | awake
  | down
  | refresh
deriving DecidableEq, Repr

/-- A near-memory unit and its PC (R112, R133, R156, R309). -/
structure Nmu where
  b     : Vector (BitVec 512) 8
  k     : Vector (BitVec 16) 4
  store : Cells 32
  queue : List NRun
  cur   : Option NRun
  power : Power
  pend  : Option Power
deriving DecidableEq, Repr

/-- Who waits for the old value of an addition: element i of a context's `vamo`, or the request of a node (R407). -/
inductive AddTo where
  | elem (c stamp i : Nat)
  | node (src seq : Nat)
deriving DecidableEq, Repr

/-- One combining operation of a scatter-add chain (R159): a delta, with the pair whose statistics queue holds it, if one does (R145, R158),
an addition of `code` times 2^x, or one of a `vamo.add`, which answers with the old value. -/
inductive ChainOp where
  | delta (d : Delta) (sq : Option Nat)
  | add (key ty fmt : Nat) (x : Int) (code q tid : Nat)
  | vamo (key ty rm code q tid c : Nat) (dest : AddTo)
deriving DecidableEq, Repr

/-- A scatter-add chain at a port: the bank word it works on and its operations in arrival order. -/
structure Chain where
  port : Nat
  key  : Nat
  ops  : List ChainOp
deriving DecidableEq, Repr

/-- A group-table entry with its member set listed (R183). -/
structure Group where
  kind  : Nat
  mem   : List Nat
  gvl   : Nat
  param : Nat
deriving DecidableEq, Repr

/-- The fields of a task header (R63). -/
structure Hdr where
  entry    : Nat
  handler  : Nat
  wdog     : Nat
  groups   : Nat
  args     : Nat
  ntasks   : Nat
  cor      : Bool
  pack     : Bool
  first    : Nat
  sections : Nat
  vregs    : Nat
  accs     : Nat
  barriers : Nat
  scratch  : Nat
  vshare   : Nat
deriving DecidableEq, Repr

/-- An accepted cast (R61): its launcher, first sequence number, next task to place, tasks ended and reported, groups and
group barriers. -/
structure Cast where
  id       : Nat
  hdr      : Hdr
  launcher : Launcher
  seq0     : Nat
  next     : Nat
  ended    : Nat
  reported : Nat
  groups   : List Group
  gbars    : List Bar
  sliced   : Bool
deriving DecidableEq, Repr

/-- A partition: its entry, its casts in order of acceptance, the next cast identifier, the slice that takes effect next, how far
a checkpoint of it has come: 0 none, 1 its tasks are being pre-empted, 2 its state is being streamed, 3 they are being restored (R467), with
the pieces still to stream, and the
crossbar masks that changes of XBAR replaced, each with the clk from which no access uses it (R193). -/
structure Part where
  e         : PartEntry
  casts     : List Cast
  nextCast  : Nat
  sliceNext : BitVec 32
  held      : Nat
  ckpt      : List (Nat × List Byte)
  xbarPast  : List (BitVec 64 × Nat)
deriving DecidableEq, Repr

/-- An ended or reported task (R70): its sequence number, cast, index, and end status. -/
structure Report where
  seq     : Nat
  cast    : Nat
  idx     : Nat
  faulted : Bool
  value   : Word
deriving DecidableEq, Repr

/-- A launcher's completion window (R69 to R72). -/
structure Window where
  l       : Launcher
  next    : Nat
  base    : Nat
  ended   : List Report
  unread  : List Report
  dead    : Bool
deriving DecidableEq, Repr

/-- A host completion record (R74). -/
structure HostRec where
  q       : Nat
  slot    : Nat
  cast    : Nat
  addr    : Word
  total   : Nat
  count   : Nat
  faulted : Nat
  first   : Nat
  dirty   : Bool
deriving DecidableEq, Repr

/-- A pre-empted task (R307): its context as saved, its scratchpad bytes, poison and transaction barriers by task offset, the pair
whose named barriers it shares, with their reservation's number there, and those barriers (R199). -/
structure Saved where
  ctx     : Ctx
  scratch : Cells 8
  poison  : List Nat
  tbs     : List Nat
  pair    : Nat
  tag     : Nat
  bars    : List Bar
deriving DecidableEq, Repr

/-- A chunk operation (R434). -/
structure GOp where
  kind : Nat
  nin  : Nat
  ty   : Nat
  opr  : Nat
  depr : Nat
  succ : List Nat
  tid  : Nat
  len  : Nat
  peer : Nat
  addr : List (Nat × Nat)
deriving DecidableEq, Repr

/-- What a fired chunk operation waits for: its turn in the ready queue, with the clk of its firing and, as they stood then, a multicast's
mask and the members that were present; room for what a send has still to send, by member and offset, under
a multicast's mask, with the acknowledgements it will wait for; acknowledgements by (member, sequence number); or an arrival since a
time (R436). -/
inductive GWait where
  | ready (since : Nat) (mask : Option Nat) (here : List Nat)
  | sends (mask : Option Nat) (left l : List (Nat × Nat))
  | acks (l : List (Nat × Nat))
  | arrival (since : Nat)
deriving DecidableEq, Repr

/-- A run of a graph (R189, R205). -/
structure GRun where
  c      : Nat
  task   : TaskId
  word   : BitVec 32
  age    : Nat
  ord    : Nat
  bases  : Nat
  base   : List Nat
  dep    : List Nat
  fired  : List Nat
  waits  : List (Nat × GWait)
  done   : List Nat
  absent : Nat
  poison : Nat
  bad    : Option Nat
deriving DecidableEq, Repr

/-- An arrival held for a receive (R436): its sender, the operation, its bytes, whether all of them have come, and whether they are poisoned. -/
structure Arrived where
  src   : Nat
  op    : Nat
  bytes : List Byte
  whole : Bool
  psn   : Bool
deriving DecidableEq, Repr

/-- A Carousel graph slot (R187): STATE 0 free, 1 loaded, 2 running, 3 faulted; runs waiting for it; held arrivals. -/
structure Slot where
  state  : Nat
  part   : Nat
  ops    : List GOp
  nbase  : Nat
  runs   : BitVec 32
  status : Nat
  run    : Option GRun
  wait   : List GRun
  held   : List Arrived
deriving DecidableEq, Repr

/-- A Troupe member entry (R190): STATE 0 absent, 1 joining, 2 member, 3 leaving, 4 failed. -/
structure Member where
  state  : Nat
  host   : Bool
  gen    : Nat
  chipid : BitVec 64
  tx     : List Nat
  rx     : List Nat
  authf  : BitVec 32
  oldgen : BitVec 32
deriving DecidableEq, Repr

/-- Who issued a fabric packet, for its fault (R301, R304): a context, the word of the instruction and, for a posted operation,
its age and number; or Carousel, the checkpoint stream of a partition, the management agent, a launch. -/
inductive Owner where
  | ctx (c : Nat) (word : BitVec 32) (va : Nat) (posted : Option (Nat × Nat))
  | graph (slot op : Nat)
  | part (q : Nat)
  | other
deriving DecidableEq, Repr

/-- A packet kept until it is acknowledged (R281): `sent` says that it has left its queue, `part` which partition it was sent for, and
`sends` how often it was sent again. -/
structure TxPkt where
  dst     : Nat
  cls     : Nat
  seq     : Nat
  pkt     : Packet
  owner   : Owner
  part    : Option Nat
  sent    : Bool
  last    : Nat
  sends   : Nat
  rejects : Nat
deriving DecidableEq, Repr

/-- A fabric request whose reply a context waits for, and the reply once it came (R304, R441); `own` holds the bytes, by place, that the
context's store buffer gives a load instead (R151). -/
structure FabReq where
  c    : Nat
  pc   : Word
  key  : Nat
  dst  : Nat
  cls  : Nat
  seq  : Nat
  own  : List (Nat × Byte)
  part : List Byte
  data : Option (List Byte)
  err  : Option (Nat × Nat)
deriving DecidableEq, Repr

/-- The curtain at this chip (R293): the generation being prepared, whether READY was sent, the new secret and membership, and
for the leader the members READY and DONE so far and the time of its PREPARE. -/
structure Curtain where
  gen     : Nat
  secret  : List Byte
  members : List (Nat × BitVec 64 × Bool)
  stalled : Bool
  sent    : Bool
  got     : List Nat
  done    : List Nat
  since   : Nat
deriving DecidableEq, Repr

/-- The Troupe as this chip's IOD holds it; `node` is the chip's own node and member number (R284). `out` holds the packets of no stream that
are to leave, `prep` the Troupe control messages that wait, as node, code and body: PREPARE for its session, another for room (R145, R289);
`past` is the generation before the present one with its secret, under which what was sealed before a switch still leaves (R277). -/
structure Troupe where
  node    : Nat
  gen     : Nat
  secret  : List Byte
  leader  : Nat
  member  : List Member
  curtain : Option Curtain
  txq     : List TxPkt
  ackCtr  : Nat
  acked   : List (Nat × Nat × Nat)
  ackDue  : List (Nat × Nat)
  reqs    : List FabReq
  inbox   : List (Nat × Nat × Nat × List Byte)
  out     : List Packet
  prep    : List (Nat × Nat × List Byte)
  past    : Nat × List Byte
  rekey   : Bool
deriving DecidableEq, Repr

/-- One end of a sub-link (R274, R275, R166): its first lane quad, by which it is named, and how many it has; sent and expected LSEQ, acknowledged LSEQ, replay buffer of (LSEQ, flit, times
replayed), whether flits are being discarded, pauses received and sent, the replay request last made, the data accepted last, whether a
data flit has been accepted, and the flits put on the lanes, oldest first. -/
structure Sublink where
  id      : Nat
  quads   : Nat
  up      : Bool
  txl     : BitVec 12
  rxl     : BitVec 12
  replay  : List (BitVec 12 × BitVec 2048 × Nat)
  discard : Bool
  pauseRx : BitVec 8
  pauseTx : BitVec 8
  request : Option (BitVec 12)
  data    : BitVec 1920
  heard   : Bool
  out     : List (BitVec 2048)
deriving DecidableEq, Repr

/-- The event sources of the compute dies and of the IOD (R213). Links are named by the die at their other end, stacks by their number
on the die; stack 4 stands for the arrays on the die itself. (DESIGN CHOICE, log 84) -/
inductive EvSrc where
  | flits (cls link : Nat)
  | budget (cls : Nat)
  | chainsOpened
  | chainWaits
  | eccCorrected (stack : Nat)
  | eccPoisoned (stack : Nat)
  | allBankDeferred
  | normalDeferred
  | ucieCrc
  | ucieRetry
  | ucieSpared
  | fabFlits (cls subl : Nat)
  | retransmits
  | pauseSent
  | pauseHeard
  | dupDrop
  | authFail
  | oldGen
  | curtains
  | opsFired
  | chunksPoisoned
  | chunksDropped
deriving DecidableEq, Repr

/-- An event counter of a compute die or of the IOD (R196, R213): the source that Ringmaster selected, if any, and the count. -/
structure EvCtr where
  sel : Option EvSrc
  n   : BitVec 64
deriving DecidableEq, Repr

/-- A counter that has selected nothing and counted nothing. -/
def EvCtr.reset : EvCtr := ⟨none, 0⟩

/-- A partition fault reported to Ringmaster (R306). -/
structure PFault where
  q      : Nat
  code   : Nat
  detail : Nat
deriving DecidableEq, Repr

/-- A member activation waiting for its window (R123): earliest clk, the stack, and whether its deferral has been counted (R213). -/
structure PAct where
  stack    : Nat
  earliest : Nat
  late     : Bool
deriving DecidableEq, Repr

/-- What Ringmaster's management interface and the links do that is no row of the opcode table: Ringmaster selects the source of an
event counter of a die, 4 being the IOD, and reads it (R213); it reads an island's frequency (R19); a die-to-die link meets a CRC
error, retries a flit or takes a spare lane (R12, R213); a spare resource of kind 0 vector lane of a pair, 1 row or 2 column of a PC, 3 UCIe
lane of a die's link or 4 Fraing lane of a quad is taken into use (R195, R462); this chip leaves its Troupe (R290); its agent sends a request
(R288); the save of a context or the restore of a saved task fails, with the code and detail of its partition fault (R306, R308).
(DESIGN CHOICE, log 84) -/
inductive NetMove where
  | select (die i : Nat) (src : Option EvSrc)
  | read (die i : Nat)
  | readIsland (island : Nat)
  | ucie (die : Nat) (src : EvSrc)
  | spare (die kind n : Nat)
  | leave
  | request (node : Nat) (what : String) (body : List Byte)
  | saveFail (c code detail : Nat)
  | restoreFail (k code detail : Nat)
deriving DecidableEq, Repr

/-- The next move of the device: a context executes (with `lag`, the vector unit stays behind), an NMU executes a word, a
device step happens, the Troupe's leader judges a node by the certificate chain with its key and the signed challenge and measurements that it has answered (R291), or
Ringmaster or a link acts. -/
inductive Move where
  | run (c : Nat) (lag : Bool)
  | nmu (n : Nat)
  | ev (i : Instr)
  | join (node : Nat) (key chain meas chal sig : List Byte) (host : Bool)
  | net (e : NetMove)
deriving DecidableEq, Repr

/-- The machine proper: everything but the platform. `cur` is the context and `ncur` the NMU that `exec` acts for; while a vector-side
instruction or an engine acts, `seen` bounds the buffered stores that its page walks see (R186); `gone` holds what
is left in the table's entries of partitions torn down (R192). -/
structure Mach where
  cur     : Nat
  ncur    : Nat
  lag     : Bool
  seen    : Option Nat
  ctxs    : Tab Ctx
  pairs   : Tab Pair
  nmus    : Tab Nmu
  mem     : Memory
  poison  : List Nat
  soft    : List (Nat × List Nat)
  tbs     : List Nat
  chains  : List Chain
  parts   : Tab Part
  gone    : Tab PartEntry
  windows : List Window
  hostRecs : List HostRec
  saved   : List Saved
  slots   : List Slot
  ready   : List (Nat × Nat × Nat)
  troupe  : Troupe
  links   : List Sublink
  cycle   : Nat
  clocks  : List (List Nat)
  used    : List (List Nat)
  iodCnt  : List EvCtr
  dieCnt  : List (List EvCtr)
  pfaults : List PFault
  acts    : List (List Nat)
  pacts   : List PAct
  free    : Nat
deriving DecidableEq, Repr

/-- A voltage and frequency island (R19, R465): its frequency and its ceiling in MHz. -/
structure Island where
  mhz  : Nat
  ceil : Nat
deriving DecidableEq, Repr

/-- What the agent keeps of another node (R288): how far the node's negotiation as a requester has come (0 nothing, 1 version, 2
capabilities, 3 algorithms), the parts of a long message, and the requests that this chip has made of it, in order, with their bodies. -/
structure Conn where
  node  : Nat
  stage : Nat
  inb   : List Byte
  outb  : List Byte
  asked : List (String × List Byte)
deriving DecidableEq, Repr

/-- An SPDM session (R288): opened by KEY_EXCHANGE, usable after FINISH; the time of its last message and of its last
heartbeat, how often its keys were updated, and whether this chip asked for it. -/
structure Session where
  id     : Nat
  node   : Nat
  opened : Bool
  last   : Nat
  beat   : Nat
  keys   : Nat
  mine   : Bool
deriving DecidableEq, Repr

/-- A management message the agent sends: destination node, what it is, its body, and the session it travels in, 0 for none. -/
structure Mgmt where
  node : Nat
  what : String
  body : List Byte
  sess : Nat
deriving DecidableEq, Repr

/-- The platform (`spares` lists the spare resources in use as die, kind, number, R195): bring-up, measurements, SPDM, repair, power and network budgets. -/
structure Plat where
  stage    : Nat
  failed   : Nat
  responder : Bool
  silent   : Bool
  tripped  : Bool
  meas     : List (Option (List Byte))
  sites    : List (List Nat)
  good     : List (List Nat)
  spares   : List (Nat × Nat × Nat)
  islands  : List Island
  temps    : List Nat
  budgets  : List (List Nat)
  budNext  : List (List Nat)
  conns    : List Conn
  sessions : List Session
  out      : List Mgmt
deriving DecidableEq, Repr

/-- The state of the VD9. `agenda` names the device's next moves; when it is empty the model picks them by `tick`. -/
structure State where
  m      : Mach
  plat   : Plat
  agenda : List Move
  tick   : Nat
deriving DecidableEq, Repr

/-- A context at device reset and, but for the values of R77, at task start (R91, R106, R107). (DESIGN CHOICE, log 2) -/
def Ctx.reset : Ctx where
  status := .idle
  task := ⟨0, 0, 0, 0⟩
  pc := 0
  ir := 0
  x := Vector.replicate 32 0
  sec := 0
  vregs := 0
  vrf := []
  masks := Vector.replicate 16 0
  acc := []
  sreg := Vector.replicate 8 0
  md := Vector.replicate 4 0
  fmt := Vector.replicate 4 0
  vl := 0
  vstart := 0
  vcp := 0
  vhwm := 0
  vdirty := 0
  adirty := 0
  score := List.replicate 64 0
  vshare := 0
  vshareNext := 0
  srstep := 0
  pdone := 0
  pfmask := 0
  fcause := 0
  faddr := 0
  finstr := 0
  epc := 0
  thandler := 0
  wdog := 0x100000000
  banko := 20000
  tscr := 0
  maxSec := 0
  maxVregs := 0
  accs := 0
  barriers := 0
  spBase := 0
  spSize := 0
  vq := []
  stamp := 0
  undo := []
  sb := []
  sbNext := 0
  hold := []
  copyq := []
  copyStop := false
  bankq := []
  pendTrap := none
  savedTrap := none
  engFaults := []
  youngCopies := []
  sleep := none
  kept := []
  halted := false
  stall := 0
  vstall := 0
  arrival := none
  firstH := false
  inH := 0
  lastAcq := 0
  counted := []
  half := none
  pload := none
  wrote := []
  snapReqs := []
  joinWord := none
  vrPoison := []
  accPoison := []

/-- A pair at device reset (R115, R211). (DESIGN CHOICE, log 2) -/
def Pair.reset : Pair where
  tlb := []
  probe := []
  icache := []
  icasts := []
  titc := []
  bstc := []
  snaps := []
  sq := []
  bars := []
  barNo := 0
  ecnt := Vector.replicate 8 0
  esel := Vector.replicate 8 0
  carry := List.replicate 8 0
  spend := List.replicate 12 0
  spill := List.replicate 12 0
  need := List.replicate 12 []
  till := List.replicate 3 0
  period := 0
  wrAt := (0, 0)

/-- An NMU at device reset (R91, R112). -/
def Nmu.reset : Nmu where
  b := Vector.replicate 8 0
  k := Vector.replicate 4 0
  store := []
  queue := []
  cur := none
  power := .awake
  pend := none

def Slot.free : Slot := ⟨0, 0, [], 0, 0, 0, none, [], []⟩

def Member.absent : Member := ⟨0, false, 0, 0, List.replicate 6 0, List.replicate 6 0, 0, 0⟩

def Troupe.reset : Troupe := ⟨0, 0, [], 0, List.replicate 64 .absent, none, [], 0, [], [], [], [], [], [], (0, []), false⟩

/-- The machine proper at device reset: no partition, nothing listed in memory, every table empty (R459). -/
def Mach.reset : Mach where
  cur := 0
  ncur := 0
  lag := false
  seen := none
  ctxs := []
  pairs := []
  nmus := []
  mem := []
  poison := []
  soft := []
  tbs := []
  chains := []
  parts := []
  gone := []
  windows := []
  hostRecs := []
  saved := []
  slots := List.replicate 64 .free
  ready := []
  troupe := .reset
  links := []
  cycle := 0
  clocks := List.replicate 5 (List.replicate 5 0)
  used := List.replicate 4 (List.replicate 6 0)
  iodCnt := List.replicate 16 .reset
  dieCnt := List.replicate 4 (List.replicate 32 .reset)
  pfaults := []
  acts := List.replicate 16 []
  pacts := []
  free := 0

/-- The default class budgets of a die (R163). -/
def defaultBudgets : List Nat := [448, 256, 96, 64, 128, 16]

/-- The platform at device reset, before the bring-up stages (R459). (DESIGN CHOICE, log 40) -/
def Plat.reset : Plat where
  stage := 0
  failed := 0
  responder := false
  silent := false
  tripped := false
  meas := List.replicate 6 none
  sites := List.replicate 4 (List.range 64)
  good := List.replicate 4 (List.range 68)
  spares := []
  islands := List.replicate 288 ⟨1200, 1200⟩
  temps := List.replicate 5 0
  budgets := List.replicate 4 defaultBudgets
  budNext := List.replicate 4 defaultBudgets
  conns := []
  sessions := []
  out := []

/-- The machine right after reset. -/
def State.reset : State := ⟨.reset, .reset, [], 0⟩

end Sys2Proof.Machine
end

