-- ==== Sys2Proof/Machine/Mem.lean ====
section
/-!
DEFINITION. Contexts, pairs and units by number; the physical map (R116 to R118, R128); locations, bytes and poison (R119 to
R121); window addresses and the page walk (R129 to R143); the event counters (R211, R212).
-/

namespace Sys2Proof.Machine

open Sys2Proof.Config

/-! ### Access to the parts of the machine -/

/-- Element i of a list, or d. -/
def nthD {α : Type} (d : α) (l : List α) (i : Nat) : α := l.getD i d

/-- Applies f at index i. -/
def mapAt {α : Type} (l : List α) (i : Nat) (f : α → α) : List α :=
  match l, i with
  | [], _ => []
  | a :: t, 0 => f a :: t
  | a :: t, i + 1 => a :: mapAt t i f

def Mach.ctx (m : Mach) (c : Nat) : Ctx := tabGet .reset m.ctxs c
def Mach.setCtx (m : Mach) (c : Nat) (x : Ctx) : Mach := { m with ctxs := tabSet m.ctxs c x }
def Mach.updCtx (m : Mach) (c : Nat) (f : Ctx → Ctx) : Mach := m.setCtx c (f (m.ctx c))

/-- The context that acts, and its update. -/
def Mach.me (m : Mach) : Ctx := m.ctx m.cur
def Mach.upd (m : Mach) (f : Ctx → Ctx) : Mach := m.updCtx m.cur f

def Mach.pair (m : Mach) (p : Nat) : Pair := tabGet .reset m.pairs p
def Mach.updPair (m : Mach) (p : Nat) (f : Pair → Pair) : Mach := { m with pairs := tabSet m.pairs p (f (m.pair p)) }

def Mach.nmu (m : Mach) (n : Nat) : Nmu := tabGet .reset m.nmus n
def Mach.updNmu (m : Mach) (n : Nat) (f : Nmu → Nmu) : Mach := { m with nmus := tabSet m.nmus n (f (m.nmu n)) }

def Mach.part (m : Mach) (q : Nat) : Option Part := tabFind m.parts q
def Mach.updPart (m : Mach) (q : Nat) (f : Part → Part) : Mach :=
  match m.part q with
  | some p => { m with parts := tabSet m.parts q (f p) }
  | none => m

/-- The pair, die and partition of a context (R13, R14). -/
def pairOf (c : Nat) : Nat := c / 4
def Mach.qOf (m : Mach) (c : Nat) : Nat := (m.ctx c).task.q
def dieOfPair (p : Nat) : Nat := p / 64
def dieOf (c : Nat) : Nat := c / 256

/-- Register Xn: X0 reads zero (R92). -/
def Ctx.rx (x : Ctx) (n : Nat) : Word := if n = 0 then 0 else vecAt 0 x.x n

/-- Register Xn written: X0 discards (R92). -/
def Ctx.wx (x : Ctx) (n : Nat) (v : Word) : Ctx := if n = 0 then x else { x with x := vecSet x.x n v }

/-- The time that a sleep at an address resumes from after a pre-emption, else 0 (R87, R208). -/
def keptTime (kept : List (Word × Nat)) (pc : Word) : Nat := ((kept.find? fun t => t.1 == pc).map Prod.snd).getD 0

/-! ### Event counters -/

/-- The pair event sources of R212. -/
def evClk : Nat := 1
def evScalarDone : Nat := 2
def evVectorDone : Nat := 3
def evVqStall : Nat := 4
def evSbStall : Nat := 5
def evUndoStall : Nat := 6
def evTranslate : Nat := 7
def evWalk : Nat := 8
def evProbe : Nat := 9
def evScoreWait : Nat := 10
/-- Bank conflicts are timing: nothing counts under this source. (DESIGN CHOICE, log 11) -/
def evSpConflict : Nat := 11
def evMatrixBeat : Nat := 12
def evPortBeat : Nat := 13
def evCopySector : Nat := 14
def evStatDelta : Nat := 15
def evTrap : Nat := 16
def evSleep : Nat := 17
def evSquash : Nat := 18

/-- Whether a selector counts events of source src for context number k of its pair (R211, R212). -/
def eselTakes (sel : BitVec 64) (src k : Nat) : Bool :=
  sel.toNat % 256 == src && (src == evSpConflict || sel.getLsbD (8 + k))

/-- n events of a source for context c enter the carries of the selecting counters; CLK adds them (R212). -/
def Mach.count (m : Mach) (c src n : Nat) : Mach :=
  let p := m.pair (pairOf c)
  if p.esel.toList.any (fun s => eselTakes s src (c % 4)) then
    let more := p.carry.zipIdx.map fun e => if eselTakes (vecAt 0 p.esel e.2) src (c % 4) then e.1 + n else e.1
    m.updPair (pairOf c) fun p => { p with carry := more }
  else m

/-- The arbitrated resources of a pair (R160): matrix engine, memory port, scratchpad ports. -/
def resMatrix : Nat := 0
def resPort : Nat := 1
def resSp : Nat := 2

/-- n beats of one instruction or copy command charged to context c on a resource: owed to the arbiter, and counted (R160, R212).
(DEDUCED, log 12) -/
def Mach.beats (m : Mach) (c res n : Nat) : Mach :=
  if n = 0 then m else
  let m := m.updPair (pairOf c) fun p => { p with need := mapAt p.need (4 * res + c % 4) (· ++ [n]) }
  if res = resMatrix then m.count c evMatrixBeat n else if res = resPort then m.count c evPortBeat n else m

/-- n events of a source enter the counters that select it, modulo 2^64 (R213). -/
def noteAll (cs : List EvCtr) (src : EvSrc) (n : Nat) : List EvCtr :=
  if cs.all fun c => c.sel != some src then cs else cs.map fun c => if c.sel = some src then { c with n := c.n + BitVec.ofNat 64 n } else c

/-- Events of a compute die, and of the IOD, which is die 4 (R213). -/
def Mach.dieNote (m : Mach) (d : Nat) (src : EvSrc) (n : Nat) : Mach := { m with dieCnt := mapAt m.dieCnt d fun cs => noteAll cs src n }
def Mach.iodNote (m : Mach) (src : EvSrc) (n : Nat) : Mach := { m with iodCnt := noteAll m.iodCnt src n }

/-- The flits of n bytes: up to 64 bytes of payload each (R163). -/
def flitsOf (bytes : Nat) : Nat := (bytes + 63) / 64

/-- Whether two compute dies are a diagonal pair, which no link joins (R11). -/
def diagonal (a b : Nat) : Bool := decide (a < 4) && decide (b < 4) && a + b == 3

/-- The die that traffic of a diagonal pair crosses: one of the two others, by a hash that the manual leaves open (R11). -/
def Mach.midDie (m : Mach) (a b cls bytes : Nat) : Option Nat :=
  if !diagonal a b then none else
  let one := if a = 0 || a = 3 then 1 else 0
  some (if Config.dieHash [m.cycle, a, b, cls, bytes, nthD 0 (nthD [] m.used a) cls] then one else 3 - one)

/-- Flits of a network class that a die sends on one link enter its count for the period, and its event counters (R163, R213). -/
def Mach.hop (m : Mach) (die dst cls bytes : Nat) : Mach :=
  ({ m with used := mapAt m.used die fun l => mapAt l cls fun u => u + flitsOf bytes } : Mach).dieNote die (.flits cls dst) (flitsOf bytes)

/-- Traffic of a network class between two dies is counted on every link that it crosses (R11, R163, R213). (DESIGN CHOICE, log 79) -/
def Mach.charge (m : Mach) (die dst cls bytes : Nat) : Mach :=
  if die = dst then m else
  match m.midDie die dst cls bytes with
  | none => m.hop die dst cls bytes
  | some mid => (m.hop die mid cls bytes).hop mid dst cls bytes

/-! ### Partitions and the physical map -/

/-- Port groups of a partition, rising (R118, R192). -/
def peGroups (e : PartEntry) : List Nat := bitList e.pgrp.toNat 64

/-- Package pairs of a partition, rising: pair i of the partition is element i. -/
def pePairs (e : PartEntry) : List Nat := bitList e.pairs.toNat 256

/-- The first offset of the interleaved part of a bank (R117): BKLIM in bytes. -/
def peLim (e : PartEntry) : Nat := e.bklim.toNat * 0x20_0000

/-- The end of the bank bytes a program reaches (R117). -/
def bankTop : Nat := bankBytes - parkBytes

/-- Size of a partition's interleaved memory (R118). -/
def peIlSize (e : PartEntry) : Nat := (peGroups e).length * 256 * (bankTop - peLim e)

/-- The key of an interleaved offset: its bank and bank offset as a banked address (R118). -/
def peIlKey (e : PartEntry) (o : Nat) : Nat :=
  let gs := peGroups e
  let n := o / 256
  let grp := nthD 0 gs (n % gs.length)
  let k := n / gs.length
  let pc := grp * 16 + k % 16
  let bank := pc * 16 + k / 16 % 16
  bank * bankBytes + (peLim e + k / 256 * 256 + o % 256)

/-- The partition that holds a port group, and the one that holds a pair (R84). -/
def Mach.partOfGroup (m : Mach) (g : Nat) : Option Nat :=
  (m.parts.find? fun e => e.2.e.pgrp.getLsbD g).map Prod.fst
def Mach.partOfPair (m : Mach) (p : Nat) : Option Nat :=
  (m.parts.find? fun e => e.2.e.pairs.getLsbD p).map Prod.fst

/-- Where a physical address leads (R116, R117). -/
inductive Phys where
  /-- a DRAM byte, by key, and the partition that holds it -/
  | dram (key q : Nat)
  /-- a byte of pair p's block -/
  | block (p off q : Nat)
  | chunk (off : Nat)
  | aperture (member off : Nat)
  /-- an address that no program reaches -/
  | none
deriving DecidableEq, Repr

/-- Decoding of a physical address (R116 to R118, R128). -/
def Mach.phys (m : Mach) (pa : Nat) : Phys :=
  match pa / 2 ^ 46 with
  | 0 =>
    if pa < dramEnd then
      let bank := pa / bankBytes
      let off := pa % bankBytes
      match m.partOfGroup (bank / 256) with
      | some q => match m.part q with
        | some p => if off < min (peLim p.e) bankTop then .dram pa q else .none
        | none => .none
      | none => .none
    else .none
  | 1 =>
    let q := pa / 2 ^ 40 % 64
    let o := pa % 2 ^ 40
    match m.part q with
    | some p => if o < peIlSize p.e then .dram (peIlKey p.e o) q else .none
    | none => .none
  | 2 =>
    if pairBase ≤ pa && pa < pairBase + 256 * pairBlock then
      let p := (pa - pairBase) / pairBlock
      match m.partOfPair p with
      | some q => .block p ((pa - pairBase) % pairBlock) q
      | none => .none
    else if chunkBase ≤ pa && pa < chunkBase + 0x400_0000 then .chunk (pa - chunkBase)
    else .none
  | 3 => .aperture (pa / 2 ^ 40 % 64) (pa % 2 ^ 40)
  | _ => .none

/-- The memory key of a physical address that leads to memory here. -/
def Mach.keyOf (m : Mach) (pa : Nat) : Option Nat :=
  match m.phys pa with
  | .dram k _ => some k
  | .block _ off _ => if off < 0x20_0000 then some pa else none
  | .chunk _ => some pa
  | _ => none

/-- The masks besides the present one that an access may still be checked against (R193). (DEDUCED, log 71) -/
def Part.masksLeft (p : Part) (now : Nat) : List (BitVec 64) := (p.xbarPast.filter fun e => decide (now < e.2)).map (·.1)

/-- Whether partition q may reach partition s (R85). While a change of XBAR settles, an access may be checked against either mask,
so the answer is a free value where they differ (R193). (DEDUCED, log 71) -/
def Mach.mayReach (m : Mach) (q s : Nat) : Bool :=
  q == s || match m.part q with
    | some p =>
      if (p.masksLeft m.cycle).all (fun x => x.getLsbD s == p.e.xbar.getLsbD s) then p.e.xbar.getLsbD s
      else Config.freeMask [m.cycle, q, s, m.cur, m.me.pc.toNat]
    | none => false

/-- Bytes of one unit of error correction at a key (R121). -/
def eccUnit (key : Nat) : Nat := if key < dramEnd then 64 else 8

/-- The unit that holds a key. -/
def unitOf (key : Nat) : Nat := key / eccUnit key * eccUnit key

/-- The bank, PC and die of a DRAM key (R16). -/
def bankOf (key : Nat) : Nat := key / bankBytes
def pcOf (key : Nat) : Nat := key / bankBytes / 16
def dieOfKey (key : Nat) : Nat := if key < dramEnd then pcOf key / 256 else min 4 ((key - pairBase) / pairBlock / 64)

/-! ### Bytes -/

/-- Register bytes of a context's present grant and register count (R93). -/
def Ctx.nregs (x : Ctx) : Nat := if x.sec = 0 then 0 else 8 * 2 ^ x.vregs
def Ctx.regBytes (x : Ctx) : Nat := x.sec * 65536 / (8 * 2 ^ x.vregs)

/-- Contiguous runs of keys under n bytes from physical address pa: runs end at 256-byte granules. -/
def Mach.keyRuns (m : Mach) : Nat → Nat → Nat → List (Option Nat × Nat)
  | 0, _, _ => []
  | fuel + 1, pa, n =>
    if n = 0 then [] else
      let k := min n (256 - pa % 256)
      (m.keyOf pa, k) :: m.keyRuns fuel (pa + k) (n - k)

/-- n bytes of memory from physical address pa. (DESIGN CHOICE, log 16) -/
def Mach.readPa (m : Mach) (pa n : Nat) : List Byte :=
  (m.keyRuns (n / 256 + 2) pa n).flatMap fun r => match r.1 with
    | some k => cgetRange m.mem k r.2
    | none => List.replicate r.2 0

/-- Physical address of a task offset of context c's scratchpad (R124). -/
def Mach.spPa (m : Mach) (c off : Nat) : Nat := pairBase + pairOf c * pairBlock + (m.ctx c).spBase + off

/-- The place of a store in program order: its context, the vector-side instructions before it, and its number among the scalar stores
and commands, counted from 1, or 0 for a vector-side instruction. None for what has no place among a context's instructions. -/
abbrev Place := Option (Nat × Nat × Nat)

/-- Whether what context c issued with the given stamp and number comes before a store in program order, or is of another context. -/
def Place.after (w : Place) (c age num : Nat) : Bool :=
  match w with
  | some (d, a, o) => d != c || (if o = 0 then decide (age < a) else decide (num + 1 < o))
  | none => true

/-- The barrier words that instructions and copies of context c name when a store is performed: a sleeping `tbwait`, buffered `tbinit`
and `tbexp`, held and queued copies, but of the store's own context only those before it in program order (R200). -/
def Mach.tbNamed (m : Mach) (w : Place) (c : Nat) : List Nat :=
  let x := m.ctx c
  (match x.sleep.map Sleep.on with | some (.tb (.pa a) _ _) => if w.any (fun p => p.1 == c) then [] else [a] | _ => []) ++
  ((x.sb.filter fun e => w.after c e.after e.id).flatMap fun e => match e.op, e.segs with
    | .tbinit _, (.pa a, _) :: _ => [a]
    | .tbexp _, (.pa a, _) :: _ => [a]
    | _, _ => []) ++
  (((x.hold.filter fun h => w.after c h.after h.mark).filterMap fun h => match h.cmd with | .copy k => k.tb | _ => none) ++
    (x.copyq.filter fun e => w.after c e.age e.mark).filterMap fun e => e.cmd.tb).map (m.spPa c)

/-- A write of n bytes at key k that touches a transaction-barrier word which an instruction or copy names leaves every field of it
undefined until the next `tbinit` (R200): its 16 bytes become free values. `tbs` lists such words. -/
def Mach.clobberTb (m : Mach) (k n : Nat) (w : Place := none) : Mach :=
  if k < dramEnd then m else
  let words := (m.tbs ++ m.ctxs.flatMap fun e => m.tbNamed w e.1).eraseDups
  let hit := words.filter fun t => decide (t < k + n) && decide (k < t + 16)
  hit.foldl (fun m t =>
    { m with mem := csetRange m.mem t ((List.range 16).map fun i => freeByte (m.free + i)), free := m.free + 16,
             tbs := t :: m.tbs.filter (· != t) }) m

/-- An error count of a stack, or, as stack 4, of the arrays on a die; die 4 is the IOD (R213, R463). -/
def Mach.eccCount (m : Mach) (d stack : Nat) (bad : Bool) : Mach :=
  let src := if bad then EvSrc.eccPoisoned stack else .eccCorrected stack
  if d < 4 then m.dieNote d src 1 else m.iodNote src 1

/-- The stack, on its die, of a key; 4 for what is no DRAM. -/
def stackOfKey (key : Nat) : Nat := if key < dramEnd then pcOf key / 64 % 4 else 4

/-- A unit is read, rewritten in part, or scrubbed: its error of one bit is corrected and counted (R121, R463, R464).
(DEDUCED, log 65) -/
def Mach.eccUnitRead (m : Mach) (u : Nat) : Mach :=
  if m.soft.any fun e => e.1 == u then
    ({ m with soft := m.soft.filter fun e => e.1 != u } : Mach).eccCount (dieOfKey u) (stackOfKey u) false
  else m

/-- Whether the unit u lies in part among n bytes at key k, and whether it lies there whole. -/
def unitIn (u k n : Nat) : Bool := decide (u < k + n) && decide (k < u + eccUnit u)
def unitWhole (u k n : Nat) : Bool := decide (k ≤ u) && decide (u + eccUnit u ≤ k + n)

/-- Units fully covered by a write of n bytes at key k lose their poison; a partial write keeps it (R121). -/
def unpoison (poison : List Nat) (k n : Nat) : List Nat :=
  poison.filter fun u => !unitWhole u k n

/-- The units among n bytes at a key are read. -/
def Mach.eccKeys (m : Mach) (k n : Nat) : Mach :=
  if m.soft.isEmpty then m else ((m.soft.map Prod.fst).filter fun u => unitIn u k n).foldl Mach.eccUnitRead m

/-- The units that segments read (R121). -/
def Mach.eccRead (m : Mach) (ss : List (Loc × Nat)) : Mach :=
  if m.soft.isEmpty then m else
  ss.foldl (fun m s => match s.1 with
    | .pa a => (m.keyRuns (s.2 / 256 + 2) a s.2).foldl (fun m r => match r.1 with
      | some k => m.eccKeys k r.2
      | none => m) m
    | _ => m) m

/-- A write of n bytes at a key: a unit that it covers loses its error uncounted, one that it covers in part is corrected first (R121). -/
def Mach.eccWrite (m : Mach) (k n : Nat) : Mach :=
  if m.soft.isEmpty then m else ({ m with soft := m.soft.filter fun e => !unitWhole e.1 k n } : Mach).eccKeys k n

/-- Writes consecutive bytes at a key, without regard to transaction barriers. -/
def Mach.poke (m : Mach) (k : Nat) (bs : List Byte) : Mach :=
  let m := m.eccWrite k bs.length
  { m with mem := csetRange m.mem k bs, poison := if m.poison.isEmpty then [] else unpoison m.poison k bs.length }

/-- Splits a byte list by run lengths. -/
def splitRuns (rs : List (Option Nat × Nat)) (bs : List Byte) : List (Option Nat × List Byte) :=
  match rs with
  | [] => []
  | r :: t => (r.1, bs.take r.2) :: splitRuns t (bs.drop r.2)

/-- A store of bytes at physical address pa. Bytes past the first word that lie in a transaction barrier make it undefined. -/
def Mach.writePa (m : Mach) (pa : Nat) (bs : List Byte) (w : Place := none) : Mach :=
  (splitRuns (m.keyRuns (bs.length / 256 + 2) pa bs.length) bs).foldl (fun m r => match r.1 with
    | some k => (m.poke k r.2).clobberTb k r.2.length w
    | none => m) m

/-- Bytes of a context's vector registers, by register and byte. -/
def Ctx.vkey (v b : Nat) : Nat := v * 65536 + b
def Ctx.vread (x : Ctx) (v b n : Nat) : List Byte := cgetRange x.vrf (Ctx.vkey v b) n

/-- A write to a register: bytes, dirty bit, high-water mark (R96). -/
def Ctx.vwrite (x : Ctx) (v b : Nat) (bs : List Byte) : Ctx :=
  if bs.isEmpty then x else
  let k := Ctx.vkey v b
  { x with vrf := csetRange x.vrf k bs,
           vdirty := x.vdirty ||| BitVec.ofNat 64 (2 ^ v),
           vhwm := BitVec.ofNat 17 (max x.vhwm.toNat (b + bs.length)),
           vrPoison := if x.vrPoison.isEmpty then [] else
             x.vrPoison.filter fun u => !(decide (k ≤ u) && decide (u + 8 ≤ k + bs.length)) }

/-- The accumulator element key of array n, row r, column c. -/
def akey (n r c : Nat) : Nat := n * 16384 + r * 128 + c

/-- Byte `off` of the accumulator window, and its replacement. -/
def Ctx.accByte (x : Ctx) (off : Nat) : Byte := BitVec.ofNat 8 ((cget x.acc (off / 4)).toNat / 2 ^ (8 * (off % 4)))
def Ctx.setAccByte (x : Ctx) (off : Nat) (b : Byte) : Ctx :=
  let w := (cget x.acc (off / 4)).toNat
  let sh := 2 ^ (8 * (off % 4))
  let w' := w - w / sh % 256 * sh + b.toNat * sh
  { x with acc := cset x.acc (off / 4) (BitVec.ofNat 32 w') }

/-- n bytes from a location. -/
def Mach.read (m : Mach) (l : Loc) (n : Nat) : List Byte :=
  match l with
  | .pa a => m.readPa a n
  | .vr c off => let x := m.ctx c
    (List.range n).map fun i => cget x.vrf (Ctx.vkey ((off + i) / x.regBytes) ((off + i) % x.regBytes))
  | .acc c off => let x := m.ctx c
    (List.range n).map fun i => x.accByte (off + i)

/-- Bytes written into the register slice from byte `off`, register by register. -/
def Ctx.vwriteSlice (x : Ctx) : Nat → Nat → List Byte → Ctx
  | 0, _, _ => x
  | fuel + 1, off, bs =>
    if bs.isEmpty then x else
      let k := x.regBytes - off % x.regBytes
      (x.vwrite (off / x.regBytes) (off % x.regBytes) (bs.take k)).vwriteSlice fuel (off + k) (bs.drop k)

/-- Bytes written at a location of this chip. A write through an `$acc` window leaves ADIRTY alone: R99, which alone may change it (R7,
R106), does not name it. (DEDUCED, log 86) -/
def Mach.write (m : Mach) (l : Loc) (bs : List Byte) (w : Place := none) : Mach :=
  match l with
  | .pa a => m.writePa a bs w
  | .vr c off => m.updCtx c fun x => x.vwriteSlice 65 off bs
  | .acc c off => m.updCtx c fun x =>
      let x := bs.zipIdx.foldl (fun x e => x.setAccByte (off + e.2) e.1) x
      { x with accPoison := x.accPoison.filter fun u => !(decide (off ≤ u * 4) && decide (u * 4 + 8 ≤ off + bs.length)) }

def Mach.readSegs (m : Mach) (ss : List (Loc × Nat)) : List Byte := ss.flatMap fun s => m.read s.1 s.2

/-- Pairs resolved segments with the bytes of a store. -/
def segBytes (ss : List (Loc × Nat)) (bs : List Byte) : List (Loc × List Byte) :=
  match ss with
  | [] => []
  | s :: t => (s.1, bs.take s.2) :: segBytes t (bs.drop s.2)

def Mach.writeSegs (m : Mach) (ss : List (Loc × List Byte)) (w : Place := none) : Mach := ss.foldl (fun m s => m.write s.1 s.2 w) m

/-- What the die-to-die links carry when die d writes n bytes whose home is on die h: entry d of d's vector clock is incremented and
the home's entries are raised to the carried ones (R209), and the flits count for the class (R163). (DESIGN CHOICE, log 10) -/
def Mach.carry (m : Mach) (d h cls n : Nat) : Mach :=
  if h = d then m else
    let v := mapAt (nthD [] m.clocks d) d (· + 1)
    let m := { m with clocks := mapAt (m.clocks.set d v) h (fun w => (w.zip v).map (fun (p : Nat × Nat) => Nat.max p.1 p.2)) }
    m.charge d h cls n

/-- The home die of a location: of memory by its key, of registers and accumulators their pair's (R120). An aperture's is none here. -/
def Mach.homeDie (m : Mach) (l : Loc) : Option Nat :=
  match l with
  | .pa a => (m.keyOf a).map dieOfKey
  | .vr c _ => some (dieOf c)
  | .acc c _ => some (dieOf c)

/-- The clocks and flits of segments that die d writes. (DESIGN CHOICE, log 10) -/
def Mach.cross (m : Mach) (d cls : Nat) (ss : List (Loc × List Byte)) : Mach :=
  ss.foldl (fun m s => match m.homeDie s.1 with
    | some h => m.carry d h cls s.2.length
    | none => m) m

/-- The flits that the homes of segments send to die d when it reads them (R163). -/
def Mach.fetchFlits (m : Mach) (d cls : Nat) (ss : List (Loc × Nat)) : Mach :=
  ss.foldl (fun m s => match m.homeDie s.1 with
    | some h => m.charge h d cls s.2
    | none => m) m

/-- A write by die d in network class cls, with its place in program order. (DESIGN CHOICE, log 10) -/
def Mach.writeFrom (m : Mach) (d cls : Nat) (ss : List (Loc × List Byte)) (w : Place := none) : Mach := (m.cross d cls ss).writeSegs ss w

/-- The first poisoned byte among n bytes of a location: its offset and where it lies (R121, R295: 1 DRAM, 2 scratchpad,
3 register file, 4 accumulator). -/
def Mach.poisonAt (m : Mach) (l : Loc) (n : Nat) : Option (Nat × Nat) :=
  match l with
  | .pa a => if m.poison.isEmpty then none else
      ((List.range n).find? fun i => match m.keyOf (a + i) with
        | some k => m.poison.contains (unitOf k)
        | none => false).map fun i => (i, if a / 2 ^ 46 = 2 then 2 else 1)
  | .vr c off => let x := m.ctx c
      if x.vrPoison.isEmpty then none else
      ((List.range n).find? fun i =>
        x.vrPoison.contains (Ctx.vkey ((off + i) / x.regBytes) ((off + i) % x.regBytes) / 8 * 8)).map fun i => (i, 3)
  | .acc c off => let x := m.ctx c
      if x.accPoison.isEmpty then none else
      ((List.range n).find? fun i => x.accPoison.contains ((off + i) / 8 * 2)).map fun i => (i, 4)

/-- The first poisoned byte among segments, as its offset from the start of the access. -/
def Mach.poisonSegs (m : Mach) : Nat → List (Loc × Nat) → Option (Nat × Nat)
  | _, [] => none
  | o, s :: t => match m.poisonAt s.1 s.2 with
    | some p => some (o + p.1, p.2)
    | none => m.poisonSegs (o + s.2) t

/-- MEM_POISON (R295): the element index, and the address of the poisoned word. -/
def fltPoison (va wh elem : Nat) : Flt :=
  { code := 0x0C, detail := wh + elem % 131072 * 65536,
    faddr := va / (if wh = 1 then 64 else 8) * (if wh = 1 then 64 else 8) }

/-! ### Faults of addresses -/

/-- Access kinds of R138. -/
def kRead : Nat := 1
def kWrite : Nat := 2
def kFetch : Nat := 3
def kAtomic : Nat := 4
def kPlural : Nat := 5
/-- `prun` accesses as plural and needs R and W (R138); `pst` needs W. -/
def kPst : Nat := 6
def kPrun : Nat := 7

/-- The kind code a fault shows. -/
def kCode (k : Nat) : Nat := if k ≥ 5 then 5 else k

def fltPage (reason k va : Nat) : Flt := { code := 0x08, detail := reason + kCode k * 256, faddr := va }
def fltProt (k va : Nat) : Flt := { code := 0x09, detail := kCode k, faddr := va }
def fltConfig (sub arg : Nat) : Flt := { code := 0x03, detail := sub + arg % 65536 * 256 }
def fltReg (n kind : Nat) : Flt := { code := 0x02, detail := n % 256 + kind * 256 }
def fltBounds (off va : Nat) : Flt := { code := 0x05, detail := off % 4194304, faddr := va }
def fltTid (t : Nat) : Flt := { code := 0x06, detail := t }
def fltInstr (reason : Nat) : Flt := { code := 0x01, detail := reason }
def fltAbsent (member cls va : Nat) : Flt := { code := 0x0F, detail := member % 64 + cls % 8 * 64, faddr := va }

/-- Whether a 64-bit address is a window address (R129, R135). -/
def isWindow (va : Nat) : Bool := va / 2 ^ 56 == 0xFF && va / 2 ^ 54 % 4 != 0

/-- Whether bits [63:57] equal bit 56 (R135). -/
def isCanonical (va : Nat) : Bool := va / 2 ^ 56 == 0 || va / 2 ^ 56 == 0xFF || va / 2 ^ 56 % 256 == 0xFF

/-! ### Parking (R310) -/

/-- The key of a PC's park row: local bank 0 (R133). -/
def parkKey (pc : Nat) : Nat := pc * 16 * Config.bankBytes + bankTop

/-- PARK_EXIT: the state comes back from the park row; a poisoned row is a partition fault and leaves zeros (R306, R310). The fault's
code is MEM_POISON's, and its detail the PC's number. (DESIGN CHOICE, log 98) -/
def Mach.parkOut (m : Mach) (pc : Nat) : Mach :=
  let u := m.nmu pc
  if u.power = .awake then m else
  let k := parkKey pc
  let m := m.eccKeys k parkBytes
  if m.poison.any fun p => unitIn p k parkBytes then
    let m := { m with pfaults := m.pfaults ++ [PFault.mk ((m.partOfGroup (pc / 16)).getD 0) 0x0C pc] }
    m.updNmu pc fun u => { Nmu.reset with queue := u.queue }
  else
    let bs := vecOf 8 fun i => BitVec.ofNat 512 (leVal (cgetRange m.mem (k + 64 * i) 64))
    let ks := vecOf 4 fun i => BitVec.ofNat 16 (leVal (cgetRange m.mem (k + 512 + 2 * i) 2))
    let st := csetRange [] 0 ((chunks 4 512 (cgetRange m.mem (k + 1024) 2048)).map fun w => BitVec.ofNat 32 w)
    m.updNmu pc fun u => { u with power := .awake, b := bs, k := ks, store := st }

/-- The parked PCs that bytes of memory lie in make their exit: what the device reads and writes for itself does not wait (R310).
(DEDUCED, log 33) -/
def Mach.wake (m : Mach) (ss : List (Loc × Nat)) : Mach :=
  if m.nmus.all fun e => e.2.power == .awake then m else
  ss.foldl (fun m s => match s.1 with
    | .pa a => (m.keyRuns (s.2 / 256 + 2) a s.2).foldl (fun m r => match r.1 with
      | some k => if k < dramEnd then m.parkOut (pcOf k) else m
      | none => m) m
    | _ => m) m

/-! ### Page walk -/

/-- Bytes of memory at a physical address as a walk for context c sees them: its own buffered stores on top, for a queued
vector-side instruction or an engine those that are older (R151, R186). -/
def Mach.readSeen (m : Mach) (c pa n : Nat) : List Byte :=
  let base := m.readPa pa n
  let sb : List SbEnt := match m.seen with
    | some limit => (m.ctx c).sb.filter fun (e : SbEnt) => decide (e.after < limit)
    | none => (m.ctx c).sb
  if sb.isEmpty then base else
  sb.foldl (fun bs e => e.segs.foldl (fun bs s => match s.1 with
    | .pa a => bs.zipIdx.map fun b =>
        if a ≤ pa + b.2 && pa + b.2 < a + s.2.length then nthD 0 s.2 (pa + b.2 - a) else b.1
    | _ => bs) bs) base

/-- Whether a translation of c's address has to wait: an older atomic of the context is buffered, which its page walk must follow like a
scalar load (R186, R253). A cached translation needs no walk. -/
def Mach.amoAhead (m : Mach) (c : Nat) : Bool :=
  (m.ctx c).sb.any fun e => (match m.seen with | some limit => decide (e.after < limit) | none => true) && match e.op with
    | .amo _ _ _ _ _ => true
    | _ => false

/-- Whether an access to n bytes at an address has to wait for such a walk. -/
def Mach.walkWaits (m : Mach) (c va n : Nat) : Bool :=
  m.amoAhead c && !isWindow va && [va, (va + n - 1) % 2 ^ 64].any fun a =>
    !((m.pair (pairOf c)).tlb.any fun e => e.q == m.qOf c && decide (e.va ≤ a) && decide (a < e.va + e.size))

/-- The walk of R136 down from a table, as far as the leaf: its entry and level. Poison in a table, and a table outside the partition,
raise nothing: the bytes count as they stand, and as 0 where there are none. (DESIGN CHOICE, log 16; DESIGN CHOICE, log 87) -/
def Mach.walkFrom (m : Mach) (c k va : Nat) : Nat → Nat → Except Flt (Nat × Nat)
  | 0, _ => .error (fltPage 2 k va)
  | lvl + 1, table =>
    let pte := leVal (m.readSeen c (table + va / 2 ^ (12 + 9 * lvl) % 512 * 8) 8)
    if pte % 2 = 0 then .error (fltPage 1 k va)
    else if bitsOf pte 11 9 != 0 || bitsOf pte 63 48 != 0 then .error (fltPage 2 k va)
    else if bitsOf pte 3 1 = 0 then
      if lvl = 0 then .error (fltPage 2 k va)
      else if bitsOf pte 7 4 != 0 then .error (fltPage 2 k va)
      else m.walkFrom c k va lvl (bitsOf pte 47 12 * 4096)
    else if 2 < lvl then .error (fltPage 2 k va)
    else if 0 < lvl && bitsOf pte (11 + 9 * lvl) 12 != 0 then .error (fltPage 4 k va)
    else .ok (pte, lvl)

/-- The cached leaf for an address, if the pair's TLB or a probe bank holds one (R185). -/
def Mach.tlbFind (m : Mach) (c va : Nat) : Option TlbEnt :=
  let p := m.pair (pairOf c)
  let q := m.qOf c
  match p.tlb.find? fun e => e.q == q && e.va ≤ va && va < e.va + e.size with
  | some e => some e
  | none => (p.probe.find? fun e => e.2.q == q && e.2.va ≤ va && va < e.2.va + e.2.size).map Prod.snd

/-- The walk for an address of context c from its partition's root (R136). -/
def Mach.walk (m : Mach) (c k va : Nat) : Except Flt (Nat × Nat) :=
  match m.part (m.qOf c) with
  | some p => m.walkFrom c k va 5 p.e.ptroot.toNat
  | none => .error (fltPage 1 k va)

/-- The leaf an access uses: cached, else walked (R136, R185). -/
def Mach.leaf (m : Mach) (c k va : Nat) : Except Flt (Nat × Nat) :=
  match m.tlbFind c va with
  | some e => .ok (e.pte, e.lvl)
  | none => m.walk c k va

/-- The addresses of the entries that a walk reads. -/
def Mach.walkReads (m : Mach) (c va : Nat) : Nat → Nat → List Nat
  | 0, _ => []
  | lvl + 1, table =>
    let a := table + va / 2 ^ (12 + 9 * lvl) % 512 * 8
    let pte := leVal (m.readSeen c a 8)
    if pte % 2 = 0 || bitsOf pte 3 1 != 0 || bitsOf pte 11 9 != 0 || bitsOf pte 63 48 != 0 || bitsOf pte 7 4 != 0 then [a]
    else a :: m.walkReads c va lvl (bitsOf pte 47 12 * 4096)

/-- Whether a leaf is one of a page of 64 KiB: sixteen L0 entries with C64 set, alike but for their frames, which follow one another from
a 64 KiB boundary (R136, R139). Where they are not so, each entry stands for its own 4 KiB. (DESIGN CHOICE, log 88) -/
def Mach.page64 (m : Mach) (c va pte lvl : Nat) : Bool :=
  lvl == 0 && pte.testBit 4 && (List.range 16).all fun i =>
    match m.walk c kRead (va / 65536 * 65536 + i * 4096) with
    | .ok l => l.2 == 0 && l.1 == pte / 65536 * 65536 + i * 4096 + pte % 4096
    | .error _ => false

/-- The size of a walked leaf's page, as a power of 2 (R136). -/
def Mach.leafBits (m : Mach) (c va pte lvl : Nat) : Nat := if m.page64 c va pte lvl then 16 else 12 + 9 * lvl

/-- The physical address under a leaf whose translation covers 2^sz bytes (R136). -/
def leafPa (pte sz va : Nat) : Nat := pte % 2 ^ 48 / 2 ^ sz * 2 ^ sz + va % 2 ^ sz

/-- How many bits of an address its translation leaves alone: those of a cached page, else those of the walked leaf's level. -/
def Mach.keptBits (m : Mach) (c va lvl : Nat) : Nat :=
  match m.tlbFind c va with
  | some e => if e.size = 65536 then 16 else 12 + 9 * lvl
  | none => 12 + 9 * lvl

/-- Check 4 of R138: the region rules; `eng` is the copy engine, which alone reaches the chunk buffers (R422). -/
def Mach.reachOk (m : Mach) (q k pa : Nat) (eng : Bool) : Bool :=
  match m.phys pa with
  | .dram _ s => m.mayReach q s
  | .block _ off s => k != kFetch && off < 0x20_0000 && m.mayReach q s
  | .chunk _ => eng && k != kFetch
  | .aperture _ _ => k != kFetch
  | .none => false

/-- CheckLeaf of R138. -/
def Mach.checkLeaf (m : Mach) (q k pte lvl pa va : Nat) (eng : Bool) : Except Flt Nat :=
  let reg := pa / 2 ^ 46
  let attr := bitsOf pte 7 6
  let regOk := match attr with
    | 0 => reg == 0 || reg == 1
    | 1 => reg == 2
    | _ => reg == 3
  let bk := pte.testBit 5
  if !regOk || (bk && (reg != 0 || 1 < lvl)) || (pte.testBit 4 && lvl != 0) then .error (fltPage 2 k va)
  else
    let r := pte.testBit 1
    let w := pte.testBit 2
    let x := pte.testBit 3
    let perm := if k = kRead || k = kPlural then r
      else if k = kWrite || k = kPst then w
      else if k = kFetch then r && x
      else r && w
    if !perm then .error (fltProt k va)
    else if 5 ≤ k && !bk then .error { code := 0x0A, detail := 0, faddr := va }
    else if !m.reachOk q k pa eng then .error (fltProt k va)
    else .ok pa

/-- Translate (R135, R136, R138) of an address that is no window address. -/
def Mach.translate (m : Mach) (c k va : Nat) (eng : Bool) : Except Flt Nat :=
  if !isCanonical va then .error (fltPage 3 k va)
  else match m.leaf c k va with
    | .error f => .error f
    | .ok l => m.checkLeaf (m.qOf c) k l.1 l.2 (leafPa l.1 (m.keptBits c va l.2) va) va eng

/-- The TLB entry a walk fills: it covers the whole page (R185). -/
def Mach.tlbEnt (m : Mach) (c va pte lvl : Nat) : TlbEnt := let sz := 2 ^ m.leafBits c va pte lvl
  ⟨m.qOf c, va / sz * sz, sz, pte, lvl⟩

/-- A walk leaves its marks: the entries it read are corrected (R463), and a parked PC that it reached comes back (R310). -/
def Mach.walkMarks (m : Mach) (c va : Nat) : Mach :=
  match m.part (m.qOf c) with
  | some p => let ss := (m.walkReads c va 5 p.e.ptroot.toNat).map fun a => (Loc.pa a, 8)
    (m.eccRead ss).wake ss
  | none => m

/-- The first address and the size of the page that an address lies in; of one that no valid leaf maps, the 4 KiB around it. -/
def Mach.pageOf (m : Mach) (c va : Nat) : Nat × Nat :=
  match m.tlbFind c va with
  | some e => (e.va, e.size)
  | none => match m.leaf c kRead va with
    | .ok l => let sz := 2 ^ m.leafBits c va l.1 l.2
      (va / sz * sz, sz)
    | .error _ => (va / 4096 * 4096, 4096)

/-- What a context's translation of an address leaves besides its count: WALK on a miss, and the filled TLB (R185, R212).
(DESIGN CHOICE, log 15; DEDUCED, log 45) -/
def Mach.fillTlb (m : Mach) (c va : Nat) : Mach :=
  match m.tlbFind c va with
  | some _ => m
  | none =>
    let m := (m.count c evWalk 1).walkMarks c va
    match m.walk c kRead va with
    | .ok l => let e := m.tlbEnt c va l.1 l.2
      m.updPair (pairOf c) fun p => { p with tlb := (e :: p.tlb).take 1024 }
    | .error _ => m

/-- A context's translation of an address leaves its mark, TRANSLATE among it (R212). -/
def Mach.touch (m : Mach) (c va : Nat) : Mach :=
  if isWindow va || !isCanonical va then m else (m.count c evTranslate 1).fillTlb c va

/-- A probe of an indexed access: it fills the probe bank of its lane (R141, R212). (DESIGN CHOICE, log 15) -/
def Mach.touchProbe (m : Mach) (c bank va : Nat) : Mach :=
  if isWindow va || !isCanonical va then m else
  let m := (m.count c evTranslate 1).count c evProbe 1
  match m.tlbFind c va with
  | some _ => m
  | none =>
    let m := (m.count c evWalk 1).walkMarks c va
    match m.walk c kRead va with
    | .ok l => let e := m.tlbEnt c va l.1 l.2
      m.updPair (pairOf c) fun p =>
        let es := (bank, e) :: p.probe
        let mine := (es.filter fun e => e.1 == bank).take 64
        { p with probe := mine ++ es.filter fun e => e.1 != bank }
    | .error _ => m

/-! ### Windows -/

/-- The context that holds task e of c's cast now, if it is placed (R130). -/
def Mach.ctxOfTask (m : Mach) (q cast idx : Nat) : Option Nat :=
  (m.ctxs.find? fun e => e.2.status == .running && e.2.task.q == q && e.2.task.cast == cast && e.2.task.idx == idx).map Prod.fst

/-- Which windows an instruction accepts (R130): all, `$sp` only, or none. -/
inductive Win where
  | all
  | sp
  | no
deriving DecidableEq, Repr

/-- The task index that a window address names, for an access of context c. -/
def Mach.windowIdx (m : Mach) (c va : Nat) : Nat := if va / 2 ^ 53 % 2 = 0 then (m.ctx c).task.idx else va / 2 ^ 37 % 65536

/-- The configuration fault of a window address (R130), which comes before every address fault (R296). -/
def Mach.windowCheck (m : Mach) (c va : Nat) : Except Flt Unit :=
  if isWindow va && decide ((m.ctx c).task.size ≤ m.windowIdx c va) then .error (fltConfig 0x1D (m.windowIdx c va)) else .ok ()

/-- Resolution of n bytes at a window address (R129, R130, R125). ILLEGAL_REG of an offset past the grant or the arrays names no
register: its number is 0. (DESIGN CHOICE, log 89) -/
def Mach.window (m : Mach) (c k va n : Nat) (win : Win) : Except Flt (List (Loc × Nat)) :=
  let kind := va / 2 ^ 54 % 4
  let off := va % 2 ^ 24
  let own := va / 2 ^ 53 % 2 = 0
  let e := m.windowIdx c va
  if k = kFetch then .error (fltProt k va)
  else if (m.ctx c).task.size ≤ e then .error (fltConfig 0x1D e)
  else if win == .no || (win == .sp && kind != 2) then .error (fltProt k va)
  else if bitsOf va 36 24 != 0 then .error (fltPage 2 k va)
  else
    let t := m.ctx c
    match (if own then some c else m.ctxOfTask t.task.q t.task.cast e) with
    | none => .error { code := 0x0B, detail := e, faddr := va }
    | some d =>
      let x := m.ctx d
      match kind with
      | 2 =>
        if x.spSize < off + n || x.spSize ≤ off then .error (fltBounds off va)
        else .ok [(.pa (pairBase + pairOf d * pairBlock + x.spBase + off), n)]
      | 1 =>
        if x.sec * 65536 < off + n || x.sec * 65536 ≤ off then .error { code := 0x02, detail := 2 * 256, faddr := va }
        else .ok [(.vr d off, n)]
      | _ =>
        if x.accs * 65536 < off + n || x.accs * 65536 ≤ off then .error { code := 0x02, detail := 2 * 256, faddr := va }
        else .ok [(.acc d off, n)]

/-! ### Resolving an access -/

/-- A piece of l bytes before others: one with the next where they are contiguous at one home, up to 4 KiB. -/
def joinSeg (pa l : Nat) (t : List (Loc × Nat)) : List (Loc × Nat) :=
  match t with
  | (.pa b, k) :: t' => if pa + l = b && pa / 2 ^ 40 = b / 2 ^ 40 && l + k ≤ 4096 then (.pa pa, l + k) :: t' else (.pa pa, l) :: t
  | _ => (.pa pa, l) :: t

/-- The translated pieces of n bytes at a mapped address, page by page (R140). (DEDUCED, log 17) -/
def Mach.pages (m : Mach) (c k : Nat) (eng : Bool) : Nat → Nat → Nat → Except Flt (List (Loc × Nat))
  | 0, _, _ => .ok []
  | fuel + 1, va, n =>
    if n = 0 then .ok [] else
      let l := min n (4096 - va % 4096)
      match m.translate c k va eng with
      | .error f => .error f
      | .ok pa => match m.pages c k eng fuel ((va + l) % 2 ^ 64) (n - l) with
        | .error f => .error f
        | .ok t => .ok (joinSeg pa l t)

/-- Resolves n bytes at address va for an access of kind k by context c: windows (R129, R130) or the page tables. -/
def Mach.resolve (m : Mach) (c k va n : Nat) (win : Win) (eng : Bool := false) : Except Flt (List (Loc × Nat)) :=
  if isWindow va then m.window c k va n win
  else m.pages c k eng (n / 4096 + 2) va n

/-- The marks of an access on the TLB and the counters: one per page touched, whatever its size (R140, R212). -/
def Mach.touchRange (m : Mach) (c : Nat) : Nat → Nat → Nat → Mach
  | 0, _, _ => m
  | fuel + 1, va, n =>
    if n = 0 then m else
      let p := m.pageOf c va
      let l := min n (p.1 + p.2 - va)
      (m.touch c va).touchRange c fuel ((va + l) % 2 ^ 64) (n - l)

def Mach.touchN (m : Mach) (c va n : Nat) : Mach := m.touchRange c (n / 4096 + 2) va n

/-- The aperture target of a location, if it is one. -/
def apertureOf (l : Loc) : Option (Nat × Nat) :=
  match l with
  | .pa a => if a / 2 ^ 46 = 3 then some (a / 2 ^ 40 % 64, a % 2 ^ 40) else none
  | _ => none

/-- The resource that the bytes of a location pass: the memory port, the scratchpad ports, or none of them. -/
def Loc.res (l : Loc) : Option Nat :=
  match l with
  | .pa a => some (if a / 2 ^ 46 = 2 then resSp else resPort)
  | _ => none

/-- The bytes of segments that pass a resource. -/
def bytesOn (r : Nat) (ss : List (Loc × Nat)) : Nat := ((ss.filter fun s => s.1.res == some r).map Prod.snd).sum

/-- Beats of an access to segments: each resource is charged the bytes that pass it, rounded up (R162). -/
def Mach.accessBeats (m : Mach) (c : Nat) (ss : List (Loc × Nat)) : Mach :=
  (m.beats c resPort ((bytesOn resPort ss + 63) / 64)).beats c resSp ((bytesOn resSp ss + 63) / 64)

/-- Beats on the memory port, and on the scratchpad ports, of an operand stream of n bytes whose active elements lie at segments
(R162): every resource that they pass is charged its bytes, and excluded elements count with the memory port where the stream passes
it, else with the scratchpad ports. (DEDUCED, log 12) -/
def streamNeed (n : Nat) (ss : List (Loc × Nat)) : Nat × Nat :=
  let p := bytesOn resPort ss
  let s := bytesOn resSp ss
  if p = 0 then (0, if s = 0 then 0 else (n + 63) / 64) else ((n - s + 63) / 64, (s + 63) / 64)

def Mach.streamBeats (m : Mach) (c n : Nat) (ss : List (Loc × Nat)) : Mach :=
  let b := streamNeed n ss
  (m.beats c resPort b.1).beats c resSp b.2

/-- Whether the PC of a key is parked: what reaches it makes it exit, and waits until it has (R310). (DEDUCED, log 33) -/
def Mach.parkedKey (m : Mach) (k : Nat) : Bool := k < dramEnd && (m.nmu (pcOf k)).power != .awake

/-- Whether segments touch a bank word that an open scatter-add chain holds (R159), or a parked PC (R310). -/
def Mach.chainBusy (m : Mach) (ss : List (Loc × Nat)) : Bool :=
  !(m.chains.isEmpty && m.nmus.all fun e => e.2.power == .awake) && ss.any fun s => match s.1 with
    | .pa a => (m.keyRuns (s.2 / 256 + 2) a s.2).any fun r => match r.1 with
      | some k => m.parkedKey k || m.chains.any fun ch => decide (ch.key < k + r.2) && decide (k < ch.key + 64)
      | none => false
    | _ => false

end Sys2Proof.Machine
end

