-- ==== Sys2Proof/Machine/Barrier.lean ====
section
/-!
DEFINITION. Transaction barriers (R200, R201), the sector counts of copy commands (R422, R426), and the discarding of copy
commands after an engine fault (R302).
-/

namespace Sys2Proof.Machine

open Sys2Proof.Config

/-- A transaction barrier's fields (R200). -/
structure Tb where
  arrp   : Nat
  arrl   : Nat
  secp   : Int
  pcount : Nat
  err    : Bool
  poison : Bool
  rest   : Nat
deriving DecidableEq, Repr

def tbOf (t : Nat) : Tb where
  arrp := bitsOf t 15 0
  arrl := bitsOf t 31 16
  secp := sx 32 (bitsOf t 63 32)
  pcount := bitsOf t 95 64
  err := bitOf t 96
  poison := bitOf t 97
  rest := bitsOf t 127 98

def Tb.word (t : Tb) : Nat :=
  t.arrp % 2 ^ 16 + t.arrl % 2 ^ 16 * 2 ^ 16 + wrapN 32 t.secp * 2 ^ 32 + t.pcount % 2 ^ 32 * 2 ^ 64 +
    t.err.toNat * 2 ^ 96 + t.poison.toNat * 2 ^ 97 + t.rest * 2 ^ 98

/-- The completion of a phase, checked after every update (R201). -/
def Tb.settle (t : Tb) : Tb :=
  if t.arrp = 0 && t.secp == 0 then { t with pcount := (t.pcount + 1) % 2 ^ 32, arrp := t.arrl } else t

/-- A change of SECP, clamped (R201). -/
def Tb.addSec (t : Tb) (n : Int) : Tb :=
  let s := t.secp + n
  let c := max (-0x80000000) (min s 0x7FFFFFFF)
  { t with secp := c, err := t.err || s != c }

def Tb.init (t : Tb) (n : Nat) : Tb := ⟨n, n, 0, t.pcount, false, false, 0⟩

/-- The barrier at a physical address. -/
def Mach.tb (m : Mach) (pa : Nat) : Tb := tbOf (leVal (m.readPa pa 16))

/-- An update of the barrier at a physical address by context c, with the completion check, in one step. -/
def Mach.tbUpd (m : Mach) (c pa : Nat) (f : Tb → Tb) : Mach :=
  match m.keyOf pa with
  | some k => (m.carry (dieOf c) (dieOfKey k) 0 16).poke k (leBytes 16 (f (m.tb pa)).settle.word)
  | none => m

/-- `tbinit` at its home: the word is a defined barrier from now on. -/
def Mach.tbInit (m : Mach) (c pa n : Nat) : Mach :=
  let m := m.tbUpd c pa fun t => t.init n
  { m with tbs := m.tbs.filter (· != pa) }

/-- Iterations of a copy command (R426). -/
def CopyCmd.iters (k : CopyCmd) : Nat := k.nest.foldl (fun n l => n * l.1) 1

/-- Sector count of a copy command (R422, R426). -/
def CopyCmd.sectors (k : CopyCmd) : Nat := k.iters * ((k.len + 63) / 64)

/-- The report of a command to its barrier (R201): its whole count, with ERR and POISON where it failed. -/
def Mach.copyReport (m : Mach) (c : Nat) (k : CopyCmd) (err poison : Bool) : Mach :=
  match k.tb with
  | some off => m.tbUpd c (m.spPa c off) fun t => let t := t.addSec (-(k.sectors : Int))
      { t with err := t.err || err, poison := t.poison || poison }
  | none => m

/-- Lowers the scoreboard counts that a command holds (R97, R259). -/
def Mach.unscore (m : Mach) (held : List (Nat × Nat)) : Mach :=
  held.foldl (fun m h => m.updCtx h.1 fun x => { x with score := mapAt x.score h.2 (· - 1) }) m

/-- The copy commands of the hold that are older than a vector-side stamp. -/
def Ctx.heldCopies (x : Ctx) (limit : Nat) : List CopyCmd :=
  x.hold.filterMap fun h => match h.cmd with
    | .copy k => if h.after < limit then some k else none
    | _ => none

/-- Discards the copy commands younger than a faulted one, in the queue and in the hold, or kept since a pre-emption (R302): how many, and
the machine. -/
def Mach.discardCopies (m : Mach) (c limit : Nat) : Mach × Nat :=
  let x := m.ctx c
  if !x.copyStop then (m, 0) else
  let gone := x.youngCopies ++ x.copyq.map (·.cmd) ++ x.heldCopies limit
  let m := m.unscore (x.copyq.flatMap (·.held))
  let m := gone.foldl (fun m k => m.copyReport c k true false) m
  let keep := fun (h : HoldEnt) => match h.cmd with
    | .copy _ => decide (limit ≤ h.after)
    | _ => true
  (m.updCtx c (fun x => { x with copyq := [], youngCopies := [], copyStop := false, hold := x.hold.filter keep }), gone.length)

end Sys2Proof.Machine
end

