-- ==== Sys2Proof/Machine/Ops.lean ====
section
/-!
DEFINITION. The operations every meaning is built from: register writes with the undo log (R109), the end of a task (R60,
R70), taking an exception and returning from one (R110, R111, R298 to R300), the step of a scalar-side instruction (R324,
R347) and the bookkeeping of the vector queue (R146 to R149, R170).
-/

namespace Sys2Proof.Machine

/-- Why a body does not complete: it raises a fault, or it waits. Either way the machine it leaves is given. -/
inductive Stop where
  | trap (f : Flt) (m : Mach)
  | wait (m : Mach)

/-- What an instruction's body does to the machine. -/
abbrev Body := Mach → Except Stop Mach

/-- The outcome of a meaning. -/
abbrev Out := Host.Outcome State Fault Refusal

/-- A meaning that changes the machine proper only. -/
def onMach (s : State) (f : Mach → Mach) : Out := .next { s with m := f s.m }

/-- Raises a fault from a body. -/
def raise {α : Type} (m : Mach) (f : Flt) : Except Stop α := .error (.trap f m)

/-- Lifts a check into a body. -/
def orRaise {α : Type} (m : Mach) (r : Except Flt α) : Except Stop α :=
  match r with
  | .ok a => .ok a
  | .error f => .error (.trap f m)

/-- Waits: the instruction is tried again. (DESIGN CHOICE, log 7) -/
def hold {α : Type} (m : Mach) : Except Stop α := .error (.wait m)

/-- Waits unless the condition holds. (DESIGN CHOICE, log 7) -/
def waitFor (c : Bool) (m : Mach) : Except Stop Unit := if c then .ok () else .error (.wait m)

/-- Waits with a stall that CLK counts under the given event source (R212). -/
def stallOn {α : Type} (src : Nat) (m : Mach) : Except Stop α := .error (.wait (m.upd fun x => { x with stall := src }))

/-! ### Vector queue bookkeeping -/

/-- Whether a vector-side instruction with stamp at most n has not passed its fault-safe point (R147). -/
def Ctx.unsafeUpTo (x : Ctx) (n : Nat) : Bool := x.vq.any fun e => !e.safe && decide (e.stamp ≤ n)

/-- Whether any dispatched vector-side instruction has not passed its fault-safe point. -/
def Ctx.anyUnsafe (x : Ctx) : Bool := x.vq.any fun e => !e.safe

/-- Undo entries leave once every vector-side instruction dispatched before the write is fault-safe (R109). -/
def Ctx.retireUndo (x : Ctx) : Ctx := { x with undo := x.undo.filter fun u => x.unsafeUpTo u.after }

/-- Logs the old value of a register while a vector-side instruction is not yet fault-safe (R109). -/
def Ctx.log (x : Ctx) (r : UReg) : Ctx := if x.anyUnsafe then { x with undo := ⟨x.stamp, r⟩ :: x.undo } else x

/-- Logged writes of X, VL, a mode register and a format register (R109, R326). -/
def Ctx.setX (x : Ctx) (n : Nat) (v : Word) : Ctx := if n = 0 then x else (x.log (.x n (x.rx n))).wx n v
def Ctx.setVl (x : Ctx) (v : Nat) : Ctx := { x.log (.vl x.vl) with vl := BitVec.ofNat 17 v }
def Ctx.setMd (x : Ctx) (n : Nat) (v : BitVec 32) : Ctx :=
  { x.log (.md n (vecAt 0 x.md n)) with md := vecSet x.md n v }
def Ctx.setFmt (x : Ctx) (n : Nat) (v : BitVec 32) : Ctx :=
  { x.log (.fmt n (vecAt 0 x.fmt n)) with fmt := vecSet x.fmt n v }

def Mach.setX (m : Mach) (n : Nat) (v : Word) : Mach := m.upd fun x => x.setX n v

/-- The completing write of a vector-side instruction to its scalar destination: logged at the instruction's own place in
program order (R347). (DEDUCED, log 46) -/
def Ctx.setXAt (x : Ctx) (stamp n : Nat) (v : Word) : Ctx :=
  if n = 0 then x else
  let x' := if x.unsafeUpTo stamp then { x with undo := ⟨stamp, .x n (x.rx n)⟩ :: x.undo } else x
  x'.wx n v

/-- Restores one register from the log (R110). -/
def Ctx.undo1 (x : Ctx) (r : UReg) : Ctx :=
  match r with
  | .x n v => x.wx n v
  | .vl v => { x with vl := v }
  | .md n v => { x with md := vecSet x.md n v }
  | .fmt n v => { x with fmt := vecSet x.fmt n v }

/-- The squash of R110 and R170 at the instruction with the given stamp: it and all younger vector-side instructions go, the log
made since its dispatch is undone youngest first, and younger stores and commands are removed. (DEDUCED, log 9) -/
def Ctx.squash (x : Ctx) (stamp : Nat) : Ctx :=
  let back := x.undo.filter fun u => decide (stamp ≤ u.after)
  let x := back.foldl (fun x u => x.undo1 u.reg) x
  { x with vq := x.vq.filter (fun e => decide (e.stamp < stamp)),
           undo := x.undo.filter (fun u => decide (u.after < stamp)),
           sb := x.sb.filter (fun e => decide (e.after < stamp)),
           hold := x.hold.filter (fun e => decide (e.after < stamp)),
           pendTrap := none, sleep := none, stall := 0, vstall := 0, counted := [], half := none, pload := none }

/-- The X register a queued instruction writes when it completes (R347), and `fldr`'s mask register (R441). -/
def VOp.xdest (o : VOp) : List Nat :=
  match o with
  | .extr xd _ _ => [xd]
  | .sget xd _ => [xd]
  | .mred _ xd _ => [xd]
  | .vsint xd xa _ _ _ _ => [xd, xa % 64, xa % 64 + 1, xa / 64, xa / 64 + 1]
  | .fldr _ _ _ _ xa => [xa]
  | _ => []

/-- The X register that a buffered atomic writes when it has been performed (R405). -/
def SbOp.xdest (o : SbOp) : Nat :=
  match o with
  | .amo _ d _ _ _ => d
  | _ => 0

/-- Whether the scalar side is held off one of the registers (R347, R405). -/
def Ctx.heldX (x : Ctx) (rs : List Nat) : Bool :=
  (x.vq.any fun e => e.op.xdest.any fun d => d != 0 && rs.contains d) ||
  x.sb.any fun e => e.op.xdest != 0 && rs.contains e.op.xdest

/-! ### The end of a task -/

/-- Whether a context has fabric operations that are not acknowledged: posted ones by a packet of CLS 7, those with a reply by its
acceptance (R265, R280). (DEDUCED, log 50) -/
def Mach.fabOpen (m : Mach) (c : Nat) : Bool :=
  (m.troupe.txq.any fun p => match p.owner with
    | .ctx d _ _ posted => d == c && posted.isSome
    | _ => false) ||
  m.troupe.reqs.any fun r => r.c == c && r.data.isNone && r.err.isNone

/-- Whether nothing of a context is left in its queues (R172, R267, R348). -/
def Mach.drained (m : Mach) (c : Nat) : Bool :=
  let x := m.ctx c
  x.vq.isEmpty && x.sb.isEmpty && x.hold.isEmpty && x.copyq.isEmpty && x.bankq.isEmpty &&
  x.score.all (· == 0) &&
  !(m.nmus.any fun e => (e.2.queue.any fun r => r.run.c == c) || match e.2.cur with
    | some r => r.run.c == c
    | none => false) &&
  !((m.pair (pairOf c)).sq.any fun d => d.c == c) &&
  !(m.chains.any fun ch => ch.ops.any fun o => match o with
    | .delta d _ => d.c == c
    | .vamo _ _ _ _ _ _ d _ => d == c
    | .add _ _ _ _ _ _ _ => false) &&
  !m.fabOpen c &&
  !(m.slots.any fun s => (s.wait.any fun r => r.c == c) || match s.run with
    | some r => r.c == c
    | none => false)

def Mach.cast (m : Mach) (q id : Nat) : Option Cast :=
  match m.part q with
  | some p => p.casts.find? fun k => k.id == id
  | none => none

def Mach.updCast (m : Mach) (q id : Nat) (f : Cast → Cast) : Mach :=
  m.updPart q fun p => { p with casts := p.casts.map fun k => if k.id == id then f k else k }

def Mach.updWindow (m : Mach) (l : Launcher) (f : Window → Window) : Mach :=
  { m with windows := m.windows.map fun w => if w.l = l then f w else w }

/-- Whether a task of the cast stays on the pair, other than on context c. -/
def Mach.castOnPair (m : Mach) (p q id c : Nat) : Bool :=
  (List.range 4).any fun k => let d := p * 4 + k
    d != c && (m.ctx d).status != .idle && (m.ctx d).task.q == q && (m.ctx d).task.cast == id

/-- Releases the named barriers of a cast on a pair (R65); its tasks that a pre-emption saved keep them as they are now (R199). -/
def Mach.freeBars (m : Mach) (p q id : Nat) : Mach :=
  let mine := fun (b : PairBars) => b.q == q && b.cast == id
  let keep := fun (v : Saved) => match (m.pair p).bars.find? mine with
    | some b => if v.ctx.task.q = q && v.ctx.task.cast = id && v.pair = p && v.tag = b.tag then { v with bars := b.bars } else v
    | none => v
  ({ m with saved := m.saved.map keep } : Mach).updPair p fun x => { x with bars := x.bars.filter fun b => !mine b }

/-- Frees a context and its reservations; the cast's named barriers go with its last task on the pair (R65). -/
def Mach.freeCtx (m : Mach) (c : Nat) : Mach :=
  let t := (m.ctx c).task
  let p := pairOf c
  let stay := m.castOnPair p t.q t.cast c
  let m := m.setCtx c .reset
  let m := { m with troupe := { m.troupe with reqs := m.troupe.reqs.filter fun r => r.c != c } }
  if stay then m else m.freeBars p t.q t.cast

/-- A task that has ended and drained enters its launcher's window; the window of its own launches is no longer read (R70,
R72). -/
def Mach.finishTask (m : Mach) (c : Nat) (faulted : Bool) (value : Word) : Mach :=
  let t := (m.ctx c).task
  let m := match m.cast t.q t.cast with
    | none => m
    | some k => (m.updWindow k.launcher fun w => { w with ended := w.ended ++ [Report.mk (k.seq0 + t.idx) t.cast t.idx faulted value] })
        |>.updCast t.q t.cast fun k => { k with ended := k.ended + 1 }
  let m := (m.charge (dieOf c) 4 5 64).updWindow (.task t.q t.cast t.idx) fun w => { w with dead := true, unread := [] }
  let m := { m with windows := m.windows.filter fun w => !(w.dead && w.base == w.next) }
  m.freeCtx c

/-- An ended task whose queues have drained is finished. -/
def Mach.settle (m : Mach) (c : Nat) : Mach :=
  match (m.ctx c).status with
  | .ending f v => if m.drained c then m.finishTask c f v else m
  | _ => m

/-- Ends the task of a context with a status (R60): pending engine faults are dropped, with the commands they discard, and what
its queues still hold runs to completion (R170, R267). -/
def Mach.endTask (m : Mach) (c : Nat) (faulted : Bool) (value : Word) : Mach :=
  let m := (m.discardCopies c ((m.ctx c).stamp + 1)).1
  let m := m.updCtx c fun x => { x with engFaults := [] }
  (m.updCtx c fun x => { x with status := .ending faulted value, sleep := none, stall := 0, pendTrap := none }).settle c

/-! ### Taking an exception, and returning from one -/

/-- FCAUSE of a fault (R107). -/
def Flt.cause (f : Flt) : Word := BitVec.ofNat 64 (f.code + f.detail * 256)

/-- The registers trap entry writes (R113, R298). A sleep whose instruction traps starts from 0 when it is executed again (R295). -/
def Ctx.trapRegs (x : Ctx) (f : Flt) (epc : Word) (word : BitVec 32) : Ctx :=
  { x with fcause := f.cause, faddr := BitVec.ofNat 64 f.faddr, finstr := word, epc := epc,
           vcp := (match x.vq with | [] => epc | e :: _ => e.cap.pc),
           vstart := (match f.vstart with | some v => BitVec.ofNat 17 v | none => x.vstart),
           pdone := (match f.pdone with | some v => BitVec.ofNat 64 v | none => x.pdone),
           pfmask := (match f.pfmask with | some v => BitVec.ofNat 64 v | none => x.pfmask),
           sleep := none, stall := 0, pendTrap := none, counted := [], half := none, pload := none,
           kept := x.kept.filter fun t => t.1 != epc }

/-- DOUBLE_FAULT takes the place of a fault of the first handler instruction (R299). -/
def Flt.doubled (f : Flt) : Flt := { code := 0x12, detail := f.code, faddr := f.faddr }

/-- Trap entry of context c (R298): the fault registers, then the handler at THANDLER, or the end of the task. -/
def Mach.enterTrap (m : Mach) (c : Nat) (f : Flt) (epc : Word) (word : BitVec 32) : Mach :=
  let m := m.count c evTrap 1
  let x := m.ctx c
  if x.firstH && f.code != 0x11 then
    let m := m.updCtx c fun x => x.trapRegs f.doubled epc word
    let m := { m with pfaults := m.pfaults ++ [PFault.mk x.task.q 0x12 f.code] }
    m.endTask c true f.doubled.cause
  else
    let m := m.updCtx c fun x => x.trapRegs f epc word
    if x.thandler = 0 then m.endTask c true f.cause
    else m.updCtx c fun x => { x with pc := x.thandler, firstH := true, inH := x.inH + 1 }

/-- A scalar-side fault: taken at once, or once every older vector-side instruction is fault-safe (R111). -/
def Mach.scalarTrap (m : Mach) (f : Flt) : Mach :=
  let x := m.me
  if x.anyUnsafe then m.upd fun x => { x with pendTrap := some (f, x.pc, x.ir) }
  else m.enterTrap m.cur f x.pc x.ir

/-- A fault of the vector-side instruction e of context c: squash and rollback, then trap entry (R110, R298); while the context is
being pre-empted the fault is recorded instead (R171). For an engine
fault taken at a `qfence`, FINSTR is the word of the instruction that issued the failed command (R301). -/
def Mach.vectorTrap (m : Mach) (c : Nat) (e : VEnt) (f : Flt) : Mach :=
  let m := m.count c evSquash 1
  let word := ((m.ctx c).joinWord).getD e.cap.word
  let m := m.updCtx c fun x => { x.squash e.stamp with firstH := e.first, joinWord := none }
  let m := { m with troupe := { m.troupe with reqs := m.troupe.reqs.filter fun r => !(r.c == c && r.pc == e.cap.pc) } }
  if (m.ctx c).halted then m.updCtx c fun x => { x with savedTrap := x.savedTrap <|> some (f, e.cap.pc, word), pc := e.cap.pc }
  else m.enterTrap c f e.cap.pc word

/-- A buffered atomic finds poison at its home (R121, R150): the trap is taken at the atomic at once. Younger vector-side instructions that can
still fault are squashed, younger stores and commands with them; what younger instructions have completed stays. While the context is being
pre-empted the fault is recorded (R171). (DESIGN CHOICE, log 97) -/
def Mach.lateTrap (m : Mach) (c id : Nat) (f : Flt) (pc : Word) (word : BitVec 32) : Mach :=
  if (m.ctx c).status != .running then m else
  let m := match (m.ctx c).vq.find? fun e => !e.safe with
    | some e => (m.count c evSquash 1).updCtx c fun x => x.squash e.stamp
    | none => m
  let m := m.updCtx c fun x => { x with sb := [], hold := x.hold.filter (fun h => decide (h.mark < id)), firstH := false }
  if (m.ctx c).halted then m.updCtx c fun x => { x with savedTrap := some (f, pc, word), pc := pc }
  else m.enterTrap c f pc word

/-! ### Scalar-side instructions -/

/-- Completion of a scalar-side instruction: the next PC; a completed handler instruction is no longer the first (R299), and
an arrival record of `baraw` does not outlive the next instruction outside a handler (R412). -/
def Mach.retireTo (m : Mach) (pc : Word) : Mach :=
  (m.upd fun x => { x with pc := pc, firstH := false, sleep := none, stall := 0, kept := x.kept.filter (fun t => t.1 != x.pc),
                           counted := [], half := none, pload := none, arrival := if x.inH = 0 then none else x.arrival }).count m.cur evScalarDone 1

def Mach.retire (m : Mach) : Mach := m.retireTo (m.me.pc + 4)

/-- Whether the scalar side may execute an instruction that names the registers: its issue is not stopped (R307), no trap is pending, none of them is held, and
the undo log has room (R109, R111, R347). -/
def Ctx.ready (x : Ctx) (rs : List Nat) : Bool := !x.halted && x.pendTrap.isNone && !x.heldX rs && decide (x.undo.length < 64)

/-- Finishes a body: completion at the next instruction, trap, or waiting. -/
def Mach.finish (r : Except Stop Mach) : Mach :=
  match r with
  | .ok m => m.retire
  | .error (.trap f m) => m.scalarTrap f
  | .error (.wait m) => m

/-- Finishes a body that names its next PC. -/
def Mach.finishTo (r : Except Stop (Mach × Word)) : Mach :=
  match r with
  | .ok p => p.1.retireTo p.2
  | .error (.trap f m) => m.scalarTrap f
  | .error (.wait m) => m

/-- Waits while the undo log has no room for the n registers that an instruction writes (R109). -/
def Mach.undoRoom (m : Mach) (n : Nat) : Except Stop Unit :=
  if m.me.anyUnsafe && decide (64 < m.me.undo.length + n) then stallOn evUndoStall m else .ok ()

/-- A scalar-side instruction that may not execute yet. -/
def Mach.notReady (m : Mach) : Mach :=
  if 64 ≤ m.me.undo.length then m.upd fun x => { x with stall := evUndoStall } else m

/-- The step of a scalar-side instruction that names registers rs (R324, R347). -/
def scalarStep (rs : List Nat) (body : Body) (s : State) : Out :=
  onMach s fun m => if m.me.ready rs then Mach.finish (body m) else m.notReady

/-- The step of a scalar-side instruction that names its next PC. -/
def jumpStep (rs : List Nat) (body : Mach → Except Stop (Mach × Word)) (s : State) : Out :=
  onMach s fun m => if m.me.ready rs then Mach.finishTo (body m) else m.notReady

/-- `rett`: the PC becomes EPC and nothing else changes (R300). -/
def Mach.returnTo (m : Mach) : Mach × Word := (m.upd fun x => { x with inH := x.inH - 1 }, m.me.epc)

/-! ### Vector-side instructions -/

/-- Runs a queued instruction: what it does at its fault-safe point. -/
abbrev VRun := Mach → VEnt → Except Stop Mach

/-- The moment a vector-side instruction leaves the queue (R149): VCP, and VSTART := 0 unless it is a fence or join, which is
no vector instruction of R106. (DEDUCED, log 44) -/
def Ctx.vdone (x : Ctx) (e : VEnt) : Ctx :=
  let rest := x.vq.filter fun v => v.stamp != e.stamp
  { x with vq := rest, vcp := (match rest with | [] => e.cap.pc + 4 | h :: _ => h.cap.pc),
           vstart := (match e.op with | .fence _ => x.vstart | .qfence _ => x.vstart | _ => 0),
           vstall := 0, kept := x.kept.filter (fun t => t.1 != e.cap.pc) }

/-- Completion of vector-side instruction e of context c. -/
def Mach.vcomplete (m : Mach) (c : Nat) (e : VEnt) : Mach := (m.updCtx c fun x => (x.vdone e).retireUndo).count c evVectorDone 1

/-- Dispatch: the entry joins the queue, and the scalar side goes on at the next instruction (R146). -/
def Mach.enqueue (m : Mach) (e : VEnt) : Mach :=
  m.upd fun x => { x with vq := x.vq ++ [e], vcp := (match x.vq with | [] => e.cap.pc | _ => x.vcp) }

/-- The scalar side after a dispatch. -/
def Mach.afterDispatch (m : Mach) : Mach :=
  m.upd fun x => { x with pc := x.pc + 4, firstH := false, stall := 0, stamp := x.stamp + 1,
                          arrival := if x.inH = 0 then none else x.arrival }

/-- What a vector-side instruction captures at dispatch (R101); `k` is its mode register. -/
def Ctx.capture (x : Ctx) (k : Nat) : Cap :=
  let md := vecAt 0 x.md k
  let fs := md.toNat / 2 ^ 17 % 4
  ⟨x.pc, x.ir, md, vecAt 0 x.fmt fs, vecAt 0 x.fmt (fs ^^^ 1), x.vl.toNat⟩

/-- The entry of a vector-side instruction. -/
def Ctx.vent (x : Ctx) (k : Nat) (o : VOp) : VEnt := ⟨x.capture k, o, x.stamp + 1, false, x.firstH, none, 0, false, .none⟩

/-- An instruction dispatched into an empty queue with the vector unit free runs at once; one that must wait stays queued.
(DEDUCED, log 8) -/
def Mach.dispatchNow (m : Mach) (run : VRun) (e : VEnt) : Mach :=
  let m' := (m.enqueue e).afterDispatch
  match run m' e with
  | .ok m2 => m2.vcomplete m.cur e
  | .error (.trap f m2) => m2.vectorTrap m.cur e f
  | .error (.wait m2) => m2

/-- Vector-side instructions that access memory by the ordinary path (R253, R254). -/
def VOp.memory (o : VOp) : Bool :=
  match o with
  | .accld _ _ | .accst _ _ | .accstq _ _ _ | .gath _ _ _ | .ld _ _ | .st _ _ | .lds _ _ _ | .sts _ _ _ | .ldx _ _ _ | .stx _ _ _
  | .stn _ _ _ | .pld _ _ _ _ | .pst _ _ _ | .vamo _ _ _ _ | .vlock _ _ _ | .waitv _ _ _ _ _ _ | .vsint _ _ _ _ _ _ => true
  | .ew _ _ _ _ | .fma _ _ _ _ | .un _ _ _ | .cvt _ _ _ | .cmp _ _ _ _ | .sel _ _ _ _ | .splat _ _ | .extr _ _ _ | .slide _ _ _ _
  | .perm _ _ _ | .vstep _ | .red _ _ _ | .dot _ _ _ | .qnt _ _ _ | .dqnt _ _ _ | .sset _ _ | .sget _ _ | .compr _ _ _ _ | .mlog _ _ _ _
  | .mred _ _ _ | .accop _ _ _ | .accopH _ _ _ | .accsp _ _ _ _ _ | .acczero _ | .accrd _ _ _ | .accwr _ _ _ | .prun _ _ _ | .fence _
  | .qfence _ | .fldr _ _ _ _ _ | .fred _ _ _ => false

/-- Vector arithmetic, which touches no memory and no record (R419). -/
def VOp.arith (o : VOp) : Bool :=
  match o with
  | .ew _ _ _ _ | .fma _ _ _ _ | .un _ _ _ | .cvt _ _ _ | .cmp _ _ _ _ | .sel _ _ _ _ | .splat _ _ | .extr _ _ _ | .slide _ _ _ _
  | .perm _ _ _ | .vstep _ | .red _ _ _ | .dot _ _ _ | .sset _ _ | .sget _ _ | .compr _ _ _ _ | .mlog _ _ _ _ | .mred _ _ _ => true
  | .qnt _ _ _ | .dqnt _ _ _ | .accop _ _ _ | .accopH _ _ _ | .accsp _ _ _ _ _ | .acczero _ | .accrd _ _ _ | .accwr _ _ _ | .accld _ _
  | .accst _ _ | .accstq _ _ _ | .gath _ _ _ | .ld _ _ | .st _ _ | .lds _ _ _ | .sts _ _ _ | .ldx _ _ _ | .stx _ _ _ | .stn _ _ _
  | .pld _ _ _ _ | .pst _ _ _ | .prun _ _ _ | .vamo _ _ _ _ | .vlock _ _ _ | .waitv _ _ _ _ _ _ | .vsint _ _ _ _ _ _ | .fence _
  | .qfence _ | .fldr _ _ _ _ _ | .fred _ _ _ => false

/-- Whether an instruction translates addresses, so that its page walks follow the context's older scalar atomics (R186). -/
def VOp.walks (o : VOp) : Bool :=
  o.memory || match o with
  | .prun _ _ _ => true
  | .fred _ _ _ => true
  | _ => false

/-- The step of a vector-side instruction: `k` its mode register, rs the X registers it reads, `mk` its operation with the
scalar operands captured (R101, R146). (DEDUCED, log 8) -/
def vectorStep (run : VRun) (k : Nat) (rs : List Nat) (mk : Ctx → VOp) (s : State) : Out :=
  onMach s fun m =>
    let x := m.me
    if !x.ready rs then m.notReady
    else if 64 ≤ x.vq.length then m.upd fun x => { x with stall := evVqStall }
    else
      let e := x.vent k (mk x)
      if x.vq.isEmpty && !m.lag && !(e.op.walks && m.amoAhead m.cur) then m.dispatchNow run e else (m.enqueue e).afterDispatch

/-- A change to the queue entry that e stands for. -/
def Ctx.updEnt (x : Ctx) (e : VEnt) (f : VEnt → VEnt) : Ctx :=
  { x with vq := x.vq.map fun (v : VEnt) => if v.stamp = e.stamp then f v else v }

/-- How far entry e has come. -/
def Ctx.progOf (x : Ctx) (e : VEnt) : Prog := ((x.vq.find? fun v => v.stamp == e.stamp).map VEnt.prog).getD .none

/-- Notes how far entry e of the acting context has come. -/
def Mach.note (m : Mach) (e : VEnt) (f : Prog → Prog) : Mach := m.upd fun x => x.updEnt e fun v => { v with prog := f v.prog }

/-- The translations of entry e are marked and counted once, however often it is tried (R212). -/
def Mach.countOnce (m : Mach) (e : VEnt) (f : Mach → Mach) : Mach :=
  if (m.me.progOf e).counted then m else (f m).note e fun p => { p with counted := true }

/-- The same for access `key` of the scalar-side instruction at the PC. -/
def Mach.countKey (m : Mach) (key : Nat) (f : Mach → Mach) : Mach :=
  if m.me.counted.contains key then m else (f m).upd fun x => { x with counted := key :: x.counted }

/-- The machine acting for context c. -/
def Mach.as (m : Mach) (c : Nat) : Mach := { m with cur := c, lag := false }

/-- What a machine came to by acting with the page walks bounded to buffered stores older than a stamp, unbounded again (R186). -/
def Mach.bounded (m : Mach) (limit : Nat) (f : Mach → Mach) : Mach := { f { m with seen := some limit } with seen := none }

/-- Marks entry e fault-safe (R147). -/
def Ctx.markSafe (x : Ctx) (e : VEnt) : Ctx :=
  (x.updEnt e fun v => { v with safe := true }).retireUndo

end Sys2Proof.Machine
end

