-- ==== Sys2Proof/Machine/Fab.lean ====
section
/-!
DEFINITION. Sending on the fabric (R165, R190, R276 to R281, R292): keys, packets, streams, and the requests whose replies an
instruction waits for (R304).
-/

namespace Sys2Proof.Machine

open Sys2Proof.Config

/-- Class codes of R165. -/
def clsReq : Nat := 0
def clsResp : Nat := 1
def clsColl : Nat := 2
def clsLaunch : Nat := 3
def clsMgmt : Nat := 4
def clsCkpt : Nat := 5

def Troupe.mem (t : Troupe) (n : Nat) : Member := nthD .absent t.member n
def Troupe.updMem (t : Troupe) (n : Nat) (f : Member → Member) : Troupe := { t with member := mapAt t.member n f }
def Mach.updTroupe (m : Mach) (f : Troupe → Troupe) : Mach := { m with troupe := f m.troupe }

/-- ASCII bytes of the labels of R292. -/
def lblStream : List Byte := [0x46, 0x52, 0x41, 0x49, 0x4E, 0x47, 0x2D, 0x53, 0x54, 0x52, 0x45, 0x41, 0x4D]
def lblGroup : List Byte := [0x46, 0x52, 0x41, 0x49, 0x4E, 0x47, 0x2D, 0x47, 0x52, 0x4F, 0x55, 0x50]
def lblAck : List Byte := [0x46, 0x52, 0x41, 0x49, 0x4E, 0x47, 0x2D, 0x41, 0x43, 0x4B]

/-- Stream, group-stream and acknowledgement keys of the present generation (R292). -/
def Troupe.streamKey (t : Troupe) (src dst cls : Nat) : List Byte :=
  shake256 32 (t.secret ++ lblStream ++ leBytes 4 t.gen ++ leBytes 8 (t.mem src).chipid.toNat ++
    leBytes 8 (t.mem dst).chipid.toNat ++ leBytes 1 cls)
def Troupe.groupKey (t : Troupe) (src mask cls : Nat) : List Byte :=
  shake256 32 (t.secret ++ lblGroup ++ leBytes 4 t.gen ++ leBytes 8 (t.mem src).chipid.toNat ++ leBytes 8 mask ++ leBytes 1 cls)
def Troupe.ackKey (t : Troupe) (src dst : Nat) : List Byte :=
  shake256 32 (t.secret ++ lblAck ++ leBytes 4 t.gen ++ leBytes 8 (t.mem src).chipid.toNat ++
    leBytes 8 (t.mem dst).chipid.toNat ++ leBytes 1 7)

/-- The GCM nonce (R277). -/
def nonceOf (seq cls src dst : Nat) : List Byte :=
  leBytes 6 seq ++ leBytes 1 cls ++ leBytes 1 src ++ leBytes 1 dst ++ leBytes 3 0

/-- Header P of R276. -/
def hdrOf (cls src dst gen seq len : Nat) (mask : Option Nat) (uns : Bool) : BitVec 192 :=
  BitVec.ofNat 192 (1 + cls % 8 * 2 ^ 4 + (if mask.isSome then 2 ^ 7 else 0) + src % 64 * 2 ^ 8 + (if uns then 2 ^ 14 else 0) +
    dst % 64 * 2 ^ 16 + gen % 256 * 2 ^ 24 + seq % 2 ^ 48 * 2 ^ 32 + len % 8192 * 2 ^ 80 + mask.getD 0 * 2 ^ 128)

/-- Payload bytes that an operation carries. (DEDUCED, log 41) -/
def opLen (o : FabOp) : Nat :=
  match o with
  | .write _ bs _ _ => bs.length
  | .chunk _ _ bs _ _ => bs.length
  | .reply _ _ d _ _ => d.length
  | .record _ bs => bs.length
  | .mgmt _ _ _ b => b.length + 5
  | .ckpt _ bs => bs.length
  | .fred _ ty _ _ es => es.length * tySize ty
  | .ack _ _ _ _ => 16
  | _ => 16

/-- The bytes of the header that a packet carries as associated data (R276). -/
def hdrBytes (h : BitVec 192) : List Byte := leBytes (if h.getLsbD 7 then 24 else 16) h.toNat

/-- The key a packet is sealed with, of the generation that its header names, the present one or the one before (R277): the acknowledgement key for CLS 7, the group-stream key when MC = 1, else the stream
key (R278, R280, R292). -/
def Troupe.keyOf (t : Troupe) (h : BitVec 192) : List Byte :=
  let w := h.toNat
  let t := if bitsOf w 31 24 = t.gen % 256 then t else { t with gen := t.past.1, secret := t.past.2 }
  let cls := bitsOf w 6 4
  let src := bitsOf w 13 8
  let dst := bitsOf w 21 16
  if cls = 7 then t.ackKey src dst
  else if h.getLsbD 7 then t.groupKey src (bitsOf w 191 128) cls
  else t.streamKey src dst cls

/-- The tag a packet with this header and operation must carry. -/
def Troupe.tagOf (t : Troupe) (h : BitVec 192) (o : FabOp) : BitVec 128 :=
  let w := h.toNat
  gcmTag (t.keyOf h) (nonceOf (bitsOf w 79 32) (bitsOf w 6 4) (bitsOf w 13 8) (bitsOf w 21 16)) (hdrBytes h) o

/-- The bytes of an unsecured management packet: the binding header, and the message, of a secured one under the keys of its session (R289).
(DEDUCED, log 41) -/
def opClear (o : FabOp) : List Byte :=
  match o with
  | .mgmt typ code sess body =>
    let msg := BitVec.ofNat 8 code :: body
    [1, BitVec.ofNat 8 typ] ++ leBytes 2 sess ++ (if typ = 1 then (List.range msg.length).map (nthD 0 (Config.secured sess msg)) else msg)
  | _ => []

/-- An unsecured management packet of this chip: class 4, UNS, no tag, generation and number 0 (R289). -/
def Troupe.plain (t : Troupe) (dst : Nat) (o : FabOp) : Packet := ⟨hdrOf clsMgmt t.node dst 0 0 (opClear o).length none true, o, 0, 0⟩

/-- A sealed packet of this chip. -/
def Troupe.seal (t : Troupe) (cls dst seq : Nat) (mask : Option Nat) (o : FabOp) : Packet :=
  let h := hdrOf cls t.node dst t.gen seq (opLen o) mask false
  ⟨h, o, t.tagOf h o, 0⟩

/-! ### Flits (R275) -/

/-- One bit of the CRC-64 of ECMA-182. -/
def crcBit (c : BitVec 64) : BitVec 64 := if c.getLsbD 63 then (c <<< 1) ^^^ 0x42F0E1EBA9EA3693 else c <<< 1

/-- One byte of it. (PRESUMED, log 47) -/
def crcByte (c : BitVec 64) (b : Byte) : BitVec 64 :=
  crcBit (crcBit (crcBit (crcBit (crcBit (crcBit (crcBit (crcBit (c ^^^ (b.zeroExtend 64 <<< 56)))))))))

/-- CRC-64 over bytes: initial value all ones, no reflection, final value inverted. (PRESUMED, log 47) -/
def crc64 (bs : List Byte) : BitVec 64 := ~~~(bs.foldl crcByte (BitVec.allOnes 64))

/-- A flit from the 248 bytes before its CRC. -/
def withCrc (w : Nat) : BitVec 2048 := BitVec.ofNat 2048 (w % 2 ^ 1984 + (crc64 (leBytes 248 w)).toNat * 2 ^ 1984)

/-- A packet's bytes on the wire: header, encrypted payload, tag; of an unsecured one, header and message (R289). -/
def Troupe.wire (t : Troupe) (p : Packet) : List Byte :=
  let w := p.hdr.toNat
  if p.hdr.getLsbD 14 then hdrBytes p.hdr ++ opClear p.op else
  let enc := gcmCipher (t.keyOf p.hdr) (nonceOf (bitsOf w 79 32) (bitsOf w 6 4) (bitsOf w 13 8) (bitsOf w 21 16)) (hdrBytes p.hdr) p.op
  hdrBytes p.hdr ++ (List.range (bitsOf w 92 80)).map (fun i => nthD 0 enc i) ++ leBytes 16 p.tag.toNat

/-- Whether n more packets find room in a stream queue: it holds those that have not left (R145, R165). -/
def Mach.streamRoom (m : Mach) (dst cls n : Nat) : Bool :=
  decide ((m.troupe.txq.filter fun p => p.dst == dst && p.cls == cls && !p.sent).length + n ≤ 256)

/-- Whether a stream of class cls has no place left. -/
def Mach.answersFull (m : Mach) (cls : Nat) : Bool := m.troupe.txq.any fun p => p.cls == cls && !m.streamRoom p.dst cls 1

/-- Whether a port can take no combining operation, or a chain none (R159). -/
def Mach.chainsFull (m : Mach) : Bool :=
  m.chains.any fun ch => decide (32 ≤ ch.ops.length) || decide (64 ≤ (m.chains.filter fun o => o.port == ch.port).length)

/-- Whether the chunk buffers, 64 MiB, cannot take another packet of a send (R116, R436). -/
def Mach.chunksFull (m : Mach) : Bool :=
  decide (0x400_0000 < (m.slots.flatMap fun s => s.held.map fun h => h.bytes.length).sum + 4096)

/-- The pause bits a sub-link's flits carry: class 3 while the pending-cast queue of its partition is full (R167), and class 0 or 2
while no further packet of it can be accepted, since a stream of its replies is full, or a chain, or the chunk buffers (R166). (DEDUCED, log 49) -/
def Mach.pauseOut (m : Mach) (l : Nat) : Nat :=
  (if m.answersFull 1 || m.chainsFull then 1 else 0) + (if m.answersFull 2 || m.chainsFull || m.chunksFull then 4 else 0) +
  if m.parts.any fun p => p.2.e.subl.getLsbD l && decide (128 ≤ (p.2.casts.filter fun k => k.next < k.hdr.ntasks).length) then 8 else 0

/-- A flit of the given type: LSEQ, DATA, the acknowledgement of the data flits heard so far, and the pauses. -/
def Sublink.flitOf (k : Sublink) (pause typ lseq data : Nat) : BitVec 2048 :=
  withCrc (lseq + typ * 2 ^ 12 + data % 2 ^ 1920 * 2 ^ 16 +
    (if k.heard then (k.rxl - 1).toNat * 2 ^ 1936 + 2 ^ 1948 else 0) + pause * 2 ^ 1952)

/-- Sends a data flit with the next LSEQ: it stays among the last 256 in the replay buffer. -/
def Sublink.push (k : Sublink) (pause : Nat) (data : List Byte) : Sublink :=
  let w := k.flitOf pause 1 k.txl.toNat (leVal data)
  let r := k.replay ++ [(k.txl, w, 0)]
  { k with replay := r.drop (r.length - 256), txl := k.txl + 1, out := k.out ++ [w], pauseTx := BitVec.ofNat 8 pause }

/-- Sends a flit that is no data flit: idle, or a replay request. -/
def Sublink.tell (k : Sublink) (pause typ data : Nat) : Sublink :=
  { k with out := k.out ++ [k.flitOf pause typ 0 data], pauseTx := BitVec.ofNat 8 pause }

/-- Whether a sub-link may carry the packets of a partition. -/
def Mach.serves (m : Mach) (q : Option Nat) (l : Nat) : Bool :=
  match q.bind m.part with
  | some e => e.e.subl.getLsbD l
  | none => true

/-- Puts a packet on the first sub-link that is up, serves its partition and is not paused for its class (R165, R166, R281); none
where there is none. -/
def Mach.emit (m : Mach) (q : Option Nat) (p : Packet) : Option Mach :=
  let cls := bitsOf p.hdr.toNat 6 4
  match m.links.find? fun k => k.up && m.serves q k.id && !(cls < 8 && k.pauseRx.getLsbD cls) with
  | none => none
  | some k =>
    let bs := m.troupe.wire p
    let n := (bs.length + 239) / 240
    let pause := m.pauseOut k.id
    let k' := (List.range n).foldl (fun k i => k.push pause ((bs.drop (240 * i)).take 240)) k
    some (({ m with links := m.links.map (fun x => if x.id = k.id then k' else x) } : Mach).iodNote (.fabFlits cls k.id) n)

/-- The packets of the streams leave in order; one that finds no sub-link holds back those behind it (R165). -/
def Mach.pumpStreams : List TxPkt → List (Nat × Nat) → Mach → Mach
  | [], _, m => m
  | p :: t, blocked, m =>
    if p.sent then Mach.pumpStreams t blocked m
    else if blocked.contains (p.dst, p.cls) then Mach.pumpStreams t blocked m
    else match m.emit p.part p.pkt with
      | none => Mach.pumpStreams t ((p.dst, p.cls) :: blocked) m
      | some m =>
        let left := fun (x : TxPkt) => if x.dst = p.dst && x.cls = p.cls && x.pkt.hdr = p.pkt.hdr then { x with sent := true, last := m.cycle } else x
        Mach.pumpStreams t blocked { m with troupe := { m.troupe with txq := m.troupe.txq.map left } }

/-- The packets of no stream, acknowledgements and unsecured ones, leave likewise. -/
def Mach.pumpOthers : List Packet → Mach → Mach
  | [], m => m
  | p :: t, m => match m.emit none p with
    | some m => Mach.pumpOthers t { m with troupe := { m.troupe with out := m.troupe.out.erase p } }
    | none => Mach.pumpOthers t m

/-- A sub-link tells its other end of a pause or a resume that no flit has carried yet (R166, R167). -/
def Mach.pace (m : Mach) : Mach :=
  m.links.foldl (fun m k =>
    let pause := m.pauseOut k.id
    if !k.up || k.pauseTx.toNat = pause then m else
    let m := m.iodNote .pauseSent ((bitList pause 8).filter fun c => !k.pauseTx.getLsbD c).length
    { m with links := m.links.map fun x => if x.id = k.id then x.tell pause 0 0 else x }) m

/-- What the IOD's links do after every step of the device: pauses, and the packets that can leave. (DESIGN CHOICE, log 38) -/
def Mach.pump (m : Mach) : Mach :=
  if m.links.isEmpty then m else
  let m := m.pace
  Mach.pumpStreams m.troupe.txq [] (Mach.pumpOthers m.troupe.out m)

/-- Whether a curtain stalls issue on the fabric (R293). -/
def Mach.curtained (m : Mach) : Bool :=
  match m.troupe.curtain with
  | some k => k.stalled
  | none => false

/-- Whether issue of a packet is stalled by a curtain, or by a full stream queue. -/
def Mach.fabStalled (m : Mach) (dst cls : Nat) : Bool := m.curtained || !m.streamRoom dst cls 1

/-- Whether member n can be reached (R191). -/
def Mach.memberOk (m : Mach) (n : Nat) : Bool := (m.troupe.mem n).state == 2

/-- The next sequence number of a stream. -/
def Mach.txSeq (m : Mach) (dst cls : Nat) : Nat := nthD 0 (m.troupe.mem dst).tx cls

/-- The partition a packet is sent for. -/
def Mach.ownerPart (m : Mach) (o : Owner) : Option Nat :=
  match o with
  | .ctx c _ _ _ => some (m.qOf c)
  | .graph n _ => (m.slots[n]?).map Slot.part
  | .part q => some q
  | .other => none

/-- Puts one packet into a stream's queue: the next sequence number, kept until it is acknowledged (R165, R281). -/
def Mach.send (m : Mach) (dst cls : Nat) (mask : Option Nat) (o : FabOp) (owner : Owner) : Mach :=
  let seq := m.txSeq dst cls
  let pkt := m.troupe.seal cls dst seq mask o
  let e : TxPkt := ⟨dst, cls, seq, pkt, owner, m.ownerPart owner, false, m.cycle, 0, 0⟩
  { m with troupe := { (m.troupe.updMem dst fun x => { x with tx := mapAt x.tx cls (· + 1) }) with txq := m.troupe.txq ++ [e] } }

/-- The answered or outstanding request number key of the instruction at context c's PC. -/
def Mach.findReq (m : Mach) (c : Nat) (pc : Word) (key : Nat) : Option FabReq :=
  m.troupe.reqs.find? fun r => r.c == c && r.pc == pc && r.key == key

/-- Forgets the requests of an instruction. -/
def Mach.dropReqs (m : Mach) (c : Nat) (pc : Word) : Mach :=
  if m.troupe.reqs.isEmpty then m else m.updTroupe fun t => { t with reqs := t.reqs.filter fun r => !(r.c == c && r.pc == pc) }

/-- The fault a failed request raises at its issuer: the destination's PAGE_FAULT or PROT, FABRIC_ABSENT, FABRIC_AUTH or
MEM_POISON (R282, R285, R293, R407). -/
def reqFault (r : FabReq) (code bits va elem : Nat) : Flt :=
  match code with
  | 0x0F => fltAbsent r.dst r.cls va
  | 0x10 => { code := 0x10, detail := r.dst % 64 + r.cls * 64, faddr := va }
  | 0x0C => fltPoison va (if bits = 2 then 2 else 1) elem
  | _ => { code := code, detail := bits, faddr := va }

/-- The bytes of a reply, those that the store buffer gave at the request's issue in their places (R151). -/
def FabReq.bytes (r : FabReq) (d : List Byte) : List Byte :=
  if r.own.isEmpty then d else d.zipIdx.map fun b => ((r.own.find? fun o => o.1 == b.2).map Prod.snd).getD b.1

/-- A request whose reply the instruction waits for: issued when first met, taken when answered (R191, R304, R440); `own` are the bytes that
do not come from the reply (R151). -/
def Mach.request (m : Mach) (c : Nat) (pc : Word) (word : BitVec 32) (key dst cls : Nat) (o : FabOp) (va elem : Nat)
    (own : List (Nat × Byte) := []) : Except Stop (Mach × List Byte) :=
  match m.findReq c pc key with
  | some r => match r.err with
    | some e => .error (.trap (reqFault r e.1 e.2 va elem) (m.dropReqs c pc))
    | none => match r.data with
      | some d => .ok (m, r.bytes d)
      | none => .error (.wait m)
  | none =>
    if m.fabStalled dst cls then .error (.wait m)
    else if !m.memberOk dst then .error (.trap (fltAbsent dst cls va) m)
    else
      let r : FabReq := ⟨c, pc, key, dst, cls, m.txSeq dst cls, own, [], none, none⟩
      let m := m.send dst cls none o (.ctx c word va none)
      .error (.wait (m.updTroupe fun t => { t with reqs := t.reqs ++ [r] }))

/-- A posted operation (R304): its faults are engine faults of queue F. -/
def Mach.post (m : Mach) (c age ord : Nat) (word : BitVec 32) (dst cls : Nat) (o : FabOp) (va : Nat) : Except Stop Mach :=
  if m.fabStalled dst cls then .error (.wait m)
  else if !m.memberOk dst then
    .ok (m.updCtx c fun x => { x with engFaults := x.engFaults ++ [EngFault.mk age ord 3 (fltAbsent dst cls va) word 0] })
  else .ok (m.send dst cls none o (.ctx c word va (some (age, ord))))

end Sys2Proof.Machine
end

