-- ==== Sys2Proof/Machine/Operands.lean ====
section
/-!
DEFINITION. Operand forms: immediates and effective addresses (R311, R331), the fields of a mode register (R101), register
groups and elements (R93, R95), guards, and the checks a vector-side instruction makes before it performs an element (R94,
R103, R104).
-/

namespace Sys2Proof.Machine

/-- Sext(IMM12, 12) as a 64-bit value (R328). -/
def immX (i : BitVec 12) : Word := i.signExtend 64

/-- ea := (X[A] + Sext(IMM12, 12))[63:0] (R331). -/
def Ctx.ea (x : Ctx) (a : BitVec 5) (i : BitVec 12) : Nat := (x.rx a.toNat + immX i).toNat

/-- The branch target PC + Sext(OFF, n) × 4 (R312). -/
def target {n : Nat} (pc : Word) (o : BitVec n) : Word := pc + o.signExtend 64 * 4

/-! ### Buffered bytes (R151) -/

/-- The location i bytes on. -/
def Loc.plus (l : Loc) (i : Nat) : Loc :=
  match l with
  | .pa a => .pa (a + i)
  | .vr c o => .vr c (o + i)
  | .acc c o => .acc c (o + i)

/-- How far location b lies above location a, if they name bytes of one store. -/
def Loc.dist (a b : Loc) : Option Nat :=
  match a, b with
  | .pa x, .pa y => if x ≤ y then some (y - x) else none
  | .vr c x, .vr d y => if c = d && x ≤ y then some (y - x) else none
  | .acc c x, .acc d y => if c = d && x ≤ y then some (y - x) else none
  | _, _ => none

/-- The youngest buffered value of a byte (R151). -/
def bufByte (sb : List SbEnt) (l : Loc) : Option Byte :=
  sb.foldl (fun o e => e.segs.foldl (fun o s => match s.1.dist l with
    | some k => if k < s.2.length then s.2[k]? else o
    | none => o) o) none

/-- n bytes at a location as context c's scalar loads see them. -/
def Mach.readBuf (m : Mach) (c : Nat) (l : Loc) (n : Nat) : List Byte :=
  let bs := m.read l n
  let sb := (m.ctx c).sb
  if sb.isEmpty then bs else bs.zipIdx.map fun b => (bufByte sb (l.plus b.2)).getD b.1

/-- The first poisoned byte that does not come from the store buffer: its offset and where it lies. -/
def Mach.poisonBuf (m : Mach) (c : Nat) : Nat → List (Loc × Nat) → Option (Nat × Nat)
  | _, [] => none
  | o, s :: t =>
    let sb := (m.ctx c).sb
    match (List.range s.2).findSome? fun i =>
        if (bufByte sb (s.1.plus i)).isSome then none else (m.poisonAt (s.1.plus i) 1).map fun p => (o + i, p.2) with
    | some p => some p
    | none => m.poisonBuf c (o + s.2) t

/-- A copy command that writes the issuing task's own window of a kind: 1 register file, 3 accumulators (R129, R334). -/
def copyIntoOwn (x : Ctx) (kind : Nat) (k : CopyCmd) : Bool :=
  isWindow k.dst && k.dst / 2 ^ 54 % 4 == kind && (k.dst / 2 ^ 53 % 2 == 0 || k.dst / 2 ^ 37 % 65536 == x.task.idx)

/-- The wait of R334 for a scalar access through the task's own `$vr` or `$acc` window: older vector-side instructions, the scoreboard bits of
the registers that it names, and the copies into the window. -/
def Mach.ownWindowReady (m : Mach) (c : Nat) (ss : List (Loc × Nat)) : Bool :=
  let x := m.ctx c
  let idle := fun (kind : Nat) => x.vq.isEmpty &&
    !(x.copyq.any fun e => copyIntoOwn x kind e.cmd) &&
    !(x.hold.any fun h => match h.cmd with
      | .copy k => copyIntoOwn x kind k
      | _ => false)
  ss.all fun s => match s.1 with
    | .vr d o => d != c || (idle 1 && (List.range 64).all fun v =>
        !(decide (o < (v + 1) * x.regBytes) && decide (v * x.regBytes < o + s.2)) || nthD 0 x.score v == 0)
    | .acc d _ => d != c || idle 3
    | .pa _ => true

/-- A scalar access to a bank word waits for an older plural load or store of the context, with a stamp up to n, that has not been performed
(R261). (DEDUCED, log 28) -/
def Ctx.pluralAhead (x : Ctx) (n : Nat) (ss : List (Loc × Nat)) : Bool :=
  (x.vq.any fun e => !e.done && decide (e.stamp ≤ n) && match e.op with
    | .pld _ _ _ _ => true
    | .pst _ _ _ => true
    | _ => false) && ss.any fun s => match s.1 with
    | .pa a => decide (a / 2 ^ 46 < 2)
    | _ => false

/-- An ordinary access younger than stamp n waits for an older `fence.xp` (R264). -/
def Ctx.xpAhead (x : Ctx) (n : Nat) : Bool := x.vq.any fun e => !e.done && decide (e.stamp ≤ n) && e.op == .fence 3

/-! ### What an access costs (R121, R162, R163) -/

/-- The marks of a read of segments by context c in network class cls: errors corrected, beats, flits from the homes. -/
def Mach.readCost (m : Mach) (c cls : Nat) (ss : List (Loc × Nat)) : Mach := ((m.eccRead ss).accessBeats c ss).fetchFlits (dieOf c) cls ss

/-! ### Scalar memory access -/

/-- A scalar load waits for an older atomic of the context (R253), for an acquire still in the vector queue (R270), for a `fence.xp` (R264),
and one from an aperture for a `qfence` that names F (R269). -/
def Ctx.loadMayGo (x : Ctx) (ss : List (Loc × Nat)) : Bool :=
  !(x.sb.any fun e => match e.op with | .amo _ _ _ _ _ => true | _ => false) && !x.xpAhead x.stamp &&
  !(x.vq.any fun e => !e.done && match e.op with
    | .vlock _ _ _ => true
    | .waitv _ _ _ _ _ _ => true
    | .qfence q => q.testBit 6 && ss.any fun s => (apertureOf s.1).isSome
    | _ => false)

/-- The first k bytes of segments cut off from the rest (R332). -/
def cutAt : Nat → List (Loc × Nat) → List (Loc × Nat)
  | _, [] => []
  | 0, ss => ss
  | k, s :: t => if s.2 ≤ k then s :: cutAt (k - s.2) t else (s.1, k) :: (s.1.plus k, s.2 - k) :: t

/-- How many bytes of an access of n bytes lie below the first 8-byte boundary inside it, or 0 where there is none (R332). -/
def firstPart (va n : Nat) : Nat := if 8 < va % 8 + n then 8 - va % 8 else 0

/-- The parts of an access, each a segment: they are performed one by one (R332). -/
def inParts (va n : Nat) (ss : List (Loc × Nat)) : List (Loc × Nat) := cutAt (firstPart va n) ss

/-- The buffered bytes among n at a location, by place (R151). -/
def Ctx.buffered (x : Ctx) (l : Loc) (n : Nat) : List (Nat × Byte) :=
  if x.sb.isEmpty then [] else (List.range n).filterMap fun i => (bufByte x.sb (l.plus i)).map fun b => (i, b)

/-- The bytes of segments, from here as the context's scalar loads see them, or by requests numbered from `key` for what the store buffer
does not hold (R151). -/
def Mach.scalarBytes (m : Mach) (key va : Nat) (ss : List (Loc × Nat)) : Except Stop (Mach × List Byte) :=
  ss.zipIdx.foldlM (fun (a : Mach × List Byte) s => match apertureOf s.1.1 with
    | some t =>
      let own := a.1.me.buffered s.1.1 s.1.2
      if own.length = s.1.2 then pure (a.1, a.2 ++ own.map Prod.snd) else do
      let r ← a.1.request m.cur a.1.me.pc a.1.me.ir (key + s.2) t.1 clsReq (.read t.2 s.1.2) va 0 own
      pure (r.1, a.2 ++ r.2)
    | none => pure (a.1, a.2 ++ a.1.readBuf m.cur s.1.1 s.1.2)) (m, [])

/-- The bytes a scalar read of the acting context returns: resolved, ordered, checked for poison (R331 to R334). Of an access of two
parts the second may be read in a later step than the first (R332). -/
def Mach.scalarReadAt (m : Mach) (win : Win) (key va n : Nat) : Except Stop (Mach × List Byte) := do
  let c := m.cur
  waitFor (!m.walkWaits c va n) m
  let m := m.countKey key fun m => m.touchN c va n
  let ss ← orRaise m (m.resolve c kRead va n win)
  waitFor (m.ownWindowReady c ss && !m.chainBusy ss && !m.me.pluralAhead m.me.stamp ss && m.me.loadMayGo ss) m
  match m.poisonBuf c 0 ss with
  | some p => raise (m.eccRead ss) (fltPoison ((va + p.1) % 2 ^ 64) p.2 0)
  | none =>
    let ps := inParts va n ss
    match ps, m.me.half with
    | a :: b :: [], some h =>
      if h.1 = BitVec.ofNat 64 va then do
        let r ← m.scalarBytes (key + 1) va [b]
        pure ((r.1.readCost c 0 ss).upd fun x => { x with half := none }, h.2 ++ r.2)
      else do
        let r ← m.scalarBytes key va [a, b]
        pure (r.1.readCost c 0 ss, r.2)
    | a :: _ :: [], none =>
      if m.lag then do
        let r ← m.scalarBytes key va [a]
        hold (r.1.upd fun x => { x with half := some (BitVec.ofNat 64 va, r.2) })
      else do
        let r ← m.scalarBytes key va ps
        pure (r.1.readCost c 0 ss, r.2)
    | _, _ => do
      let r ← m.scalarBytes key va ps
      pure (r.1.readCost c 0 ss, r.2)

/-- One scalar read of an instruction. -/
def Mach.scalarRead (m : Mach) (va n : Nat) : Except Stop (Mach × List Byte) := do
  let r ← m.scalarReadAt .all 0 va n
  pure (r.1.dropReqs r.1.cur r.1.me.pc, r.2)

/-- A checked and translated store, or atomic, enters the store buffer with its number in program order (R150). -/
def Mach.buffer (m : Mach) (op : SbOp) (va : Nat) (segs : List (Loc × List Byte)) : Mach :=
  m.upd fun x => { x with sb := x.sb ++ [⟨x.stamp, x.sbNext, op, va, x.ir, segs⟩], sbNext := x.sbNext + 1 }

/-- A scalar store enters the store buffer, checked and translated, in parts; a curtain stalls the issue of one to an aperture (R150, R293, R331
to R334). -/
def Mach.scalarStoreAt (m : Mach) (key va : Nat) (bs : List Byte) : Except Stop Mach := do
  let c := m.cur
  waitFor (!m.walkWaits c va bs.length) m
  let m := m.countKey key fun m => m.touchN c va bs.length
  let ss ← orRaise m (m.resolve c kWrite va bs.length .all)
  waitFor (m.ownWindowReady c ss && !(m.curtained && ss.any fun s => (apertureOf s.1).isSome)) m
  if 32 ≤ m.me.sb.length then stallOn evSbStall m else
  pure (m.buffer .store va (segBytes (inParts va bs.length ss) bs))

/-- The scalar store of an instruction. -/
def Mach.scalarStore (m : Mach) (va : Nat) (bs : List Byte) : Except Stop Mach := m.scalarStoreAt 0 va bs

/-- n scalar loads of w bytes that an instruction makes of an image or descriptor, numbered from `key` (R445). -/
def Mach.loadsFrom (m : Mach) (win : Win) (key va w : Nat) : Nat → Except Stop (Mach × List Byte)
  | 0 => .ok (m, [])
  | n + 1 => do
    let r ← m.loadsFrom win key va w n
    let b ← r.1.scalarReadAt win (key + 2 * n) ((va + w * n) % 2 ^ 64) w
    pure (b.1, r.2 ++ b.2)

/-- An image of n doublewords. -/
def Mach.imageRead (m : Mach) (va n : Nat) : Except Stop (Mach × List Byte) := do
  let r ← m.loadsFrom .all 0 va 8 n
  pure (r.1.dropReqs r.1.cur r.1.me.pc, r.2)

/-! ### Mode register fields (R101) -/

def mdGm (r : Nat) : Nat := bitsOf r 3 0
def mdGe (r : Nat) : Bool := bitOf r 4
def mdGi (r : Nat) : Bool := bitOf r 5
def mdTy (r : Nat) : Nat := bitsOf r 10 6
def mdRm (r : Nat) : Nat := bitsOf r 13 11
def mdSat (r : Nat) : Bool := bitOf r 14
def mdG (r : Nat) : Nat := 2 ^ bitsOf r 16 15
def mdFs (r : Nat) : Nat := bitsOf r 18 17
def mdTid (r : Nat) : Nat := bitsOf r 30 19

/-- The number of each mode register (R297, R102). -/
def mdv : Nat := 0
def mdm : Nat := 1
def mdl : Nat := 2
def mdp : Nat := 3

def Cap.ty (k : Cap) : Nat := mdTy k.md.toNat
def Cap.rm (k : Cap) : Nat := mdRm k.md.toNat
def Cap.sat (k : Cap) : Bool := mdSat k.md.toNat
def Cap.g (k : Cap) : Nat := mdG k.md.toNat
def Cap.fs (k : Cap) : Nat := mdFs k.md.toNat
def Cap.tid (k : Cap) : Nat := mdTid k.md.toNat
def Cap.rdn (k : Cap) : Bool := k.rm == 2
def Cap.tyv (k : Cap) : Ty := tyOf k.ty k.fmt.toNat
def Cap.size (k : Cap) : Nat := tySize k.ty

/-! ### Vector length and groups -/

/-- MAXVL of an element size for the context's grant and register count (R94). -/
def Ctx.maxvlOf (x : Ctx) (e : Nat) : Nat := if x.sec = 0 then 0 else x.sec * 65536 / (8 * 2 ^ x.vregs * e)

/-- The MAXVL CSR: for MDV's type, 0 while it is reserved (R94, R106). -/
def Ctx.maxvl (x : Ctx) : Nat :=
  let t := mdTy (vecAt 0 x.md 0).toNat
  if tyCodeOk t then x.maxvlOf (tySize t) else 0

/-- Whether v names a group of g registers (R80, R95). -/
def Ctx.regOk (x : Ctx) (v g : Nat) : Bool := v % g == 0 && v + g ≤ x.nregs

/-- ILLEGAL_REG of the first operand group that does not exist (R95, R295). -/
def Ctx.checkRegs (x : Ctx) (rs : List (Nat × Nat)) : Except Flt Unit :=
  match rs.find? fun r => !x.regOk r.1 r.2 with
  | some r => .error (fltReg r.1 0)
  | none => .ok ()

/-- Guard bit of element i (R98, R101): `guardMask` is the mask read at the start. -/
def guardBit (md mask i : Nat) : Bool := if mdGe md then mask.testBit i != mdGi md else true

/-- The mask a guard reads (R103). -/
def Ctx.guard (x : Ctx) (md : Nat) : Nat := vecAt 0 x.masks (mdGm md)

/-- Whether element i is active: guard, VSTART and VL. -/
def Ctx.active (x : Ctx) (k : Cap) (i : Nat) : Bool :=
  decide (x.vstart.toNat ≤ i) && decide (i < k.vl) && guardBit k.md.toNat (x.guard k.md.toNat) i

/-- ILLEGAL_CONFIG 0x11 of a mode register (R103, R297). -/
def fltMode (r : Nat) : Flt := fltConfig 0x11 r

/-- The check of RM codes, and of SR with an integer type where the instruction computes elements (R103). -/
def modeCheck (r : Nat) (k : Cap) (computes : Bool) : Except Flt Unit :=
  if !tyCodeOk k.ty || 6 ≤ k.rm || (computes && k.rm == 5 && tyIsInt k.ty) then .error (fltMode r) else .ok ()

/-- The check of the format register that a narrow float reads (R104). -/
def fmtCheck (k : Cap) (ty : Nat) : Except Flt Unit :=
  if ty = 3 && !fmtValid k.fmt.toNat then .error (fltConfig 0x12 k.fs) else .ok ()

/-- VL above MAXVL(t) (R94). -/
def vlCheck (x : Ctx) (k : Cap) (e : Nat) : Except Flt Unit :=
  if x.maxvlOf e < k.vl then .error (fltConfig 0x10 0) else .ok ()

/-! ### Elements -/

/-- The code of element i of row g of group v (R93, R95): element e bytes wide. -/
def Ctx.elem (x : Ctx) (v g i e : Nat) : Nat := leVal (x.vread (v + g) (i * e) e)

/-- The row of n elements of register v, as codes. -/
def Ctx.row (x : Ctx) (v n e : Nat) : List Nat := chunks e n (x.vread v 0 (n * e))

/-- Writes the given elements of a row, element i from the i-th entry where there is one: bytes, dirty bit, VHWM (R96). -/
def Ctx.putRow (x : Ctx) (v e : Nat) (vals : List (Option Nat)) : Ctx :=
  let us := vals.zipIdx.flatMap fun p => match p.1 with
    | none => []
    | some c => (leBytes e c).zipIdx.map fun b => (Ctx.vkey v (p.2 * e + b.2), b.1)
  match us.getLast? with
  | none => x
  | some l => { x with vrf := csetAll us x.vrf,
                       vdirty := x.vdirty ||| BitVec.ofNat 64 (2 ^ v),
                       vhwm := BitVec.ofNat 17 (max x.vhwm.toNat (l.1 - v * 65536 + 1)),
                       vrPoison := if x.vrPoison.isEmpty then [] else
                         x.vrPoison.filter fun u => !((List.range 8).all fun i => us.any fun b => b.1 == u + i) }

/-- Writes rows of a register group. -/
def Ctx.putRows (x : Ctx) (v e : Nat) (rows : List (List (Option Nat))) : Ctx :=
  rows.zipIdx.foldl (fun x r => x.putRow (v + r.2) e r.1) x

/-- Whether a copy is outstanding into one of the registers (R97). -/
def Ctx.scored (x : Ctx) (rs : List (Nat × Nat)) : Bool :=
  rs.any fun r => (List.range r.2).any fun i => nthD 0 x.score (r.1 + i) != 0

/-- Poison in the first n bytes of a register group: the first poisoned element (R121). -/
def Ctx.poisonRow (x : Ctx) (v g n e : Nat) : Option Nat :=
  if x.vrPoison.isEmpty then none else
  (List.range n).find? fun i => (List.range g).any fun r => (List.range e).any fun b =>
    x.vrPoison.contains (Ctx.vkey (v + r) (i * e + b) / 8 * 8)

/-- Writes bits 0 to VL − 1 of a mask where `bits` gives one (R98). -/
def Ctx.putMask (x : Ctx) (n : Nat) (bits : List (Option Bool)) : Ctx :=
  let old := vecAt 0 x.masks n
  let v := bits.zipIdx.foldl (fun v b => match b.1 with
    | some s => setBit v b.2 s
    | none => v) old
  { x with masks := vecSet x.masks n v }

end Sys2Proof.Machine
end

