-- ==== Sys2Proof/Machine/Scalar.lean ====
section
/-!
DEFINITION. Scalar and control instructions but for CSRs and configuration (R324 to R338, R348): one meaning per instruction.
-/

namespace Sys2Proof.Machine

/-- Xd := f(X[A], X[B]) (R327). -/
def alu2 (f : Word → Word → Word) (d a b : BitVec 5) (s : State) : Out :=
  scalarStep [d.toNat, a.toNat, b.toNat] (fun m => .ok (m.setX d.toNat (f (m.me.rx a.toNat) (m.me.rx b.toNat)))) s

/-- Xd := f(X[A]) (R327 to R329). -/
def alu1 (f : Word → Word) (d a : BitVec 5) (s : State) : Out :=
  scalarStep [d.toNat, a.toNat] (fun m => .ok (m.setX d.toNat (f (m.me.rx a.toNat)))) s

/-- A truth value as a register value. -/
def bword (b : Bool) : Word := if b then 1 else 0

def mulhW (a b : Word) : Word := BitVec.ofInt 64 (a.toInt * b.toInt / 2 ^ 64)
def mulhuW (a b : Word) : Word := BitVec.ofNat 64 (a.toNat * b.toNat / 2 ^ 64)

/-- Signed division truncating toward zero; all ones for 0, and −2^63 for −2^63 ÷ −1 (R327). -/
def divW (a b : Word) : Word := if b = 0 then BitVec.allOnes 64 else BitVec.ofInt 64 (a.toInt.tdiv b.toInt)
def divuW (a b : Word) : Word := if b = 0 then BitVec.allOnes 64 else BitVec.ofNat 64 (a.toNat / b.toNat)
def remW (a b : Word) : Word := if b = 0 then a else BitVec.ofInt 64 (a.toInt.tmod b.toInt)
def remuW (a b : Word) : Word := if b = 0 then a else BitVec.ofNat 64 (a.toNat % b.toNat)

/-- Shift counts are b[5:0] (R327). -/
def sllW (a b : Word) : Word := a <<< (b.toNat % 64)
def srlW (a b : Word) : Word := a >>> (b.toNat % 64)
def sraW (a b : Word) : Word := a.sshiftRight (b.toNat % 64)

def clzW (a : Word) : Word := if a = 0 then 64 else BitVec.ofNat 64 (63 - Nat.log2 a.toNat)
def popcW (a : Word) : Word := BitVec.ofNat 64 (bitList a.toNat 64).length

def execAdd (d a b : BitVec 5) (s : State) : Out := alu2 (· + ·) d a b s
def execSub (d a b : BitVec 5) (s : State) : Out := alu2 (· - ·) d a b s
def execMul (d a b : BitVec 5) (s : State) : Out := alu2 (· * ·) d a b s
def execMulh (d a b : BitVec 5) (s : State) : Out := alu2 mulhW d a b s
def execMulhu (d a b : BitVec 5) (s : State) : Out := alu2 mulhuW d a b s
def execDiv (d a b : BitVec 5) (s : State) : Out := alu2 divW d a b s
def execDivu (d a b : BitVec 5) (s : State) : Out := alu2 divuW d a b s
def execRem (d a b : BitVec 5) (s : State) : Out := alu2 remW d a b s
def execRemu (d a b : BitVec 5) (s : State) : Out := alu2 remuW d a b s
def execAnd (d a b : BitVec 5) (s : State) : Out := alu2 (· &&& ·) d a b s
def execOr (d a b : BitVec 5) (s : State) : Out := alu2 (· ||| ·) d a b s
def execXor (d a b : BitVec 5) (s : State) : Out := alu2 (· ^^^ ·) d a b s
def execSll (d a b : BitVec 5) (s : State) : Out := alu2 sllW d a b s
def execSrl (d a b : BitVec 5) (s : State) : Out := alu2 srlW d a b s
def execSra (d a b : BitVec 5) (s : State) : Out := alu2 sraW d a b s
def execSlt (d a b : BitVec 5) (s : State) : Out := alu2 (fun x y => bword (x.slt y)) d a b s
def execSltu (d a b : BitVec 5) (s : State) : Out := alu2 (fun x y => bword (x.ult y)) d a b s
def execMin (d a b : BitVec 5) (s : State) : Out := alu2 (fun x y => if x.slt y then x else y) d a b s
def execMax (d a b : BitVec 5) (s : State) : Out := alu2 (fun x y => if x.slt y then y else x) d a b s
def execMinu (d a b : BitVec 5) (s : State) : Out := alu2 (fun x y => if x.ult y then x else y) d a b s
def execMaxu (d a b : BitVec 5) (s : State) : Out := alu2 (fun x y => if x.ult y then y else x) d a b s

/-- `sel`: the old Xd is the condition (R327). -/
def execSel (d a b : BitVec 5) (s : State) : Out :=
  scalarStep [d.toNat, a.toNat, b.toNat] (fun m =>
    .ok (m.setX d.toNat (if m.me.rx d.toNat ≠ 0 then m.me.rx a.toNat else m.me.rx b.toNat))) s
def execClz (d a : BitVec 5) (s : State) : Out := alu1 clzW d a s
def execPopc (d a : BitVec 5) (s : State) : Out := alu1 popcW d a s

def execAddi (d a : BitVec 5) (i : BitVec 12) (s : State) : Out := alu1 (· + immX i) d a s
def execAndi (d a : BitVec 5) (i : BitVec 12) (s : State) : Out := alu1 (· &&& immX i) d a s
def execOri (d a : BitVec 5) (i : BitVec 12) (s : State) : Out := alu1 (· ||| immX i) d a s
def execXori (d a : BitVec 5) (i : BitVec 12) (s : State) : Out := alu1 (· ^^^ immX i) d a s
def execSlli (d a : BitVec 5) (i : BitVec 6) (s : State) : Out := alu1 (· <<< i.toNat) d a s
def execSrli (d a : BitVec 5) (i : BitVec 6) (s : State) : Out := alu1 (· >>> i.toNat) d a s
def execSrai (d a : BitVec 5) (i : BitVec 6) (s : State) : Out := alu1 (fun x => x.sshiftRight i.toNat) d a s
def execSlti (d a : BitVec 5) (i : BitVec 12) (s : State) : Out := alu1 (fun x => bword (x.slt (immX i))) d a s
def execSltiu (d a : BitVec 5) (i : BitVec 12) (s : State) : Out := alu1 (fun x => bword (x.ult (immX i))) d a s

/-- Sext(IMM18, 18) × 4,096 (R329). -/
def immU (i : BitVec 18) : Word := i.signExtend 64 * 4096
def execLui (d : BitVec 5) (i : BitVec 18) (s : State) : Out :=
  scalarStep [d.toNat] (fun m => .ok (m.setX d.toNat (immU i))) s
def execAuipc (d : BitVec 5) (i : BitVec 18) (s : State) : Out :=
  scalarStep [d.toNat] (fun m => .ok (m.setX d.toNat (m.me.pc + immU i))) s

/-! ### Scalar F32 (R330) -/

/-- The F32 value in X[31:0]. -/
def f32Of (w : Word) : XV := f32.val (w.toNat % 2 ^ 32)

/-- RM of MDV in program order (R330). -/
def Ctx.mdvRm (x : Ctx) : Nat := mdRm (vecAt 0 x.md 0).toNat

/-- Xd := Zext of an F32 or integer code computed from the two sources under RM; SR and reserved codes fault (R330). -/
def fpu (f : Nat → Word → Word → Nat) (d a b : BitVec 5) (s : State) : Out :=
  scalarStep [d.toNat, a.toNat, b.toNat] (fun m =>
    if 5 ≤ m.me.mdvRm then raise m (fltMode 0)
    else .ok (m.setX d.toNat (BitVec.ofNat 64 (f m.me.mdvRm (m.me.rx a.toNat) (m.me.rx b.toNat))))) s

def execFaddS (d a b : BitVec 5) (s : State) : Out :=
  fpu (fun rm x y => f32.round rm 0 ((f32Of x).add (rm == 2) (f32Of y))) d a b s
def execFsubS (d a b : BitVec 5) (s : State) : Out :=
  fpu (fun rm x y => f32.round rm 0 ((f32Of x).sub (rm == 2) (f32Of y))) d a b s
def execFmulS (d a b : BitVec 5) (s : State) : Out :=
  fpu (fun rm x y => f32.round rm 0 ((f32Of x).mul (f32Of y))) d a b s
def execFdivS (d a b : BitVec 5) (s : State) : Out :=
  fpu (fun rm x y => f32.round rm 0 ((f32Of x).div (f32Of y))) d a b s
def execFminS (d a b : BitVec 5) (s : State) : Out :=
  fpu (fun _ x y => f32.round 0 0 ((f32Of x).minOf (f32Of y))) d a b s
def execFmaxS (d a b : BitVec 5) (s : State) : Out :=
  fpu (fun _ x y => f32.round 0 0 ((f32Of x).maxOf (f32Of y))) d a b s
def execFcvtSL (d a : BitVec 5) (s : State) : Out := fpu (fun rm x _ => f32.round rm 0 (.ofInt x.toInt)) d a 0 s
def execFcvtLS (d a : BitVec 5) (s : State) : Out := fpu (fun rm x _ => intRound true 64 rm 0 (f32Of x)) d a 0 s
def execFltS (d a b : BitVec 5) (s : State) : Out := fpu (fun _ x y => if (f32Of x).lt (f32Of y) then 1 else 0) d a b s
def execFleS (d a b : BitVec 5) (s : State) : Out := fpu (fun _ x y => if (f32Of x).le (f32Of y) then 1 else 0) d a b s
def execFeqS (d a b : BitVec 5) (s : State) : Out := fpu (fun _ x y => if (f32Of x).eq (f32Of y) then 1 else 0) d a b s

/-! ### Loads and stores (R331 to R334) -/

/-- A load of n bytes; `f` extends the value read. -/
def load (n : Nat) (f : Nat → Word) (d a : BitVec 5) (i : BitVec 12) (s : State) : Out :=
  scalarStep [d.toNat, a.toNat] (fun m => do
    let r ← m.scalarRead (m.me.ea a i) n
    pure (r.1.setX d.toNat (f (leVal r.2)))) s

/-- Sign- and zero-extension of an n-bit value. -/
def sextW (n v : Nat) : Word := BitVec.ofInt 64 (sx n v)
def zextW (v : Nat) : Word := BitVec.ofNat 64 v

/-- An acquire: later quantisers of the context use no older snapshot (R246, R270). -/
def Mach.acquire (m : Mach) (c : Nat) : Mach := m.updCtx c fun x => { x with lastAcq := m.cycle }

def execLdB (d a : BitVec 5) (i : BitVec 12) (s : State) : Out := load 1 (sextW 8) d a i s
def execLdBu (d a : BitVec 5) (i : BitVec 12) (s : State) : Out := load 1 zextW d a i s
def execLdH (d a : BitVec 5) (i : BitVec 12) (s : State) : Out := load 2 (sextW 16) d a i s
def execLdHu (d a : BitVec 5) (i : BitVec 12) (s : State) : Out := load 2 zextW d a i s
def execLdW (d a : BitVec 5) (i : BitVec 12) (s : State) : Out := load 4 (sextW 32) d a i s
def execLdWu (d a : BitVec 5) (i : BitVec 12) (s : State) : Out := load 4 zextW d a i s
def execLdD (d a : BitVec 5) (i : BitVec 12) (s : State) : Out := load 8 zextW d a i s
def execLdDAq (d a : BitVec 5) (i : BitVec 12) (s : State) : Out :=
  scalarStep [d.toNat, a.toNat] (fun m => do
    let r ← m.scalarRead (m.me.ea a i) 8
    pure ((r.1.setX d.toNat (zextW (leVal r.2))).acquire m.cur)) s

/-- A store of the low n bytes of X[D]. -/
def store (n : Nat) (d a : BitVec 5) (i : BitVec 12) (s : State) : Out :=
  scalarStep [d.toNat, a.toNat] (fun m => m.scalarStore (m.me.ea a i) (leBytes n (m.me.rx d.toNat).toNat)) s

def execStB (d a : BitVec 5) (i : BitVec 12) (s : State) : Out := store 1 d a i s
def execStH (d a : BitVec 5) (i : BitVec 12) (s : State) : Out := store 2 d a i s
def execStW (d a : BitVec 5) (i : BitVec 12) (s : State) : Out := store 4 d a i s
def execStD (d a : BitVec 5) (i : BitVec 12) (s : State) : Out := store 8 d a i s

/-! ### Branches and jumps (R335 to R337) -/

def branch (c : Word → Word → Bool) (a b : BitVec 5) (o : BitVec 12) (s : State) : Out :=
  jumpStep [a.toNat, b.toNat] (fun m =>
    .ok (m, if c (m.me.rx a.toNat) (m.me.rx b.toNat) then target m.me.pc o else m.me.pc + 4)) s

def execBeq (a b : BitVec 5) (o : BitVec 12) (s : State) : Out := branch (fun x y => x == y) a b o s
def execBne (a b : BitVec 5) (o : BitVec 12) (s : State) : Out := branch (fun x y => x != y) a b o s
def execBlt (a b : BitVec 5) (o : BitVec 12) (s : State) : Out := branch (fun x y => x.slt y) a b o s
def execBge (a b : BitVec 5) (o : BitVec 12) (s : State) : Out := branch (fun x y => !x.slt y) a b o s
def execBltu (a b : BitVec 5) (o : BitVec 12) (s : State) : Out := branch (fun x y => x.ult y) a b o s
def execBgeu (a b : BitVec 5) (o : BitVec 12) (s : State) : Out := branch (fun x y => !x.ult y) a b o s

def execJ (o : BitVec 24) (s : State) : Out := jumpStep [] (fun m => .ok (m, target m.me.pc o)) s
def execCall (o : BitVec 24) (s : State) : Out :=
  jumpStep [31] (fun m => .ok (m.setX 31 (m.me.pc + 4), target m.me.pc o)) s
def execJalr (d a : BitVec 5) (i : BitVec 12) (s : State) : Out :=
  jumpStep [d.toNat, a.toNat] (fun m =>
    .ok (m.setX d.toNat (m.me.pc + 4), BitVec.ofNat 64 (m.me.ea a i / 4 * 4))) s
def execLoop (a : BitVec 5) (o : BitVec 12) (s : State) : Out :=
  jumpStep [a.toNat] (fun m =>
    let v := m.me.rx a.toNat
    .ok (if v = 0 then (m, target m.me.pc o) else (m.setX a.toNat (v - 1), m.me.pc + 4))) s

/-! ### Traps and returns (R300, R447) -/

/-- `rett` waits for older vector-side instructions, as a scalar-side fault would (R111, R447). An arrival record stands only if
the PC goes back to its `baraw` (R413). (DEDUCED, log 42) -/
def execRett (s : State) : Out :=
  onMach s fun m =>
    if !m.me.ready [] || m.me.anyUnsafe then m.notReady
    else
      let kept := m.me.arrival.filter fun a => a.pc == m.me.epc
      let r := m.returnTo
      (r.1.retireTo r.2).upd fun x => { x with arrival := kept }

/-- `trap`: completes, then SOFT_TRAP with EPC at the next instruction (R299, R447). -/
def execTrap (i : BitVec 24) (s : State) : Out :=
  onMach s fun m =>
    if !m.me.ready [] || m.me.anyUnsafe then m.notReady
    else
      let pc := m.me.pc
      let w := m.me.ir
      m.retire.enterTrap m.cur { code := 0x11, detail := i.toNat } (pc + 4) w

/-- `hint`: no operation (R322). -/
def execHint (_k : BitVec 3) (_e : BitVec 24) (s : State) : Out := scalarStep [] (fun m => .ok m) s

end Sys2Proof.Machine
end

