-- ==== Sys2Proof/Machine/Control.lean ====
section
/-!
DEFINITION. CSR access (R105 to R108, R339 to R341), mode registers (R342), grants and vector length (R343 to R345).
-/

namespace Sys2Proof.Machine

/-! ### CSR reads -/

/-- ARCHID (R107): version 1, implementation 0x01, vendor 0x0E7C. -/
def archid : Word := 0x0E7C0101

/-- VDIRTY, VSCORE as bit vectors. -/
def Ctx.vscore (x : Ctx) : Word := BitVec.ofNat 64 (x.score.zipIdx.foldl (fun v e => if e.1 = 0 then v else setBit v e.2 true) 0)

/-- GRANT (R107). -/
def Ctx.grantCsr (x : Ctx) : Word := BitVec.ofNat 64 (x.sec + x.vregs * 16)

/-- The value a `csrr` of number n returns in context c (R105 to R107, R211). -/
def Mach.csr (m : Mach) (c n : Nat) : Word :=
  let x := m.ctx c
  match n with
  | 0x000 => archid
  | 0x001 => BitVec.ofNat 64 Config.tlen
  | 0x002 => BitVec.ofNat 64 x.maxvl
  | 0x003 => x.vl.zeroExtend 64
  | 0x004 => x.vstart.zeroExtend 64
  | 0x005 => x.vcp
  | 0x006 => x.vhwm.zeroExtend 64
  | 0x007 => x.grantCsr
  | 0x008 => x.vshare.zeroExtend 64
  | 0x009 => x.srstep.zeroExtend 64
  | 0x00A => x.pdone
  | 0x00B => x.pfmask
  | 0x00C => x.fcause
  | 0x00D => x.faddr
  | 0x00E => x.finstr.zeroExtend 64
  | 0x00F => x.epc
  | 0x010 => x.thandler
  | 0x011 => x.wdog
  | 0x012 => x.banko.zeroExtend 64
  | 0x013 => BitVec.ofNat 64 (m.troupe.gen % 2 ^ 32)
  | 0x014 => BitVec.ofNat 64 m.cycle
  | 0x015 => BitVec.ofNat 64 x.task.idx
  | 0x016 => BitVec.ofNat 64 (x.task.cast % 2 ^ 32)
  | 0x017 => BitVec.ofNat 64 c
  | 0x018 => BitVec.ofNat 64 x.task.q
  | 0x019 => x.vdirty
  | 0x01A => x.vscore
  | 0x01B => x.adirty.zeroExtend 64
  | 0x01C => x.tscr
  | 0x020 => (vecAt 0 x.md 0).zeroExtend 64
  | 0x021 => (vecAt 0 x.md 1).zeroExtend 64
  | 0x022 => (vecAt 0 x.md 2).zeroExtend 64
  | 0x023 => (vecAt 0 x.md 3).zeroExtend 64
  | 0x024 => (vecAt 0 x.fmt 0).zeroExtend 64
  | 0x025 => (vecAt 0 x.fmt 1).zeroExtend 64
  | 0x026 => (vecAt 0 x.fmt 2).zeroExtend 64
  | 0x027 => (vecAt 0 x.fmt 3).zeroExtend 64
  | _ =>
    if 0x100 ≤ n && n ≤ 0x107 then vecAt 0 (m.pair (pairOf c)).ecnt (n - 0x100)
    else if 0x108 ≤ n && n ≤ 0x10F then vecAt 0 (m.pair (pairOf c)).esel (n - 0x108)
    else 0

/-- The CSRs whose accesses wait until every older vector-side instruction has completed (R340): VSTART, VHWM, GRANT, SRSTEP,
PDONE, PFMASK, VDIRTY, ADIRTY. -/
def csrWaits (n : Nat) : Bool := n == 0x04 || n == 0x06 || n == 0x07 || n == 0x09 || n == 0x0A || n == 0x0B || n == 0x19 || n == 0x1B

/-- `csrr` (R339, R340). -/
def execCsrr (d : BitVec 5) (c : BitVec 12) (s : State) : Out :=
  scalarStep [d.toNat] (fun m =>
    if csrWaits c.toNat && !m.me.vq.isEmpty then hold m
    else .ok (m.setX d.toNat (m.csr m.cur c.toNat))) s

/-! ### CSR writes -/

/-- The write of a context CSR that has no behaviour of its own; reserved bits are discarded (R106, R107, R339). -/
def Ctx.csrWrite (x : Ctx) (n : Nat) (v : Word) : Ctx :=
  match n with
  | 0x03 => x.setVl v.toNat
  | 0x0B => { x with pfmask := v }
  | 0x0C => { x with fcause := v }
  | 0x0D => { x with faddr := v }
  | 0x0E => { x with finstr := v.truncate 32 }
  | 0x0F => { x with epc := v }
  | 0x10 => { x with thandler := v &&& ~~~3 }
  | 0x1C => { x with tscr := v }
  | 0x20 => x.setMd 0 (v.truncate 32 &&& 0x7FFFFFFF)
  | 0x21 => x.setMd 1 (v.truncate 32 &&& 0x7FFFFFFF)
  | 0x22 => x.setMd 2 (v.truncate 32 &&& 0x7FFFFFFF)
  | 0x23 => x.setMd 3 (v.truncate 32 &&& 0x7FFFFFFF)
  | 0x24 => x.setFmt 0 (v.truncate 32 &&& 0xFFFFF)
  | 0x25 => x.setFmt 1 (v.truncate 32 &&& 0xFFFFF)
  | 0x26 => x.setFmt 2 (v.truncate 32 &&& 0xFFFFF)
  | 0x27 => x.setFmt 3 (v.truncate 32 &&& 0xFFFFF)
  | _ => x

/-- The CSRs whose writes are logged and take effect at once (R340): VL, the mode and the format registers. -/
def csrLogged (n : Nat) : Bool := n == 0x03 || 0x20 ≤ n

/-- A CSR write that is not logged waits until every older vector-side instruction is fault-safe, or, for the CSRs of R340's
second row, has completed (R109, R340). -/
def csrWait (x : Ctx) (n : Nat) : Bool :=
  if csrLogged n then false else if csrWaits n then !x.vq.isEmpty else x.anyUnsafe

/-- `csrw` of a CSR without a step of its own (R339). -/
def execCsrw (a : BitVec 5) (c : BitVec 12) (s : State) : Out :=
  scalarStep [a.toNat] (fun m =>
    if csrWait m.me c.toNat then hold m
    else .ok (m.upd fun x => x.csrWrite c.toNat (x.rx a.toNat))) s

/-- `csrw` of VSTART (R106, R340). -/
def execVstartWrite (a : BitVec 5) (s : State) : Out :=
  scalarStep [a.toNat] (fun m =>
    if !m.me.vq.isEmpty then hold m
    else .ok (m.upd fun x => { x with vstart := (x.rx a.toNat).truncate 17 })) s

/-- `csrw` of VSHARE: the weight changes at the next arbitration period (R106). -/
def execVshareWrite (a : BitVec 5) (s : State) : Out :=
  scalarStep [a.toNat] (fun m =>
    if m.me.anyUnsafe then hold m
    else .ok (m.upd fun x => { x with vshareNext := (x.rx a.toNat).truncate 8 })) s

/-- `csrw` of SRSTEP (R206). -/
def execSrstepWrite (a : BitVec 5) (s : State) : Out :=
  scalarStep [a.toNat] (fun m =>
    if !m.me.vq.isEmpty then hold m
    else .ok (m.upd fun x => { x with srstep := (x.rx a.toNat).truncate 32 })) s

/-- `csrw` of PDONE (R108). -/
def execPdoneWrite (a : BitVec 5) (s : State) : Out :=
  scalarStep [a.toNat] (fun m =>
    if !m.me.vq.isEmpty then hold m
    else .ok (m.upd fun x => { x with pdone := x.rx a.toNat })) s

/-- `csrw` of WDOG: 0 is refused with ILLEGAL_CONFIG 0x13 (R106, R339). -/
def execWdogWrite (a : BitVec 5) (s : State) : Out :=
  scalarStep [a.toNat] (fun m =>
    if m.me.anyUnsafe then hold m
    else if m.me.rx a.toNat = 0 then raise m (fltConfig 0x13 0x011)
    else .ok (m.upd fun x => { x with wdog := x.rx a.toNat })) s

/-- `csrw` of BANKTO: the 32-bit field may not become 0 (R106, R339). -/
def execBanktoWrite (a : BitVec 5) (s : State) : Out :=
  scalarStep [a.toNat] (fun m =>
    if m.me.anyUnsafe then hold m
    else if (m.me.rx a.toNat).truncate 32 = (0 : BitVec 32) then raise m (fltConfig 0x13 0x012)
    else .ok (m.upd fun x => { x with banko := (x.rx a.toNat).truncate 32 })) s

/-- Whether the acting context may change what its pair's contexts share: changes of one clk happen in ascending context number, so a
context waits for the next clk once a higher one has changed something in this one (R341, R344). -/
def Mach.pairTurn (m : Mach) : Bool :=
  let w := (m.pair (pairOf m.cur)).wrAt
  !(w.1 == m.cycle && decide (m.cur % 4 < w.2))

/-- A change by the acting context to what its pair shares. -/
def Mach.pairWrite (m : Mach) (f : Pair → Pair) : Mach := m.updPair (pairOf m.cur) fun p => { f p with wrAt := (m.cycle, m.cur % 4) }

/-- `csrw` of ECNTn: the count is replaced and carried events are dropped (R212). -/
def execEcntWrite (a : BitVec 5) (n : BitVec 3) (s : State) : Out :=
  scalarStep [a.toNat] (fun m =>
    if m.me.anyUnsafe || !m.pairTurn then hold m
    else
      let v := m.me.rx a.toNat
      .ok (m.pairWrite fun p => { p with ecnt := vecSet p.ecnt n.toNat v, carry := p.carry.set n.toNat 0 })) s

/-- The ESEL value after a write of v: SRC and CTXM replaced, OVF cleared by a written one, the rest reserved (R211). -/
def eselAfter (old v : Word) : Word :=
  (v &&& 0xFFF) ||| (old &&& 0x1000 &&& ~~~v)

/-- `csrw` of ESELn (R211, R212). -/
def execEselWrite (a : BitVec 5) (n : BitVec 3) (s : State) : Out :=
  scalarStep [a.toNat] (fun m =>
    if m.me.anyUnsafe || !m.pairTurn then hold m
    else
      let v := m.me.rx a.toNat
      .ok (m.pairWrite fun p =>
        { p with esel := vecSet p.esel n.toNat (eselAfter (vecAt 0 p.esel n.toNat) v), carry := p.carry.set n.toNat 0 })) s

/-! ### Mode registers (R318, R342) -/

/-- v with bits [lo + n − 1 : lo] replaced by f. -/
def putBits (v lo n f : Nat) : Nat := v - v / 2 ^ lo % 2 ^ n * 2 ^ lo + f % 2 ^ n * 2 ^ lo

/-- The mode register after the field form of `mode`: keep codes leave their part (R318). (DEDUCED, log 37) -/
def modeFields (old : BitVec 32) (g : BitVec 6) (t : BitVec 5) (rm : BitVec 3) (s : BitVec 2) (p q : BitVec 3) : BitVec 32 :=
  let v := old.toNat
  let v := if g.toNat = 0x3F then v
    else if g.toNat = 0 then putBits v 4 1 0
    else putBits (putBits (putBits v 4 1 1) 0 4 g.toNat) 5 1 (g.toNat / 32)
  let v := if t.toNat = 31 then v else putBits v 6 5 t.toNat
  let v := if rm.toNat = 7 then v else putBits v 11 3 rm.toNat
  let v := if s.toNat = 3 then v else putBits v 14 1 s.toNat
  let v := if p.toNat = 7 then v else putBits v 15 2 p.toNat
  let v := if q.toNat = 7 then v else putBits v 17 2 q.toNat
  BitVec.ofNat 32 v

def execModeField (r : BitVec 2) (g : BitVec 6) (t : BitVec 5) (rm : BitVec 3) (sat : BitVec 2) (p q : BitVec 3) (s : State) : Out :=
  scalarStep [] (fun m => .ok (m.upd fun x => x.setMd r.toNat (modeFields (vecAt 0 x.md r.toNat) g t rm sat p q))) s

def execModeTid (r : BitVec 2) (t : BitVec 12) (s : State) : Out :=
  scalarStep [] (fun m => .ok (m.upd fun x =>
    x.setMd r.toNat (BitVec.ofNat 32 (putBits (vecAt 0 x.md r.toNat).toNat 19 12 t.toNat)))) s

/-! ### Grants and vector length -/

/-- Sections that no context of the pair holds (R78). -/
def Mach.freeSections (m : Mach) (p : Nat) : Nat :=
  8 - ((List.range 4).foldl (fun n k => n + (m.ctx (p * 4 + k)).sec) 0)

/-- Register contents after a change of grant or register count (R79, R96, R98). -/
def Ctx.regrant (x : Ctx) (sec vregs : Nat) : Ctx :=
  let masks := if sec < x.sec then vecOf 16 (fun i => vecAt 0 x.masks i % 2 ^ (sec * 8192)) else x.masks
  if vregs ≠ x.vregs then
    { x with sec := sec, vregs := vregs, vrf := [], vdirty := 0, vhwm := 0, vrPoison := [], masks := masks }
  else
    let y := { x with sec := sec, masks := masks }
    let b := y.regBytes
    if sec < x.sec then
      { y with vrf := x.vrf.filter (fun e => decide (e.1 % 65536 < b)),
               vrPoison := x.vrPoison.filter (fun u => decide (u % 65536 < b)),
               vhwm := BitVec.ofNat 17 (min x.vhwm.toNat b) }
    else y

/-- `vcfg` at a strip boundary (R78, R79, R343). -/
def vcfgBody (d : BitVec 5) (c : BitVec 2) (n : BitVec 4) : Body := fun m =>
  let x := m.me
  if !x.vq.isEmpty || !x.score.all (· == 0) then
    .error (.wait (m.upd fun x => { x with stall := if x.vq.isEmpty then evScoreWait else 0 }))
  else if !m.pairTurn then hold m
  else if x.maxSec < n.toNat || x.maxVregs < c.toNat then raise m (fltConfig 0x1A 0)
  else
    let g := min n.toNat (x.sec + m.freeSections (pairOf m.cur))
    .ok ((m.pairWrite id).upd fun x =>
      let y := x.regrant g c.toNat
      let y := y.setVl (min y.vl.toNat y.maxvl)
      y.setX d.toNat (BitVec.ofNat 64 g))

def execVcfg (d : BitVec 5) (c : BitVec 2) (n : BitVec 4) (s : State) : Out := scalarStep [d.toNat] (vcfgBody d c n) s

/-- `vsetvl` (R345). -/
def execVsetvl (d a : BitVec 5) (s : State) : Out :=
  scalarStep [d.toNat, a.toNat] (fun m => do
    m.undoRoom 2
    pure (m.upd fun x =>
      let v := min (x.rx a.toNat).toNat x.maxvl
      (x.setVl v).setX d.toNat (BitVec.ofNat 64 v))) s

end Sys2Proof.Machine
end

