-- ==== Sys2Proof/Machine/Stats.lean ====
section
/-!
DEFINITION. The tensor identifier table as instructions read it (R174 to R178), statistics records with their flags OVF, RSP and
PSN (R234 to R244), deltas and snapshots (R245 to R252).
-/

namespace Sys2Proof.Machine

/-- A TIT entry's fields (R175). -/
structure Tit where
  v         : Bool
  ty        : Nat
  nfmt      : Nat
  scalebase : Int
  margin    : Int
  rescale   : Nat
  stats     : Bool
  stale     : Nat
deriving DecidableEq, Repr

/-- The fields of a 512-bit entry (R175). -/
def titOf (e : Nat) : Tit where
  v := bitOf e 0
  ty := bitsOf e 5 1
  nfmt := bitsOf e 39 8
  scalebase := sx 8 (bitsOf e 47 40)
  margin := sx 4 (bitsOf e 51 48)
  rescale := bitsOf e 53 52
  stats := bitOf e 54
  stale := bitsOf e 87 64

def Tit.tyv (t : Tit) : Ty := tyOf t.ty t.nfmt
def Tit.blk (t : Tit) : Nat := blkLen (fmtBlk t.nfmt)

def Mach.titAddr (m : Mach) (q t : Nat) : Nat := (match m.part q with | some p => p.e.titbase.toNat | none => 0) + t * 64
def Mach.recAddr (m : Mach) (q t : Nat) : Nat := (match m.part q with | some p => p.e.recbase.toNat | none => 0) + t * 128
def Mach.bstAddr (m : Mach) (q n : Nat) : Nat := (match m.part q with | some p => p.e.bstbase.toNat | none => 0) + n * 32

/-- Entry t as a pair reads it: from its TIT cache, else from memory (R173). After a stray store R174 allows the old bytes too.
(DESIGN CHOICE, log 90) -/
def Mach.titRaw (m : Mach) (p q t : Nat) : Nat :=
  match (m.pair p).titc.find? fun e => e.1 == q && e.2.1 == t with
  | some e => e.2.2
  | none => leVal (m.readPa (m.titAddr q t) 64)

def Mach.tit (m : Mach) (c t : Nat) : Tit := titOf (m.titRaw (pairOf c) (m.qOf c) t)

/-- The device reads n bytes of a table or record for itself: errors are corrected, and a parked PC comes back (R310, R463). -/
def Mach.ownRead (m : Mach) (pa n : Nat) : Mach := (m.eccRead [(.pa pa, n)]).wake [(.pa pa, n)]

/-- The entry read enters the pair's 64-entry TIT cache; the oldest leaves a full one and takes its snapshot with it (R173, R246).
(DESIGN CHOICE, log 15) -/
def Mach.titFill (m : Mach) (c t : Nat) : Mach :=
  let p := pairOf c
  let q := m.qOf c
  if (m.pair p).titc.any fun e => e.1 == q && e.2.1 == t then m
  else
    let raw := m.titRaw p q t
    let m := m.ownRead (m.titAddr q t) 64
    m.updPair p fun x =>
      let l := ((q, t, raw) :: x.titc).take 64
      { x with titc := l, snaps := x.snaps.filter fun s => l.any fun e => e.1 == s.q && e.2.1 == s.tid }

/-- The entry that queue entry e of context c uses throughout: as it read it when it started (R177). -/
def Mach.titUsed (m : Mach) (e : VEnt) (c t : Nat) : Tit :=
  match (m.me.progOf e).tit with
  | some raw => titOf raw
  | none => m.tit c t

/-- It starts: the entry is read, once. -/
def Mach.titStart (m : Mach) (e : VEnt) (c t : Nat) : Mach :=
  if t = 0 || (m.me.progOf e).tit.isSome then m else
  let raw := m.titRaw (pairOf c) (m.qOf c) t
  (m.titFill c t).note e fun p => { p with tit := some raw }

/-- Invalidation of TID t in every pair of the partition (R177): the cached entry and its snapshot. -/
def Mach.titDrop (m : Mach) (q t : Nat) : Mach :=
  { m with pairs := m.pairs.map fun e => (e.1, { e.2 with
      titc := e.2.titc.filter (fun x => !(x.1 == q && x.2.1 == t)),
      snaps := e.2.snaps.filter (fun x => !(x.q == q && x.tid == t)) }) }

/-- Invalidation of the snapshots of t in every pair of the partition (R239). -/
def Mach.snapDrop (m : Mach) (q t : Nat) : Mach :=
  { m with pairs := m.pairs.map fun e => (e.1, { e.2 with snaps := e.2.snaps.filter fun x => !(x.q == q && x.tid == t) }) }

/-! ### Records -/

/-- The record of TID t as a 1,024-bit value (R234). -/
def Mach.record (m : Mach) (q t : Nat) : Nat := leVal (m.readPa (m.recAddr q t) 128)

/-- A write of record or table bytes at their home, part of the device and no store of a program; a parked PC comes back for it (R310). -/
def Mach.pokePa (m : Mach) (pa : Nat) (bs : List Byte) : Mach :=
  (splitRuns (m.keyRuns (bs.length / 256 + 2) pa bs.length) bs).foldl (fun m r => match r.1 with
    | some k => m.poke k r.2
    | none => m) (m.wake [(.pa pa, bs.length)])

/-- The same, by die d: the clocks and the flits that cross (R163, R209). -/
def Mach.pokeFrom (m : Mach) (d pa : Nat) (bs : List Byte) : Mach := (m.cross d 0 [(.pa pa, bs)]).pokePa pa bs

def Mach.setRec (m : Mach) (q t v : Nat) : Mach := m.pokePa (m.recAddr q t) (leBytes 128 v)

/-- floor(log2 maxfinite), none for a format without a finite value (R236). -/
def maxExp (t : Ty) : Option Int := if t.noFinite then none else some (magExp t.maxFinite.1 t.maxFinite.2)

/-- The anchor of an entry (R236). -/
def Tit.anchor (t : Tit) : Nat :=
  match maxExp t.tyv with
  | none => 46
  | some e => (max 46 (min 253 (127 + t.scalebase + e))).toNat

/-- A fresh record: GEN, ANCHOR and SCALE, the rest 0 (R238). -/
def freshRec (oldGen : Nat) (t : Tit) : Nat :=
  (oldGen + 1) % 65536 * 2 ^ 64 + t.anchor % 256 * 2 ^ 96 + wrapN 8 t.scalebase * 2 ^ 104

def recMaxabs (r : Nat) : Nat := bitsOf r 31 0
def recGen (r : Nat) : Nat := bitsOf r 79 64
def recScale (r : Nat) : Int := sx 8 (bitsOf r 111 104)

/-- The image F = Round(|v|, F32, RTZ) of a value (R235). -/
def imageOf (v : XV) : Nat := f32.round 1 0 v.abs

/-- The bin of an image against an anchor (R235). -/
def binOf (aw f : Nat) : Nat :=
  let eb := f / 2 ^ 23
  if eb = 0 || eb + 46 ≤ aw then 0 else if aw + 1 ≤ eb then 47 else eb + 46 - aw

/-- The 48 increments of a list of images. -/
def binsOf (aw : Nat) (fs : List Nat) : List Nat :=
  fs.foldl (fun l f => mapAt l (binOf aw f) (· + 1)) (List.replicate 48 0)

/-- The delta of a list of written values (R242). -/
def deltaOf (q tid aw : Nat) (vals : List XV) (ovf psn : Bool) (x : Option Int) (c : Nat) : Delta :=
  let fin := (vals.filter XV.isFin).map imageOf
  { q := q, tid := tid, aw := aw, pmax := fin.foldl max 0, nf := (vals.filter fun v => !v.isFin).length,
    inc := binsOf aw fin, ovf := ovf, psn := psn, rsp := false, x := x, c := c }

/-- The histogram after a delta (R244). -/
def histAdd (h : List Nat) (s : Int) (inc : List Nat) : List Nat :=
  inc.zipIdx.foldl (fun h e =>
    let j := if e.2 = 0 then 0 else if e.2 = 47 then 47 else (max 0 (min 47 ((e.2 : Int) + s))).toNat
    mapAt h j fun v => min (v + e.1) 65535) h

/-- Application of a delta to a record (R244), with the RSP mark of R251. -/
def recApply (r : Nat) (d : Delta) : Nat :=
  let maxabs := max (recMaxabs r) d.pmax
  let nonfin := min (bitsOf r 63 32 + d.nf) (2 ^ 32 - 1)
  let ovf := bitOf r 80 || d.ovf
  let rsp := bitOf r 81 || d.rsp
  let psn := bitOf r 82 || d.psn
  let anchor := bitsOf r 103 96
  let scale := match d.x with
    | some x => max (recScale r) x
    | none => recScale r
  let hist := histAdd ((List.range 48).map fun k => bitsOf r (256 + 16 * k + 15) (256 + 16 * k)) ((d.aw : Int) - anchor) d.inc
  maxabs + nonfin * 2 ^ 32 + recGen r * 2 ^ 64 + ovf.toNat * 2 ^ 80 + rsp.toNat * 2 ^ 81 + psn.toNat * 2 ^ 82 +
    anchor * 2 ^ 96 + wrapN 8 scale * 2 ^ 104 +
    (hist.zipIdx.foldl (fun v e => v + e.1 * 2 ^ (16 * e.2)) 0) * 2 ^ 256

/-- The entry of a TID as a home or the IOD reads it in memory. -/
def Mach.titHome (m : Mach) (q t : Nat) : Tit := titOf (leVal (m.readPa (m.titAddr q t) 64))

/-- A delta at its record's home: applied in one step; a poisoned or unreachable home is a partition fault and sets PSN where
it can be written (R244, R306). The fault's code is MEM_POISON's, and its detail the TID (DESIGN CHOICE, log 99). A record whose entry has no
STATS any more receives nothing (R176). -/
def Mach.applyDelta (m : Mach) (d : Delta) : Mach :=
  let pa := m.recAddr d.q d.tid
  let m := (m.ownRead (m.titAddr d.q d.tid) 64).ownRead pa 128
  if !((m.titHome d.q d.tid).v && (m.titHome d.q d.tid).stats) then m else
  match m.keyOf pa with
  | none => { m with pfaults := m.pfaults ++ [⟨d.q, 0x0C, d.tid⟩] }
  | some _ =>
    if (m.poisonAt (.pa pa) 128).isSome then
      let m := m.setRec d.q d.tid (m.record d.q d.tid ||| 2 ^ 82)
      { m with pfaults := m.pfaults ++ [⟨d.q, 0x0C, d.tid⟩] }
    else m.setRec d.q d.tid (recApply (m.record d.q d.tid) d)

/-- The deltas of a pair's statistics queue that have reached their homes and are not applied yet: they keep their places (R145). -/
def Mach.sqSent (m : Mach) (p : Nat) : Nat :=
  (m.chains.map fun ch => (ch.ops.filter fun o => match o with
    | .delta _ sq => sq == some p
    | _ => false).length).sum

/-- Room for n deltas in the pair's statistics queue (R145, R158). -/
def Mach.sqRoom (m : Mach) (c n : Nat) : Bool := decide ((m.pair (pairOf c)).sq.length + m.sqSent (pairOf c) + n ≤ 64)

/-- Deltas enter the pair's statistics queue, and their TIDs are those that the context has written (R158, R212, R247). -/
def Mach.pushDeltas (m : Mach) (c : Nat) (ds : List Delta) : Mach :=
  if ds.isEmpty then m else
  ((m.updPair (pairOf c) fun p => { p with sq := p.sq ++ ds }).updCtx c fun x =>
    { x with wrote := (x.wrote ++ ds.map fun d => d.tid).eraseDups }).count c evStatDelta ds.length

/-- The deltas of a write under TID tid, whose entry the writer read as t and whose values are given with the die of their homes
(R241, R242). -/
def Mach.deltasByDie (m : Mach) (c tid : Nat) (t : Tit) (vals : List (Nat × XV)) (ovf psn : Bool) (x : Option Int) : List (Nat × Delta) :=
  if tid = 0 || !t.v || !t.stats then [] else
  let dies := (List.range 5).filter fun d => vals.any fun v => v.1 == d
  let ds := dies.map fun d => (d, deltaOf (m.qOf c) tid t.anchor ((vals.filter fun v => v.1 == d).map Prod.snd) ovf psn x c)
  if ds.isEmpty && (ovf || psn) then [(dieOf c, deltaOf (m.qOf c) tid t.anchor [] ovf psn x c)] else ds

def Mach.deltasFor (m : Mach) (c tid : Nat) (t : Tit) (vals : List (Nat × XV)) (ovf psn : Bool) (x : Option Int) : List Delta :=
  (m.deltasByDie c tid t vals ovf psn x).map Prod.snd

/-- Two deltas of one command for one die, as one (R242). -/
def Delta.merge (a b : Delta) : Delta :=
  { a with pmax := max a.pmax b.pmax, nf := a.nf + b.nf, inc := (a.inc.zip b.inc).map (fun p => p.1 + p.2),
           ovf := a.ovf || b.ovf, psn := a.psn || b.psn, rsp := a.rsp || b.rsp, x := b.x <|> a.x }

/-- A delta added to those that a command has gathered by die. -/
def gather (die : Nat) (d : Delta) (sums : List (Nat × Delta)) : List (Nat × Delta) :=
  if sums.any fun s => s.1 == die then sums.map fun s => if s.1 = die then (die, s.2.merge d) else s else sums ++ [(die, d)]

/-- Whether a write under TID tid sends deltas: an invalid entry raises TID_INVALID (R178). -/
def tidCheck (t : Tit) (tid : Nat) : Except Flt Unit := if tid = 0 || t.v then .ok () else .error (fltTid tid)

/-- The delta that a combining operation is, if it is one. -/
def ChainOp.delta? (o : ChainOp) : Option Delta :=
  match o with
  | .delta d _ => some d
  | .add _ _ _ _ _ _ _ => none
  | .vamo _ _ _ _ _ _ _ _ => none

/-- Whether deltas of context c wait to be applied, or an addition of it that will form one (R247). -/
def Mach.deltasDue (m : Mach) (c : Nat) : Bool :=
  ((m.pair (pairOf c)).sq.any fun d => d.c == c) ||
  m.chains.any fun ch => ch.ops.any fun o => match o with
    | .delta d _ => d.c == c
    | .vamo _ _ _ _ _ tid d _ => d == c && tid != 0
    | .add _ _ _ _ _ _ _ => false

/-- Whether deltas to (q, t) wait anywhere (R239). -/
def Mach.deltasTo (m : Mach) (q t : Nat) : Bool :=
  (m.pairs.any fun e => e.2.sq.any fun d => d.q == q && d.tid == t) ||
  m.chains.any fun ch => ch.ops.any fun o => match o.delta? with
    | some d => d.q == q && d.tid == t
    | none => false

/-- The deltas to (q, t) on their way are dropped (R176). -/
def Mach.deltasDrop (m : Mach) (q t : Nat) : Mach :=
  let keep := fun (d : Delta) => !(d.q == q && d.tid == t)
  { m with pairs := m.pairs.map fun e => (e.1, { e.2 with sq := e.2.sq.filter keep }),
           chains := (m.chains.map fun ch => { ch with ops := ch.ops.filter fun o => match o.delta? with
             | some d => keep d
             | none => true }).filter fun ch => !ch.ops.isEmpty }

/-! ### Snapshots and quantising -/

/-- Whether a cached snapshot may serve a quantiser of context c now (R246). -/
def Mach.snapOk (m : Mach) (c : Nat) (t : Tit) (s : Snap) : Bool :=
  t.stale != 0 && decide (m.cycle - s.time < t.stale) && decide ((m.ctx c).lastAcq < s.time)

def Mach.snapFind (m : Mach) (c tid : Nat) : Option Snap :=
  (m.pair (pairOf c)).snaps.find? fun s => s.q == m.qOf c && s.tid == tid

/-- Whether a record may be read at its home now: no chain is open on its words (R159). -/
def Mach.recReady (m : Mach) (q tid : Nat) : Bool := !m.chainBusy [(.pa (m.recAddr q tid), 128)]

/-- A snapshot fetched at the record's home now (R246). -/
def Mach.snapNow (m : Mach) (q tid : Nat) : Snap := let r := m.record q tid
  ⟨q, tid, recMaxabs r, recGen r, m.cycle⟩

/-- A fetched snapshot takes its place in the pair's TIT cache. -/
def Mach.snapStore (m : Mach) (p : Nat) (s : Snap) : Mach :=
  m.updPair p fun x => { x with snaps := s :: x.snaps.filter fun y => !(y.q == s.q && y.tid == s.tid) }

/-- A cached snapshot that the device uses now: of one that may serve, the manual leaves open whether it does (R246), a free value.
(DEDUCED, log 43) -/
def Mach.snapCached (m : Mach) (c tid : Nat) (t : Tit) : Mach × Option Snap :=
  match m.snapFind c tid with
  | some s => if m.snapOk c t s then ({ m with free := m.free + 1 }, if Config.freeBool m.free then some s else none) else (m, none)
  | none => (m, none)

/-- Which quantiser of a context asks for a snapshot: whether it is a copy command, and its number or stamp. -/
abbrev Who := Bool × Nat

/-- A vector-side quantiser, by its entry. -/
def VEnt.who (e : VEnt) : Who := (false, e.stamp)

/-- The snapshot that has come for a quantiser; and what the context waits for without its kind, or with it asking. -/
def Ctx.snapFor (x : Ctx) (w : Who) : Option Snap := (x.snapReqs.find? fun r => r.copy == w.1 && r.id == w.2).bind SnapReq.snap
def Ctx.dropSnap (x : Ctx) (w : Who) : Ctx := { x with snapReqs := x.snapReqs.filter fun r => r.copy != w.1 }
def Ctx.askSnap (x : Ctx) (w : Who) (tid : Nat) : Ctx := { x with snapReqs := ⟨w.1, w.2, tid, none⟩ :: (x.dropSnap w).snapReqs }

/-- The snapshot a quantiser uses (R246): the one that it waited for, a cached one, or a fresh one, which it waits for while the vector
unit lags behind. (DEDUCED, log 43) -/
def Mach.snapshot (m : Mach) (c : Nat) (w : Who) (tid : Nat) (t : Tit) : Except Stop (Mach × Snap) :=
  let done := fun (m : Mach) => m.updCtx c fun x => if x.snapReqs.isEmpty then x else x.dropSnap w
  match (m.ctx c).snapFor w with
  | some s => .ok (done m, s)
  | none =>
    let r := m.snapCached c tid t
    match r.2 with
    | some s => .ok (done r.1, s)
    | none =>
      if m.lag || !m.recReady (m.qOf c) tid then .error (.wait (r.1.updCtx c fun x => x.askSnap w tid))
      else
        let s := m.snapNow (m.qOf c) tid
        .ok (done ((r.1.ownRead (m.recAddr (m.qOf c) tid) 128).snapStore (pairOf c) s), s)

/-- The types a quantiser writes (R367). -/
def quantTy (ty : Nat) : Bool := ty == 1 || ty == 2 || ty == 3 || ty == 6 || ty == 11 || ty == 7 || ty == 12 || ty == 8 || ty == 13

/-- What a quantiser has decided at its start: the scale in use, whether it clamps, the overflow mark, the scale its delta
carries (R249, R250). -/
structure Quant where
  x     : Int
  gen   : Nat
  clamp : Bool
  ovf   : Bool
  carry : Option Int
deriving DecidableEq, Repr

/-- RESCALE (R251, R295). -/
def fltRescale (tid : Nat) (x : Int) (gen : Nat) : Flt :=
  { code := 0x07, detail := tid % 4096 + wrapN 8 x * 4096 + gen % 65536 * 2 ^ 20 }

/-- The quantiser's overflow check and policy (R249). (DEDUCED, log 19) -/
def quantDecide (tid : Nat) (t : Tit) (s : Snap) : Except Flt Quant :=
  let mx := f32.val s.maxabs
  let x := quantX mx t.tyv t.scalebase t.margin
  let lim : XV := .fin false t.tyv.maxFinite.1 (t.tyv.maxFinite.2 + t.scalebase) false
  let ovr := !mx.isZero && lim.lt mx
  match t.rescale with
  | 0 => if ovr then .error (fltRescale tid x s.gen) else .ok ⟨x, s.gen, false, false, none⟩
  | 1 => .ok ⟨x, s.gen, false, ovr, some x⟩
  | _ => .ok ⟨if ovr then min x t.scalebase else x, s.gen, true, ovr, none⟩

/-- Start of a quantiser once its entry is checked: the snapshot, then the policy; RESCALE sends the mark that sets RSP (R246,
R249, R251). (DEDUCED, log 19) -/
def Mach.quantStart (m : Mach) (c : Nat) (w : Who) (tid : Nat) (t : Tit) : Except Stop (Mach × Quant) := do
  let r ← m.snapshot c w tid t
  match quantDecide tid t r.2 with
  | .ok q => pure (r.1, q)
  | .error f =>
    let d := deltaOf (m.qOf c) tid t.anchor [] false false none c
    .error (.trap f (r.1.pushDeltas c [{ d with rsp := true }]))

/-- The scale a value is encoded with, and the value that encodes, under the saturate policy clamped to ±maxfinite (R250). -/
def quantElem (t : Ty) (clamp : Bool) (x : Int) (v : XV) : XV :=
  let w := v.scale (-x)
  let mf : XV := .fin false t.maxFinite.1 t.maxFinite.2 false
  if clamp && w.isFin && mf.lt w.abs then .fin w.isNeg t.maxFinite.1 t.maxFinite.2 false else w

/-- Whether a finite value is clamped under the saturate policy (R250). -/
def quantClamps (t : Ty) (clamp : Bool) (x : Int) (v : XV) : Bool :=
  let mf : XV := .fin false t.maxFinite.1 t.maxFinite.2 false
  clamp && v.isFin && mf.lt (v.scale (-x)).abs

/-- Splits a list into blocks of n. -/
def blocksOf {α : Type} (n : Nat) : Nat → List α → List (List α)
  | 0, _ => []
  | f + 1, l => if l.isEmpty then [] else l.take n :: blocksOf n f (l.drop n)

/-- Block exponents of a row under tensor scale x; none for an element that takes no part (R233). -/
def rowBlocks (t : Ty) (bs : Nat) (x : Int) (row : List (Option XV)) : List Int :=
  if bs = 0 then [] else
  (blocksOf bs row.length row).map fun b => blockX t (b.filterMap fun v => v.map fun w => w.scale (-x))

/-- A row quantised (R232, R233, R250): the values to round, each with the scale it was encoded with. -/
def quantRow (t : Ty) (bs : Nat) (q : Quant) (row : List (Option XV)) : List (Option (XV × Int)) :=
  let bx := rowBlocks t bs q.x row
  row.zipIdx.map fun e => e.1.map fun v =>
    let x := q.x + (if bs = 0 then 0 else nthD 0 bx (e.2 / bs))
    (quantElem t q.clamp x v, x)

end Sys2Proof.Machine
end

