-- ==== Sys2Proof/Machine/Chain.lean ====
section
/-!
DEFINITION. Scatter-add chains (R159), and the deltas that homes form and receive (R241 to R244).
-/

namespace Sys2Proof.Machine

/-- The port of a bank word: scatter-add unit n serves PC n (R16). -/
def portOf (key : Nat) : Nat := pcOf key

/-- The open chain of a bank word. -/
def Mach.chainOf (m : Mach) (word : Nat) : Option Chain := m.chains.find? fun ch => ch.key == word

/-- Whether n combining operations on a bank word find room: with those its chain holds they are at most 32, or fewer than 64 chains
are open at the port (R159). (DEDUCED, log 49) -/
def Mach.chainRoomN (m : Mach) (word n : Nat) : Bool :=
  match m.chainOf word with
  | some ch => decide (ch.ops.length + n ≤ 32)
  | none => decide ((m.chains.filter fun ch => ch.port == portOf word).length < 64) && decide (n ≤ 32)

def Mach.chainRoom (m : Mach) (word : Nat) : Bool := m.chainRoomN word 1

/-- A combining operation joins the chain of its bank word, or opens one, which the die counts (R213). -/
def Mach.chainAdd (m : Mach) (word : Nat) (o : ChainOp) : Mach :=
  match m.chainOf word with
  | some _ => { m with chains := m.chains.map fun ch => if ch.key = word then { ch with ops := ch.ops ++ [o] } else ch }
  | none =>
    let m := m.dieNote (dieOfKey word) .chainsOpened 1
    { m with chains := m.chains ++ [⟨portOf word, word, [o]⟩] }

/-- The bank word whose chain a record's deltas join: that of an open chain on its words, else its first. None where the record cannot
be reached. -/
def Mach.recWord (m : Mach) (q tid : Nat) : Option Nat :=
  (m.keyOf (m.recAddr q tid)).map fun k =>
    ((m.chains.find? fun ch => decide (k ≤ ch.key) && decide (ch.key < k + 128)).map Chain.key).getD k

/-- Whether n deltas find room at a record's home. -/
def Mach.recRoom (m : Mach) (q tid n : Nat) : Bool :=
  match m.recWord q tid with
  | some w => decide (tid = 0) || m.chainRoomN w n
  | none => true

/-- A delta reaches its record's home and joins or opens a chain; where there is no home the failure shows at once (R159, R244). `sq` is the
pair whose statistics queue holds it. -/
def Mach.deltaAt (m : Mach) (d : Delta) (sq : Option Nat := none) : Mach :=
  match m.recWord d.q d.tid with
  | some w => m.chainAdd w (.delta d sq)
  | none => m.applyDelta d

/-- The delta that a home on a die forms for values stored under TID tid of partition q, with the anchor of the entry as the home reads it,
and the marks that the write brings (R241, R242); it crosses to its record's die (R209). c is the context that the write came from, or
1,024 for none of this chip. (DEDUCED, log 52; DEDUCED, log 54) -/
def Mach.homeDelta (m : Mach) (die c q tid : Nat) (vals : List XV) (ovf psn : Bool := false) (x : Option Int := none) : Mach :=
  let t := m.titHome q tid
  if tid = 0 || !t.v || !t.stats then m else
  let m := match m.recWord q tid with
    | some w => m.carry die (dieOfKey w) 3 64
    | none => m
  let m := m.deltaAt (deltaOf q tid t.anchor vals ovf psn x c)
  if 1024 ≤ c then m else (m.updCtx c fun x => { x with wrote := (x.wrote ++ [tid]).eraseDups }).count c evStatDelta 1

/-- The same for values on several dies, a delta for each; a mark without a value goes from `die` (R242). -/
def Mach.homeDeltas (m : Mach) (die c q tid : Nat) (vals : List (Nat × XV)) (ovf : Bool := false) (x : Option Int := none) : Mach :=
  if tid = 0 then m else
  let ds := (List.range 5).filter fun d => vals.any fun v => v.1 == d
  if ds.isEmpty && ovf then m.homeDelta die c q tid [] ovf false x else
  ds.foldl (fun m d => m.homeDelta d c q tid ((vals.filter fun v => v.1 == d).map Prod.snd) ovf false x) m

/-- One addition at its home: Round(old + value × 2^x, t, RNE), which clamps an integer that is out of range (R220, R442).
(DEDUCED, log 51) -/
def addAt (t : Ty) (x : Int) (old code : Nat) : Nat :=
  match t with
  | .flt f => f.round 0 0 ((f.val old).add false ((f.val code).scale x))
  | .int s n => fitInt true s n (intVal s n old + intVal s n code)

/-- The old value of an addition, or its poison, goes to who waits for it: the element of a `vamo` that has joined the chain, or a node
(R407). -/
def Mach.addAnswer (m : Mach) (dest : AddTo) (r : Option (List Byte)) : Mach :=
  match dest with
  | .elem c stamp i => m.updCtx c fun x => { x with vq := x.vq.map fun (v : VEnt) =>
      if v.stamp = stamp then { v with prog := { v.prog with got := v.prog.got ++ [(i, r.getD [])] } } else v }
  | .node src seq => m.send src clsResp none (.reply clsReq seq (r.getD []) r.isNone.toNat false) .other

end Sys2Proof.Machine
end

