-- ==== Sys2Proof/Machine/Vector.lean ====
section
/-!
DEFINITION. What the vector and mask instructions do when they run (R346, R349 to R373). Each run function takes the queue entry's
capture; the arms of VectorArms.lean dispatch to them.
-/

namespace Sys2Proof.Machine

/-- The checks of R352 and R394 that come before any element, for mode register r: registers; then, unless VL is 0, TYPE, VL
against every type, the other mode causes and format registers. -/
def vPreAt (r : Nat) (x : Ctx) (k : Cap) (regs : List (Nat × Nat)) (sizes : List Nat) (bad : Bool) (fmts : List (Nat × Nat)) : Except Flt Unit :=
  match x.checkRegs regs with
  | .error f => .error f
  | .ok _ =>
    if k.vl = 0 then .ok ()
    else if !tyCodeOk k.ty then .error (fltMode r)
    else if sizes.any (fun e => decide (x.maxvlOf e < k.vl)) then .error (fltConfig 0x10 0)
    else if bad || 6 ≤ k.rm then .error (fltMode r)
    else match fmts.find? fun f => !fmtValid f.1 with
      | some f => .error (fltConfig 0x12 f.2)
      | none => .ok ()

/-- The checks of an instruction that reads MDV (R352). -/
def vPre := vPreAt mdv

/-- MEM_POISON of a register granule (R121, R295): FADDR is the register's `$vr` window address. (DEDUCED, log 18) -/
def fltRegPoison (x : Ctx) (v i e : Nat) : Flt :=
  fltPoison (0xFF40000000000000 + v * x.regBytes + i * e) 3 i

/-- The first poisoned element among source groups. -/
def srcPoison (x : Ctx) (k : Cap) (srcs : List (Nat × Nat × Nat)) : Except Flt Unit :=
  match srcs.findSome? fun s => (x.poisonRow s.1 s.2.1 k.vl s.2.2).map fun i => fltRegPoison x s.1 i s.2.2 with
  | some f => .error f
  | none => .ok ()

/-- Scalar stores into the task's own register or accumulator window come before a younger vector-side instruction (R334). -/
def Ctx.windowStores (x : Ctx) (stamp : Nat) : Bool :=
  x.sb.any fun e => decide (e.after < stamp) && e.segs.any fun s => match s.1 with
    | .pa _ => false
    | _ => true

/-- The waits before a vector-side instruction starts: scoreboard bits (R97) and window stores (R334). -/
def vWait (m : Mach) (e : VEnt) (regs : List (Nat × Nat)) : Except Stop Unit :=
  if m.me.scored regs then .error (.wait (m.upd fun x => { x with vstall := evScoreWait }))
  else if m.me.windowStores e.stamp then .error (.wait m)
  else .ok ()

/-- Checks, waits and poison at once. -/
def vStart (m : Mach) (e : VEnt) (regs : List (Nat × Nat)) (sizes : List Nat) (bad : Bool) (fmts : List (Nat × Nat))
    (srcs : List (Nat × Nat × Nat)) : Except Stop Unit := do
  orRaise m (vPre m.me e.cap regs sizes bad fmts)
  vWait m e regs
  orRaise m (srcPoison m.me e.cap srcs)

/-- The format registers an instruction with MDV's type reads: its own when TYPE is NF (R104). -/
def Cap.fmts (k : Cap) : List (Nat × Nat) := if k.ty = 3 then [(k.fmt.toNat, k.fs)] else []

/-- Whether MDV's type is block-scaled (R354). -/
def Cap.blocked (k : Cap) : Bool := k.ty == 3 && fmtBlk k.fmt.toNat != 0

/-- SR with an integer type in an instruction that computes elements (R103). -/
def Cap.srInt (k : Cap) : Bool := k.rm == 5 && tyIsInt k.ty

/-- The active flags of elements 0 to VL − 1. -/
def Ctx.actives (x : Ctx) (k : Cap) : List Bool := (List.range k.vl).map fun i => x.active k i

/-- A row of codes with the inactive positions left out, masked to the type's bits (R93). -/
def maskRow (acts : List Bool) (bits : Nat) (row : List Nat) : List (Option Nat) :=
  (acts.zip row).map fun p => if p.1 then some (p.2 % 2 ^ bits) else none

/-- The exact values of the active elements of a row. -/
def valRow (t : Ty) (row : List (Option Nat)) : List (Option XV) := row.map fun c => c.map t.val

/-- An instruction that rounded with SR advances SRSTEP when it completes (R206, R355). -/
def Ctx.srUsed (x : Ctx) (k : Cap) (rounded : Bool) : Ctx :=
  if k.rm = 5 && rounded then { x with srstep := x.srstep + 1 } else x

/-- Rounds rows of values and writes them into group d (R350, R355). -/
def putRounded (m : Mach) (k : Cap) (t : Ty) (e d : Nat) (rows : List (List (Option XV))) : Mach :=
  m.upd fun x =>
    let cs := rows.zipIdx.map fun r => roundRow t k.rm x.srstep.toNat r.2 r.1
    (x.putRows d e cs).srUsed k (rows.any fun r => r.any Option.isSome)

/-- Writes rows of codes into group d. -/
def putCodes (m : Mach) (e d : Nat) (rows : List (List (Option Nat))) : Mach := m.upd fun x => x.putRows d e rows

/-! ### Elementwise operations (R357, R358) -/

/-- The rounding floating-point operations of majors 0x40 and 0x41. -/
def fopEw (op : Nat) (rdn : Bool) (a b : XV) : XV :=
  match op with
  | 0 => a.add rdn b
  | 1 => a.sub rdn b
  | 2 => a.mul b
  | 3 => a.div b
  | 4 => a.minOf b
  | _ => a.maxOf b

/-- Integer division (R358). -/
def intDiv (sat signed : Bool) (n : Nat) (a b : Int) : Nat :=
  if b = 0 then 2 ^ n - 1 else fitInt sat signed n (a.tdiv b)

/-- Bitwise and shift operations on n-bit patterns. -/
def bitEw (op n a b : Nat) : Nat :=
  match op with
  | 6 => a &&& b
  | 7 => a ||| b
  | 8 => a ^^^ b
  | 9 => a * 2 ^ (b % n) % 2 ^ n
  | 10 => a / 2 ^ (b % n)
  | _ => wrapN n (sx n a / (2 ^ (b % n) : Nat))

/-- The integer operations of majors 0x40 and 0x41, on codes. -/
def iopEw (op : Nat) (sat signed : Bool) (n a b : Nat) : Nat :=
  let x := intVal signed n a
  let y := intVal signed n b
  match op with
  | 0 => fitInt sat signed n (x + y)
  | 1 => fitInt sat signed n (x - y)
  | 2 => fitInt sat signed n (x * y)
  | 3 => intDiv sat signed n x y
  | 4 => wrapN n (min x y)
  | 5 => wrapN n (max x y)
  | _ => bitEw op n a b

/-- The scalar operand XS(X[B], t), as a code (R353). -/
def xsCode (t : Ty) (w : Word) : Nat := w.toNat % 2 ^ t.bits

/-- The rows of the second operand: a group, or the scalar in every position. -/
def srcRows (x : Ctx) (k : Cap) (b : Src) (g : Nat) : List Nat :=
  match b with
  | .reg v => x.row (v + g) k.vl k.size
  | .scal w => List.replicate k.vl (xsCode k.tyv w)

/-- The register group that a second operand names. -/
def Src.regs (b : Src) (g : Nat) : List (Nat × Nat) := match b with | .reg v => [(v, g)] | .scal _ => []

/-- Whether a type is refused by an elementwise operation (R355, R356). -/
def ewBad (op : Nat) (k : Cap) : Bool :=
  if op ≤ 5 then k.blocked || k.srInt
  else if op ≤ 8 then k.srInt
  else !tyIsInt k.ty || k.srInt

/-- Combines two rows of codes position by position. -/
def zipRows (f : Nat → Nat → Nat) (a b : List (Option Nat)) : List (Option Nat) :=
  (a.zip b).map fun p => match p.1, p.2 with
    | some u, some v => some (f u v)
    | _, _ => none

def zipVals (f : XV → XV → XV) (a b : List (Option XV)) : List (Option XV) :=
  (a.zip b).map fun p => match p.1, p.2 with
    | some u, some v => some (f u v)
    | _, _ => none

/-- Majors 0x40 and 0x41 (R357). -/
def runEw (op d a : Nat) (b : Src) : VRun := fun m e => do
  let k := e.cap
  let g := k.g
  let regs := [(d, g), (a, g)] ++ b.regs g
  vStart m e regs [k.size] (ewBad op k) k.fmts ([(a, g, k.size)] ++ (b.regs g).map fun r => (r.1, r.2, k.size))
  let x := m.me
  let acts := x.actives k
  let t := k.tyv
  let rowA := fun r => maskRow acts t.bits (x.row (a + r) k.vl k.size)
  let rowB := fun r => maskRow acts t.bits (srcRows x k b r)
  match t with
  | .flt f =>
    if op ≤ 3 then
      pure (putRounded m k t k.size d ((List.range g).map fun r => zipVals (fopEw op k.rdn) (valRow t (rowA r)) (valRow t (rowB r))))
    else if op ≤ 5 then
      pure (putCodes m k.size d ((List.range g).map fun r =>
        zipRows (fun u v => f.round 0 0 (fopEw op false (f.val u) (f.val v))) (rowA r) (rowB r)))
    else pure (putCodes m k.size d ((List.range g).map fun r => zipRows (bitEw op t.bits) (rowA r) (rowB r)))
  | .int s n => pure (putCodes m k.size d ((List.range g).map fun r => zipRows (iopEw op k.sat s n) (rowA r) (rowB r)))

/-! ### Fused multiply-add (R359) -/

def fopFma (op : Nat) (rdn : Bool) (a b c : XV) : XV :=
  let p := a.mul b
  match op with
  | 0 => p.add rdn c
  | 1 => p.add rdn c.neg
  | 2 => p.neg.add rdn c.neg
  | _ => p.neg.add rdn c

def iopFma (op : Nat) (a b c : Int) : Int :=
  match op with
  | 0 => a * b + c
  | 1 => a * b - c
  | 2 => -(a * b) - c
  | _ => -(a * b) + c

def runFma (op d a b : Nat) : VRun := fun m e => do
  let k := e.cap
  let g := k.g
  vStart m e [(d, g), (a, g), (b, g)] [k.size] (k.blocked || k.srInt) k.fmts [(d, g, k.size), (a, g, k.size), (b, g, k.size)]
  let x := m.me
  let acts := x.actives k
  let t := k.tyv
  let row := fun v r => maskRow acts t.bits (x.row (v + r) k.vl k.size)
  match t with
  | .flt _ =>
    pure (putRounded m k t k.size d ((List.range g).map fun r =>
      ((row a r).zip ((row b r).zip (row d r))).map fun p => match p.1, p.2.1, p.2.2 with
        | some u, some v, some w => some (fopFma op k.rdn (t.val u) (t.val v) (t.val w))
        | _, _, _ => none))
  | .int s n =>
    pure (putCodes m k.size d ((List.range g).map fun r =>
      ((row a r).zip ((row b r).zip (row d r))).map fun p => match p.1, p.2.1, p.2.2 with
        | some u, some v, some w => some (fitInt k.sat s n (iopFma op (intVal s n u) (intVal s n v) (intVal s n w)))
        | _, _, _ => none))

/-! ### Single-operand operations (R360) -/

def fopUn (op : Nat) (a : XV) : XV :=
  match op with
  | 0 => a.neg
  | 1 => a.abs
  | 2 => a
  | 3 => a.sqrt
  | 4 => (XV.ofInt 1).div a
  | 5 => a.rsqrt
  | 6 => a.exp2
  | _ => a.log2

def unBad (op : Nat) (k : Cap) : Bool :=
  if op = 2 then false
  else if op ≤ 1 then k.blocked || k.srInt
  else k.blocked || !tyIsFlt k.ty

def runUn (op d a : Nat) : VRun := fun m e => do
  let k := e.cap
  let g := k.g
  vStart m e [(d, g), (a, g)] [k.size] (unBad op k) k.fmts [(a, g, k.size)]
  let x := m.me
  let acts := x.actives k
  let t := k.tyv
  let row := fun r => maskRow acts t.bits (x.row (a + r) k.vl k.size)
  if op = 2 then pure (putCodes m k.size d ((List.range g).map row))
  else match t with
    | .flt _ => pure (putRounded m k t k.size d ((List.range g).map fun r => (valRow t (row r)).map fun v => v.map (fopUn op)))
    | .int s n => pure (putCodes m k.size d ((List.range g).map fun r => (row r).map fun v => v.map fun c =>
        let i := intVal s n c
        fitInt k.sat s n (if op = 0 then -i else (i.natAbs : Int))))

/-! ### Block scales of register operands (R354) -/

/-- The block byte of element j of row g, with n elements a row and blocks of bs; 0 without blocks. -/
def Ctx.blockByte (x : Ctx) (comp bs n g j : Nat) : Nat :=
  if bs = 0 then 0 else
  leVal (x.vread comp (g * ((n + bs - 1) / bs) + j / bs) 1)

/-- Writes the block bytes of the rows into a companion register. -/
def putBlocks (x : Ctx) (comp : Nat) (rows : List (List Int)) : Ctx :=
  x.putRow comp 1 (rows.flatten.map fun b => some (wrapN 8 b))

/-! ### Conversion (R361) -/

/-- `vcvt` (R361). Where both formats are invalid the fault names the source's register (DESIGN CHOICE, log 100). -/
def runCvt (d a st : Nat) : VRun := fun m e => do
  let k := e.cap
  let g := k.g
  let x := m.me
  let other := k.fs ^^^ 1
  let srcFmt := k.fmt2.toNat
  let sBlk := if st = 3 then blkLen (fmtBlk srcFmt) else 0
  let dBlk := if k.ty = 3 then blkLen (fmtBlk k.fmt.toNat) else 0
  let comps := (if k.blocked then [(d + g, 1)] else []) ++ (if st = 3 && fmtBlk srcFmt != 0 then [(a + g, 1)] else [])
  let se := tySize st
  let fmts := (if st = 3 then [(srcFmt, other)] else []) ++ k.fmts
  vStart m e ([(d, g), (a, g)] ++ comps) [k.size, se] k.srInt fmts [(a, g, se)]
  let t := k.tyv
  let ts := tyOf st srcFmt
  let acts := x.actives k
  let row := fun r => maskRow acts ts.bits (x.row (a + r) k.vl se)
  match ts, t with
  | .int s n, .int s' n' =>
    let rows := (List.range g).map fun r => (row r).map fun c => c.map fun v => fitInt k.sat s' n' (intVal s n v)
    pure (putCodes m k.size d rows)
  | _, _ =>
    let vals := (List.range g).map fun r => (row r).zipIdx.map fun c => c.1.map fun v =>
      (ts.val v).underBlock (x.blockByte (a + g) sBlk k.vl r c.2)
    if dBlk = 0 then pure (putRounded m k t k.size d vals)
    else
      let bx := vals.map fun r => rowBlocks t dBlk 0 r
      let scaled := (vals.zip bx).map fun p => p.1.zipIdx.map fun v => v.1.map fun w => w.scale (-(nthD 0 p.2 (v.2 / dBlk)))
      let m := putRounded m k t k.size d scaled
      pure (m.upd fun x => putBlocks x (d + g) bx)

/-! ### Compares and select (R362, R363) -/

def cmpF (op : Nat) (a b : XV) : Bool :=
  match op with
  | 0 => a.eq b
  | 1 => !a.eq b
  | 2 => a.lt b
  | 3 => a.le b
  | 4 => b.lt a
  | _ => b.le a

def cmpI (op : Nat) (a b : Int) : Bool :=
  match op with
  | 0 => a == b
  | 1 => a != b
  | 2 => decide (a < b)
  | 3 => decide (a ≤ b)
  | 4 => decide (b < a)
  | _ => decide (b ≤ a)

def cmpT (t : Ty) (op a b : Nat) : Bool :=
  match t with
  | .flt f => cmpF op (f.val a) (f.val b)
  | .int s n => cmpI op (intVal s n a) (intVal s n b)

def runCmp (op d a : Nat) (b : Src) : VRun := fun m e => do
  let k := e.cap
  let g := k.g
  vStart m e ([(a, g)] ++ b.regs g) [k.size] (k.blocked || g != 1) k.fmts ([(a, 1, k.size)] ++ (b.regs 1).map fun r => (r.1, 1, k.size))
  let x := m.me
  let t := k.tyv
  let acts := x.actives k
  let ra := maskRow acts t.bits (x.row a k.vl k.size)
  let rb := maskRow acts t.bits (srcRows x k b 0)
  let bits := (ra.zip rb).map fun p => match p.1, p.2 with
    | some u, some v => some (cmpT t op u v)
    | _, _ => some false
  pure (m.upd fun x => x.putMask d bits)

def runSel (d a b f : Nat) : VRun := fun m e => do
  let k := e.cap
  let g := k.g
  vStart m e [(d, g), (a, g), (b, g)] [k.size] false k.fmts [(a, g, k.size), (b, g, k.size)]
  let x := m.me
  let t := k.tyv
  let acts := x.actives k
  let mf := vecAt 0 x.masks f
  pure (putCodes m k.size d ((List.range g).map fun r =>
    ((maskRow acts t.bits (x.row (a + r) k.vl k.size)).zip (maskRow acts t.bits (x.row (b + r) k.vl k.size))).zipIdx.map fun p =>
      if mf.testBit p.2 then p.1.1 else p.1.2))

/-! ### Major 0x48 (R364) -/

def runSplat (d : Nat) (w : Word) : VRun := fun m e => do
  let k := e.cap
  let g := k.g
  vStart m e [(d, g)] [k.size] false k.fmts []
  let acts := m.me.actives k
  pure (putCodes m k.size d ((List.range g).map fun _ => acts.map fun b => if b then some (xsCode k.tyv w) else none))

/-- The value `vextr` writes (R364). -/
def extrVal (x : Ctx) (k : Cap) (a j : Nat) : Word :=
  if k.g * k.vl ≤ j then 0 else
  let c := x.elem a (j / k.vl) (j % k.vl) k.size % 2 ^ k.tyv.bits
  match k.tyv with
  | .int true n => sextW n c
  | _ => zextW c

def runExtr (xd a : Nat) (i : Word) : VRun := fun m e => do
  let k := e.cap
  vStart m e [(a, k.g)] [k.size] false k.fmts [(a, k.g, k.size)]
  let v := extrVal m.me k a i.toNat
  pure (m.upd fun x => x.setXAt e.stamp xd v)

def runSlide (up : Bool) (d a : Nat) (n : Word) : VRun := fun m e => do
  let k := e.cap
  let g := k.g
  vStart m e [(d, g), (a, g)] [k.size] false k.fmts [(a, g, k.size)]
  let x := m.me
  let acts := x.actives k
  let s := n.toNat
  let bits := k.tyv.bits
  pure (putCodes m k.size d ((List.range g).map fun r =>
    let row := x.row (a + r) k.vl k.size
    acts.zipIdx.map fun p => if !p.1 then none
      else if up then (if s ≤ p.2 then some (nthD 0 row (p.2 - s) % 2 ^ bits) else none)
      else if p.2 + s < k.vl then some (nthD 0 row (p.2 + s) % 2 ^ bits) else some 0))

def runPerm (d a b : Nat) : VRun := fun m e => do
  let k := e.cap
  let g := k.g
  vStart m e [(d, g), (a, g), (b, g)] [k.size] false k.fmts [(a, g, k.size), (b, g, k.size)]
  let x := m.me
  let acts := x.actives k
  let bits := k.tyv.bits
  pure (putCodes m k.size d ((List.range g).map fun r =>
    let row := x.row (a + r) k.vl k.size
    (acts.zip (x.row (b + r) k.vl k.size)).map fun p =>
      if p.1 then some (if p.2 < k.vl then nthD 0 row p.2 % 2 ^ bits else 0) else none))

def runVstep (d : Nat) : VRun := fun m e => do
  let k := e.cap
  let g := k.g
  vStart m e [(d, g)] [k.size] (k.blocked || k.srInt) k.fmts []
  let acts := m.me.actives k
  let at_ := fun r i => (r * k.vl + i : Nat)
  match k.tyv with
  | .flt _ => pure (putRounded m k k.tyv k.size d ((List.range g).map fun r =>
      acts.zipIdx.map fun p => if p.1 then some (.ofInt (at_ r p.2)) else none))
  | .int s n => pure (putCodes m k.size d ((List.range g).map fun r =>
      acts.zipIdx.map fun p => if p.1 then some (fitInt k.sat s n (at_ r p.2)) else none))

/-! ### Reductions (R365) -/

/-- What a reduction does not accept: SR, whatever the type (R224), block scales, and bits of floating-point types. -/
def redBad (op : Nat) (k : Cap) : Bool :=
  k.rm == 5 || (if op ≤ 2 then k.blocked else !tyIsInt k.ty)

/-- The identity of an empty row. -/
def redIdent (t : Ty) (op : Nat) : Nat :=
  match t with
  | .flt f => match op with
    | 0 => 0
    | 1 => if f.sgn = 0 then 0 else match f.infCode with
      | some c => f.withSign true c
      | none => f.withSign true f.maxCode
    | _ => f.infCode.getD f.maxCode
  | .int s n => match op with
    | 0 => 0
    | 1 => wrapN n (intMin s n)
    | 2 => wrapN n (intMax s n)
    | 3 => 2 ^ n - 1
    | _ => 0

/-- One row reduced by the pairwise tree (R230); a NaN is the canonical one, also where it is the row's one element (R217). -/
def redRow (t : Ty) (k : Cap) (op : Nat) (row : List (Option Nat)) : Nat :=
  if row.all Option.isNone then redIdent t op else
  match t with
  | .flt f =>
    let step := fun (u v : Nat) => match op with
      | 0 => f.round k.rm 0 ((f.val u).add k.rdn (f.val v))
      | 1 => f.round 0 0 ((f.val u).maxOf (f.val v))
      | _ => f.round 0 0 ((f.val u).minOf (f.val v))
    let c := (treeFold step row.length row).getD 0
    if (f.val c).isNan then f.round 0 0 .nan else c
  | .int s n =>
    let vs := row.filterMap id
    match op with
    | 0 => fitInt k.sat s n (vs.foldl (fun a c => a + intVal s n c) 0)
    | 1 => wrapN n ((vs.map (intVal s n)).foldl max (intMin s n))
    | 2 => wrapN n ((vs.map (intVal s n)).foldl min (intMax s n))
    | 3 => vs.foldl (· &&& ·) (2 ^ n - 1)
    | 4 => vs.foldl (· ||| ·) 0
    | _ => vs.foldl (· ^^^ ·) 0

def runRed (op d a : Nat) : VRun := fun m e => do
  let k := e.cap
  let g := k.g
  vStart m e [(d, g), (a, g)] [k.size] (redBad op k) k.fmts [(a, g, k.size)]
  if k.vl = 0 then pure m else
  let x := m.me
  let acts := x.actives k
  let t := k.tyv
  pure (putCodes m k.size d ((List.range g).map fun r => [some (redRow t k op (maskRow acts t.bits (x.row (a + r) k.vl k.size)))]))

/-! ### Dot product (R366) -/

/-- Products per 32-bit element of an input type; 0 for a type `vdot` does not accept. -/
def dotD (ty : Nat) : Nat :=
  match ty with
  | 1 => 2 | 2 => 2 | 6 => 2 | 11 => 2 | 7 => 4 | 12 => 4 | 3 => 4 | 8 => 8 | 13 => 8 | _ => 0

def runDot (d a b : Nat) : VRun := fun m e => do
  let k := e.cap
  let g := k.g
  let x := m.me
  let dd := dotD k.ty
  let bs := if k.ty = 3 then blkLen (fmtBlk k.fmt.toNat) else 0
  let comps := if k.blocked then [(a + g, 1), (b + g, 1)] else []
  orRaise m (x.checkRegs ([(d, g), (a, g), (b, g)] ++ comps))
  if k.vl = 0 then pure m else
  if !tyCodeOk k.ty then raise m (fltMode mdv) else
  if x.maxvlOf 4 < k.vl || x.maxvlOf k.size < k.vl * max 1 dd then raise m (fltConfig 0x10 0) else
  vStart m e ([(d, g), (a, g), (b, g)] ++ comps) [4] (dd == 0) k.fmts [(d, g, 4), (a, g, dd * k.size), (b, g, dd * k.size)]
  let acts := x.actives k
  let t := k.tyv
  let n := k.vl * dd
  let val := fun v r (row : List Nat) j => (t.val (nthD 0 row j % 2 ^ t.bits)).underBlock (x.blockByte (v + g) bs n r j)
  pure (putRounded m k (.flt f32) 4 d ((List.range g).map fun r =>
    let ra := x.row (a + r) n k.size
    let rb := x.row (b + r) n k.size
    let rc := x.row (d + r) k.vl 4
    (acts.zip rc).zipIdx.map fun p => if p.1.1 then
      some (windowSum k.rdn (f32.val p.1.2) ((List.range dd).map fun q =>
        (val a r ra (p.2 * dd + q)).mul (val b r rb (p.2 * dd + q)))) else none))

/-! ### Quantising and scale registers (R367 to R370) -/

/-- The value of an S register (R100). -/
def sregOf (exp : Int) (tid gen : Nat) : BitVec 64 :=
  BitVec.ofNat 64 (wrapN 8 exp + tid % 4096 * 2 ^ 8 + gen % 65536 * 2 ^ 20 + 2 ^ 36)

def sExp (w : BitVec 64) : Int := sx 8 (w.toNat % 256)
def sValid (w : BitVec 64) : Bool := w.getLsbD 36

/-- The checks that rest on the tensor's entry, for `vqnt` and `vdqnt` (R352): none for VL = 0. -/
def tensorCheck (x : Ctx) (k : Cap) (t : Tit) (needRec : Bool) (comp : Nat) : Except Flt Unit :=
  if k.tid = 0 || !t.v || (needRec && !t.stats) then .error (fltTid k.tid)
  else if t.blk != 0 && !x.regOk comp 1 then .error (fltReg comp 0)
  else if !quantTy t.ty then .error (fltMode mdv)
  else if x.maxvlOf (tySize t.ty) < k.vl then .error (fltConfig 0x10 0)
  else .ok ()

/-- `vqnt` (R367). It sends its mark when the policy is auto or an element overflowed its code, an infinite one among them, or was clamped
(R368). -/
def runQnt (d a s : Nat) : VRun := fun m e => do
  let k := e.cap
  let g := k.g
  let c := m.cur
  orRaise m (vPre m.me k [(d, g), (a, g)] [k.size] (!(k.ty ≤ 2)) [])
  if k.vl = 0 then pure m else
  let t := m.titUsed e c k.tid
  let m := m.titStart e c k.tid
  orRaise m (tensorCheck m.me k t true (d + g))
  if t.tyv.noFinite then raise m (fltConfig 0x12 0) else
  vWait m e ([(d, g), (a, g)] ++ if t.blk != 0 then [(d + g, 1)] else [])
  waitFor (m.sqRoom c 1) m
  let r ← m.quantStart c e.who k.tid t
  let q := r.2
  let m := r.1
  orRaise m (srcPoison m.me k [(a, g, k.size)])
  let x := m.me
  let acts := x.actives k
  let ts := k.tyv
  let rows := (List.range g).map fun i => valRow ts (maskRow acts ts.bits (x.row (a + i) k.vl k.size))
  let qrows := rows.map fun r => quantRow t.tyv t.blk q r
  let enc := (rows.zip qrows).map fun p => (p.1.zip p.2).map fun v => match v.1, v.2 with
    | some _, some w => some w.1
    | _, _ => none
  let ovf := (rows.any fun r => r.any fun v => match v with | some (.inf _) => true | _ => false) ||
    (enc.zipIdx.any fun r => rowOverflows t.tyv k.rm x.srstep.toNat r.2 r.1) ||
    (rows.zip qrows).any fun p => (p.1.zip p.2).any fun v => match v.1, v.2 with
      | some u, some w => quantClamps t.tyv q.clamp w.2 u
      | _, _ => false
  let m := putRounded m k t.tyv (tySize t.ty) d enc
  let m := if t.blk = 0 then m else m.upd fun x => putBlocks x (d + g) (rows.map fun r => rowBlocks t.tyv t.blk q.x r)
  let m := m.upd fun x => { x with sreg := vecSet x.sreg s (sregOf q.x k.tid q.gen) }
  let ds := if q.carry.isSome || ovf then [deltaOf (m.qOf c) k.tid t.anchor [] (ovf || q.ovf) false q.carry c] else []
  pure (m.pushDeltas c ds)

/-- `vdqnt`: without a valid scale register it reads the record as `strd` does (R369). -/
def runDqnt (d a s : Nat) : VRun := fun m e => do
  let k := e.cap
  let g := k.g
  let c := m.cur
  orRaise m (vPre m.me k [(d, g), (a, g)] [k.size] (!(k.ty ≤ 2)) [])
  if k.vl = 0 then pure m else
  let t := m.titUsed e c k.tid
  let m := m.titStart e c k.tid
  let sr := vecAt 0 m.me.sreg s
  orRaise m (tensorCheck m.me k t (!sValid sr) (a + g))
  if t.tyv.noFinite then raise m (fltConfig 0x12 0) else
  vWait m e ([(d, g), (a, g)] ++ if t.blk != 0 then [(a + g, 1)] else [])
  orRaise m (srcPoison m.me k [(a, g, tySize t.ty)])
  waitFor (sValid sr || m.recReady (m.qOf c) k.tid) m
  if !sValid sr && (m.poisonAt (.pa (m.recAddr (m.qOf c) k.tid)) 128).isSome then raise m (fltPoison 0 1 0) else
  let m := if sValid sr then m else m.ownRead (m.recAddr (m.qOf c) k.tid) 128
  let x := m.me
  let sc := if sValid sr then sExp sr else recScale (m.record (m.qOf c) k.tid)
  let acts := x.actives k
  let ts := t.tyv
  pure (putRounded m k k.tyv k.size d ((List.range g).map fun r =>
    (maskRow acts ts.bits (x.row (a + r) k.vl (tySize t.ty))).zipIdx.map fun v => v.1.map fun c =>
      ((ts.val c).underBlock (x.blockByte (a + g) t.blk k.vl r v.2)).scale sc))

def runSset (s : Nat) (w : Word) : VRun := fun m _ =>
  .ok (m.upd fun x => { x with sreg := vecSet x.sreg s (sregOf (sx 8 (w.toNat % 256)) 0 0) })

def runSget (xd s : Nat) : VRun := fun m e =>
  .ok (m.upd fun x => x.setXAt e.stamp xd (vecAt 0 x.sreg s))

/-! ### Structured-sparse compression (R371, R372) -/

/-- Rank order of two magnitudes: NaN above all, then by size. -/
def magAbove (a b : XV) : Bool :=
  match a, b with
  | .nan, .nan => false
  | .nan, _ => true
  | _, .nan => false
  | _, _ => b.abs.lt a.abs

/-- Positions of a group that are kept: those with fewer than M positions ranking above them. -/
def keptOf (mk : Nat) (vals : List XV) : List Nat :=
  (List.range vals.length).filter fun i =>
    let v := nthD .nan vals i
    let above := (List.range vals.length).filter fun j =>
      let w := nthD .nan vals j
      magAbove w v || (!magAbove v w && decide (j < i))
    decide (above.length < mk)

def runCompr (op d a b : Nat) : VRun := fun m e => do
  let k := e.cap
  let g := k.g
  let n := if op = 0 then 4 else 8
  let mk := n / 2
  let w := if op = 0 then 4 else 12
  let wi := if op = 0 then 2 else 3
  let x := m.me
  orRaise m (x.checkRegs [(d, g), (a, g), (b, g)])
  if d = b then raise m (fltReg d 0) else
  vStart m e [(d, g), (a, g), (b, g)] [k.size] (g != 1) k.fmts [(a, 1, k.size)]
  if k.vl = 0 then pure m else
  let t := k.tyv
  let acts := x.actives k
  let row := (maskRow acts t.bits (x.row a k.vl k.size)).map fun c => c.getD 0
  let ng := (k.vl + n - 1) / n
  let row := row ++ List.replicate (ng * n - k.vl) 0
  let groups := blocksOf n ng row
  let kept := groups.map fun gr => keptOf mk (gr.map fun c => if c = 0 then .fin false 0 0 false else t.val c)
  let codes := (groups.zip kept).flatMap fun p => p.2.map fun i => some (nthD 0 p.1 i)
  let idx := kept.zipIdx.foldl (fun v p => v + (p.1.zipIdx.foldl (fun u q => u + q.1 * 2 ^ (q.2 * wi)) 0) * 2 ^ (p.2 * w)) 0
  let nb := (ng * w + 7) / 8
  pure (m.upd fun x => (x.putRow d k.size codes).vwrite b 0 (leBytes nb idx))

/-! ### Masks (R346, R373) -/

def mlogBit (op : Nat) (a b : Bool) : Bool :=
  match op with
  | 0 => a && b
  | 1 => a || b
  | 2 => xor a b
  | 3 => a && !b
  | 4 => !a
  | 5 => a
  | 6 => true
  | _ => false

def runMlog (op d a b : Nat) : VRun := fun m e => do
  let k := e.cap
  let x := m.me
  if x.sec * 8192 < k.vl then raise m (fltConfig 0x10 0) else
  let ma := vecAt 0 x.masks a
  let mb := vecAt 0 x.masks b
  pure (m.upd fun x => x.putMask d ((List.range k.vl).map fun i => some (mlogBit op (ma.testBit i) (mb.testBit i))))

/-- `mcnt`, `many` and `mfirst`: the active set bits of a mask (R346). -/
def mredVal (op : Nat) (bits : List Nat) : Word :=
  match op with
  | 0 => BitVec.ofNat 64 bits.length
  | 1 => bword (!bits.isEmpty)
  | _ => match bits with
    | [] => BitVec.allOnes 64
    | i :: _ => BitVec.ofNat 64 i

def runMred (op xd a : Nat) : VRun := fun m e => do
  let k := e.cap
  let x := m.me
  if k.vl = 0 then pure (m.upd fun x => x.setXAt e.stamp xd (mredVal op [])) else
  if !tyCodeOk k.ty then raise m (fltMode mdv) else
  if x.maxvlOf k.size < k.vl then raise m (fltConfig 0x10 0) else
  if 6 ≤ k.rm then raise m (fltMode mdv) else
  let ma := vecAt 0 x.masks a
  let bits := (List.range k.vl).filter fun i => x.active k i && ma.testBit i
  pure (m.upd fun x => x.setXAt e.stamp xd (mredVal op bits))

end Sys2Proof.Machine
end

