-- ==== Sys2Proof/Machine/VecMem.lean ====
section
/-!
DEFINITION. Vector loads and stores (R392 to R400): the elements of an access in page order, the probe pass of the indexed forms
(R141), requests to other members, deltas (R396) and progress words (R203).
-/

namespace Sys2Proof.Machine

/-- The active elements of g rows, in ascending data position j = row × VL + i (R393, R397). -/
def vElems (x : Ctx) (k : Cap) (g : Nat) (addr : Nat → Nat) : List VEl :=
  let act := (List.range k.vl).filter fun i => x.active k i
  (List.range g).flatMap fun r => act.map fun i => ⟨r, i, addr (r * k.vl + i) % 2 ^ 64⟩

/-- Marks the page of an address that an access has not touched yet (R140, R212). -/
def Mach.touchNew (m : Mach) (c : Nat) (seen : List (Nat × Nat)) (va : Nat) : Mach × List (Nat × Nat) :=
  let p := m.pageOf c va
  if seen.contains p then (m, seen) else (m.touch c va, p :: seen)

/-- The marks of the pages that elements touch, each with its length: one translation per page, in element order (R140, R212). -/
def Mach.touchSpans (m : Mach) (c : Nat) : List (Nat × Nat) → List (VEl × Nat) → Mach
  | _, [] => m
  | seen, (el, e) :: t =>
    let a := m.touchNew c seen el.va
    let b := if e ≤ 1 then a else a.1.touchNew c a.2 ((el.va + e - 1) % 2 ^ 64)
    b.1.touchSpans c b.2 t

/-- The same for elements of e bytes each. -/
def Mach.touchEls (m : Mach) (c e : Nat) (seen : List (Nat × Nat)) (els : List VEl) : Mach := m.touchSpans c seen (els.map fun el => (el, e))

/-- A fault of an element (R140): an address fault holds the element's address. -/
def Flt.ofEl (f : Flt) (el : VEl) : Flt := if f.code = 0x08 || f.code = 0x09 then { f with faddr := el.va } else f

/-- A fault of element i of a restartable access: VSTART becomes i (R140). -/
def Flt.at (f : Flt) (el : VEl) : Flt := { f.ofEl el with vstart := some el.i }

/-- The configuration fault of a window address among the elements, which comes before any element (R130, R296). -/
def Mach.windowEls (m : Mach) (els : List VEl) : Except Flt Unit := els.forM fun el => m.windowCheck m.cur el.va

/-- What a run of elements did: the machine, the elements done, and the fault that ended it. -/
structure VRes (α : Type) where
  m   : Mach
  got : List α
  flt : Option Flt

/-- The request key of row g, element i. -/
def VEl.key (el : VEl) (part : Nat) : Nat := (el.g * 131072 + el.i) * 2 + part

/-- The bytes of one element read by context c for the instruction of entry e: local bytes, or replies (R398). -/
def Mach.readEl (m : Mach) (c : Nat) (e : VEnt) (el : VEl) (ss : List (Loc × Nat)) : Except Stop (Mach × List Byte) :=
  ss.zipIdx.foldlM (fun (a : Mach × List Byte) s => match apertureOf s.1.1 with
    | some t => do
      let r ← a.1.request c e.cap.pc e.cap.word (el.key s.2) t.1 clsReq (.read t.2 s.1.2) el.va el.i
      pure (r.1, a.2 ++ r.2)
    | none => pure (a.1, a.2 ++ a.1.read s.1.1 s.1.2)) (m, [])

/-- The first k bytes of segments, and what follows them. -/
def takeSegs : Nat → List (Loc × Nat) → List (Loc × Nat)
  | _, [] => []
  | k, s :: t => if k = 0 then [] else if s.2 ≤ k then s :: takeSegs (k - s.2) t else [(s.1, k)]
def dropSegs : Nat → List (Loc × Nat) → List (Loc × Nat)
  | _, [] => []
  | k, s :: t => if s.2 ≤ k then dropSegs (k - s.2) t else (s.1.plus k, s.2 - k) :: t

/-- The bytes of an element of n bytes: of one that an 8-byte boundary cuts, an instruction that waits in the queue reads the second part in
a later step than the first (R395). -/
def Mach.readParts (m : Mach) (e : VEnt) (el : VEl) (n : Nat) (ss : List (Loc × Nat)) : Except Stop (Mach × List Byte) :=
  let k := firstPart el.va n
  if k = 0 || m.seen.isNone || ss.any (fun s => (apertureOf s.1).isSome) then m.readEl m.cur e el ss else
  match (m.me.progOf e).got.find? fun g => g.1 == el.key 0 with
  | some g => .ok (m, g.2 ++ m.readSegs (dropSegs k ss))
  | none => .error (.wait (m.note e fun p => { p with got := p.got ++ [(el.key 0, m.readSegs (takeSegs k ss))] }))

/-- The location of one element that is read, or its fault: the walk, then poison (R296). -/
def Mach.readable (m : Mach) (n : Nat) (win : Win) (el : VEl) : Except Flt (List (Loc × Nat)) :=
  match m.resolve m.cur kRead el.va n win with
  | .error f => .error (f.ofEl el)
  | .ok ss => match m.poisonSegs 0 ss with
    | some p => .error (fltPoison ((el.va + p.1) % 2 ^ 64) p.2 el.i)
    | none => .ok ss

/-- The elements of a load in order, up to the first fault; n bytes each. -/
def Mach.loadEls (m : Mach) (e : VEnt) (n : Nat) : List VEl → Except Stop (VRes (VEl × List (Loc × Nat) × Nat))
  | [] => .ok ⟨m, [], none⟩
  | el :: t =>
    match m.readable n .all el with
    | .error f => .ok ⟨m, [], some (f.at el)⟩
    | .ok ss => do
      waitFor (!m.chainBusy ss) m
      let b ← m.readParts e el n ss
      let r ← b.1.loadEls e n t
      pure ⟨r.m, (el, ss, leVal b.2) :: r.got, r.flt⟩

/-- Elements given by index, as a row of n positions. -/
def spread {α : Type} : Nat → Nat → List (Nat × α) → List (Option α)
  | 0, _, _ => []
  | n + 1, i, [] => none :: spread n (i + 1) []
  | n + 1, i, (j, v) :: t => if j = i then some v :: spread n (i + 1) t else none :: spread n (i + 1) ((j, v) :: t)

/-- The rows that loaded elements make, masked to the type's bits (R392). -/
def gotRows (k : Cap) (g : Nat) (got : List (VEl × List (Loc × Nat) × Nat)) : List (List (Option Nat)) :=
  (List.range g).map fun r =>
    spread k.vl 0 ((got.filter fun p => p.1.g == r).map fun p => (p.1.i, p.2.2 % 2 ^ k.tyv.bits))

/-- Ends a run: the fault it met, or completion. -/
def Mach.close (m : Mach) (e : VEnt) (f : Option Flt) : Except Stop Mach :=
  let m := m.dropReqs m.cur e.cap.pc
  match f with
  | some f => .error (.trap f m)
  | none => .ok m

/-- The elements an access touches before and with its fault. -/
def upTo (els : List VEl) (done : Nat) (f : Option Flt) : List VEl := els.take (done + (if f.isSome then 1 else 0))

/-- The marks of a vector load: errors corrected, beats, flits (R121, R162, R163). -/
def Mach.streamCost (m : Mach) (c n : Nat) (ss : List (Loc × Nat)) : Mach :=
  ((m.eccRead ss).streamBeats c n ss).fetchFlits (dieOf c) 0 ss

/-- Waits of a vector memory access: scoreboard bits, window stores. (DEDUCED, log 22) -/
def mdlPre (m : Mach) (e : VEnt) (regs : List (Nat × Nat)) (sizes : List Nat) (bad readFmt : Bool) : Except Stop Unit := do
  orRaise m (vPreAt mdl m.me e.cap regs sizes bad (if readFmt then e.cap.fmts else []))
  vWait m e regs

/-- A load of elements in page order into group d (R397). (DEDUCED, log 22) -/
def loadRun (d : Nat) (addr : Nat → Nat) : VRun := fun m e => do
  let k := e.cap
  mdlPre m e [(d, k.g)] [k.size] false true
  let els := vElems m.me k k.g addr
  orRaise m (m.windowEls els)
  let r ← m.loadEls e k.size els
  let m := r.m.touchEls m.cur k.size [] (upTo els r.got.length r.flt)
  let m := m.streamCost m.cur (k.vl * k.size * k.g) (r.got.flatMap fun p => p.2.1)
  (putCodes m k.size d (gotRows k k.g r.got)).close e r.flt

/-! ### Stores -/

/-- The poison of a store's data at an element (R121). -/
def Ctx.dataPoison (x : Ctx) (k : Cap) (d : Nat) (el : VEl) : Option Flt :=
  if x.vrPoison.isEmpty then none else
  if (List.range k.size).any fun b => x.vrPoison.contains (Ctx.vkey (d + el.g) (el.i * k.size + b) / 8 * 8) then
    some (fltRegPoison x (d + el.g) el.i k.size)
  else none

/-- The elements of a store, resolved in order up to the first fault: of the walk, then of the data's poison (R296). -/
def Mach.storeEls (m : Mach) (k : Cap) (d : Nat) : List VEl → List (VEl × List (Loc × Nat)) × Option Flt
  | [] => ([], none)
  | el :: t =>
    match m.resolve m.cur kWrite el.va k.size .all with
    | .error f => ([], some (f.at el))
    | .ok ss => match m.me.dataPoison k d el with
      | some f => ([], some (f.at el))
      | none => let r := m.storeEls k d t
        ((el, ss) :: r.1, r.2)

/-- The stored code of an element of group d. -/
def Ctx.code (x : Ctx) (k : Cap) (d : Nat) (el : VEl) : Nat := x.elem d el.g el.i k.size

/-- The die whose records a local write's delta is counted on; register and accumulator windows and apertures produce none
here (R241). -/
def Mach.deltaDie (m : Mach) (l : Loc) : Option Nat :=
  match l with
  | .pa a => if a / 2 ^ 46 = 3 then none else (m.keyOf a).bind fun k => if Config.chunkBase ≤ k then none else some (dieOfKey k)
  | _ => none

/-- What the home counts of the n bytes from place o of a write of bytes `bs`: an element belongs where its first byte lies. -/
def wstatCut (w : WStat) (bs : List Byte) (o n : Nat) : WStat :=
  match w.vals with
  | .codes ty els => { w with vals := .codes ty ((els.filter fun p => decide (o ≤ p.1) && decide (p.1 < o + n)).map fun p => (p.1 - o, p.2)) }
  | .plain pos before =>
    let l := before ++ bs.take o
    { w with vals := .plain (pos + o) (l.drop (l.length - 8)) }

/-- Performs the store of bytes to resolved segments: here, or posted to another member with its TID and what its home counts (R241, R398). -/
def Mach.storeSegs (m : Mach) (c age ord : Nat) (word : BitVec 32) (va tid : Nat) (ss : List (Loc × List Byte)) (cls : Nat := 0)
    (st : WStat := .none) : Except Stop Mach :=
  let bs := ss.flatMap Prod.snd
  (ss.foldlM (fun (a : Mach × Nat) (s : Loc × List Byte) => match apertureOf s.1 with
    | some t => (a.1.post c age ord word t.1 clsReq (.write t.2 s.2 tid (wstatCut st bs a.2 s.2.length)) va).map fun m => (m, a.2 + s.2.length)
    | none => .ok (a.1.writeFrom (dieOf c) cls [s] (some (c, age, ord)), a.2 + s.2.length)) (m, 0)).map Prod.fst

/-- Whether a post to a member that the segments name would have to wait. -/
def Mach.segsStalled (m : Mach) (ss : List (Loc × Nat)) : Bool :=
  ss.any fun s => match apertureOf s.1 with
    | some t => m.curtained || !m.streamRoom t.1 clsReq ss.length
    | none => false

/-- The parts of a store's elements, of n bytes each: an element that an 8-byte boundary cuts is performed in two (R395). -/
def storeParts (n : Nat) (els : List (VEl × List (Loc × Nat))) : List StEl :=
  els.flatMap fun p =>
    let k := firstPart p.1.va n
    if k = 0 then [⟨p.1, 0, p.2⟩] else [⟨p.1, 0, takeSegs k p.2⟩, ⟨p.1, k, dropSegs k p.2⟩]

/-- The elements performed next in one go: all of them, or, for an instruction that has waited in the queue, those of one 4 KiB block
and of 256 elements, up to the second part of one that is cut, so that others see the store in parts. (DESIGN CHOICE, log 30) -/
def batch (whole : Bool) (els : List StEl) : List StEl :=
  match els with
  | [] => []
  | a :: t => if whole then els else
      a :: t.takeWhile fun p => p.off == 0 && p.el.va / 4096 == a.el.va / 4096 && p.el.i / 256 == a.el.i / 256

/-- A piece of a store: the element, where it goes, its bytes, and what a home that forms the delta counts. -/
structure Piece where
  el    : VEl
  ss    : List (Loc × Nat)
  bytes : List Byte
  stat  : WStat
deriving DecidableEq, Repr

/-- Performs pieces in order (R395), as far as chains and streams let it: how many. -/
def Mach.storePieces (m : Mach) (e : VEnt) : List Piece → Mach × Nat
  | [] => (m, 0)
  | p :: t =>
    if m.chainBusy p.ss || m.segsStalled p.ss then (m, 0) else
    match m.storeSegs m.cur e.stamp 0 e.cap.word p.el.va e.cap.tid (segBytes p.ss p.bytes) 0 p.stat with
    | .error _ => (m, 0)
    | .ok m => let r := m.storePieces e t
      (r.1, r.2 + 1)

/-- Performs resolved elements of group d in order; a home elsewhere counts them read as the type that the instruction names (R396). -/
def Mach.storeAll (m : Mach) (e : VEnt) (d : Nat) (els : List StEl) : Mach × Nat :=
  let k := e.cap
  m.storePieces e (els.map fun p =>
    let c := m.me.code k d p.el
    ⟨p.el, p.ss, ((leBytes k.size c).drop p.off).take (p.ss.map Prod.snd).sum,
     if k.tid = 0 || p.off != 0 then .none else ⟨.codes (some (k.ty, k.fmt.toNat)) [(0, c, 0)], false, none⟩⟩)

/-- The deltas of a store's elements, read as type k names (R396). -/
def Mach.storeDeltas (m : Mach) (k : Cap) (d : Nat) (t : Tit) (els : List StEl) : List Delta :=
  if k.tid = 0 then [] else
  m.deltasFor m.cur k.tid t ((els.filter fun p => p.off == 0).filterMap fun p => match p.ss with
    | s :: _ => (m.deltaDie s.1).map fun die => (die, k.tyv.val (m.me.code k d p.el % 2 ^ k.tyv.bits))
    | [] => none) false false none

/-- The elements of a store that starts, and its marks: its translations, its beats, and, where every element has translated, its
fault-safe point (R147). -/
def Mach.storeBegin (m : Mach) (e : VEnt) (mark : Mach → Mach) (ok : List StEl) (flt : Option Flt) : Mach :=
  let k := e.cap
  let m := (m.countOnce e mark).streamBeats m.cur (k.vl * k.size * k.g) (ok.flatMap StEl.ss)
  let m := m.note e fun p => { p with todo := some (ok, flt) }
  if flt.isNone then m.upd fun x => x.markSafe e else m

/-- The element index up to which a store has passed once n of its parts are performed (R203). -/
def passed (start stop : Nat) (els : List StEl) (n : Nat) : Nat :=
  match els[n]? with
  | some p => if n = 0 then start else p.el.i
  | none => stop

/-- The end of a store: its deltas, then its fault or completion (R158). -/
def Mach.storeEnd (m : Mach) (e : VEnt) (d : Nat) (els : List StEl) (flt : Option Flt) : Except Stop Mach := do
  let ds := m.storeDeltas e.cap d (m.titUsed e m.cur e.cap.tid) els
  waitFor (m.sqRoom m.cur ds.length) m
  (m.pushDeltas m.cur ds).close e flt

/-- An addition to the doubleword at resolved segments, at its home. -/
def Mach.addWord (m : Mach) (ss : List (Loc × Nat)) (n : Nat) : Mach :=
  if n = 0 || ss.isEmpty then m else
    (m.writeFrom (dieOf m.cur) 0 (segBytes ss (leBytes 8 (leVal (m.readSegs ss) + n))))

/-- Additions of n in all, of at most 256 each (R203). -/
def Mach.addWords (m : Mach) (ss : List (Loc × Nat)) : Nat → Nat → Mach
  | 0, n => m.addWord ss n
  | fuel + 1, n => if n ≤ 256 then m.addWord ss n else (m.addWord ss 256).addWords ss fuel (n - 256)

/-- Whether writes that entry e has posted to other members are not yet performed there. -/
def Mach.postsDue (m : Mach) (e : VEnt) : Bool :=
  m.troupe.txq.any fun p => match p.owner with
    | .ctx c _ _ (some t) => c == m.cur && t == (e.stamp, 0)
    | _ => false

/-- The progress word counts what has been passed, once the elements are performed at their homes (R203). -/
def Mach.credit (m : Mach) (e : VEnt) (pw : List (Loc × Nat)) (start stop : Nat) (els : List StEl) : Except Stop Mach :=
  let p := m.me.progOf e
  let due := passed start stop els p.pos - start - p.adds
  if pw.isEmpty || due = 0 then .ok m
  else if m.chainBusy pw || m.postsDue e then .error (.wait m)
  else .ok ((m.addWords pw (due / 256) due).note e fun p => { p with adds := p.adds + due })

/-- Performs the parts of a started store that are left, `fuel` batches at most; `pw` is a progress word, which counts what each
batch passes (R203). -/
def Mach.storeRest (m : Mach) (e : VEnt) (d : Nat) (pw : List (Loc × Nat)) (start stop : Nat) (els : List StEl) :
    Nat → Except Stop Mach
  | 0 => .error (.wait m)
  | fuel + 1 => do
    let m ← m.credit e pw start stop els
    let at_ := (m.me.progOf e).pos
    let left := batch (m.seen.isNone && pw.isEmpty) (els.drop at_)
    if left.isEmpty then .ok m else
    let r := m.storeAll e d left
    let m := r.1.note e fun p => { p with pos := at_ + r.2 }
    if r.2 < left.length then .error (.wait m)
    else if els.length ≤ at_ + r.2 then m.credit e pw start stop els
    else if m.seen.isSome then .error (.wait m)
    else m.storeRest e d pw start stop els fuel

/-- A started store goes on: the parts left, then its end. -/
def Mach.storeGo (m : Mach) (e : VEnt) (d : Nat) (pw : List (Loc × Nat)) (els : List StEl) (flt : Option Flt) :
    Except Stop Mach := do
  let k := e.cap
  let stop := match flt with | some f => f.vstart.getD k.vl | none => k.vl
  let m ← m.storeRest e d pw m.me.vstart.toNat stop els (els.length + 1)
  m.storeEnd e d els flt

/-- A store of group d in page order (R397); TID_INVALID comes before any element (R394). -/
def storeRun (d : Nat) (addr : Nat → Nat) : VRun := fun m e => do
  let k := e.cap
  let c := m.cur
  match (m.me.progOf e).todo with
  | some r => m.storeGo e d [] r.1 r.2
  | none =>
    mdlPre m e [(d, k.g)] [k.size] false (k.tid != 0)
    if k.vl = 0 then pure m else
    let els := vElems m.me k k.g addr
    orRaise m (m.windowEls els)
    orRaise m (tidCheck (m.titUsed e c k.tid) k.tid)
    let m := m.titStart e c k.tid
    let r := m.storeEls k d els
    let ps := storeParts k.size r.1
    let m := m.storeBegin e (fun m => m.touchEls c k.size [] (upTo els r.1.length r.2)) ps r.2
    m.storeGo e d [] ps r.2

/-- `vld` and `vst`: unit stride. -/
def runLd (d : Nat) (addr : Word) : VRun := fun m e => loadRun d (fun j => addr.toNat + j * e.cap.size) m e
def runSt (d : Nat) (addr : Word) : VRun := fun m e => storeRun d (fun j => addr.toNat + j * e.cap.size) m e

/-- The address of position j under a stride (R397). -/
def strided (addr stride : Word) (j : Nat) : Nat := (addr + BitVec.ofNat 64 j * stride).toNat

def runLds (d : Nat) (addr stride : Word) : VRun := loadRun d (strided addr stride)
def runSts (d : Nat) (addr stride : Word) : VRun := storeRun d (strided addr stride)

/-! ### The probe pass (R141) -/

/-- The addresses of the active elements under an index register (R399). -/
def idxElems (x : Ctx) (k : Cap) (addr : Word) (b : Nat) : List VEl :=
  let idx := x.row b k.vl 4
  ((List.range k.vl).filter fun i => x.active k i).map fun i => ⟨0, i, (addr.toNat + nthD 0 idx i) % 2 ^ 64⟩

/-- The distinct pages that n-byte elements of probe bank b touch. -/
def Mach.bankPages (m : Mach) (els : List VEl) (n b : Nat) : List (Nat × Nat) :=
  ((els.filter fun el => el.i % 16 == b && !isWindow el.va).flatMap fun el =>
    [m.pageOf m.cur el.va, m.pageOf m.cur ((el.va + n - 1) % 2 ^ 64)]).eraseDups

/-- PROBE_CAPACITY (R141), and the configuration faults of windows: before the probe pass. -/
def Mach.probeCheck (m : Mach) (n : Nat) (els : List VEl) : Except Flt Unit :=
  match (List.range 16).find? fun b => decide (64 < (m.bankPages els n b).length) with
  | some b => .error (fltConfig 0x14 b)
  | none => m.windowEls els

/-- The marks of a probe pass. -/
def Mach.touchProbes (m : Mach) (n : Nat) (els : List VEl) : Mach :=
  els.foldl (fun m el =>
    let m := m.touchProbe m.cur (el.i % 16) el.va
    let last := (el.va + n - 1) % 2 ^ 64
    if m.pageOf m.cur last = m.pageOf m.cur el.va then m else m.touchProbe m.cur (el.i % 16) last) m

/-- The probe pass (R141): every element in ascending order is checked by `f`, after the poison of its index; the fault of the lowest
is raised. -/
def probe {α : Type} (idx : VEl → Option Flt) (f : VEl → Except Flt α) (els : List VEl) : Except Flt (List (VEl × α)) :=
  els.mapM fun el => match idx el with
    | some g => .error g
    | none => match f el with
      | .ok a => .ok (el, a)
      | .error g => .error (g.ofEl el)

/-- The poison of the index of an element, in register b. -/
def Ctx.idxPoison (x : Ctx) (b : Nat) (el : VEl) : Option Flt :=
  if x.vrPoison.contains (Ctx.vkey b (el.i * 4) / 8 * 8) then some (fltRegPoison x b el.i 4) else none

/-- `vldx` (R399): every element is translated and checked for poison before any is performed. -/
def runLdx (d : Nat) (addr : Word) (b : Nat) : VRun := fun m e => do
  let k := e.cap
  mdlPre m e [(d, k.g), (b, k.g)] [k.size, 4] (k.g != 1) true
  let els := idxElems m.me k addr b
  orRaise m (m.probeCheck k.size els)
  let m := m.countOnce e fun m => m.touchProbes k.size els
  let rs ← orRaise m (probe (m.me.idxPoison b) (m.readable k.size .all) els)
  waitFor (!rs.any fun p => m.chainBusy p.2) m
  let r ← m.loadEls e k.size els
  let m := r.m.streamCost m.cur (k.vl * k.size) (rs.flatMap Prod.snd)
  (putCodes m k.size d (gotRows k 1 r.got)).close e none

/-- The check of an element that an indexed store writes: the walk, then the data's poison. -/
def Mach.writable (m : Mach) (k : Cap) (d : Nat) (el : VEl) : Except Flt (List (Loc × Nat)) :=
  match m.resolve m.cur kWrite el.va k.size .all with
  | .error f => .error f
  | .ok ss => match m.me.dataPoison k d el with
    | some f => .error f
    | none => .ok ss

/-- `vstx` (R399): duplicates are performed in ascending element order. -/
def runStx (d : Nat) (addr : Word) (b : Nat) : VRun := fun m e => do
  let k := e.cap
  let c := m.cur
  match (m.me.progOf e).todo with
  | some r => m.storeGo e d [] r.1 r.2
  | none =>
    mdlPre m e [(d, k.g), (b, k.g)] [k.size, 4] (k.g != 1) (k.tid != 0)
    if k.vl = 0 then pure m else
    let els := idxElems m.me k addr b
    orRaise m (m.probeCheck k.size els)
    orRaise m (tidCheck (m.titUsed e c k.tid) k.tid)
    let m := (m.titStart e c k.tid).countOnce e fun m => m.touchProbes k.size els
    let rs ← orRaise m (probe (m.me.idxPoison b) (m.writable k d) els)
    let ps := storeParts k.size rs
    let m := m.storeBegin e id ps none
    m.storeGo e d [] ps none

/-! ### Stores with progress (R203, R400) -/

/-- The progress word's bytes: translated before the first element; an aperture raises PROT (R400). -/
def Mach.progressWord (m : Mach) (va : Nat) : Except Flt (List (Loc × Nat)) :=
  match m.resolve m.cur kWrite va 8 .sp with
  | .error f => .error f
  | .ok ss => if ss.any fun s => (apertureOf s.1).isSome then .error (fltProt kWrite va)
    else match m.poisonSegs 0 ss with
      | some p => .error (fltPoison va p.2 0)
      | none => .ok ss

/-- `vstn`: the elements, and after each batch the count of element indices passed (R203). (DESIGN CHOICE, log 30) -/
def runStn (d : Nat) (addr prog : Word) : VRun := fun m e => do
  let k := e.cap
  let c := m.cur
  let pva := prog.toNat / 8 * 8
  match (m.me.progOf e).todo with
  | some r => m.storeGo e d ((m.progressWord pva).toOption.getD []) r.1 r.2
  | none =>
    mdlPre m e [(d, k.g)] [k.size] (k.g != 1) (k.tid != 0)
    if k.vl = 0 then pure m else
    let els := vElems m.me k 1 (fun j => addr.toNat + j * k.size)
    orRaise m (m.windowEls (⟨0, 0, pva⟩ :: els))
    orRaise m (tidCheck (m.titUsed e c k.tid) k.tid)
    let m := m.titStart e c k.tid
    let pw ← orRaise m (m.progressWord pva)
    let r := m.storeEls k d els
    let ps := storeParts k.size r.1
    let m := m.storeBegin e (fun m => (m.touch c pva).touchEls c k.size [] (upTo els r.1.length r.2)) ps r.2
    m.storeGo e d pw ps r.2

end Sys2Proof.Machine
end

