-- ==== Sys2Proof/Machine/Matrix.lean ====
section
/-!
DEFINITION. Matrix instructions (R374 to R391): outer products from registers and from scratchpad operands, structured sparsity,
moves between accumulators, registers and memory.
-/

namespace Sys2Proof.Machine

/-- An operand of a matrix instruction: an accumulator array, or a group of vector registers. -/
inductive MOp where
  | arr (n : Nat)
  | grp (v g : Nat)
deriving DecidableEq, Repr

/-- ILLEGAL_REG of the first operand that does not exist (R95, R99, R376). -/
def Ctx.checkOps (x : Ctx) (os : List MOp) : Except Flt Unit :=
  match os.findSome? fun o => match o with
    | .arr n => if x.accs ≤ n then some (fltReg n 1) else none
    | .grp v g => if x.regOk v g then none else some (fltReg v 0) with
  | some f => .error f
  | none => .ok ()

/-- Register groups among operands. -/
def MOp.regs (os : List MOp) : List (Nat × Nat) := os.filterMap fun o => match o with
  | .arr _ => none
  | .grp v g => some (v, g)

/-- Source and destination of iteration n of a copy command (R426). -/
def CopyCmd.at (k : CopyCmd) (n : Nat) : Nat × Nat :=
  let r := k.nest.foldl (fun (a : Nat × Int × Int) l =>
    let i : Int := (a.1 % l.1 : Nat)
    (a.1 / l.1, a.2.1 + i * l.2.1, a.2.2 + i * l.2.2)) (n, (k.src : Int), (k.dst : Int))
  (wrapN 64 r.2.1, wrapN 64 r.2.2)

/-- The bytes that a copy of a command writes: a quantising one writes codes, block bytes and the scale byte (R423). -/
def CopyCmd.outLen (k : CopyCmd) (t : Tit) : Nat :=
  if k.kind != 1 then k.len else
  let n := k.len / tySize k.xf
  n * tySize t.ty + (if t.blk = 0 then 0 else (n + t.blk - 1) / t.blk) + 1

/-- Whether n bytes at an address lie in the task's own `$acc` window of array a, in part at least. -/
def Ctx.inAcc (x : Ctx) (a va n : Nat) : Bool :=
  isWindow va && va / 2 ^ 54 % 4 == 3 && (va / 2 ^ 53 % 2 == 0 || va / 2 ^ 37 % 65536 == x.task.idx) &&
  decide (va % 2 ^ 24 < (a + 1) * 65536) && decide (a * 65536 < va % 2 ^ 24 + n)

/-- Whether a copy command reads or writes array a of its own task (R390). -/
def usesAcc (x : Ctx) (a : Nat) (k : CopyCmd) (t : Tit) : Bool :=
  k.len != 0 && (List.range k.iters).any fun n => x.inAcc a (k.at n).1 k.len || x.inAcc a (k.at n).2 (k.outLen t)

/-- A matrix instruction that names an array waits for the older copies of the context into and out of it, held or released (R390). -/
def Mach.accBusy (m : Mach) (e : VEnt) (os : List MOp) : Bool :=
  let x := m.me
  os.any fun o => match o with
    | .grp _ _ => false
    | .arr n => (x.copyq.any fun k => decide (k.age < e.stamp) && usesAcc x n k.cmd (m.tit m.cur k.cmd.tid)) ||
        x.hold.any fun h => decide (h.after < e.stamp) && match h.cmd with
          | .copy k => usesAcc x n k (m.tit m.cur k.tid)
          | _ => false

/-- The array that a matrix instruction names. -/
def VOp.arr (o : VOp) : Option Nat :=
  match o with
  | .accop d _ _ => some d
  | .accopH d _ _ => some d
  | .accsp _ d _ _ _ => some d
  | .acczero d => some d
  | .accrd _ n _ => some n
  | .accwr n _ _ => some n
  | .accld n _ => some n
  | .accst _ n => some n
  | .accstq _ n _ => some n
  | _ => none

/-- The checks of R376 up to configuration; `readTy` says whether MDM.TYPE is read, and `sizes` lists the types whose MAXVL holds VL.
(DEDUCED, log 91) -/
def mPre (x : Ctx) (k : Cap) (os : List MOp) (sizes : List Nat) (readTy bad : Bool) (fmts : List (Nat × Nat)) : Except Flt Unit :=
  match x.checkOps os with
  | .error f => .error f
  | .ok _ =>
    if k.vl = 0 then .ok ()
    else if readTy && !tyCodeOk k.ty then .error (fltMode mdm)
    else if Config.tlen < k.vl || sizes.any (fun e => decide (x.maxvlOf e < k.vl)) then .error (fltConfig 0x10 0)
    else if bad || 6 ≤ k.rm then .error (fltMode mdm)
    else match fmts.find? fun f => !fmtValid f.1 with
      | some f => .error (fltConfig 0x12 f.2)
      | none => .ok ()

/-- Waits before a matrix instruction starts. -/
def mWait (m : Mach) (e : VEnt) (os : List MOp) : Except Stop Unit := do
  vWait m e (MOp.regs os)
  waitFor (!m.accBusy e os) m

/-- ColOn (R374): the guard alone, without VSTART. -/
def Ctx.cols (x : Ctx) (k : Cap) : List Bool :=
  let g := x.guard k.md.toNat
  (List.range k.vl).map fun c => guardBit k.md.toNat g c

/-! ### Accumulators -/

/-- Row r of array n, columns 0 to w − 1. -/
def Ctx.accRow (x : Ctx) (n r w : Nat) : List Nat := (cgetRange x.acc (akey n r 0) w).map BitVec.toNat

/-- Writes accumulator elements given in rising key order, and clears the poison they cover (R121). -/
def Ctx.putAcc (x : Ctx) (us : List (Nat × BitVec 32)) : Ctx :=
  { x with acc := csetAll us x.acc,
           accPoison := if x.accPoison.isEmpty then [] else
             x.accPoison.filter fun u => !((us.any fun e => e.1 == u) && us.any fun e => e.1 == u + 1) }

/-- ADIRTY[n] := 1 (R99). -/
def Ctx.dirtyAcc (x : Ctx) (n : Nat) : Ctx := { x with adirty := x.adirty ||| BitVec.ofNat 4 (2 ^ n) }

/-- The updates that put a row of codes into row r of array n. -/
def rowUpdates (n r : Nat) (codes : List (Option Nat)) : List (Nat × BitVec 32) :=
  codes.zipIdx.filterMap fun p => p.1.map fun c => (akey n r p.2, BitVec.ofNat 32 c)

/-- MEM_POISON of an accumulator element (R121, R295): FADDR is its `$acc` window address. (DEDUCED, log 18) -/
def fltAccPoison (n r c elem : Nat) : Flt := fltPoison (0xFFC0000000000000 + akey n r c * 4) 4 elem

/-- The first poisoned element among the columns that are on, in the given rows. -/
def Ctx.accPoisoned (x : Ctx) (n : Nat) (rows : List Nat) (cols : List Bool) : Except Flt Unit :=
  if x.accPoison.isEmpty then .ok () else
  match rows.findSome? fun r => (cols.zipIdx.find? fun p => p.1 && x.accPoison.contains (akey n r p.2 / 2 * 2)).map fun p =>
      fltAccPoison n r p.2 p.2 with
  | some f => .error f
  | none => .ok ()

/-- The poison of the elements at the given places of a register group, es bytes each: the columns that are on read no others. -/
def Ctx.poisonAmong (x : Ctx) (v g es : Nat) (els : List Nat) : Except Flt Unit :=
  if x.vrPoison.isEmpty then .ok () else
  match els.find? fun i => (List.range g).any fun r => (List.range es).any fun b => x.vrPoison.contains (Ctx.vkey (v + r) (i * es + b) / 8 * 8) with
  | some i => .error (fltRegPoison x v i es)
  | none => .ok ()

/-- The columns that are on. -/
def onCols (cols : List Bool) : List Nat := (cols.zipIdx.filter fun p => p.1).map Prod.snd

/-! ### Outer products -/

/-- The elements of an operand word (R375). -/
def wordVals (t : Ty) (ty w : Nat) : List XV :=
  let d := dotD ty
  (List.range d).map fun k => t.val (w / 2 ^ (32 / d * k) % 2 ^ t.bits)

/-- One update of array n: `prods r c` are the products of row r and column c (R378, R377). -/
def Ctx.accUpdate (x : Ctx) (k : Cap) (n : Nat) (cols : List Bool) (prods : Nat → Nat → List XV) : Ctx :=
  x.putAcc ((List.range Config.tlen).flatMap fun r =>
    let row := x.accRow n r k.vl
    let vals := (cols.zip row).zipIdx.map fun p =>
      if p.1.1 then some (windowSum k.rdn (f32.val p.1.2) (prods r p.2)) else none
    rowUpdates n r (roundRow (.flt f32) k.rm x.srstep.toNat r vals))

/-- The products of two operand words. -/
def mulWords (a b : List XV) : List XV := (a.zip b).map fun p => p.1.mul p.2

/-- All updates of an outer product, with the dirty bit, SRSTEP and the beats (R377, R378, R391). -/
def outer (m : Mach) (k : Cap) (n : Nat) (ups : List (List (List XV) × List (List XV))) : Mach :=
  let cols := m.me.cols k
  let m := m.upd fun x => ups.foldl (fun x u => x.accUpdate k n cols fun r c => mulWords (nthD [] u.1 r) (nthD [] u.2 c)) x
  (m.upd fun x => (x.dirtyAcc n).srUsed k (cols.any id)).beats m.cur resMatrix (4 * ups.length)

/-- Elem(v, g × MAXVL(Z32) + r, Z32) for r from 0 (R378). -/
def Ctx.opWords (x : Ctx) (v g n : Nat) : List Nat := x.row (v + g) n 4

/-- `accop` (R378). -/
def runAccop (d a b : Nat) : VRun := fun m e => do
  let k := e.cap
  let g := k.g
  let os := [MOp.arr d, .grp a g, .grp b g]
  orRaise m (mPre m.me k os [4] true (dotD k.ty == 0 || k.blocked) k.fmts)
  mWait m e os
  if k.vl = 0 then pure m else
  let x := m.me
  let on := onCols (x.cols k)
  orRaise m (x.poisonAmong a g 4 (if on.isEmpty then [] else List.range Config.tlen))
  orRaise m (x.poisonAmong b g 4 on)
  orRaise m (x.accPoisoned d (List.range Config.tlen) (x.cols k))
  pure (outer m k d ((List.range g).map fun i =>
    ((x.opWords a i Config.tlen).map (wordVals k.tyv k.ty), (x.opWords b i k.vl).map (wordVals k.tyv k.ty))))

/-! ### Operand headers (R320, R321, R379 to R381) -/

/-- The fields of an operand header. -/
structure OpHdr where
  base   : Nat
  stride : Nat
  t      : Bool
  mc     : Bool
  xt     : Bool
  tid    : Nat
  task   : Nat
deriving DecidableEq, Repr

def opHdr (w : Word) : OpHdr where
  base := bitsOf w.toNat 17 0 * 8
  stride := bitsOf w.toNat 31 21 * 8
  t := w.getLsbD 32
  mc := w.getLsbD 33
  xt := w.getLsbD 34
  tid := bitsOf w.toNat 47 36
  task := bitsOf w.toNat 63 48

/-- The task offset of operand word (g, r). -/
def OpHdr.off (h : OpHdr) (g r : Nat) : Nat := if h.t then h.base + r * h.stride + 4 * g else h.base + g * h.stride + 4 * r

/-- The `$sp` window that a header names (R321). -/
def OpHdr.win (h : OpHdr) : Nat := 0xFF80000000000000 + if h.xt then 2 ^ 53 + h.task * 2 ^ 37 else 0

/-- Resolution of the word at a task offset (R321, R125, R130) and its poison. -/
def Mach.opWord (m : Mach) (h : OpHdr) (elem off : Nat) : Except Flt (List (Loc × Nat)) :=
  if 2 ^ 24 ≤ off + 3 then match m.window m.cur kRead h.win 1 .sp with
    | .error f => if f.code = 0x05 then .error (fltBounds off (h.win + off % 2 ^ 24)) else .error f
    | .ok _ => .error (fltBounds off (h.win + off % 2 ^ 24))
  else match m.window m.cur kRead (h.win + off) 4 .sp with
    | .error f => .error f
    | .ok ss => match m.poisonSegs 0 ss with
      | some p => .error (fltPoison (h.win + off + p.1) 2 elem)
      | none => .ok ss

/-- The words at offsets, or the fault of the lowest that fails (R379). (DEDUCED, log 21) -/
def Mach.opWords (m : Mach) (offs : List (OpHdr × Nat)) : Except Flt (List Nat) :=
  let bad := offs.foldl (fun (o : Option (Nat × Flt)) p => match m.opWord p.1 0 p.2 with
    | .ok _ => o
    | .error f => match o with
      | some q => if p.2 < q.1 then some (p.2, f) else o
      | none => some (p.2, f)) none
  match bad with
  | some q => .error q.2
  | none => .ok (offs.map fun p => match m.opWord p.1 0 p.2 with
    | .ok ss => leVal (m.readSegs ss)
    | .error _ => 0)

/-- What fetched words cost besides beats (R121, R163). -/
def Mach.fetchCost (m : Mach) (offs : List (OpHdr × Nat)) : Mach :=
  let ss := offs.flatMap fun p => match m.opWord p.1 0 p.2 with | .ok ss => ss | .error _ => []
  (m.eccRead ss).fetchFlits (dieOf m.cur) 0 ss

/-- Whether every scalar store older than the entry has been performed (R380). -/
def Ctx.olderStores (x : Ctx) (stamp : Nat) : Bool := x.sb.any fun s => decide (s.after < stamp)

/-- The type an operand header gives its words: MDM's, or its tensor's (R379). -/
def Mach.opTy (m : Mach) (k : Cap) (h : OpHdr) : Nat × Ty :=
  if h.tid = 0 then (k.ty, k.tyv) else let t := m.tit m.cur h.tid
  (t.ty, t.tyv)

/-- The checks that rest on the headers' entries (R376 step 4, R375). -/
def Mach.hdrTypes (m : Mach) (k : Cap) (ha hb : OpHdr) : Except Flt Unit :=
  match [ha, hb].find? fun h => h.tid != 0 && !(m.tit m.cur h.tid).v with
  | some h => .error (fltTid h.tid)
  | none =>
    let bad := fun (h : OpHdr) => h.tid != 0 && (dotD (m.opTy k h).1 == 0 || (m.tit m.cur h.tid).blk != 0)
    if bad ha || bad hb || dotD (m.opTy k ha).1 != dotD (m.opTy k hb).1 then .error (fltMode mdm) else .ok ()

/-- Scratchpad beats of a header operand over g updates (R391). -/
def OpHdr.beats (h : OpHdr) (g : Nat) : Nat := if h.t then 16 * ((g + 1) / 2) else 8 * g

/-- `accop.h` (R378 to R380). (DEDUCED, log 21) -/
def runAccopH (d : Nat) (a b : Word) : VRun := fun m e => do
  let k := e.cap
  let g := k.g
  let ha := opHdr a
  let hb := opHdr b
  let os := [MOp.arr d]
  let own := ha.tid = 0 || hb.tid = 0
  orRaise m (mPre m.me k os [] true (own && (dotD k.ty == 0 || k.blocked)) (if own then k.fmts else []))
  if k.vl = 0 then pure m else
  orRaise m (m.hdrTypes k ha hb)
  mWait m e os
  waitFor (!m.me.olderStores e.stamp) m
  let m := if ha.tid = 0 then m else m.titFill m.cur ha.tid
  let m := if hb.tid = 0 then m else m.titFill m.cur hb.tid
  let x := m.me
  let cols := x.cols k
  let on := (List.range k.vl).filter fun c => nthD false cols c
  let offA := (List.range g).flatMap fun i => (List.range Config.tlen).map fun r => (ha, ha.off i r)
  let offB := (List.range g).flatMap fun i => on.map fun c => (hb, hb.off i c)
  let ws ← orRaise m (m.opWords (offA ++ offB))
  orRaise m (x.accPoisoned d (List.range Config.tlen) cols)
  let m := m.fetchCost (offA ++ offB)
  let ta := m.opTy k ha
  let tb := m.opTy k hb
  let wa := ws.take offA.length
  let wb := ws.drop offA.length
  let ups := (List.range g).map fun i =>
    ((wa.drop (i * Config.tlen)).take Config.tlen |>.map (wordVals ta.2 ta.1),
     (spread k.vl 0 (on.zip ((wb.drop (i * on.length)).take on.length))).map fun o => wordVals tb.2 tb.1 (o.getD 0))
  pure ((outer m k d ups).beats m.cur resSp (ha.beats g + hb.beats g))

/-! ### Structured sparsity (R382) -/

/-- The logical positions of the four kept elements of row r, from the metadata as one bit string. -/
def metaPos (n48 : Bool) (bits r : Nat) : List Nat :=
  (List.range 4).map fun i =>
    if n48 then bits / 2 ^ (12 * r + 3 * i) % 8 else 4 * (i / 2) + bits / 2 ^ (8 * r + 4 * (i / 2) + 2 * (i % 2)) % 4

/-- `accsp.24` (n = 0) and `accsp.48` (n = 1). -/
def runAccsp (n d a b f : Nat) : VRun := fun m e => do
  let k := e.cap
  let g := k.g
  let os := [MOp.arr d, .grp a g, .grp b g, .grp f g]
  orRaise m (mPre m.me k os [4] true (dotD k.ty != 4 || k.blocked) k.fmts)
  mWait m e os
  if k.vl = 0 then pure m else
  let x := m.me
  let nb := if n = 0 then Config.tlen else Config.tlen * 3 / 2
  let on := onCols (x.cols k)
  orRaise m (x.poisonAmong a g 4 (if on.isEmpty then [] else List.range Config.tlen))
  orRaise m (x.poisonAmong b g 8 on)
  orRaise m (x.poisonAmong f g 1 (if on.isEmpty then [] else List.range nb))
  orRaise m (x.accPoisoned d (List.range Config.tlen) (x.cols k))
  let t := k.tyv
  let cols := x.cols k
  let upd := fun (x' : Ctx) i =>
    let wa := (x.opWords a i Config.tlen).map (wordVals t k.ty)
    let bits := leVal (x.vread (f + i) 0 nb)
    let pos := (List.range Config.tlen).map (metaPos (n != 0) bits)
    let wb := (blocksOf 8 k.vl (x.row (b + i) (8 * k.vl) 1)).map fun l => l.map fun c => t.val (c % 2 ^ t.bits)
    x'.accUpdate k d cols fun r c =>
      let dense := nthD [] wb c
      ((nthD [] wa r).zip (nthD [] pos r)).map fun p => p.1.mul (nthD .nan dense p.2)
  let m := m.upd fun x => (List.range g).foldl upd x
  pure ((m.upd fun x => (x.dirtyAcc d).srUsed k (cols.any id)).beats m.cur resMatrix (4 * g))

/-! ### Moves (R384 to R386) -/

/-- `acczero`: no VL, guard or type is read. -/
def runAcczero (d : Nat) : VRun := fun m e => do
  orRaise m (m.me.checkOps [.arr d])
  mWait m e [.arr d]
  pure ((m.upd fun x => { x with
    acc := cclear x.acc (akey d 0 0) (akey (d + 1) 0 0),
    adirty := x.adirty &&& ~~~(BitVec.ofNat 4 (2 ^ d)),
    accPoison := x.accPoison.filter fun u => !(decide (akey d 0 0 ≤ u) && decide (u < akey (d + 1) 0 0)) }).beats m.cur resMatrix 16)

/-- The rows an `accrd` or `accwr` names (R385). -/
def accRows (row : Word) (g : Nat) : List Nat := (List.range g).map fun i => (row.toNat + i) % Config.tlen

/-- `accrd`: SR dithers at position (g, c), g the row of the register group as R385 has it, where R224 says the accumulator row. (DESIGN
CHOICE, log 103) -/
def runAccrd (d n : Nat) (row : Word) : VRun := fun m e => do
  let k := e.cap
  let g := k.g
  let os := [MOp.grp d g, .arr n]
  orRaise m (mPre m.me k os [k.size] true (2 < k.ty) [])
  mWait m e os
  let x := m.me
  let cols := x.cols k
  orRaise m (x.accPoisoned n (accRows row g) cols)
  let rows := (accRows row g).map fun r => (cols.zip (x.accRow n r k.vl)).map fun p => if p.1 then some (f32.val p.2) else none
  pure ((putRounded m k k.tyv k.size d rows).beats m.cur resMatrix (g * ((k.vl * 4 + 63) / 64)))

def runAccwr (n a : Nat) (row : Word) : VRun := fun m e => do
  let k := e.cap
  let g := k.g
  let os := [MOp.arr n, .grp a g]
  orRaise m (mPre m.me k os [k.size] true (2 < k.ty) [])
  mWait m e os
  let x := m.me
  let cols := x.cols k
  orRaise m (x.poisonAmong a g k.size (onCols cols))
  let wr := fun (y : Ctx) (p : Nat × Nat) =>
    y.putAcc (rowUpdates n p.1 ((cols.zip (x.row (a + p.2) k.vl k.size)).map fun q =>
      if q.1 then some (f32.round 0 0 (k.tyv.val q.2)) else none))
  let m := m.upd fun y => (accRows row g).zipIdx.foldl wr y
  let m := if cols.any id then m.upd fun x => x.dirtyAcc n else m
  pure (m.beats m.cur resMatrix (g * ((k.vl * 4 + 63) / 64)))

/-! ### Loads and stores of arrays (R387, R388) -/

/-- The elements of row r: columns that are on. -/
def accEls (addr : Word) (e r : Nat) (cols : List Bool) : List VEl :=
  (cols.zipIdx.filter fun p => p.1).map fun p => ⟨r, p.2, (addr.toNat + (r * Config.tlen + p.2) * e) % 2 ^ 64⟩

/-- A fault of row r sets VSTART to r. -/
def Flt.atRow (f : Flt) (r : Nat) : Flt := { f with vstart := some r }

/-- Rows VSTART to TLEN − 1. -/
def Ctx.accFrom (x : Ctx) : List Nat := (List.range Config.tlen).drop x.vstart.toNat

/-- Beats of rows whose elements lie at segments (R391). -/
def Mach.accBeats (m : Mach) (k : Cap) (e : Nat) (rows : List (List (Loc × Nat))) : Mach :=
  let bs := rows.map (streamNeed (k.vl * e))
  ((m.beats m.cur resMatrix (rows.length * ((k.vl * 4 + 63) / 64))).beats m.cur resPort (bs.map Prod.fst).sum).beats
    m.cur resSp (bs.map Prod.snd).sum

/-- The rows of an `accld`: each is loaded whole before it is written, and one that is written is not loaded again. -/
def Mach.accldRows (m : Mach) (e : VEnt) (n : Nat) (addr : Word) (cols : List Bool) : List Nat → Except Stop (Mach × Option Flt)
  | [] => .ok (m, none)
  | r :: t => do
    let k := e.cap
    match m.loadEls e k.size (accEls addr k.size r cols) with
    | .error (.wait m) => .error (.wait m)
    | .error (.trap f m) => .ok (m, some (f.atRow r))
    | .ok v => match v.flt with
    | some f => pure (v.m, some (f.atRow r))
    | none =>
      let ss := v.got.flatMap fun p => p.2.1
      let codes := spread k.vl 0 (v.got.map fun p => (p.1.i, f32.round 0 0 (k.tyv.val p.2.2)))
      let m := v.m.upd fun x => if cols.any id then (x.putAcc (rowUpdates n r codes)).dirtyAcc n else x
      let m := (((m.eccRead ss).accBeats k k.size [ss]).fetchFlits (dieOf m.cur) 0 ss).note e fun p => { p with pos := p.pos + 1 }
      m.accldRows e n addr cols t

/-- The elements of rows up to the one that a fault with VSTART names. -/
def untilRow (els : List VEl) (f : Option Flt) : List VEl :=
  match f.bind Flt.vstart with
  | some r => els.filter fun el => decide (el.g ≤ r)
  | none => els

def runAccld (n : Nat) (addr : Word) : VRun := fun m e => do
  let k := e.cap
  let os := [MOp.arr n]
  orRaise m (mPre m.me k os [k.size] true (2 < k.ty) [])
  mWait m e os
  if k.vl = 0 then pure m else
  let cols := m.me.cols k
  let rows := m.me.accFrom
  let els := rows.flatMap fun r => accEls addr k.size r cols
  orRaise m (m.windowEls els)
  let r ← m.accldRows e n addr cols (rows.drop (m.me.progOf e).pos)
  (r.1.touchEls r.1.cur k.size [] (untilRow els r.2)).close e r.2

/-- A row to be stored: its elements with their codes and values, its block bytes, and whether one of its roundings overflowed. An
element of a quantiser has the scale under which it was encoded. -/
structure ARow where
  r      : Nat
  els    : List (VEl × Nat × XV × Option Int)
  blocks : List (VEl × Nat)
  ovf    : Bool

/-- What a store of a row writes at one place: bytes, the value that a record counts, and what a home that forms the delta counts. -/
structure ADat where
  el    : VEl
  bytes : List Byte
  val   : Option XV
  stat  : WStat

/-- What a row stores, elements of es bytes of type ty; a home of an element in an aperture is told the marks of its delta (R242, R250). -/
def ARow.data (k : Cap) (es : Nat) (ovf : Bool) (x : Option Int) (a : ARow) : List ADat :=
  (a.els.map fun p => ⟨p.1, leBytes es p.2.1, some p.2.2.1, if k.tid = 0 then .none else match p.2.2.2 with
    | none => ⟨.codes (some (k.ty, k.fmt.toNat)) [(0, p.2.1, 0)], false, none⟩
    | some sc => ⟨.codes none [(0, p.2.1, sc)], ovf || a.ovf, x⟩⟩) ++
  a.blocks.map fun p => ⟨p.1, leBytes 1 p.2, none, .none⟩

/-- The parts in which a place is written (R395). -/
def ADat.parts (d : ADat) : List ADat :=
  let k := firstPart d.el.va d.bytes.length
  if k = 0 then [d] else [{ d with bytes := d.bytes.take k }, { d with bytes := d.bytes.drop k, val := none, stat := .none }]

/-- The places that a row of array n writes, or its fault: of each element the walk, then poison (R296). -/
def Mach.rowEls (m : Mach) (n r : Nat) (ds : List ADat) : Except Flt (List StEl) := do
  let l ← ds.mapM fun d => match m.resolve m.cur kWrite d.el.va d.bytes.length .all with
    | .error f => .error ((f.ofEl d.el).atRow r)
    | .ok ss => if d.val.isSome && m.me.accPoison.contains (akey n d.el.g d.el.i / 2 * 2) then
        .error ((fltAccPoison n d.el.g d.el.i d.el.i).atRow r) else .ok (storeParts d.bytes.length [(d.el, ss)])
  pure l.flatten

/-- The places of rows in order, up to the first row that faults. -/
def Mach.rowsEls (m : Mach) (n : Nat) : List (Nat × List ADat) → List StEl × Option Flt
  | [] => ([], none)
  | a :: t =>
    match m.rowEls n a.1 a.2 with
    | .error f => ([], some f)
    | .ok l => let r := m.rowsEls n t
      (l ++ r.1, r.2)

/-- The stored elements with the die of their homes, for the deltas (R242, R388). -/
def Mach.rowsVals (m : Mach) (ds : List ADat) (places : List StEl) : List (Nat × XV) :=
  (places.zip ds).filterMap fun p => match p.1.ss, p.2.val with
    | s :: _, some v => (m.deltaDie s.1).map fun d => (d, v)
    | _, _ => none

/-- Performs the pieces of a started store that are left: all of them, or, for an instruction that has waited, one row. -/
def Mach.piecesRest (m : Mach) (e : VEnt) (ps : List Piece) : Except Stop Mach :=
  let left := ps.drop (m.me.progOf e).pos
  let now := match left with
    | [] => []
    | a :: _ => if m.seen.isNone then left else left.takeWhile fun p => p.el.g == a.el.g
  let r := m.storePieces e now
  let m := r.1.note e fun p => { p with pos := p.pos + r.2 }
  if r.2 = left.length then .ok m else .error (.wait m)

/-- A store of rows: their places, then their bytes, then their deltas with the marks `ovf` and x (R387, R388). -/
def Mach.storeRows (m : Mach) (e : VEnt) (n es : Nat) (t : Tit) (cols : List Bool) (rows : List ARow) (ovf : Bool) (x : Option Int) :
    Except Stop Mach := do
  let c := m.cur
  let k := e.cap
  let data := rows.map fun a => (a.r, a.data k es ovf x)
  let places := match (m.me.progOf e).todo with
    | some p => p
    | none => m.rowsEls n data
  let m := if (m.me.progOf e).todo.isSome then m else
    let done := (rows.map ARow.r).filter fun r => places.2.isNone || places.1.any fun p => p.el.g == r
    let upto := match places.2.bind Flt.vstart with
      | some r => data.filter fun (a : Nat × List ADat) => decide (a.1 ≤ r)
      | none => data
    let m := m.countOnce e fun m => m.touchSpans c [] (upto.flatMap fun a => a.2.map fun d => (d.el, d.bytes.length))
    let m := m.accBeats k es (done.map fun r => (places.1.filter fun p => p.el.g == r).flatMap StEl.ss)
    let m := m.note e fun p => { p with todo := some places }
    if places.2.isNone then m.upd fun y => y.markSafe e else m
  let parts := data.flatMap fun a => a.2.flatMap ADat.parts
  let m ← m.piecesRest e ((places.1.zip parts).map fun p => ⟨p.1.el, p.1.ss, p.2.bytes, p.2.stat⟩)
  let ok := rows.filter fun a => places.1.any fun p => p.el.g == a.r
  let vals := m.rowsVals parts places.1
  let far := places.1.any fun p => p.ss.any fun s => (apertureOf s.1).isSome
  let ds := m.deltasFor c k.tid t vals ((ovf || ok.any ARow.ovf) && !(far && vals.isEmpty)) false x
  waitFor (m.sqRoom c ds.length) m
  let m := m.pushDeltas c ds
  let m := if places.2.isNone then m.upd fun y => y.srUsed k (cols.any id && !rows.isEmpty) else m
  m.close e places.2

def runAccst (addr : Word) (n : Nat) : VRun := fun m e => do
  let k := e.cap
  let c := m.cur
  let os := [MOp.arr n]
  orRaise m (mPre m.me k os [k.size] true (2 < k.ty) [])
  if k.vl = 0 then pure m else
  let x := m.me
  let cols := x.cols k
  orRaise m (m.windowEls (x.accFrom.flatMap fun r => accEls addr k.size r cols))
  let t := m.titUsed e c k.tid
  orRaise m (tidCheck t k.tid)
  mWait m e os
  let m := m.titStart e c k.tid
  let rows := x.accFrom.map fun r =>
    let vals := (cols.zip (x.accRow n r k.vl)).map fun p => if p.1 then some (f32.val p.2) else none
    let codes := roundRow k.tyv k.rm x.srstep.toNat r vals
    ARow.mk r ((accEls addr k.size r cols).map fun el =>
      let cd := (nthD none codes el.i).getD 0
      (el, cd, k.tyv.val cd, none)) [] false
  m.storeRows e n k.size t cols rows false none

/-- What `accst.q` decides at its start: the scale in use and its marks (R249, R388); a restart takes the scale of S[B] (R252). An
instruction that has started keeps it in S[B], and its overflow mark in the entry. -/
def Mach.accstqStart (m : Mach) (e : VEnt) (t : Tit) (s : Nat) : Except Stop (Mach × Quant) :=
  let k := e.cap
  let x := sExp (vecAt 0 m.me.sreg s)
  let again := fun (ovf : Bool) =>
    (m, Quant.mk x 0 (t.rescale != 0 && t.rescale != 1) ovf (if t.rescale = 1 then some x else none))
  match (m.me.progOf e).got with
  | g :: _ => .ok (again (g.1 == 1))
  | [] =>
    if m.me.vstart != 0 then .ok (again false) else do
    let r ← m.quantStart m.cur e.who k.tid t
    let m := r.1.upd fun x => { x with sreg := vecSet x.sreg s (sregOf r.2.x k.tid r.2.gen) }
    pure (m.note e fun p => { p with got := [(r.2.ovf.toNat, [])] }, r.2)

/-- The address of block byte j of row r, after the elements (R388). -/
def accBlockAt (addr : Word) (es bs r j : Nat) : Nat := (addr.toNat + Config.tlen * Config.tlen * es + r * (Config.tlen / bs) + j) % 2 ^ 64

/-- Row r of array n as `accst.q` encodes it: the block bytes only of blocks that hold a column that is on. -/
def Ctx.qrow (x : Ctx) (k : Cap) (t : Tit) (q : Quant) (addr : Word) (n r : Nat) (cols : List Bool) : ARow :=
  let es := tySize t.ty
  let bs := t.blk
  let vals := (cols.zip (x.accRow n r k.vl)).map fun p => if p.1 then some (f32.val p.2) else none
  let qr := quantRow t.tyv bs q vals
  let enc := qr.map fun v => v.map Prod.fst
  let codes := roundRow t.tyv k.rm x.srstep.toNat r enc
  let els := (accEls addr es r cols).map fun el =>
    let cd := (nthD none codes el.i).getD 0
    let sc := ((nthD none qr el.i).map Prod.snd).getD q.x
    (el, cd, (t.tyv.val cd).scale sc, some sc)
  let bx := (rowBlocks t.tyv bs q.x vals).zipIdx
  let blocks := bx.filterMap fun b =>
    if ((vals.drop (b.2 * bs)).take bs).any Option.isSome then some (VEl.mk r b.2 (accBlockAt addr es bs r b.2), wrapN 8 b.1) else none
  let ovf := rowOverflows t.tyv k.rm x.srstep.toNat r enc || (vals.zip qr).any fun v => match v.1, v.2 with
    | some u, some w => quantClamps t.tyv q.clamp w.2 u
    | _, _ => false
  ⟨r, els, blocks, ovf⟩

/-- `accst.q` (R388): the rows' codes under the scale, with their block bytes after the elements. -/
def runAccstq (addr : Word) (n s : Nat) : VRun := fun m e => do
  let k := e.cap
  let c := m.cur
  let os := [MOp.arr n]
  orRaise m (mPre m.me k os [] true false [])
  if k.vl = 0 then pure m else
  let x := m.me
  let cols := x.cols k
  let t := m.titUsed e c k.tid
  orRaise m (m.windowEls (x.accFrom.flatMap fun r => accEls addr (tySize t.ty) r cols))
  if k.tid = 0 || !t.v || !t.stats then raise m (fltTid k.tid) else
  let m := m.titStart e c k.tid
  if !quantTy t.ty then raise m (fltMode mdm) else
  if t.tyv.noFinite then raise m (fltConfig 0x12 0) else
  mWait m e os
  waitFor (m.sqRoom c 6) m
  let q ← m.accstqStart e t s
  q.1.storeRows e n (tySize t.ty) t cols (x.accFrom.map fun r => x.qrow k t q.2 addr n r cols) q.2.ovf q.2.carry

/-! ### Gathering (R389) -/

def runGath (d : Nat) (base : Word) (b : Nat) : VRun := fun m e => do
  let k := e.cap
  let g := k.g
  let h := opHdr base
  let os := [MOp.grp d g, .grp b 1]
  orRaise m (mPre m.me k os [4] false false [])
  if k.vl = 0 then pure m else
  if h.tid != 0 && !(m.tit m.cur h.tid).v then raise m (fltTid h.tid) else
  mWait m e os
  waitFor (!m.me.olderStores e.stamp) m
  let x := m.me
  orRaise m (x.poisonAmong b 1 4 ((List.range k.vl).filter fun i => x.active k i))
  let idx := x.row b k.vl 4
  let els := ((List.range k.vl).filter fun i => x.active k i).flatMap fun i =>
    (List.range g).map fun r => (r, i, h.off r (nthD 0 idx i))
  let ws ← orRaise m (els.mapM fun p => match m.opWord h p.2.1 p.2.2 with
    | .ok ss => .ok (p.1, p.2.1, leVal (m.readSegs ss))
    | .error f => .error f)
  let rows := (List.range g).map fun r => spread k.vl 0 ((ws.filter fun w => w.1 == r).map Prod.snd)
  let m := m.fetchCost (els.map fun p => (h, p.2.2))
  pure ((putCodes m 4 d rows).beats m.cur resSp ((els.length + 7) / 8))

end Sys2Proof.Machine
end

