-- ==== Sys2Proof/Machine/Plural.lean ====
section
/-!
DEFINITION. Plural loads, stores and runs (R108, R123, R142, R179, R231, R261, R401 to R403, R428).
-/

namespace Sys2Proof.Machine

/-- A bank-set table entry (R179). -/
structure Bst where
  v      : Bool
  count  : Nat
  pskew  : Nat
  base   : Nat
  stride : Nat
  mask   : Nat
deriving DecidableEq, Repr

def bstOf (e : Nat) : Bst where
  v := bitOf e 0
  count := bitsOf e 6 1
  pskew := bitsOf e 15 8
  base := bitsOf e 127 64
  stride := bitsOf e 191 128
  mask := bitsOf e 255 192

/-- Entry n as a pair reads it: from its BST cache, else from memory (R173, R181). -/
def Mach.bstRaw (m : Mach) (c n : Nat) : Nat :=
  match (m.pair (pairOf c)).bstc.find? fun e => e.1 == m.qOf c && e.2.1 == n with
  | some e => e.2.2
  | none => leVal (m.readPa (m.bstAddr (m.qOf c) n) 32)

/-- The entry read enters the pair's 16-entry BST cache; the oldest leaves a full one. (DESIGN CHOICE, log 15) -/
def Mach.bstFill (m : Mach) (c n : Nat) : Mach :=
  let q := m.qOf c
  if (m.pair (pairOf c)).bstc.any fun e => e.1 == q && e.2.1 == n then m else
  let raw := leVal (m.readPa (m.bstAddr q n) 32)
  (m.ownRead (m.bstAddr q n) 32).updPair (pairOf c) fun p => { p with bstc := ((q, n, raw) :: p.bstc).take 16 }

/-- The entry of a plural operand: ILLEGAL_CONFIG 0x16 where there is none (R180, R401). -/
def Mach.bankset (m : Mach) (c : Nat) (set : Word) : Except Flt Bst :=
  if 1024 ≤ set.toNat then .error (fltConfig 0x16 set.toNat)
  else let b := bstOf (m.bstRaw c set.toNat)
    if b.v then .ok b else .error (fltConfig 0x16 set.toNat)

/-- The entry that queue entry e uses throughout: as it read it when it started (R180). -/
def Mach.banksetUsed (m : Mach) (e : VEnt) (c : Nat) (set : Word) : Except Flt Bst :=
  match (m.me.progOf e).bst with
  | some raw => .ok (bstOf raw)
  | none => m.bankset c set

/-- It starts: the entry is read, once. -/
def Mach.banksetStart (m : Mach) (e : VEnt) (c n : Nat) : Mach :=
  if (m.me.progOf e).bst.isSome then m else
  let raw := m.bstRaw c n
  (m.bstFill c n).note e fun p => { p with bst := some raw }

/-- MemberVA (R179). -/
def Bst.va (b : Bst) (k off : Nat) : Nat := (b.base + k * b.stride + off) % 2 ^ 64

/-- The members that are on (R401). -/
def membersOn (x : Ctx) (k : Cap) (b : Bst) : List Nat :=
  (List.range (b.count + 1)).filter fun i => b.mask.testBit i && guardBit k.md.toNat (x.guard k.md.toNat) i

/-- A member of a plural access: its number and address, the locations of its words, or its fault (R142). -/
structure PMem where
  k   : Nat
  va  : Nat
  ss  : List (List (Loc × Nat))
  bad : Option Flt
deriving DecidableEq, Repr

/-- The bank a location lies in. -/
def Mach.bankAt (m : Mach) (l : Loc) : Option Nat :=
  match l with
  | .pa a => (m.keyOf a).map bankOf
  | _ => none

/-- The banks of a member's words. -/
def Mach.banksOf (m : Mach) (ss : List (List (Loc × Nat))) : List Nat :=
  ss.flatMap fun s => s.filterMap fun l => m.bankAt l.1

/-- Translation of active members, each by itself: `seen` are the banks of lower ones, which a higher one may not share. A member that
PDONE names is not accessed, but its banks count (R142). -/
def Mach.members (m : Mach) (c kind : Nat) (b : Bst) (off g : Nat) (skip : Nat → Bool) : List Nat → List Nat → List PMem
  | _, [] => []
  | seen, k :: t =>
    let va := b.va k off
    match (List.range g).mapM fun i => m.resolve c kind ((va + 64 * i) % 2 ^ 64) 64 .no with
    | .error f =>
      let f := if f.code = 0x0A then { f with detail := k % 64, faddr := va } else f
      if skip k then m.members c kind b off g skip seen t else ⟨k, va, [], some f⟩ :: m.members c kind b off g skip seen t
    | .ok ss =>
      let bs := m.banksOf ss
      let rest := m.members c kind b off g skip (bs ++ seen) t
      if skip k then rest
      else if bs.any fun x => seen.contains x then ⟨k, va, [], some { code := 0x0A, detail := k % 64, faddr := va }⟩ :: rest
      else ⟨k, va, ss, none⟩ :: rest

/-- The configuration fault of a window address among the members to be accessed, which comes before any member (R130, R296). -/
def Mach.windowMembers (m : Mach) (c : Nat) (b : Bst) (off g : Nat) (ks : List Nat) : Except Flt Unit :=
  ks.forM fun k => (List.range g).forM fun i => m.windowCheck c ((b.va k off + 64 * i) % 2 ^ 64)

/-- A set of members as a bit mask. -/
def memMask (ks : List Nat) : Nat := ks.foldl (fun v k => setBit v k true) 0

/-- Marks member activations, PSKEW apart, for the compute-mode window of each stack (R122, R123). -/
def Mach.activate (m : Mach) (b : Bst) (ps : List PMem) : Mach :=
  { m with pacts := m.pacts ++ ps.zipIdx.filterMap fun p => match m.banksOf p.1.ss with
    | bk :: _ => some ⟨bk / 1024, m.cycle + p.2 * b.pskew, false⟩
    | [] => none }

/-- The touch of each member's page (R212). -/
def Mach.touchMembers (m : Mach) (c : Nat) (ps : List PMem) : Mach := ps.foldl (fun m p => m.touch c p.va) m

/-- Whether an older scalar store of the context to a member's words still waits in the store buffer (R261). -/
def Mach.storeAhead (m : Mach) (e : VEnt) (ps : List PMem) : Bool :=
  let keys := fun (l : Loc) => match l with
    | .pa a => (m.keyOf a).map (· / 64)
    | _ => none
  m.me.sb.any fun s => decide (s.after < e.stamp) && s.segs.any fun g => ps.any fun p => p.ss.any fun w => w.any fun l =>
    (keys g.1).isSome && (keys g.1 == keys l.1 || keys (g.1.plus (g.2.length - 1)) == keys l.1)

/-- Starts the timer of a plural instruction that waits for replies (R402). -/
def Mach.startTimer (m : Mach) (e : VEnt) : Mach :=
  m.upd fun x => { x with vq := x.vq.map fun (v : VEnt) => if v.stamp = e.stamp && v.timer.isNone then { v with timer := some (keptTime x.kept e.cap.pc) } else v }

/-- BANK_TIMEOUT of a member (R402). -/
def fltBankTime (p : PMem) : Flt := { code := 0x0D, detail := p.k % 64, faddr := p.va }

/-- Poison among a member's words (R402). (DEDUCED, log 34) -/
def Mach.memberPoison (m : Mach) (p : PMem) : Option Flt :=
  p.ss.zipIdx.findSome? fun s => (m.poisonSegs 0 s.1).map fun w => { fltPoison ((p.va + 64 * s.2 + w.1) % 2 ^ 64) 1 p.k with detail := 1 + p.k * 65536 }

/-- The trap of a plural instruction: the fault of the lowest faulted member, PFMASK the faulted ones, PDONE those done (R108,
R296). -/
def pluralFault (bad : List (Nat × Flt)) (pdone : Nat) : Option Flt :=
  match bad with
  | [] => none
  | b :: _ => some { b.2 with pfmask := some (memMask (bad.map Prod.fst)), pdone := some pdone }

/-! ### pld -/

/-- One combining step of `pld` on F32 values (R231). -/
def pldStep (op rm : Nat) (a b : XV) : XV :=
  match op with
  | 0 => f32.val (f32.round rm 0 (a.add (rm == 2) b))
  | 2 => a.minOf b
  | _ => a.maxOf b

/-- The fold of one element over the members in ascending order (R231, R402). -/
def pldFold (t : Ty) (k : Cap) (op : Nat) (cs : List Nat) : Nat :=
  match t with
  | .flt f =>
    match cs.map fun c => let v := f32.val (f32.round 0 0 (f.val c)); if op = 3 then v.abs else v with
    | [] => if op = 3 then 0 else redIdent t op
    | v :: vs => f.round k.rm 0 (vs.foldl (pldStep op k.rm) (if v.isNan then .nan else v))
  | .int s n =>
    let vs := cs.map fun c => intVal s n c
    match op with
    | 0 => fitInt k.sat s n (vs.foldl (· + ·) 0)
    | 1 => match vs with | [] => redIdent t 1 | v :: r => wrapN n (r.foldl max v)
    | 2 => match vs with | [] => redIdent t 2 | v :: r => wrapN n (r.foldl min v)
    | 4 => cs.foldl (· &&& ·) (2 ^ n - 1)
    | 5 => cs.foldl (· ||| ·) 0
    | _ => cs.foldl (· ^^^ ·) 0

/-- The checks of a plural load or store up to its bank set (R394, R402): `n` words' elements must fit when given. -/
def pluralPre (x : Ctx) (k : Cap) (d : Nat) (fit bad readFmt : Bool) : Except Flt Unit :=
  match x.checkRegs [(d, k.g)] with
  | .error f => .error f
  | .ok _ =>
    if !tyCodeOk k.ty then .error (fltMode mdp)
    else if fit && x.maxvlOf k.size * k.size < 64 then .error (fltConfig 0x10 0)
    else if bad || 6 ≤ k.rm then .error (fltMode mdp)
    else if readFmt && k.ty = 3 && !fmtValid k.fmt.toNat then .error (fltConfig 0x12 k.fs)
    else .ok ()

/-- The operator's types (R316, R402): SR is refused. -/
def pldBad (op : Nat) (k : Cap) : Bool := k.rm == 5 || (op == 3 && tyIsInt k.ty) || (4 ≤ op && tyIsFlt k.ty)

/-- What the members of a plural instruction have returned, or that they have performed, by number. -/
def Mach.gotOf (m : Mach) (e : VEnt) (k : Nat) : Option (List Byte) := ((m.me.progOf e).got.find? fun g => g.1 == k).map Prod.snd

/-- Reads the members that can be read, each at its own time: all of them, or, for an instruction that has waited, the first. A poisoned
one returns nothing (R263, R402). -/
def Mach.pldReads (m : Mach) (e : VEnt) (whole : Bool) : List PMem → Mach
  | [] => m
  | p :: t =>
    if (m.gotOf e p.k).isSome || p.ss.any (fun s => m.chainBusy s) then m.pldReads e whole t else
    let bs := if (m.memberPoison p).isSome then [] else p.ss.flatMap fun s => m.readSegs s
    let m := ((m.eccRead p.ss.flatten).fetchFlits (dieOf m.cur) 0 p.ss.flatten).note e fun g => { g with got := g.got ++ [(p.k, bs)] }
    if whole then m.pldReads e whole t else m

/-- `pld` (R402); `late` says that BANKTO has run out for the members that have not replied. (DEDUCED, log 33) -/
def runPldL (late : Bool) (op d : Nat) (set off : Word) : VRun := fun m e => do
  let k := e.cap
  let c := m.cur
  let g := k.g
  orRaise m (pluralPre m.me k d true (pldBad op k) true)
  let b ← orRaise m (m.banksetUsed e c set)
  orRaise m (m.windowMembers c b off.toNat g (membersOn m.me k b))
  vWait m e [(d, g)]
  let m := m.banksetStart e c set.toNat
  let ps := m.members c kPlural b off.toNat g (fun _ => false) [] (membersOn m.me k b)
  waitFor (!m.storeAhead e ps) m
  let m := m.countOnce e fun m => (m.touchMembers c ps).activate b ps
  let good := ps.filter fun p => p.bad.isNone
  let m := if late then m else m.pldReads e m.seen.isNone good
  if !late && (good.any fun p => (m.gotOf e p.k).isNone) then .error (.wait (m.startTimer e)) else
  let m := m.beats c resPort ((m.me.progOf e).got.length * g)
  let bad := ps.filterMap fun p => match m.gotOf e p.k with
    | none => some (p.k, p.bad.getD (fltBankTime p))
    | some bs => if bs.isEmpty then
        some (p.k, (m.memberPoison p).getD { fltPoison p.va 1 p.k with detail := 1 + p.k * 65536 }) else none
  match pluralFault bad 0 with
  | some f => raise m f
  | none =>
    let n := 64 / k.size
    let t := k.tyv
    let words := ps.map fun p => (m.gotOf e p.k).getD []
    let rows := (List.range g).map fun r => (List.range n).map fun j =>
      some (pldFold t k op (words.map fun w => leVal ((w.drop (64 * r + k.size * j)).take k.size) % 2 ^ t.bits))
    pure ((putCodes m k.size d rows).upd fun x => { x with pdone := 0 })

def runPld (op d : Nat) (set off : Word) : VRun := runPldL false op d set off

/-! ### pst -/

/-- The elements of row r of the stored words; none for one that poison touches (R242). -/
def Ctx.pstRow (x : Ctx) (k : Cap) (v : Nat) : List (Option Nat) :=
  (x.row v (64 / k.size) k.size).zipIdx.map fun c =>
    if (List.range k.size).any fun b => x.vrPoison.contains (Ctx.vkey v (c.2 * k.size + b) / 8 * 8) then none else some c.1

/-- The values a performed member counts, one row after another (R403, R242). -/
def Mach.memberVals (m : Mach) (t : Ty) (rows : List (List (Option Nat))) (p : PMem) : List (Nat × XV) :=
  (p.ss.zip rows).flatMap fun w => match w.1 with
    | s :: _ => match m.deltaDie s.1 with
      | some d => w.2.filterMap fun c => c.map fun c => (d, t.val (c % 2 ^ t.bits))
      | none => []
    | [] => []

/-- A member is written, whole words at a time. -/
def Mach.pstPut (m : Mach) (data : List (List Byte)) (p : PMem) : Mach :=
  (p.ss.zip data).foldl (fun m w => m.writeFrom (dieOf m.cur) 0 (segBytes w.1 w.2)) m

/-- Writes the members that can be written: all of them, or, for an instruction that has waited, the first. -/
def Mach.pstPuts (m : Mach) (e : VEnt) (data : List (List Byte)) (whole : Bool) : List PMem → Mach
  | [] => m
  | p :: t =>
    if (m.gotOf e p.k).isSome || p.ss.any (fun s => m.chainBusy s) then m.pstPuts e data whole t else
    let m := (m.pstPut data p).note e fun g => { g with got := g.got ++ [(p.k, [])] }
    if whole then m.pstPuts e data whole t else m

/-- `pst` (R403); a member timed out may or may not have been written, as a free truth value says. (DEDUCED, log 34) -/
def runPstL (late : Bool) (d : Nat) (set off : Word) : VRun := fun m e => do
  let k := e.cap
  let c := m.cur
  let g := k.g
  orRaise m (pluralPre m.me k d false false (k.tid != 0))
  let b ← orRaise m (m.banksetUsed e c set)
  orRaise m (m.windowMembers c b off.toNat g ((membersOn m.me k b).filter fun i => !m.me.pdone.getLsbD i))
  let t := m.titUsed e c k.tid
  orRaise m (tidCheck t k.tid)
  vWait m e [(d, g)]
  let m := (m.banksetStart e c set.toNat).titStart e c k.tid
  let x := m.me
  let ps := m.members c kPst b off.toNat g (fun i => x.pdone.getLsbD i) [] (membersOn x k b)
  waitFor (!m.storeAhead e ps) m
  let m := m.countOnce e fun m => (m.touchMembers c ps).activate b ps
  let m := if ps.all fun p => p.bad.isNone then m.upd fun x => x.markSafe e else m
  let data := (List.range g).map fun r => x.vread (d + r) 0 64
  let good := ps.filter fun p => p.bad.isNone
  let m := if late then m else m.pstPuts e data m.seen.isNone good
  let left := good.filter fun p => (m.gotOf e p.k).isNone
  if !late && !left.isEmpty then .error (.wait (m.startTimer e)) else
  let done := ps.filter fun p => (m.gotOf e p.k).isSome
  let rows := (List.range g).map fun r => x.pstRow k (d + r)
  let ds := m.deltasFor c k.tid t (done.flatMap fun p => m.memberVals k.tyv rows p) false
    (!done.isEmpty && rows.any fun r => r.any Option.isNone) none
  waitFor (m.sqRoom c ds.length) m
  let m := m.beats c resPort (done.length * g)
  let m := left.foldl (fun m p =>
    let m' := { m with free := m.free + 1 }
    if Config.freeBool m.free then m'.pstPut data p else m') m
  let m := m.pushDeltas c ds
  let bad := (ps.filter fun p => (m.gotOf e p.k).isNone).map fun p => (p.k, p.bad.getD (fltBankTime p))
  match pluralFault bad (x.pdone.toNat ||| memMask (done.map PMem.k)) with
  | some f => raise m f
  | none => pure (m.upd fun x => { x with pdone := 0 })

def runPst (d : Nat) (set off : Word) : VRun := runPstL false d set off

/-! ### prun -/

/-- Runs entered so far by a waiting `prun`. -/
def Mach.entered (m : Mach) (e : VEnt) (ks : Nat) : Mach :=
  m.upd fun x => { x with vq := x.vq.map fun (v : VEnt) => if v.stamp = e.stamp then { v with sat := v.sat ||| ks } else v }

/-- The run of a member (R428), with the TIT entry that the `prun` has read. -/
def Mach.runOf (m : Mach) (e : VEnt) (x : Word) (p : PMem) : Run :=
  let k := e.cap
  let a := match p.ss with
    | ((.pa a, _) :: _) :: _ => a
    | _ => 0
  let bank := (m.bankAt (.pa a)).getD 0
  { c := m.cur, q := m.qOf m.cur, member := p.k, nmu := bank / 16, bank := bank, base := p.va,
    arg := sx 16 (bitsOf x.toNat 31 16), entry := bitsOf x.toNat 8 0, tid := k.tid, ty := k.ty, fmt := k.fmt, word := k.word,
    age := e.stamp, tit := ((m.me.progOf e).tit).getD 0 }

/-- The runs of a context that NMUs hold: each keeps its place in the bank queue until it ends (R145). -/
def Mach.runsOf (m : Mach) (c : Nat) : Nat :=
  (m.nmus.map fun e => (e.2.queue.filter fun r => r.run.c == c).length + match e.2.cur with
    | some r => if r.run.c = c then 1 else 0
    | none => 0).sum

/-- `prun`: the runs enter the bank queue in ascending member order, waiting while it is full (R428). -/
def runPrun (xw set off : Word) : VRun := fun m e => do
  let k := e.cap
  let c := m.cur
  orRaise m (if !tyCodeOk k.ty || 6 ≤ k.rm then .error (fltMode mdp) else
    if k.tid != 0 && k.ty = 3 && !fmtValid k.fmt.toNat then .error (fltConfig 0x12 k.fs) else .ok ())
  let b ← orRaise m (m.banksetUsed e c set)
  orRaise m (m.windowMembers c b off.toNat 1 ((membersOn m.me k b).filter fun i => !m.me.pdone.getLsbD i))
  orRaise m (tidCheck (m.titUsed e c k.tid) k.tid)
  let m := (m.banksetStart e c set.toNat).titStart e c k.tid
  let x := m.me
  let ps := m.members c kPrun b off.toNat 1 (fun i => x.pdone.getLsbD i) [] (membersOn x k b)
  let sat := ((x.vq.find? fun v => v.stamp == e.stamp).map VEnt.sat).getD 0
  let bad := (ps.filter fun p => !sat.testBit p.k).filterMap fun p => p.bad.map fun f => (p.k, f)
  let good := ps.filter fun p => p.bad.isNone
  let due := good.filter fun p => !sat.testBit p.k
  let now := due.take (16 - (x.bankq.length + m.runsOf c))
  let m := m.countOnce e fun m => (m.touchMembers c ps).activate b good
  let m := m.upd fun x => { x with bankq := x.bankq ++ now.map (m.runOf e xw) }
  if now.length < due.length then
    let m := m.entered e (memMask (now.map PMem.k))
    .error (.wait (if bad.isEmpty then m.upd fun x => x.markSafe e else m))
  else match pluralFault bad (x.pdone.toNat ||| sat ||| memMask (due.map PMem.k)) with
    | some f => raise m f
    | none => pure (m.upd fun x => { x with pdone := 0 })

end Sys2Proof.Machine
end

