-- ==== Sys2Proof/Machine/Atomic.lean ====
section
/-!
DEFINITION. Atomics, locks, memory waits and set intersection (R404 to R411, R415, R416).
-/

namespace Sys2Proof.Machine

/-! ### Scalar atomics (R404 to R406) -/

/-- The new value of a doubleword (R404). -/
def amoNew (f : Nat) (old b expect : Word) : Word :=
  match f with
  | 0 => old + b
  | 1 => b
  | 2 => if old.slt b then b else old
  | 3 => if b.slt old then b else old
  | 4 => if old.ult b then b else old
  | 5 => if b.ult old then b else old
  | 6 => old &&& b
  | 7 => old ||| b
  | 8 => old ^^^ b
  | _ => if old = expect then b else old

/-- Whether the operation writes its word: `amo.cas` only when the expected value stands. -/
def amoWrites (f : Nat) (old expect : Word) : Bool := f != 9 || old == expect

/-- An atomic on a doubleword of this chip, at its home: the old value (R404, R405). -/
def Mach.amoHere (m : Mach) (c f : Nat) (b expect : Word) (ss : List (Loc × Nat)) : Mach × Word :=
  let old := zextW (leVal (m.readSegs ss))
  let m := m.readCost c 0 ss
  (if amoWrites f old expect then m.writeFrom (dieOf c) 0 (segBytes ss (leBytes 8 (amoNew f old b expect).toNat)) else m, old)

/-- A scalar atomic on the doubleword at X[A] (R404 to R406). It is performed at once where nothing older must be performed first and its
word is free; else it enters the store buffer, and the scalar side goes on (R150). One that needs a member's reply, or that finds
poison, waits here for its turn. (DEDUCED, log 94) -/
def amo (f : Nat) (d a b : BitVec 5) (s : State) : Out :=
  scalarStep [d.toNat, a.toNat, b.toNat] (fun m => do
    let c := m.cur
    let x := m.me
    let va := (x.rx a.toNat).toNat / 8 * 8
    waitFor (!m.walkWaits c va 8) m
    let m := m.countKey 0 fun m => m.touchN c va 8
    let ss ← orRaise m (m.resolve c kAtomic va 8 .sp)
    let first := x.sb.isEmpty && !x.anyUnsafe && !x.pluralAhead x.stamp ss && !x.xpAhead x.stamp
    let now := first && !m.chainBusy ss && !m.lag
    let later : Except Stop Mach :=
      if 32 ≤ x.sb.length then stallOn evSbStall m
      else .ok (m.buffer (.amo f d.toNat (x.rx b.toNat) (x.rx d.toNat) x.pc) va (ss.map fun s => (s.1, [])))
    match ss.findSome? fun s => apertureOf s.1 with
    | some t =>
      let o := FabOp.amo t.2 f (x.rx b.toNat) (x.rx d.toNat) (d != 0)
      if d = 0 then if now then m.post c x.stamp (x.sbNext + 1) x.ir t.1 clsReq o va else later
      else
        waitFor first m
        let r ← m.request c x.pc x.ir 0 t.1 clsReq o va 0
        pure ((r.1.dropReqs c x.pc).setX d.toNat (zextW (leVal r.2)))
    | none =>
      match m.poisonSegs 0 ss with
      | some p =>
        waitFor (first && !m.chainBusy ss) m
        raise m (fltPoison va p.2 0)
      | none =>
        if now then
          let r := m.amoHere c f (x.rx b.toNat) (x.rx d.toNat) ss
          pure (r.1.setX d.toNat r.2)
        else later) s

def execAmoAdd (d a b : BitVec 5) (s : State) : Out := amo 0 d a b s
def execAmoSwap (d a b : BitVec 5) (s : State) : Out := amo 1 d a b s
def execAmoMax (d a b : BitVec 5) (s : State) : Out := amo 2 d a b s
def execAmoMin (d a b : BitVec 5) (s : State) : Out := amo 3 d a b s
def execAmoMaxu (d a b : BitVec 5) (s : State) : Out := amo 4 d a b s
def execAmoMinu (d a b : BitVec 5) (s : State) : Out := amo 5 d a b s
def execAmoAnd (d a b : BitVec 5) (s : State) : Out := amo 6 d a b s
def execAmoOr (d a b : BitVec 5) (s : State) : Out := amo 7 d a b s
def execAmoXor (d a b : BitVec 5) (s : State) : Out := amo 8 d a b s
def execAmoCas (d a b : BitVec 5) (s : State) : Out := amo 9 d a b s

/-! ### Vector atomics (R407, R408) -/

/-- The integer types of `vamo`, and whether each is signed. -/
def vamoInt (ty : Nat) : Bool := ty == 4 || ty == 5 || ty == 9 || ty == 10

/-- Whether `vamo` with code f does not accept the type and rounding mode (R407, R103). -/
def vamoBad (f : Nat) (k : Cap) : Bool :=
  if k.ty = 0 then !(f ≤ 3) || (f == 0 && k.rm == 5) else !vamoInt k.ty || k.rm == 5

/-- The value a vector atomic stores, from the old code and the operand code (R407). -/
def vamoNew (f : Nat) (t : Ty) (rm : Nat) (old b : Nat) : Nat :=
  match t with
  | .flt g => match f with
    | 0 => g.round rm 0 ((g.val old).add (rm == 2) (g.val b))
    | 2 => g.round 0 0 ((g.val old).maxOf (g.val b))
    | 3 => g.round 0 0 ((g.val old).minOf (g.val b))
    | _ => b
  | .int s n => match f with
    | 0 => (old + b) % 2 ^ n
    | 1 => b
    | 2 => if intVal s n old < intVal s n b then b else old
    | 3 => if intVal s n b < intVal s n old then b else old
    | 4 => max old b
    | 5 => min old b
    | 6 => old &&& b
    | 7 => old ||| b
    | _ => old ^^^ b

/-- Elements with the low address bits below a size cleared. -/
def alignEls (n : Nat) (els : List VEl) : List VEl := els.map fun el => { el with va := el.va / n * n }

/-- An element of a vector atomic as resolved: its number, address, location segments, operand code. -/
structure AEl where
  el : VEl
  ss : List (Loc × Nat)
  b  : Nat

/-- The old value, or nothing for a poisoned word, that an element has returned. -/
def Mach.backOf (m : Mach) (e : VEnt) (i : Nat) : Option (List Byte) := ((m.me.progOf e).got.find? fun g => g.1 == i).map Prod.snd

/-- The DRAM bank word that the scatter-add unit would combine an element in: `vamo.add` only (R407). -/
def Mach.combineWord (m : Mach) (f : Nat) (a : AEl) : Option Nat :=
  if f != 0 then none else (a.ss.head?.bind fun s => match s.1 with | .pa x => m.keyOf x | _ => none).bind fun k =>
    if k < Config.dramEnd then some k else none

/-- An element performed at its home now, and its answer; the value that it stores (R407). -/
def Mach.vamoHere (m : Mach) (f : Nat) (e : VEnt) (a : AEl) : Mach × Option XV :=
  let k := e.cap
  let back := fun (m : Mach) (bs : List Byte) => m.note e fun p => { p with got := p.got ++ [(a.el.i, bs)] }
  match m.poisonSegs 0 a.ss with
  | some _ => (back m [], none)
  | none =>
    let n := k.size
    let old := leVal (m.readSegs a.ss)
    let new := vamoNew f k.tyv k.rm old a.b
    let m := match m.combineWord f a with
      | some w => m.dieNote (dieOfKey w) .chainsOpened 1
      | none => m
    (back (((m.eccRead a.ss).fetchFlits (dieOf m.cur) 0 a.ss).writeFrom (dieOf m.cur) 0 (segBytes a.ss (leBytes n new))) (leBytes n old),
     some (k.tyv.val new))

/-- The local elements that have not been performed, in order, as far as they can be: an addition joins or opens the chain of its word, or
opens and closes one at once; another operation waits for an open chain. The values stored at once, with the dies of their homes.
(DEDUCED, log 54) -/
def Mach.vamoLocal (m : Mach) (f : Nat) (e : VEnt) : List AEl → Mach × List (Nat × XV)
  | [] => (m, [])
  | a :: t =>
    let sat := ((m.me.vq.find? fun v => v.stamp == e.stamp).map VEnt.sat).getD 0
    let k := e.cap
    if (m.backOf e a.el.i).isSome || sat.testBit a.el.i then m.vamoLocal f e t else
    match m.combineWord f a with
    | some key =>
      let w := unitOf key
      if m.seen.isSome || (m.chainOf w).isSome || m.parkedKey key then
        if m.chainRoom w then
          (((m.carry (dieOf m.cur) (dieOfKey key) 0 k.size).chainAdd w (.vamo key k.ty k.rm a.b (m.qOf m.cur) k.tid m.cur (.elem m.cur e.stamp a.el.i))).entered e (2 ^ a.el.i)).vamoLocal f e t
        else (m.dieNote (dieOfKey w) .chainWaits 1).vamoLocal f e t
      else
        let r := m.vamoHere f e a
        let q := r.1.vamoLocal f e t
        (q.1, (r.2.map fun v => (dieOfKey key, v)).toList ++ q.2)
    | none =>
      if m.chainBusy a.ss then m.vamoLocal f e t else
        let r := m.vamoHere f e a
        let die := a.ss.head?.bind fun s => m.deltaDie s.1
        let q := r.1.vamoLocal f e t
        (q.1, (match r.2, die with | some v, some d => [(d, v)] | _, _ => []) ++ q.2)

/-- The fabric elements, each a request; a poisoned word is no fault of the sub-operation (R407, R408). -/
def vamoFabric (f : Nat) (e : VEnt) (m : Mach) : List (AEl × Nat × Nat) →
    Except Stop (Mach × List (Nat × Nat) × List (VEl × Nat))
  | [] => .ok (m, [], [])
  | (a, t, off) :: rest =>
    let k := e.cap
    match (m.findReq m.cur k.pc (a.el.key 0)).bind FabReq.err with
    | some (0x0C, where_) => do
      let r ← vamoFabric f e m rest
      pure (r.1, r.2.1, (a.el, if where_ = 2 then 2 else 1) :: r.2.2)
    | _ => do
      let q ← m.request m.cur k.pc k.word (a.el.key 0) t clsReq (.vamo off f k.ty k.rm a.b k.tid) a.el.va a.el.i
      let r ← vamoFabric f e q.1 rest
      pure (r.1, (a.el.i, leVal q.2) :: r.2.1, r.2.2)

/-- Insertion by element number. -/
def insElem (p : Nat × Nat) : List (Nat × Nat) → List (Nat × Nat)
  | [] => [p]
  | q :: t => if p.1 ≤ q.1 then p :: q :: t else q :: insElem p t

/-- The lowest poisoned element. -/
def lowestBad (bad : List (VEl × Nat)) : Option (VEl × Nat) :=
  bad.foldl (fun o b => match o with
    | none => some b
    | some a => if b.1.i < a.1.i then some b else some a) none

/-- The location of an element that `vamo` acts on, or its fault: the walk, then the operand's poison. -/
def Mach.vamoEl (m : Mach) (k : Cap) (d : Nat) (el : VEl) : Except Flt (List (Loc × Nat)) :=
  match m.resolve m.cur kAtomic el.va k.size .no with
  | .error f => .error f
  | .ok ss => match m.me.dataPoison k d el with
    | some f => .error f
    | none => .ok ss

/-- `vamo` (R407, R408): the fabric elements, then the local ones, then Vd. -/
def runVamo (f d : Nat) (addr : Word) (b : Nat) : VRun := fun m e => do
  let k := e.cap
  let c := m.cur
  mdlPre m e [(d, k.g), (b, k.g)] [k.size, 4] (k.g != 1 || vamoBad f k) false
  if k.vl = 0 then pure m else
  let x := m.me
  let els := alignEls k.size (idxElems x k addr b)
  orRaise m (m.probeCheck k.size els)
  orRaise m (tidCheck (m.titUsed e c k.tid) k.tid)
  let m := (m.titStart e c k.tid).countOnce e fun m => m.touchProbes k.size els
  let rs ← orRaise m (probe (x.idxPoison b) (m.vamoEl k d) els)
  let as := rs.map fun r => AEl.mk r.1 r.2 (x.elem d 0 r.1.i k.size)
  let fab := as.filterMap fun a => (a.ss.findSome? fun s => apertureOf s.1).map fun t => (a, t.1, t.2)
  let fr ← vamoFabric f e m fab
  let loc := as.filter fun a => (a.ss.findSome? fun s => apertureOf s.1).isNone
  waitFor (fr.1.recRoom (fr.1.qOf c) k.tid 5) fr.1
  let lr := fr.1.vamoLocal f e loc
  let m := lr.1.homeDeltas (dieOf c) c (lr.1.qOf c) k.tid lr.2
  waitFor (loc.all fun a => (m.backOf e a.el.i).isSome) m
  let back := loc.map fun a => (a, (m.backOf e a.el.i).getD [])
  let old := (fr.2.1 ++ (back.filter fun p => !p.2.isEmpty).map fun p => (p.1.el.i, leVal p.2)).foldl (fun l p => insElem p l) []
  let m := (putCodes m k.size d [spread k.vl 0 old]).streamBeats c (k.vl * k.size) (as.flatMap AEl.ss)
  let bad := back.filterMap fun p => if p.2.isEmpty then some (p.1.el, match p.1.ss with
    | (.pa a, _) :: _ => if a / 2 ^ 46 = 2 then 2 else 1
    | _ => 1) else none
  match lowestBad (fr.2.2 ++ bad) with
  | some p => raise (m.dropReqs c k.pc) (fltPoison p.1.va p.2 p.1.i)
  | none => m.close e none

/-! ### Locks (R409) -/

/-- Elements in ascending address order, one of the lowest number per address. (DEDUCED, log 35) -/
def insLock (p : VEl × List (Loc × Nat)) : List (VEl × List (Loc × Nat)) → List (VEl × List (Loc × Nat))
  | [] => [p]
  | q :: t => if p.1.va = q.1.va then q :: t else if p.1.va < q.1.va then p :: q :: t else q :: insLock p t

/-- The attempts in order, up to a poisoned word: the locks obtained. -/
def Mach.attempts (m : Mach) : List (VEl × List (Loc × Nat)) → Mach × List Nat × Option Flt
  | [] => (m, [], none)
  | (el, ss) :: t =>
    match m.poisonSegs 0 ss with
    | some p => (m, [], some (fltPoison el.va p.2 el.i))
    | none =>
      if leVal (m.readSegs ss) = 0 then
        let r := (m.writeFrom (dieOf m.cur) 0 (segBytes ss (leBytes 8 1))).attempts t
        (r.1, el.i :: r.2.1, r.2.2)
      else m.attempts t

/-- The location of an element on this chip: an aperture page raises PROT (R396). -/
def Mach.hereOnly (m : Mach) (k n : Nat) (win : Win) (el : VEl) : Except Flt (List (Loc × Nat)) :=
  match m.resolve m.cur k el.va n win with
  | .error f => .error f
  | .ok ss => if ss.any fun s => (apertureOf s.1).isSome then .error (fltProt k el.va) else .ok ss

/-- `vlock`: one attempt for each address, in ascending order; Md takes the locks obtained. It is an acquire where any is (R258, R270, R409).
(DEDUCED, log 35) -/
def runVlock (md : Nat) (addr : Word) (b : Nat) : VRun := fun m e => do
  let k := e.cap
  let c := m.cur
  let x := m.me
  orRaise m (x.checkRegs [(b, k.g)])
  if k.vl = 0 then pure m else
  if x.maxvlOf 4 < k.vl then raise m (fltConfig 0x10 0) else
  if k.g != 1 then raise m (fltMode mdl) else
  vWait m e [(b, 1)]
  let els := alignEls 8 (idxElems x k addr b)
  orRaise m (m.probeCheck 8 els)
  let m := m.countOnce e fun m => m.touchProbes 8 els
  let rs ← orRaise m (probe (x.idxPoison b) (m.hereOnly kAtomic 8 .no) els)
  waitFor (!rs.any fun r => m.chainBusy r.2) m
  let m := m.streamCost c (k.vl * 8) (rs.flatMap Prod.snd)
  let r := m.attempts (rs.foldl (fun l p => insLock p l) [])
  let m := r.1.upd fun x => x.putMask md ((List.range k.vl).map fun i => some (r.2.1.contains i))
  let m := if r.2.1.isEmpty then m else m.acquire c
  match r.2.2 with
  | some f => raise m f
  | none => pure m

/-! ### Waiting on memory (R410, R411) -/

/-- The types `waitv` refuses: NF, I4 and Z4. -/
def waitvBad (k : Cap) : Bool := k.ty == 3 || k.ty == 8 || k.ty == 13

/-- The location of a watched element, or its fault: the walk, then the poison of its expected code. -/
def Mach.waitvEl (m : Mach) (k : Cap) (f : Nat) (el : VEl) : Except Flt (List (Loc × Nat)) :=
  match m.hereOnly kRead k.size .all el with
  | .error g => .error g
  | .ok ss => match m.me.dataPoison k f el with
    | some g => .error g
    | none => .ok ss

/-- The watched words of a `waitv`: element, location, expected code. -/
def waitvWords (m : Mach) (x : Ctx) (k : Cap) (addr : Word) (b f : Nat) : Except Flt (List (VEl × List (Loc × Nat) × Nat)) :=
  match probe (x.idxPoison b) (m.waitvEl k f) (alignEls k.size (idxElems x k addr b)) with
  | .error f => .error f
  | .ok rs => .ok (rs.map fun r => (r.1, r.2, x.elem f 0 r.1.i k.size))

/-- The watched elements that hold their expected codes now. -/
def Mach.landed (m : Mach) (ws : List (VEl × List (Loc × Nat) × Nat)) : Nat :=
  ws.foldl (fun v w => if leVal (m.readSegs w.2.1) = w.2.2 then setBit v w.1.i true else v) 0

/-- Whether a `waitv` ends: one element, or every active one, is satisfied, or none is active. -/
def waitvEnds (all : Bool) (act : List Nat) (sat : Nat) : Bool :=
  act.isEmpty || if all then act.all (sat.testBit ·) else act.any (sat.testBit ·)

/-- `waitv`: the first read, and each later look, adds to the satisfied elements; the end writes Md (R410). `expired` ends it
as it stands (R411). -/
def runWaitvX (expired all : Bool) (md : Nat) (addr : Word) (b f : Nat) : VRun := fun m e => do
  let k := e.cap
  let c := m.cur
  mdlPre m e [(b, k.g), (f, k.g)] [k.size, 4] (k.g != 1 || waitvBad k) false
  if k.vl = 0 then pure (m.upd fun x => x.putMask md []) else
  let x := m.me
  let ent := x.vq.find? fun v => v.stamp == e.stamp
  let els := alignEls k.size (idxElems x k addr b)
  orRaise m (m.probeCheck k.size els)
  let m := m.countOnce e fun m => m.touchProbes k.size els
  let ws ← orRaise m (waitvWords m x k addr b f)
  waitFor (!ws.any fun w => m.chainBusy w.2.1) m
  let m := if (ent.bind VEnt.timer).isNone then m.streamCost c (k.vl * k.size) (ws.flatMap fun w => w.2.1) else m
  match ws.findSome? fun w => (m.poisonSegs 0 w.2.1).map fun p => fltPoison (w.1.va + p.1) p.2 w.1.i with
  | some f => raise m f
  | none =>
    let sat := (ent.map VEnt.sat).getD 0 ||| m.landed ws
    let act := ws.map fun w => w.1.i
    if expired || waitvEnds all act sat then
      pure ((m.upd fun x => x.putMask md ((List.range k.vl).map fun i => some (act.contains i && sat.testBit i))).acquire c)
    else .error (.wait ((m.entered e sat).startTimer e))

def runWaitv (all : Bool) (md : Nat) (addr : Word) (b f : Nat) : VRun := runWaitvX false all md addr b f

/-- Words that hold their expected codes are noted for a sleeping `waitv` after every step of the device, so that no write that
lands a code is missed (R410). -/
def Mach.watchCtx (m : Mach) (c : Nat) : Mach :=
  match (m.ctx c).vq with
  | e :: _ => match e.op, e.timer with
    | .waitv _ _ addr _ b f, some _ =>
      match waitvWords { m with cur := c, seen := some e.stamp } (m.ctx c) e.cap addr b f with
      | .ok ws =>
        let sat := m.landed ws
        if e.sat ||| sat = e.sat then m
        else m.updCtx c fun x => { x with vq := x.vq.map fun (v : VEnt) => if v.stamp = e.stamp then { v with sat := v.sat ||| sat } else v }
      | .error _ => m
    | _, _ => m
  | [] => m

/-- Every sleeping `waitv` looks at its words (R410). (DEDUCED, log 32) -/
def Mach.watch (m : Mach) : Mach := m.ctxs.foldl (fun m e => m.watchCtx e.1) m

/-! ### Set intersection (R415, R416) -/

/-- One list as the walk holds it: next element's address, count left, elements consumed, page touched, and whether the next element has
been read. -/
structure SList where
  p    : Nat
  n    : Nat
  c    : Nat
  page : Nat × Nat
  read : Bool
deriving DecidableEq, Repr

/-- The element a list stands at, and the check of a page not yet touched (R416). -/
def Mach.sintElem (m : Mach) (n : Nat) (l : SList) : Except Flt Nat :=
  match m.resolve m.cur kRead l.p n .all with
  | .error f => .error f
  | .ok ss =>
    if ss.any fun s => (apertureOf s.1).isSome then .error (fltProt kRead l.p) else
    match m.poisonSegs 0 ss with
    | some p => .error (fltPoison (l.p + p.1) p.2 0)
    | none => .ok (leVal (m.readSegs ss))

/-- The list one element on. -/
def SList.next (l : SList) (e : Nat) (page : Nat × Nat) : SList := ⟨(l.p + e) % 2 ^ 64, l.n - 1, l.c + 1, page, false⟩

/-- The list after a comparison that does not consume its element. -/
def SList.stay (l : SList) (page : Nat × Nat) : SList := { l with page := page, read := true }

/-- The elements of a list that the walk has read. -/
def SList.seen (l : SList) : Nat := l.c + l.read.toNat

/-- The walk of R415: the lists as they end, the common values counted, and the touches in walk order. -/
def Mach.sintWalk (m : Mach) (t : Ty) (e vl : Nat) : Nat → SList → SList → Nat → List Nat → SList × SList × Nat × List Nat
  | 0, a, b, k, ts => (a, b, k, ts)
  | fuel + 1, a, b, k, ts =>
    if a.n = 0 || b.n = 0 || vl ≤ a.c || vl ≤ b.c then (a, b, k, ts) else
    let pa := m.pageOf m.cur a.p
    let pb := m.pageOf m.cur b.p
    let ta := if a.page = pa then ts else ts ++ [a.p]
    match m.sintElem e a with
    | .error _ => (a, b, k, ta)
    | .ok x =>
      let tb := if b.page = pb then ta else ta ++ [b.p]
      match m.sintElem e b with
      | .error _ => (a.stay pa, b, k, tb)
      | .ok y =>
        if x = y then m.sintWalk t e vl fuel (a.next e pa) (b.next e pb) (k + 1) tb
        else if cmpT t 2 x y then m.sintWalk t e vl fuel (a.next e pa) (b.stay pb) k tb
        else m.sintWalk t e vl fuel (a.stay pa) (b.next e pb) k tb

/-- `vsint` (R415): xd, and the register pairs xa % 64 and xa / 64. -/
def runVsint (xd xa : Nat) (a na b nb : Word) : VRun := fun m e => do
  let k := e.cap
  let c := m.cur
  let x := m.me
  if k.vl = 0 then pure m else
  if !tyCodeOk k.ty then raise m (fltMode mdl) else
  if x.maxvlOf k.size < k.vl then raise m (fltConfig 0x10 0) else
  if !vamoInt k.ty then raise m (fltMode mdl) else
  if x.windowStores e.stamp then .error (.wait m) else
  let n := k.size
  let la : SList := ⟨a.toNat / n * n, na.toNat, 0, (0, 0), false⟩
  let lb : SList := ⟨b.toNat / n * n, nb.toNat, 0, (0, 0), false⟩
  if na != 0 && nb != 0 then
    orRaise m (m.windowCheck c la.p)
    orRaise m (m.windowCheck c lb.p)
  let ma := m.touch c la.p
  let m' := if na = 0 || nb = 0 then m else ma.touch c lb.p
  if na != 0 && nb != 0 then
    let _ ← orRaise ma (m.sintElem n la)
    let _ ← orRaise m' (m.sintElem n lb)
  let here := fun (l : SList) => { l with page := m.pageOf c l.p }
  let segs := fun (l : SList) (n : Nat) => match m.resolve c kRead l.p n .all with | .ok ss => ss | .error _ => []
  let r := m.sintWalk k.tyv n k.vl (2 * k.vl + 1) (here la) (here lb) 0 []
  let ss := segs la (r.1.seen * n) ++ segs lb (r.2.1.seen * n)
  waitFor (!m.chainBusy ss) m
  let m := r.2.2.2.foldl (fun m va => m.touch c va) m'
  let m := ((m.eccRead ss).accessBeats c ss).fetchFlits (dieOf c) 0 ss
  let ra := xa % 64
  let rb := xa / 64
  pure (m.upd fun x =>
    let x := x.setXAt e.stamp ra (a + BitVec.ofNat 64 (r.1.c * n))
    let x := x.setXAt e.stamp (ra + 1) (BitVec.ofNat 64 r.1.n)
    let x := x.setXAt e.stamp rb (b + BitVec.ofNat 64 (r.2.1.c * n))
    let x := x.setXAt e.stamp (rb + 1) (BitVec.ofNat 64 r.2.1.n)
    x.setXAt e.stamp xd (x.rx xd + BitVec.ofNat 64 r.2.2.1))

end Sys2Proof.Machine
end

