-- ==== Sys2Proof/Machine/Copy.lean ====
section
/-!
DEFINITION. The copy engine: the instructions that issue copies (R421 to R426), and the steps that start, perform and complete
them (R155, R201, R259, R302).
-/

namespace Sys2Proof.Machine

/-! ### Groups of the task's cast (R81, R82) -/

/-- Group g of the acting task's cast, which must have the kind (0: any) and hold the task (R82). -/
def Mach.group (m : Mach) (c g kind : Nat) : Except Flt Group :=
  let t := (m.ctx c).task
  match (m.cast t.q t.cast).bind fun k => k.groups[g]? with
  | some e => if e.kind != 0 && (kind == 0 || e.kind == kind) && e.mem.contains t.idx then .ok e else .error (fltConfig 0x1B g)
  | none => .error (fltConfig 0x1B g)

/-! ### Issue -/

/-- The fields of a copy control word (R421). -/
def ctrlLen (w : Word) : Nat := bitsOf w.toNat 23 0
def ctrlTid (w : Word) : Nat := bitsOf w.toNat 35 24
def ctrlTb (w : Word) : Option Nat := if w.getLsbD 36 then some (bitsOf w.toNat 53 37 * 16) else none

/-- The barrier's address must lie below SCRATCH (R422 step 1). -/
def Ctx.tbCheck (x : Ctx) (tb : Option Nat) : Except Flt Unit :=
  match tb with
  | some off => if x.spSize ≤ off then .error (fltBounds off (0xFF80000000000000 + off)) else .ok ()
  | none => .ok ()

/-- Places a command in the command hold, with its number, which is its store-buffer mark (R152, R420). -/
def Mach.toHold (m : Mach) (k : Cmd) : Except Stop Mach :=
  if 16 ≤ m.me.hold.length then .error (.wait m) else
  .ok (m.upd fun x => { x with hold := x.hold ++ [HoldEnt.mk x.stamp x.sbNext x.ir k], sbNext := x.sbNext + 1 })

/-- The command of a `cpy` form. -/
def Ctx.copyCmd (x : Ctx) (kind xf : Nat) (d a b : BitVec 5) : CopyCmd :=
  let w := x.rx b.toNat
  ⟨kind, (x.rx a.toNat).toNat, (x.rx d.toNat).toNat, ctrlLen w, ctrlTid w, ctrlTb w, xf, [], x.ir⟩

/-- `cpy` (R422). -/
def execCpy (d a b : BitVec 5) (s : State) : Out :=
  scalarStep [d.toNat, a.toNat, b.toNat] (fun m => do
    let k := m.me.copyCmd 0 0 d a b
    orRaise m (m.me.tbCheck k.tb)
    m.toHold (.copy k)) s

/-- `cpy.q` (R423). -/
def execCpyQ (d a b : BitVec 5) (s : State) : Out :=
  scalarStep [d.toNat, a.toNat, b.toNat] (fun m => do
    let k := m.me.copyCmd 1 (bitsOf (m.me.rx b.toNat).toNat 58 54) d a b
    if 2 < k.xf then raise m (fltMode 0xFFFF) else
    if k.tid = 0 then raise m (fltTid 0) else
    orRaise m (m.me.tbCheck k.tb)
    m.toHold (.copy k)) s

/-- `cpy.g` (R424). -/
def execCpyG (d a b : BitVec 5) (s : State) : Out :=
  scalarStep [d.toNat, a.toNat, b.toNat] (fun m => do
    let k := m.me.copyCmd 2 (bitsOf (m.me.rx b.toNat).toNat 61 54) d a b
    let _ ← orRaise m (m.group m.cur k.xf 2)
    if !(isWindow k.dst && k.dst / 2 ^ 54 % 4 == 1 && k.dst / 2 ^ 53 % 2 == 0) then raise m (fltProt kWrite k.dst) else
    orRaise m (m.me.tbCheck k.tb)
    m.toHold (.copy k)) s

/-- The levels of a loop-nest descriptor, innermost first (R425). -/
def nestOf (l : Nat) : List (Nat × Int × Int) :=
  (List.range 6).map fun j =>
    (bitsOf l (256 + 128 * j + 15) (256 + 128 * j), sx 32 (bitsOf l (256 + 128 * j + 95) (256 + 128 * j + 64)),
     sx 32 (bitsOf l (256 + 128 * j + 127) (256 + 128 * j + 96)))

/-- `lns` (R425). -/
def execLns (a : BitVec 5) (s : State) : Out :=
  scalarStep [a.toNat] (fun m => do
    let va := (m.me.rx a.toNat).toNat
    if va % 128 != 0 then raise m (fltConfig 0x15 0) else
    let r ← m.imageRead va 16
    let m := r.1
    let l := leVal r.2
    let w := BitVec.ofNat 64 l
    let tb := ctrlTb w
    orRaise m (m.me.tbCheck tb)
    m.toHold (.copy ⟨0, bitsOf l 127 64, bitsOf l 191 128, ctrlLen w, ctrlTid w, tb, 0, nestOf l, m.me.ir⟩)) s

/-! ### Registers a copy writes (R97, R259) -/

/-- Whether an address lies in a `$vr` window. -/
def isVr (va : Nat) : Bool := isWindow va && va / 2 ^ 54 % 4 == 1

/-- Whether a command writes a `$vr` window. -/
def CopyCmd.toVr (k : CopyCmd) : Bool := isVr k.dst

/-- The context whose registers a window address names, for a command of context c. -/
def Mach.windowCtx (m : Mach) (c va : Nat) : Option Nat :=
  let t := (m.ctx c).task
  if va / 2 ^ 53 % 2 = 0 || va / 2 ^ 37 % 65536 = t.idx then some c else m.ctxOfTask t.q t.cast (va / 2 ^ 37 % 65536)

/-- The other members of a gang, by context. -/
def Mach.gangCtxs (m : Mach) (c : Nat) (k : CopyCmd) : List (Nat × Option Nat) :=
  let t := (m.ctx c).task
  match (m.cast t.q t.cast).bind fun z => z.groups[k.xf]? with
  | some g => g.mem.map fun i => (i, if i = t.idx then some c else m.ctxOfTask t.q t.cast i)
  | none => []

/-- The registers that n bytes written at a `$vr` window address by context c lie in, as context and register. -/
def Mach.vrAt (m : Mach) (c va n : Nat) : List (Nat × Nat) :=
  match m.windowCtx c va with
  | none => []
  | some d =>
    let b := (m.ctx d).regBytes
    let o := va % 2 ^ 24
    ((List.range 64).filter fun v => decide (o < (v + 1) * b) && decide (v * b < o + n)).map fun v => (d, v)

/-- The registers that a command of context c writes (R97, R259): those of its copies, or, for a gang multicast, the one register of
every member. -/
def Mach.copyRegs (m : Mach) (c : Nat) (k : CopyCmd) (t : Tit) : List (Nat × Nat) :=
  if !k.toVr || k.sectors = 0 then []
  else if k.kind = 2 then
    let v := k.dst % 2 ^ 24 / max 1 (m.ctx c).regBytes
    (m.gangCtxs c k).filterMap fun g => g.2.map fun d => (d, v)
  else ((List.range k.iters).flatMap fun n => if isVr (k.at n).2 then m.vrAt c (k.at n).2 (k.outLen t) else []).eraseDups

/-- Raises scoreboard counts. -/
def Mach.score (m : Mach) (held : List (Nat × Nat)) : Mach :=
  held.foldl (fun m h => m.updCtx h.1 fun x => { x with score := mapAt x.score h.2 (· + 1) }) m

/-- Release of a copy command into the copy queue of context c: the registers of its own task are scored (R152, R259). -/
def Mach.releaseCopy (m : Mach) (c : Nat) (h : HoldEnt) (k : CopyCmd) : Mach :=
  let held := (m.copyRegs c k (m.tit c k.tid)).filter fun r => r.1 == c
  (m.score held).updCtx c fun x =>
    { x with copyq := x.copyq ++ [CopyEnt.mk k h.after h.mark false 0 0 [] held none false 0 []] }

/-! ### The engine -/

/-- The end of a command by a fault (R302): its deltas, its barrier, its scoreboard counts, the pending fault. -/
def Mach.copyFault (m : Mach) (c : Nat) (e : CopyEnt) (f : Flt) : Mach :=
  let m := ((m.pushDeltas c (e.sums.map Prod.snd)).copyReport c e.cmd true (f.code == 0x0C)).unscore e.held
  let m := m.updCtx c fun x => { x with copyq := x.copyq.drop 1, copyStop := true }
  match (m.ctx c).status with
  | .ending _ _ => ((m.discardCopies c ((m.ctx c).stamp + 1)).1).settle c
  | _ => m.updCtx c fun x => { x with engFaults := x.engFaults ++ [EngFault.mk e.age (e.mark + 1) 1 f e.cmd.word 0] }

/-- Replaces the head of a copy queue. -/
def Mach.setHead (m : Mach) (c : Nat) (e : CopyEnt) : Mach := m.updCtx c fun x => { x with copyq := e :: x.copyq.drop 1 }

/-- The started copies into a register (R97). -/
def Mach.copiesInto (m : Mach) (r : Nat × Nat) : Nat :=
  (m.ctxs.filter fun x => match x.2.copyq with
    | e :: _ => e.started && e.held.contains r
    | [] => false).length

/-- Whether the head of context c's copy queue may start: its mark, older vector-side instructions where it writes registers of its own task
or uses an array that they name, and fewer than 15 copies into each register (R97, R152, R259, R390). -/
def Mach.copyMayStart (m : Mach) (c : Nat) (e : CopyEnt) : Bool :=
  let x := m.ctx c
  let t := m.tit c e.cmd.tid
  let regs := m.copyRegs c e.cmd t
  let own := regs.any fun r => r.1 == c
  !x.copyStop && !e.started && !(x.sb.any fun s => decide (s.id < e.mark)) &&
  !(x.vq.any fun v => decide (v.stamp ≤ e.age) && (own || match v.op.arr with
    | some n => usesAcc x n e.cmd t
    | none => false)) &&
  regs.all fun r => decide (m.copiesInto r < 15)

/-- The start of a quantising copy (R423): the snapshot and the decision. -/
def Mach.copyQuant (m : Mach) (c : Nat) (w : Who) (k : CopyCmd) (t : Tit) : Except Stop (Mach × Option (Int × Nat × Bool × Bool)) :=
  if k.kind != 1 then .ok (m, none) else
  if !t.v || !t.stats then raise m (fltTid k.tid) else
  if !quantTy t.ty then raise m (fltMode 0xFFFF) else
  if t.tyv.noFinite then raise m (fltConfig 0x12 0) else
  if !m.sqRoom c 1 then hold m else do
  let r ← m.quantStart c w k.tid t
  pure (r.1, some (r.2.x, r.2.gen, r.2.clamp, r.2.ovf))

/-- The checks of a command as it starts, whatever its length (R178), and what a quantising one decides. -/
def Mach.copyOpen (m : Mach) (c : Nat) (w : Who) (k : CopyCmd) (t : Tit) : Except Stop (Mach × Option (Int × Nat × Bool × Bool)) := do
  orRaise m (tidCheck t k.tid)
  m.copyQuant c w k t

/-- COPY_COMMAND_START (R155): the entry is read, once (R177); registers are scored; a quantising copy decides its scale. -/
def Mach.copyStart (m : Mach) (c : Nat) : Mach :=
  match (m.ctx c).copyq with
  | [] => m
  | e :: _ =>
    if !m.copyMayStart c e then m else
    let raw := if e.cmd.tid = 0 then 0 else m.titRaw (pairOf c) (m.qOf c) e.cmd.tid
    let m' := if e.cmd.tid = 0 then m else m.titFill c e.cmd.tid
    match { m' with lag := false }.copyOpen c (true, e.mark) e.cmd (titOf raw) with
    | .error (.wait _) => m
    | .error (.trap f m') => m'.copyFault c e f
    | .ok r =>
      let regs := r.1.copyRegs c e.cmd (titOf raw)
      ((r.1.unscore e.held).score regs).setHead c { e with
        started := true, held := regs, quant := r.2, tit := raw, done := e.cmd.kind != 1 && e.cmd.sectors == 0 }

/-- The program address under which a copy engine's requests are kept. -/
def enginePc : Word := BitVec.allOnes 64

/-- What one copy reads: n bytes at va, from here or by request. -/
def Mach.copyRead (m : Mach) (c : Nat) (e : CopyEnt) (va n : Nat) : Except Stop (Mach × List Byte) := do
  let ss ← orRaise m (m.resolve c kRead va n .all true)
  waitFor (!m.chainBusy ss) m
  match m.poisonSegs 0 ss with
  | some p => raise (m.eccRead ss) (fltPoison ((va + p.1) % 2 ^ 64) p.2 0)
  | none =>
    let r ← ss.zipIdx.foldlM (fun (a : Mach × List Byte) s => match apertureOf s.1.1 with
      | some t => do
        let r ← a.1.request c enginePc e.cmd.word ((e.iter * 2 ^ 24 + e.pos) * 4 + s.2) t.1 clsReq (.read t.2 s.1.2) va 0
        pure (r.1, a.2 ++ r.2)
      | none => pure (a.1, a.2 ++ a.1.read s.1.1 s.1.2)) (m, [])
    pure ((r.1.touchN c va n).readCost c 1 ss, r.2)

/-- The location of the byte at offset o of segments. -/
def segLoc : List (Loc × Nat) → Nat → Option Loc
  | [], _ => none
  | s :: t, o => if o < s.2 then some (s.1.plus o) else segLoc t (o - s.2)

/-- The elements of e bytes that end within bytes which start `pos` bytes after the first element: the bytes of a cut one come from `before`
(R422 step 7). -/
def elemCut (e pos : Nat) (before bs : List Byte) : List Nat :=
  let all := before.drop (before.length - pos % e) ++ bs
  chunks e (all.length / e) all

/-- The last 8 bytes, which complete an element that a boundary cuts. -/
def lastBytes (bs : List Byte) : List Byte := bs.drop (bs.length - 8)

/-- Values that a copy's destination counts, with their dies (R241): an element is at the byte where it ends. -/
def Mach.copyVals (m : Mach) (ss : List (Loc × Nat)) (e first : Nat) (vals : List XV) : List (Nat × XV) :=
  vals.zipIdx.filterMap fun v => ((segLoc ss (first + v.2 * e)).bind m.deltaDie).map fun d => (d, v.1)

/-- One copy's write of bytes at va; a home elsewhere counts what `st` says (R241). -/
def Mach.copyWrite (m : Mach) (c : Nat) (e : CopyEnt) (va : Nat) (bs : List Byte) (st : WStat) : Except Stop (Mach × List (Loc × Nat)) := do
  let ss ← orRaise m (m.resolve c kWrite va bs.length .all true)
  waitFor (!m.chainBusy ss && !m.segsStalled ss) m
  let m ← m.storeSegs c e.age (e.mark + 1) e.cmd.word va e.cmd.tid (segBytes ss bs) 1 (if e.cmd.tid = 0 then .none else st)
  pure ((m.touchN c va bs.length).accessBeats c ss, ss)

/-- What a command has gathered, with the deltas of more values (R242). -/
def Mach.copySums (m : Mach) (c : Nat) (e : CopyEnt) (vals : List (Nat × XV)) (ovf : Bool) (x : Option Int) : List (Nat × Delta) :=
  (m.deltasByDie c e.cmd.tid (titOf e.tit) vals ovf false x).foldl (fun l d => gather d.1 d.2 l) e.sums

/-- Sectors copied, counted as they are (R212). -/
def sectorsOf (at_ n : Nat) : Nat := (at_ + n + 63) / 64 - (at_ + 63) / 64

/-- One copy of a plain command (R422): to the next 256-byte boundary of the source. -/
def Mach.copyPiece (m : Mach) (c : Nat) (e : CopyEnt) : Except Stop (Mach × CopyEnt) := do
  let k := e.cmd
  let a := k.at e.iter
  let s := (a.1 + e.pos) % 2 ^ 64
  let d := (a.2 + e.pos) % 2 ^ 64
  let n := min (k.len - e.pos) (256 - s % 256)
  let r ← m.copyRead c e s n
  let w ← r.1.copyWrite c e d r.2 ⟨.plain e.pos e.tail, false, none⟩
  let t := titOf e.tit
  let es := tySize t.ty
  let vals := (elemCut es e.pos e.tail r.2).map fun v => t.tyv.val (v % 2 ^ t.tyv.bits)
  let sums := w.1.copySums c e (w.1.copyVals w.2 es (es - e.pos % es - 1) vals) false none
  let fin := k.len ≤ e.pos + n
  let it := if fin then e.iter + 1 else e.iter
  pure (w.1.count c evCopySector (sectorsOf e.pos n),
    { e with iter := it, pos := if fin then 0 else e.pos + n, tail := if fin then [] else lastBytes (e.tail ++ r.2), done := it == k.iters, sums := sums })

/-- A quantising copy reads its source whole and encodes it as one row (R423): elements, block bytes, the scale byte, kept to be
written. (DESIGN CHOICE, log 29) -/
def Mach.copyEncode (m : Mach) (c : Nat) (e : CopyEnt) : Except Stop (Mach × CopyEnt) := do
  let k := e.cmd
  let q := e.quant.getD (0, 0, false, false)
  let t := titOf e.tit
  let st := tyOf k.xf 0
  let es := tySize k.xf
  let r ← m.copyRead c e k.src k.len
  let row := (chunks es (k.len / es) r.2).map fun v => some (st.val v)
  let qr := quantRow t.tyv t.blk ⟨q.1, q.2.1, q.2.2.1, q.2.2.2, none⟩ row
  let enc := qr.map fun v => v.map Prod.fst
  let codes := (roundRow t.tyv 0 0 0 enc).map fun v => v.getD 0
  let bytes := codes.flatMap (leBytes (tySize t.ty)) ++ (rowBlocks t.tyv t.blk q.1 row).map (fun b => BitVec.ofNat 8 (wrapN 8 b)) ++
    [BitVec.ofNat 8 (wrapN 8 q.1)]
  let ovf := q.2.2.2 || rowOverflows t.tyv 0 0 0 enc || (row.zip qr).any fun v => match v.1, v.2 with
    | some u, some z => quantClamps t.tyv q.2.2.1 z.2 u
    | _, _ => false
  pure (r.1, { e with tail := bytes, quant := some (q.1, q.2.1, q.2.2.1, ovf) })

/-- The scale of element j of an encoded source of n elements: the tensor's, and its block's (R233, R237). -/
def CopyEnt.scaleOf (e : CopyEnt) (t : Tit) (n j : Nat) : Int :=
  (e.quant.getD (0, 0, false, false)).1 +
    if t.blk = 0 then 0 else sx 8 (nthD 0 e.tail (n * tySize t.ty + j / t.blk)).toNat

/-- The source bytes of a quantising copy whose elements, of de bytes, end within the first n encoded bytes. -/
def CopyCmd.srcDone (k : CopyCmd) (de n : Nat) : Nat := min k.len (n / de * tySize k.xf)

/-- The encoded bytes are written, those of one 4 KiB block of addresses at a time; an element counts with its last byte. -/
def Mach.copyQ (m : Mach) (c : Nat) (e : CopyEnt) : Except Stop (Mach × CopyEnt) :=
  if e.tail.isEmpty then m.copyEncode c e else do
  let k := e.cmd
  let q := e.quant.getD (0, 0, false, false)
  let t := titOf e.tit
  let de := tySize t.ty
  let cnt := k.len / tySize k.xf
  let va := (k.dst + e.pos) % 2 ^ 64
  let n := min (e.tail.length - e.pos) (4096 - va % 4096)
  let here := (List.range cnt).filter fun j => decide (e.pos < (j + 1) * de) && decide ((j + 1) * de ≤ e.pos + n)
  let code := fun j => leVal ((e.tail.drop (j * de)).take de)
  let x := if t.rescale = 1 then some q.1 else none
  let w ← m.copyWrite c e va ((e.tail.drop e.pos).take n)
    ⟨.codes none (here.map fun j => ((j + 1) * de - 1 - e.pos, code j, e.scaleOf t cnt j)), q.2.2.2, x⟩
  let vals := here.filterMap fun j => ((segLoc w.2 ((j + 1) * de - 1 - e.pos)).bind w.1.deltaDie).map fun d =>
    (d, (t.tyv.val (code j)).scale (e.scaleOf t cnt j))
  let sums := w.1.copySums c e vals (q.2.2.2 && !vals.isEmpty) x
  let was := k.srcDone de e.pos
  pure (w.1.count c evCopySector (sectorsOf was (k.srcDone de (e.pos + n) - was)),
    { e with pos := e.pos + n, done := e.pos + n = e.tail.length, sums := sums })

/-- Whether a member of a gang cannot take the bytes: its register is too short, or its MAXVL is below GVL (R83, R424). -/
def Ctx.tooShort (y : Ctx) (v o n gvl : Nat) : Bool :=
  decide (y.regBytes < o + n) || decide (y.nregs ≤ v) || decide (y.maxvl < gvl)

/-- A gang multicast (R83, R424): one read, one write into every member whose register is long enough. (DESIGN CHOICE, log 29) -/
def Mach.copyG (m : Mach) (c : Nat) (e : CopyEnt) : Except Stop (Mach × CopyEnt) := do
  let k := e.cmd
  let r ← m.copyRead c e k.src k.len
  let m := r.1
  let x := m.ctx c
  let off := k.dst % 2 ^ 24
  if bitsOf k.dst 36 24 != 0 then raise m (fltPage 2 kWrite k.dst) else
  if x.sec * 65536 ≤ off then raise m { code := 0x02, detail := 2 * 256, faddr := k.dst } else
  let v := off / x.regBytes
  let o := off % x.regBytes
  let gvl := (((m.cast x.task.q x.task.cast).bind fun z => z.groups[k.xf]?).map Group.gvl).getD 0
  let gang := m.gangCtxs c k
  let short := gang.find? fun g => match g.2 with
    | some d => (m.ctx d).tooShort v o k.len gvl
    | none => false
  let gone := gang.find? fun g => g.2.isNone
  let m := gang.foldl (fun m g => match g.2 with
    | some d => if (m.ctx d).tooShort v o k.len gvl then m else (m.updCtx d fun z => z.vwrite v o r.2).carry (dieOf c) (dieOf d) 1 k.len
    | none => m) m
  let m := m.count c evCopySector k.sectors
  match short, gone with
  | some g, _ => raise m (fltConfig 0x1C g.1)
  | none, some g => raise m { code := 0x0B, detail := g.1, faddr := k.dst }
  | none, none => pure (m, { e with iter := 1, done := true })

/-- Whether the arbiter owes context c nothing on the memory port and the scratchpad ports: the engine then serves its queue (R155,
R160). -/
def Mach.portsPaid (m : Mach) (c : Nat) : Bool :=
  let u := m.pair (pairOf c)
  (nthD [] u.need (4 * resPort + c % 4)).isEmpty && (nthD [] u.need (4 * resSp + c % 4)).isEmpty

/-- The next copy of a command. -/
def Mach.copyNext (m : Mach) (c : Nat) (e : CopyEnt) : Except Stop (Mach × CopyEnt) :=
  match e.cmd.kind with
  | 0 => m.copyPiece c e
  | 1 => m.copyQ c e
  | _ => m.copyG c e

/-- COPY_PERFORMED: one copy of the command at the head of context c's copy queue (R422), once the beats of the one before are granted. -/
def Mach.copyStep (m : Mach) (c : Nat) : Mach :=
  match (m.ctx c).copyq with
  | [] => m
  | e :: _ =>
    if !e.started || e.done || (m.ctx c).copyStop || !m.portsPaid c || !m.sqRoom c 5 then m else
    match m.copyNext c e with
    | .ok r => (r.1.dropReqs c enginePc).setHead c r.2
    | .error (.wait m) => m
    | .error (.trap f m) => (m.dropReqs c enginePc).copyFault c e f

/-- Whether writes that a command has posted to other members are not yet performed there (R120). -/
def Mach.copyPosted (m : Mach) (c : Nat) (e : CopyEnt) : Bool :=
  m.troupe.txq.any fun p => match p.owner with
    | .ctx d _ _ (some t) => d == c && t == (e.age, e.mark + 1)
    | _ => false

/-- COPY_COMPLETION: the deltas, the report to the barrier once every byte is performed, the scoreboard (R97, R201, R242). -/
def Mach.copyDone (m : Mach) (c : Nat) : Mach :=
  match (m.ctx c).copyq with
  | [] => m
  | e :: _ =>
    if !e.done || (m.ctx c).copyStop || m.copyPosted c e || !m.sqRoom c e.sums.length then m else
    let m := ((m.pushDeltas c (e.sums.map Prod.snd)).copyReport c e.cmd false false).unscore e.held
    (m.updCtx c fun x => { x with copyq := x.copyq.drop 1 }).settle c

/-- The engine's steps for context c; its page walks see no buffered store (R186). -/
def execCopyCommandStart (c : Nat) (s : State) : Out := onMach s fun m => m.bounded 0 fun m => m.copyStart c
def execCopyPerformed (c : Nat) (s : State) : Out := onMach s fun m => m.bounded 0 fun m => m.copyStep c
def execCopyCompletion (c : Nat) (s : State) : Out := onMach s fun m => m.copyDone c

end Sys2Proof.Machine
end

