-- ==== Sys2Proof/Machine/Sync.lean ====
section
/-!
DEFINITION. Barriers (R197 to R202, R412 to R414), sleeping and waking (R208), fences and queue joins (R254, R264 to R269, R417 to
R419), engine faults taken at a join (R301, R302), and the end of a task by `texit` (R348).
-/

namespace Sys2Proof.Machine

/-! ### Sleeping -/

/-- WAIT_TIMEOUT (R295): the object and its number. -/
def fltTimeout (object n va : Nat) : Flt := { code := 0x0E, detail := object + n * 256, faddr := va }

/-- An instruction whose wait condition does not hold goes to sleep, sleeps on, or has slept too long (R208). -/
def Mach.sleepOn (m : Mach) (on : WaitOn) (timeout : Nat) (f : Flt) : Except Stop Mach :=
  match m.me.sleep with
  | some s => if s.timeout ≤ s.timer then .error (.trap f m) else .error (.wait m)
  | none => .error (.wait (m.upd fun x => { x with sleep := some ⟨on, keptTime x.kept x.pc, timeout⟩ }))

/-! ### Named barriers -/

/-- Barrier n of the acting task's cast on its pair, or group barrier n (R412). -/
def Mach.bar (m : Mach) (grp : Bool) (n : Nat) : Bar :=
  let t := m.me.task
  if grp then ((m.cast t.q t.cast).map fun k => nthD ⟨0, 0, false, 0⟩ k.gbars n).getD ⟨0, 0, false, 0⟩
  else match (m.pair (pairOf m.cur)).bars.find? fun b => b.q == t.q && b.cast == t.cast with
    | some b => nthD ⟨0, 0, false, 0⟩ b.bars n
    | none => ⟨0, 0, false, 0⟩

def Mach.updBar (m : Mach) (grp : Bool) (n : Nat) (f : Bar → Bar) : Mach :=
  let t := m.me.task
  if grp then m.updCast t.q t.cast fun k => { k with gbars := mapAt k.gbars n f }
  else m.updPair (pairOf m.cur) fun p => { p with bars := p.bars.map fun b =>
    if b.q == t.q && b.cast == t.cast then { b with bars := mapAt b.bars n f } else b }

/-- One arrival: at EXP the phase completes in the same step (R198). -/
def Bar.arrive (b : Bar) : Bar :=
  if b.arr + 1 = b.exp then { b with arr := 0, phase := !b.phase, gen := b.gen + 1 } else { b with arr := b.arr + 1 }

/-- Whether a sleeper's wait at a barrier is over: the phase is no longer its operand, or one has completed since it fell asleep (R198). -/
def Bar.over (b : Bar) (phase : Bool) (gen : Nat) : Bool := b.phase != phase || b.gen != gen

/-- The count of completed phases by which the acting context sleeps at a barrier: that of its sleep, else the present one. -/
def Ctx.sleepGen (x : Ctx) (b : Bar) : Nat :=
  match x.sleep.map Sleep.on with
  | some (.bar _ _ _ gen) => gen
  | _ => b.gen

/-- BARRIER_RANGE, or ILLEGAL_CONFIG 0x1B for a group form (R412). -/
def Mach.barCheck (m : Mach) (grp : Bool) (n : Nat) : Except Flt Unit :=
  if grp then
    if 256 ≤ n then .error (fltConfig 0x1B n) else match m.group m.cur n 1 with
      | .ok _ => .ok ()
      | .error f => .error f
  else if m.me.barriers ≤ n then .error { code := 0x04, detail := n } else .ok ()

/-- The vector-side instructions that store to memory. -/
def VOp.stores (o : VOp) : Bool :=
  match o with
  | .st _ _ => true
  | .sts _ _ _ => true
  | .stx _ _ _ => true
  | .stn _ _ _ => true
  | .pst _ _ _ => true
  | .accst _ _ => true
  | .accstq _ _ _ => true
  | .vamo _ _ _ _ => true
  | .vlock _ _ _ => true
  | _ => false

/-- Whether every older store of the acting context has been performed (R198). -/
def Ctx.storesDone (x : Ctx) : Bool := x.sb.isEmpty && !x.anyUnsafe && !x.vq.any fun e => !e.done && e.op.stores

/-- The phase as a register value. -/
def phaseWord (b : Bool) : Word := if b then 1 else 0

/-- `bara` (R412). -/
def barArrive (grp : Bool) (d : BitVec 5) (n : BitVec 10) (s : State) : Out :=
  scalarStep [d.toNat] (fun m => do
    orRaise m (m.barCheck grp n.toNat)
    waitFor m.me.storesDone m
    let ph := (m.bar grp n.toNat).phase
    pure ((m.updBar grp n.toNat Bar.arrive).setX d.toNat (phaseWord ph))) s

/-- `barw`: sleeps while the phase equals the operand (R412). -/
def barWait (grp : Bool) (a : BitVec 5) (n : BitVec 10) (s : State) : Out :=
  scalarStep [a.toNat] (fun m => do
    orRaise m (m.barCheck grp n.toNat)
    let p := (m.me.rx a.toNat).getLsbD 0
    let b := m.bar grp n.toNat
    let gen := m.me.sleepGen b
    if !b.over p gen then
      m.sleepOn (.bar grp n.toNat p gen) m.me.wdog.toNat (fltTimeout (if grp then 2 else 1) n.toNat 0)
    else pure (m.acquire m.cur)) s

/-- `baraw`: one arrival, kept in the arrival record, then the wait (R412, R413). -/
def barArriveWait (grp : Bool) (d : BitVec 5) (n : BitVec 10) (s : State) : Out :=
  scalarStep [d.toNat] (fun m => do
    orRaise m (m.barCheck grp n.toNat)
    let x := m.me
    let old := x.arrival.filter fun a => a.grp == grp && a.n == n.toNat && a.pc == x.pc && a.word == x.ir
    let m ← match old with
      | some a => pure (if x.sleep.isSome then m else m.setX d.toNat (phaseWord a.phase))
      | none => do
        waitFor x.storesDone m
        let ph := (m.bar grp n.toNat).phase
        let m := (m.updBar grp n.toNat Bar.arrive).setX d.toNat (phaseWord ph)
        pure (m.upd fun x => { x with arrival := some ⟨grp, n.toNat, ph, x.pc, x.ir⟩ })
    let ph := (m.me.arrival.map Arrival.phase).getD false
    let b := m.bar grp n.toNat
    let gen := m.me.sleepGen b
    if !b.over ph gen then
      m.sleepOn (.bar grp n.toNat ph gen) m.me.wdog.toNat (fltTimeout (if grp then 2 else 1) n.toNat 0)
    else pure ((m.upd fun x => { x with arrival := none }).acquire m.cur)) s

def execBara (d : BitVec 5) (n : BitVec 10) (s : State) : Out := barArrive false d n s
def execBaraG (d : BitVec 5) (n : BitVec 10) (s : State) : Out := barArrive true d n s
def execBarw (a : BitVec 5) (n : BitVec 10) (s : State) : Out := barWait false a n s
def execBarwG (a : BitVec 5) (n : BitVec 10) (s : State) : Out := barWait true a n s
def execBaraw (d : BitVec 5) (n : BitVec 10) (s : State) : Out := barArriveWait false d n s
def execBarawG (d : BitVec 5) (n : BitVec 10) (s : State) : Out := barArriveWait true d n s

/-! ### Transaction barriers (R414) -/

/-- Whether an address names a scratchpad: a `$sp` window, or a page that resolved there. -/
def inScratch (va : Nat) (r : Except Flt (List (Loc × Nat))) : Bool :=
  (isWindow va && va / 2 ^ 54 % 4 == 2) || match r with
    | .ok ((.pa a, _) :: _) => a / 2 ^ 46 == 2
    | _ => false

/-- The checks of a transaction-barrier address, in the order of R394: 0x18, then 0x19 (`bad`), then the address. (DEDUCED, log 23) -/
def Mach.tbAddr (m : Mach) (va : Nat) (bad : Bool) : Except Flt Loc :=
  let r := m.resolve m.cur kAtomic va 16 .sp
  if inScratch va (m.resolve m.cur kAtomic va 1 .sp) && va % 16 != 0 then .error (fltConfig 0x18 0)
  else if bad then .error (fltConfig 0x19 0)
  else match r with
    | .error f => .error f
    | .ok ((.pa a, _) :: _) => if a / 2 ^ 46 = 2 then .ok (.pa a) else .error (fltProt kAtomic va)
    | .ok _ => .error (fltProt kAtomic va)

/-- The barrier at a location, and its update. (DEDUCED, log 23) -/
def Mach.tbAt (m : Mach) (l : Loc) : Tb := match l with | .pa a => m.tb a | _ => tbOf 0
def Mach.tbUpdAt (m : Mach) (l : Loc) (f : Tb → Tb) : Mach := match l with | .pa a => m.tbUpd m.cur a f | _ => m

/-- `tbinit` and `tbexp` enter the store buffer (R150, R414). -/
def tbStore (op : Nat → SbOp) (hi : Nat) (a b : BitVec 5) (s : State) : Out :=
  scalarStep [a.toNat, b.toNat] (fun m => do
    let va := (m.me.rx a.toNat).toNat
    let n := (m.me.rx b.toNat).toNat
    waitFor (!m.walkWaits m.cur va 16) m
    let m := m.countKey 0 fun m => m.touchN m.cur va 16
    let l ← orRaise m (m.tbAddr va (n = 0 || hi < n))
    if 32 ≤ m.me.sb.length then stallOn evSbStall m else
    pure (m.buffer (op n) va [(l, [])])) s

def execTbinit (a b : BitVec 5) (s : State) : Out := tbStore .tbinit 65535 a b s
def execTbexp (a b : BitVec 5) (s : State) : Out := tbStore .tbexp 0x7FFFFFFF a b s

/-- `tbarr`: performed after the context's stores; ARRP = 0 at the home faults (R201, R414). -/
def execTbarr (a : BitVec 5) (s : State) : Out :=
  scalarStep [a.toNat] (fun m => do
    let va := (m.me.rx a.toNat).toNat
    waitFor (!m.walkWaits m.cur va 16) m
    let m := m.countKey 0 fun m => m.touchN m.cur va 16
    let l ← orRaise m (m.tbAddr va false)
    waitFor m.me.storesDone m
    if (m.tbAt l).arrp = 0 then raise m (fltConfig 0x19 0) else
    pure ((m.tbUpdAt l fun t => { t with arrp := t.arrp - 1 }).accessBeats m.cur [(l, 16)])) s

/-- `tbwait`: sleeps while PCOUNT equals the operand (R202, R414). -/
def execTbwait (a b : BitVec 5) (s : State) : Out :=
  scalarStep [a.toNat, b.toNat] (fun m => do
    let va := (m.me.rx a.toNat).toNat
    let p := bitsOf (m.me.rx b.toNat).toNat 31 0
    waitFor (!m.walkWaits m.cur va 16) m
    let m := if m.me.sleep.isSome then m else m.countKey 0 fun m => m.touchN m.cur va 16
    let l ← orRaise m (m.tbAddr va false)
    if (m.tbAt l).pcount = p then m.sleepOn (.tb l va p) m.me.wdog.toNat (fltTimeout 3 0 va)
    else pure (m.acquire m.cur)) s

/-! ### Engine faults at a join (R301, R302) -/

/-- Whether the command of fault f is older than that of g: by the vector-side instructions before it, then by its number; a
vector-side instruction comes before the commands dispatched after it (R301). (DEDUCED, log 31) -/
def EngFault.older (f g : EngFault) : Bool := decide (f.age < g.age) || (f.age == g.age && decide (f.ord < g.ord))

/-- The oldest pending engine fault of a context among the queues. -/
def Ctx.oldestFault (x : Ctx) (qs : List Nat) : Option EngFault :=
  (x.engFaults.filter fun f => qs.contains f.queue).foldl (fun o f => match o with
    | none => some f
    | some g => if f.older g then some f else some g) none

/-- The fault as a join raises it: the discarded commands counted, the engine's bits in FCAUSE. -/
def EngFault.join (f : EngFault) (drop : Nat) : Flt :=
  { f.flt with detail := f.flt.detail + 2 ^ 55 + f.queue * 2 ^ 52 + min drop 4095 * 2 ^ 40 + f.member % 64 * 2 ^ 34 }

/-- Takes the oldest pending fault of the queues at a join with vector-side stamp `limit`: the machine without it, the fault, and
the word of the instruction that issued the failed command. -/
def Mach.takeFault (m : Mach) (c limit : Nat) (qs : List Nat) : Option (Mach × Flt × BitVec 32) :=
  match (m.ctx c).oldestFault qs with
  | none => none
  | some f =>
    let m := m.updCtx c fun x => { x with engFaults := x.engFaults.erase f }
    let r := if f.queue = 1 then m.discardCopies c limit else (m, 0)
    some (r.1, f.join r.2, f.word)

/-- A scalar-side join takes a pending engine fault: EPC is the join's address. -/
def Mach.joinTrap (m : Mach) (f : Flt) (word : BitVec 32) : Mach := m.enterTrap m.cur f m.me.pc word

/-- The step of a scalar-side join of queues qs: a pending engine fault, which the faults of older vector-side instructions precede, then the
wait until `ready`, then `fin` (R111, R301). -/
def joinStep (rs qs : List Nat) (ready : Mach → Bool) (fin : Mach → Mach) (s : State) : Out :=
  onMach s fun m =>
    if !m.me.ready rs then m.notReady
    else match m.takeFault m.cur (m.me.stamp + 1) qs with
      | some r => if m.me.anyUnsafe then m else r.1.joinTrap r.2.1 r.2.2
      | none => if ready m then fin m else m

/-- Vector-side instructions that may reach other members. -/
def VOp.fabric (o : VOp) : Bool :=
  match o with
  | .ld _ _ | .st _ _ | .lds _ _ _ | .sts _ _ _ | .ldx _ _ _ | .stx _ _ _ | .stn _ _ _ | .accld _ _ | .accst _ _ | .accstq _ _ _
  | .vamo _ _ _ _ | .fldr _ _ _ _ _ | .fred _ _ _ => true
  | _ => false

/-- Fabric work of a context that was issued before vector-side stamp n: packets and requests, vector-side instructions that may still issue
some, buffered stores to apertures, stores in the hold (R265, R269). (DEDUCED, log 50) -/
def Mach.fabricDue (m : Mach) (c n : Nat) : Bool :=
  m.fabOpen c || ((m.ctx c).vq.any fun e => decide (e.stamp < n) && !e.done && e.op.fabric) ||
  ((m.ctx c).sb.any fun e => decide (e.after < n) && e.segs.any fun s => (apertureOf s.1).isSome) ||
  (m.ctx c).hold.any fun h => decide (h.after < n) && match h.cmd with
    | .fst _ _ _ _ => true
    | _ => false

/-- `fence.f` (R265, R266). -/
def execFenceF (s : State) : Out :=
  joinStep [] [3] (fun m => !m.fabricDue m.cur (m.me.stamp + 1)) (fun m => m.retire) s

/-- `fence.vs`: every dispatched vector memory access has been performed (R254). -/
def execFenceVs (s : State) : Out :=
  scalarStep [] (fun m => if m.me.vq.any (fun e => e.op.memory && !e.done) then hold m else .ok m) s

/-- `texit`: the joins of R267, then the end of the task with X[A] (R348). -/
def execTexit (a : BitVec 5) (s : State) : Out :=
  joinStep [a.toNat] [1, 2, 3, 4] (fun m => m.drained m.cur && !m.fabricDue m.cur (m.me.stamp + 1))
    (fun m => let v := m.me.rx a.toNat
      m.retire.endTask m.cur false v) s

/-! ### Vector-side fences -/

/-- Runs of a context that have not ended (R264). -/
def Mach.runsDue (m : Mach) (c : Nat) : Bool :=
  !(m.ctx c).bankq.isEmpty || m.nmus.any fun e => (e.2.queue.any fun r => r.run.c == c) || match e.2.cur with
    | some r => r.run.c == c
    | none => false

/-- Whether writes of context c under a TID are on their way to other members, whose homes form the deltas (R241, R247). -/
def Mach.sentTids (m : Mach) (c : Nat) : Bool :=
  m.troupe.txq.any fun p => (match p.owner with | .ctx d _ _ _ => d == c | _ => false) && match p.pkt.op with
    | .write _ _ t _ => t != 0
    | .vamo _ _ _ _ _ t => t != 0
    | .fred _ _ _ t _ => t != 0
    | _ => false

/-- The deltas that the context's copy command under way has gathered are sent now (R247). -/
def Mach.flushCopies (m : Mach) (c : Nat) : Mach :=
  (m.pushDeltas c ((m.ctx c).copyq.flatMap fun e => e.sums.map Prod.snd)).updCtx c fun x =>
    { x with copyq := x.copyq.map fun e => { e with sums := [] } }

/-- A fence that waits is fault-safe from its start (R418). -/
def fenceWait (m : Mach) (e : VEnt) : Except Stop Mach := .error (.wait (m.upd fun x => x.markSafe e))

/-- The vector-side fences: 0 `fence.sv`, 2 `fence.vv`, 3 `fence.xp`, 4 `fence.st` (R417). Older vector-side instructions have been
performed when a fence is at the head of the queue. -/
def runFence (op : Nat) : VRun := fun m e =>
  let c := m.cur
  match op with
  | 0 => if m.me.olderStores e.stamp then fenceWait m e else .ok m
  | 3 => if m.me.olderStores e.stamp || m.runsDue c then fenceWait m e else .ok m
  | 4 =>
    if !(m.me.progOf e).counted && !m.sqRoom c 5 then fenceWait m e else
    let m := m.countOnce e fun m => m.flushCopies c
    if m.deltasDue c || m.sentTids c then fenceWait m e
    else
      let ts := (m.ctx c).wrote
      let q := m.qOf c
      let m := m.updPair (pairOf c) fun p => { p with snaps := p.snaps.filter fun s => !(s.q == q && ts.contains s.tid) }
      .ok (m.updCtx c fun x => { x with wrote := [] })
  | _ => .ok m

/-- Whether a graph run that context c started before stamp n is held, waiting or running (R189). -/
def Mach.graphsDue (m : Mach) (c n : Nat) : Bool :=
  (m.slots.any fun s => (s.wait.any fun r => r.c == c) || match s.run with
    | some r => r.c == c
    | none => false) ||
  (m.ctx c).hold.any fun h => decide (h.after < n) && match h.cmd with
    | .cgrun _ _ => true
    | _ => false

/-- Whether a queue named by a letter's bit still holds work older than stamp n of context c (R154, R269, R319). -/
def Mach.queueDue (m : Mach) (c n bit : Nat) : Bool :=
  let x := m.ctx c
  match bit with
  | 1 => x.olderStores n
  | 2 => !x.copyq.isEmpty || x.hold.any fun h => decide (h.after < n) && match h.cmd with
    | .copy _ => true
    | _ => false
  | 4 => m.runsDue c
  | 5 => m.deltasDue c || m.sentTids c
  | 6 => m.fabricDue c n
  | 7 => m.graphsDue c n
  | _ => false

/-- The engine queues whose faults a letter joins (R301). -/
def letterQueue (bit : Nat) : List Nat :=
  match bit with
  | 2 => [1] | 4 => [2] | 6 => [3] | 7 => [4] | _ => []

/-- `qfence` (R269, R418): it stays short of its fault-safe point until the join is complete. -/
def runQfence (q : Nat) : VRun := fun m e =>
  let c := m.cur
  let bits := bitList q 8
  match m.takeFault c e.stamp (bits.flatMap letterQueue) with
  | some r => .error (.trap r.2.1 (r.1.updCtx c fun x => { x with joinWord := some r.2.2 }))
  | none => if bits.any fun b => m.queueDue c e.stamp b then .error (.wait m) else .ok m

/-! ### Waking (R198, R202, R208) -/

/-- BARRIER_WAKE: a sleeping `barw` or `baraw` ends as an acquire. -/
def Mach.barWake (m : Mach) (c : Nat) : Mach :=
  let m' := m.as c
  match (m.ctx c).status, (m.ctx c).sleep.map Sleep.on with
  | .running, some (.bar grp n ph gen) =>
    if !(m'.bar grp n).over ph gen then m
    else ((m'.upd fun x => { x with arrival := if x.arrival.any (fun a => a.pc == x.pc && a.word == x.ir) then none else x.arrival }).acquire c).retire
  | _, _ => m

/-- TBWAIT_WAKE. -/
def Mach.tbWake (m : Mach) (c : Nat) : Mach :=
  let m' := m.as c
  match (m.ctx c).status, (m.ctx c).sleep.map Sleep.on with
  | .running, some (.tb l _ p) => if (m'.tbAt l).pcount = p then m else (m'.acquire c).retire
  | _, _ => m

def execBarrierWake (c : Nat) (s : State) : Out := onMach s fun m => m.barWake c
def execTbwaitWake (c : Nat) (s : State) : Out := onMach s fun m => m.tbWake c

/-- A buffered atomic is performed: here, with the old value to its register, or posted to a member (R404 to R406). -/
def Mach.amoOut (m : Mach) (c : Nat) (e : SbEnt) (f d : Nat) (b expect pc : Word) (l : Loc) : Mach :=
  match apertureOf l with
  | some t => match m.post c e.after (e.id + 1) e.word t.1 clsReq (.amo t.2 f b expect false) e.va with
    | .ok m => m
    | .error _ => m
  | none => match m.poisonSegs 0 [(l, 8)] with
    | some p => m.lateTrap c e.id (fltPoison e.va p.2 0) pc e.word
    | none =>
      let r := m.amoHere c f b expect [(l, 8)]
      r.1.updCtx c fun x => x.wx d r.2

/-- The bytes that a store-buffer entry's next part touches. -/
def SbEnt.touches (e : SbEnt) : List (Loc × Nat) :=
  match e.op, e.segs with
  | .store, s :: _ => [(s.1, s.2.length)]
  | .amo _ _ _ _ _, s :: _ => [(s.1, 8)]
  | _, s :: _ => [(s.1, 16)]
  | _, [] => []

/-- The part of an entry that is performed next, by context c (R332, R414). -/
def Mach.performPart (m : Mach) (c : Nat) (e : SbEnt) : Mach :=
  match e.op, e.segs with
  | .tbinit n, (.pa a, _) :: _ => (m.tbInit c a n).accessBeats c e.touches
  | .tbexp n, (.pa a, _) :: _ => (m.tbUpd c a fun t => t.addSec n).accessBeats c e.touches
  | .amo f d b ex pc, s :: _ => m.amoOut c e f d b ex pc s.1
  | .store, s :: _ => match m.storeSegs c e.after (e.id + 1) e.word e.va 0 [s] with
    | .ok m => m.accessBeats c e.touches
    | .error _ => m
  | _, _ => m

/-- STORE_PERFORMED: the oldest buffered store of context c, or the next part of it, is performed at its home, once every vector-side
instruction dispatched before it is fault-safe and what R261 and R264 order before it has been performed (R150, R332). -/
def Mach.storeOut (m : Mach) (c : Nat) : Mach :=
  match (m.ctx c).sb with
  | [] => m
  | e :: rest =>
    if (m.ctx c).unsafeUpTo e.after || (m.ctx c).pluralAhead e.after e.touches || (m.ctx c).xpAhead e.after ||
      m.chainBusy e.touches || m.segsStalled e.touches then m else
    let left : List SbEnt := match e.op, e.segs with
      | .store, _ :: s :: t => [{ e with segs := s :: t }]
      | _, _ => []
    ((m.updCtx c fun x => { x with sb := left ++ rest }).performPart c e).settle c

def execStorePerformed (c : Nat) (s : State) : Out := onMach s fun m => m.storeOut c

end Sys2Proof.Machine
end

