-- ==== Sys2Proof/Machine/Nmu.lean ====
section
/-!
DEFINITION. Near-memory units (R112, R133, R156, R303, R427 to R433): loading microprograms, b-class words, runs, and the parking
of an NMU with its PC (R309, R310).
-/

namespace Sys2Proof.Machine

/-! ### pmld (R427) -/

/-- The NMUs of a partition. -/
def Mach.partNmus (m : Mach) (q : Nat) : List Nat :=
  match m.part q with
  | some p => (peGroups p.e).flatMap fun g => (List.range 16).map fun i => g * 16 + i
  | none => []

/-- The targets of a `pmld`: every NMU of the partition, or those that serve the members of a bank set, or a fault with its
member. (DEDUCED, log 27) -/
def Mach.pmldTargets (m : Mach) (c : Nat) (b : Option Bst) : Except (Nat × Flt) (List Nat) :=
  match b with
  | none => .ok (m.partNmus (m.qOf c))
  | some b =>
    let ps := m.members c kPlural b 0 1 (fun _ => false) [] (List.range (b.count + 1))
    match ps.find? fun p => match p.bad with | some f => f.code != 0x0A || p.ss != [] | none => false with
    | some p => .error (p.k, p.bad.getD (fltPage 1 kPlural p.va))
    | none => .ok ((ps.flatMap fun p => (m.banksOf p.ss).map (· / 16)).eraseDups)

/-- Writes words into microprogram stores. -/
def Mach.loadStores (m : Mach) (ns : List Nat) (at_ : Nat) (ws : List Nat) : Mach :=
  ns.foldl (fun m n => m.updNmu n fun u =>
    { u with store := csetRange u.store at_ (ws.map fun w => BitVec.ofNat 32 w) }) m

/-- The fields of a `pmld` operand: its first address, word count, and bank set. -/
def pmldSet (m : Mach) (w : Nat) : Option Bst :=
  if bitOf w 19 then (match m.bankset m.cur (BitVec.ofNat 64 (bitsOf w 29 20)) with
    | .ok b => some b
    | .error _ => none) else none

/-- The words of a `pmld`: read at execution, once (R427 step 1). -/
def Mach.pmldRead (m : Mach) (va w : Nat) : Except Stop (Mach × List Nat × Option (List Nat)) :=
  match m.me.pload with
  | some p => .ok (m, p.1, p.2)
  | none =>
    let at_ := bitsOf w 8 0
    let n := bitsOf w 18 9
    if va % 4 != 0 || bitsOf w 63 30 != 0 || n = 0 || 512 < n || 512 < at_ + n || (bitOf w 19 && (pmldSet m w).isNone) then
      raise m (fltConfig 0x15 0)
    else do
    let r ← m.loadsFrom .all 0 va 4 n
    let ws := chunks 4 n r.2
    pure ((r.1.dropReqs r.1.cur r.1.me.pc).upd fun x => { x with pload := some (ws, none) }, ws, none)

/-- The targets left are written, each while no run executes on it (R427 steps 3 and 4). -/
def Mach.pmldWrite (m : Mach) (at_ : Nat) (ws ns : List Nat) : Except Stop Mach :=
  let now := ns.filter fun n => (m.nmu n).cur.isNone
  let left := ns.filter fun n => (m.nmu n).cur.isSome
  let m := (m.loadStores now at_ ws).upd fun x => { x with pload := some (ws, some left) }
  if left.isEmpty then .ok m else .error (.wait m)

/-- `pmld`: reads its words, waits for the context's runs, then writes each target once it has no run executing. (DEDUCED, log 27) -/
def execPmld (a b : BitVec 5) (s : State) : Out :=
  scalarStep [a.toNat, b.toNat] (fun m => do
    let c := m.cur
    let w := (m.me.rx b.toNat).toNat
    let r ← m.pmldRead (m.me.rx a.toNat).toNat w
    let m := r.1
    match r.2.2 with
    | some ns => m.pmldWrite (bitsOf w 8 0) r.2.1 ns
    | none =>
      waitFor (!m.me.anyUnsafe && !m.runsDue c) m
      match m.pmldTargets c (pmldSet m w) with
      | .error f => pure (m.upd fun x =>
          { x with engFaults := x.engFaults ++ [EngFault.mk x.stamp (x.sbNext + 1) 2 f.2 x.ir f.1], sbNext := x.sbNext + 1 })
      | .ok ns => m.pmldWrite (bitsOf w 8 0) r.2.1 ns) s

/-! ### The step of an NMU -/

/-- A run ends; its NMU's reply goes to the pair (R163). -/
def Mach.runEnd (m : Mach) (n : Nat) : Mach :=
  match (m.nmu n).cur with
  | some r => ((m.updNmu n fun u => { u with cur := none }).charge (n / 256) (dieOf r.run.c) 2 64).settle r.run.c
  | none => m

/-- A run stops with a fault (R303): its registers keep their values; the fault waits for the context's join of queue B. -/
def Mach.runFault (m : Mach) (n : Nat) (f : Flt) : Mach :=
  match (m.nmu n).cur with
  | none => m
  | some r =>
    let c := r.run.c
    let m := (m.updNmu n fun u => { u with cur := none }).charge (n / 256) (dieOf c) 2 64
    let m := match (m.ctx c).status with
      | .running => m.updCtx c fun x => { x with engFaults := x.engFaults ++ [EngFault.mk r.run.age 0 2 f r.run.word r.run.member] }
      | _ => m
    m.settle c

/-- A run executes: K0 is all ones where it begins (R112). -/
def Nmu.begin_ (u : Nmu) (r : NRun) (rest : List NRun) : Nmu :=
  { u with cur := some { r with steps := 0, begun := true }, queue := rest, k := if r.begun then u.k else vecSet u.k 0 0xFFFF }

/-- A run is suspended: it goes to the end of its NMU's queue; where the queue is full, its head takes the run's place at once (R145, R156).
(DEDUCED, log 36) -/
def Nmu.suspend (u : Nmu) (r : NRun) : Nmu :=
  match u.queue with
  | h :: rest => if 8 ≤ u.queue.length then u.begin_ h (rest ++ [r]) else { u with cur := none, queue := u.queue ++ [r] }
  | [] => { u with cur := none, queue := [r] }

/-- The executing run yields. -/
def Mach.runYield (m : Mach) (n : Nat) : Mach :=
  m.updNmu n fun u => match u.cur with
    | some r => u.suspend { r with steps := 0 }
    | none => u

/-- The step of a b-class word: what it does and the next fetch address, a fault of the run, or a wait (none); it adds `one` to the
steps since the last yield. Its page walks see the buffered stores older than its `prun` (R186). -/
def nmuStepBy (one : Nat) (f : Mach → Nmu → NRun → Except Flt (Option (Mach × Nat))) (s : State) : Out :=
  onMach s fun m =>
    let u := m.nmu m.ncur
    match u.cur with
    | none => m
    | some r => m.bounded r.run.age fun m =>
      if 4096 ≤ r.steps then m.runYield m.ncur else
      match f m u r with
      | .error e => m.runFault m.ncur e
      | .ok none => m
      | .ok (some p) => p.1.updNmu m.ncur fun u => { u with cur := u.cur.map fun r => { r with at_ := p.2, steps := r.steps + one } }

/-- The step of a b-class word that is no yield. (DEDUCED, log 36) -/
def nmuStep : (Mach → Nmu → NRun → Except Flt (Option (Mach × Nat))) → State → Out := nmuStepBy 1

/-- Lane l of a bank register, and a register from its lanes. -/
def lane (v : BitVec 512) (l : Nat) : Nat := bitsOf v.toNat (32 * l + 31) (32 * l)
def ofLanes (ls : List Nat) : BitVec 512 := BitVec.ofNat 512 (ls.zipIdx.foldl (fun v p => v + p.1 % 2 ^ 32 * 2 ^ (32 * p.2)) 0)

def Nmu.b_ (u : Nmu) (n : Nat) : BitVec 512 := vecAt 0 u.b n
def Nmu.k_ (u : Nmu) (n : Nat) : BitVec 16 := vecAt 0 u.k n

/-- Writes the lanes of Bd whose predicate bit is 1 (R430). -/
def Nmu.putB (u : Nmu) (k d : Nat) (f : Nat → Nat) : Nmu :=
  let old := u.b_ d
  { u with b := vecSet u.b d (ofLanes ((List.range 16).map fun l => if (u.k_ k).getLsbD l then f l else lane old l)) }

/-- A lane operation under a predicate (R430). -/
def laneOp (k : BitVec 2) (d a b : BitVec 3) (f : Nat → Nat → Nat → Nat) (s : State) : Out :=
  nmuStep (fun m u r => .ok (some (m.updNmu m.ncur fun _ =>
    u.putB k.toNat d.toNat fun l => f (lane (u.b_ a.toNat) l) (lane (u.b_ b.toNat) l) (lane (u.b_ d.toNat) l), r.at_ + 1))) s

/-- An F32 operation rounded RNE, or an I32 operation that wraps, as bit t selects (R430). -/
def arith (t : BitVec 1) (ff : XV → XV → XV → XV) (fi : Int → Int → Int → Int) (a b d : Nat) : Nat :=
  if t = 1 then wrapN 32 (fi (sx 32 a) (sx 32 b) (sx 32 d)) else f32.round 0 0 (ff (f32.val a) (f32.val b) (f32.val d))

def execBadd (k : BitVec 2) (d a b : BitVec 3) (t : BitVec 1) (s : State) : Out :=
  laneOp k d a b (arith t (fun a b _ => a.add false b) fun a b _ => a + b) s
def execBsub (k : BitVec 2) (d a b : BitVec 3) (t : BitVec 1) (s : State) : Out :=
  laneOp k d a b (arith t (fun a b _ => a.sub false b) fun a b _ => a - b) s
def execBmul (k : BitVec 2) (d a b : BitVec 3) (t : BitVec 1) (s : State) : Out :=
  laneOp k d a b (arith t (fun a b _ => a.mul b) fun a b _ => a * b) s
def execBmin (k : BitVec 2) (d a b : BitVec 3) (t : BitVec 1) (s : State) : Out :=
  laneOp k d a b (arith t (fun a b _ => a.minOf b) fun a b _ => min a b) s
def execBmax (k : BitVec 2) (d a b : BitVec 3) (t : BitVec 1) (s : State) : Out :=
  laneOp k d a b (arith t (fun a b _ => a.maxOf b) fun a b _ => max a b) s
def execBfma (k : BitVec 2) (d a b : BitVec 3) (t : BitVec 1) (s : State) : Out :=
  laneOp k d a b (arith t (fun a b d => (a.mul b).add false d) fun a b d => a * b + d) s
def execBand (k : BitVec 2) (d a b : BitVec 3) (s : State) : Out := laneOp k d a b (fun a b _ => a &&& b) s
def execBor (k : BitVec 2) (d a b : BitVec 3) (s : State) : Out := laneOp k d a b (fun a b _ => a ||| b) s
def execBxor (k : BitVec 2) (d a b : BitVec 3) (s : State) : Out := laneOp k d a b (fun a b _ => a ^^^ b) s

/-- A compare into a bank mask (R431). -/
def laneCmp (k : BitVec 2) (d : BitVec 2) (a b : BitVec 3) (t : BitVec 1) (op : Nat) (s : State) : Out :=
  let ty : Ty := if t = 1 then .int true 32 else .flt f32
  nmuStep (fun m u r =>
    let v := (List.range 16).foldl (fun v l =>
      if (u.k_ k.toNat).getLsbD l && cmpT ty op (lane (u.b_ a.toNat) l) (lane (u.b_ b.toNat) l) then v + 2 ^ l else v) 0
    .ok (some (m.updNmu m.ncur fun u => { u with k := vecSet u.k d.toNat (BitVec.ofNat 16 v) }, r.at_ + 1))) s

def execBcmpeq (k d : BitVec 2) (a b : BitVec 3) (t : BitVec 1) (s : State) : Out := laneCmp k d a b t 0 s
def execBcmplt (k d : BitVec 2) (a b : BitVec 3) (t : BitVec 1) (s : State) : Out := laneCmp k d a b t 2 s
def execBcmple (k d : BitVec 2) (a b : BitVec 3) (t : BitVec 1) (s : State) : Out := laneCmp k d a b t 3 s

/-- `bsel` writes every lane (R431). -/
def execBsel (k : BitVec 2) (d a b : BitVec 3) (s : State) : Out :=
  nmuStep (fun m u r =>
    let v := ofLanes ((List.range 16).map fun l => lane (u.b_ (if (u.k_ k.toNat).getLsbD l then a.toNat else b.toNat)) l)
    .ok (some (m.updNmu m.ncur fun u => { u with b := vecSet u.b d.toNat v }, r.at_ + 1))) s

/-! ### Row accesses (R432) -/

/-- The address of a row access. -/
def rowVa (r : Run) (i : BitVec 12) : Nat := wrapN 64 ((r.base : Int) + (r.arg + i.toInt) * 64)

/-- A row access's location: a banked page in the member word's bank (R432). -/
def Mach.rowLoc (m : Mach) (r : Run) (kind va : Nat) : Except Flt Nat :=
  let bad : Flt := { code := 0x0A, detail := r.member % 64, faddr := va }
  match m.resolve r.c kind va 64 .no with
  | .error f => .error f
  | .ok ((.pa a, 64) :: _) =>
    match m.leaf r.c kind va, m.keyOf a with
    | .ok l, some k => if l.1.testBit 5 && bankOf k = r.bank then .ok a else .error bad
    | _, _ => .error bad
  | .ok _ => .error bad

/-- `brld` (R432). -/
def execBrld (k : BitVec 2) (d : BitVec 3) (i : BitVec 12) (s : State) : Out :=
  nmuStep (fun m u r =>
    let va := rowVa r.run i
    if m.amoAhead r.run.c then .ok none else
    match m.rowLoc r.run kRead va with
    | .error f => .error f
    | .ok a =>
      if m.chainBusy [(.pa a, 64)] then .ok none else
      match m.poisonAt (.pa a) 64 with
      | some p => .error (fltPoison (va + p.1) 1 0)
      | none =>
        let w := BitVec.ofNat 512 (leVal (m.readPa a 64))
        .ok (some (((m.touch r.run.c va).eccRead [(.pa a, 64)]).updNmu m.ncur (fun _ => u.putB k.toNat d.toNat fun l => lane w l), r.at_ + 1))) s

/-- The values of the elements that a row store writes whole (R241); an element only some of whose lanes are on counts nowhere. (DESIGN
CHOICE, log 102) -/
def rowVals (t : Ty) (e : Nat) (pred : BitVec 16) (bs : List Byte) : List XV :=
  (chunks e (64 / e) bs).zipIdx.filterMap fun v =>
    if (List.range e).all fun b => pred.getLsbD ((v.2 * e + b) / 4) then some (t.val (v.1 % 2 ^ t.bits)) else none

/-- `brst`: the bytes of the predicated lanes (R432), with the delta of a run's TID (R241). -/
def execBrst (k : BitVec 2) (d : BitVec 3) (i : BitVec 12) (s : State) : Out :=
  nmuStep (fun m u r =>
    let va := rowVa r.run i
    let q := r.run
    if m.amoAhead q.c then .ok none else
    match m.rowLoc q kWrite va with
    | .error f => .error f
    | .ok a =>
      if m.chainBusy [(.pa a, 64)] || !m.sqRoom q.c 1 then .ok none else
      let p := u.k_ k.toNat
      let bs := leBytes 64 (u.b_ d.toNat).toNat
      let m' := if p = BitVec.allOnes 16 then m.writePa a bs
        else (List.range 16).foldl (fun m l => if p.getLsbD l then m.writePa (a + 4 * l) ((bs.drop (4 * l)).take 4) else m) m
      let t := tyOf q.ty q.fmt.toNat
      let vals := rowVals t (tySize q.ty) p bs
      let ds := if q.tid = 0 || vals.isEmpty then [] else
        m.deltasFor q.c q.tid (titOf q.tit) (match m.deltaDie (.pa a) with
          | some die => vals.map fun v => (die, v)
          | none => []) false false none
      .ok (some ((m'.touch q.c va).pushDeltas q.c ds, r.at_ + 1))) s

/-! ### Control words (R429, R433) -/

/-- `bskip`: jumps when every predicated lane is the bit pattern 0. -/
def execBskip (k : BitVec 2) (a : BitVec 3) (t : BitVec 9) (s : State) : Out :=
  nmuStep (fun m u r =>
    let zero := (List.range 16).all fun l => !(u.k_ k.toNat).getLsbD l || lane (u.b_ a.toNat) l == 0
    .ok (some (m, if zero then t.toNat else r.at_ + 1))) s

def execBjmp (t : BitVec 9) (s : State) : Out := nmuStep (fun m _ _ => .ok (some (m, t.toNat))) s

/-- `byield`: the NMU switches to the next queued run where there is one, or where its PC is to be parked (R156, R309). -/
def execByield (s : State) : Out :=
  nmuStepBy 0 (fun m u r =>
    let go := { r with at_ := r.at_ + 1, steps := 0 }
    if u.queue.isEmpty && u.pend.isNone then .ok (some (m.updNmu m.ncur fun u => { u with cur := some go }, r.at_ + 1))
    else .ok (some (m.updNmu m.ncur fun _ => u.suspend go, ((u.suspend go).cur.map NRun.at_).getD 0))) s

def execBend (s : State) : Out := nmuStep (fun m _ r => .ok (some (m.runEnd m.ncur, r.at_ + 1))) s

/-- A hint executed by an NMU is one step (R429). -/
def nmuHint (s : State) : Out := nmuStep (fun m _ r => .ok (some (m, r.at_ + 1))) s

/-- A word that is no b-class word, or a fetch address of 512, faults the run (R429). -/
def nmuBad (s : State) : Out := nmuStep (fun _ _ _ => .error (fltInstr 6)) s

/-! ### Runs (R156, R429) -/

/-- RUN_TO_NMU: the head of context c's bank queue enters its NMU's run queue, which the run that executes has left. (DEDUCED, log 93) -/
def Mach.toNmu (m : Mach) (c : Nat) : Mach :=
  match (m.ctx c).bankq with
  | [] => m
  | r :: rest =>
    let u := m.nmu r.nmu
    if 8 ≤ u.queue.length || u.power != .awake || u.pend.isSome then m else
    ((m.updCtx c fun x => { x with bankq := rest }).updNmu r.nmu fun u => { u with queue := u.queue ++ [⟨r, r.entry, 0, false⟩] }).charge
      (dieOf c) (r.nmu / 256) 2 64

/-- NMU_RUN_START: the next queued run begins, with K0 all ones (R112), or resumes. -/
def Mach.runStart (m : Mach) (n : Nat) : Mach :=
  m.updNmu n fun u => match u.cur, u.queue with
    | none, r :: rest =>
      if u.power = .awake && u.pend.isNone then u.begin_ r rest else u
    | _, _ => u

/-- FORCED_YIELD: a run of 4,096 steps without a yield is made to yield. -/
def Mach.forceYield (m : Mach) (n : Nat) : Mach :=
  match (m.nmu n).cur with
  | some r => if 4096 ≤ r.steps then m.runYield n else m
  | none => m

def execRunToNmu (c : Nat) (s : State) : Out := onMach s fun m => m.toNmu c
def execNmuRunStart (n : Nat) (s : State) : Out := onMach s fun m => m.runStart n
def execForcedYield (n : Nat) (s : State) : Out := onMach s fun m => m.forceYield n

/-! ### Parking (R309, R310) -/

/-- The 32 bytes by which a run of the queue is parked, with its resume point (R309). (DESIGN CHOICE, log 20) -/
def NRun.parkBytes (r : NRun) : List Byte :=
  leBytes 2 r.at_ ++ leBytes 2 r.run.c ++ leBytes 1 r.run.member ++ leBytes 1 r.begun.toNat ++ leBytes 2 r.run.tid ++
  leBytes 8 r.run.base ++ leBytes 2 (wrapN 16 r.run.arg) ++ leBytes 1 r.run.ty ++ leBytes 1 1 ++ leBytes 4 r.run.bank ++
  leBytes 4 r.run.fmt.toNat ++ leBytes 4 r.run.word.toNat

/-- The parked bytes of an NMU: B0 to B7, K0 to K3, the run queue from byte 520, and the store from byte 1,024. -/
def Nmu.parkBytes (u : Nmu) : List Byte :=
  let q := (u.queue.flatMap NRun.parkBytes).take 504
  (u.b.toList.flatMap fun v => leBytes 64 v.toNat) ++ (u.k.toList.flatMap fun v => leBytes 2 v.toNat) ++
  q ++ List.replicate (504 - q.length) 0 ++ (List.range 512).flatMap fun i => leBytes 4 (cget u.store i).toNat

/-- PARK_ENTRY: once the NMU is at rest and its port's chains are closed, its state is parked and the PC powers down. -/
def Mach.parkIn (m : Mach) (pc : Nat) : Mach :=
  let u := m.nmu pc
  match u.pend with
  | none => m
  | some p =>
    if u.cur.isSome || u.power != .awake || (m.chains.any fun ch => ch.key < Config.dramEnd && pcOf ch.key = pc) then m else
    (m.poke (parkKey pc) u.parkBytes).updNmu pc fun u => { u with power := p, pend := none }

def execParkEntry (pc : Nat) (s : State) : Out := onMach s fun m => m.parkIn pc
def execParkExit (pc : Nat) (s : State) : Out := onMach s fun m => m.parkOut pc

end Sys2Proof.Machine
end

