-- ==== Sys2Proof/Machine/Carousel.lean ====
section
/-!
DEFINITION. Carousel: graph images, slots and runs (R187 to R189, R204, R205, R434 to R439), and the release of held commands
(R152).
-/

namespace Sys2Proof.Machine

/-! ### Graph images (R434, R437) -/

/-- A chunk operation from its 512-bit value. -/
def gopOf (v : Nat) : GOp where
  kind := bitsOf v 3 0
  nin := bitsOf v 7 4
  ty := bitsOf v 12 8
  opr := bitsOf v 15 13
  depr := bitsOf v 31 16
  succ := (List.range (bitsOf v 34 32)).map fun i => bitsOf v (36 + 12 * i + 11) (36 + 12 * i)
  tid := bitsOf v 95 84
  len := bitsOf v 119 96
  peer := bitsOf v 125 120
  addr := (List.range 8).map fun j => (bitsOf v (128 + 48 * j + 3) (128 + 48 * j), bitsOf v (128 + 48 * j + 47) (128 + 48 * j + 4))

/-- The address fields that an operation uses as addresses. -/
def GOp.uses (o : GOp) : List Nat :=
  match o.kind with
  | 0 => [0, 7]
  | 1 => List.range o.nin ++ [7]
  | 2 => [0, 6]
  | 3 => [0]
  | 4 => [7]
  | _ => List.range o.nin ++ [6, 7]

/-- Whether an operation's fields are legal in a graph of n + 1 operations and the given base count (R437). (DEDUCED, log 24) -/
def GOp.legal (o : GOp) (n nbase : Nat) : Bool :=
  decide (o.kind ≤ 5) && (o.ty ≤ 2 || o.ty == 5 || o.ty == 10) && (if o.kind = 1 then decide (o.opr ≤ 2) else o.opr == 0) &&
  (match o.kind with
    | 1 => decide (2 ≤ o.nin) && decide (o.nin ≤ 7)
    | 5 => decide (1 ≤ o.nin) && decide (o.nin ≤ 6)
    | _ => o.nin == 0) &&
  decide (o.succ.length ≤ 4) && o.succ.all (fun i => decide (i ≤ n)) &&
  o.uses.all fun j => decide ((nthD (0, 0) o.addr j).1 < nbase)

/-- Predecessor edges of operation i. -/
def preds (ops : List GOp) (i : Nat) : Nat := (ops.map fun o => (o.succ.filter (· == i)).length).foldl (· + ·) 0

/-- Takes away operations without predecessors until none is left: whether the graph has no cycle (R204). -/
def acyclic (ops : List GOp) : Nat → List Nat → List Nat → Bool
  | 0, _, _ => false
  | fuel + 1, deps, left =>
    if left.isEmpty then true else
    let go := left.filter fun i => nthD 0 deps i == 0
    if go.isEmpty then false else
    let deps := go.foldl (fun d i => ((ops[i]?.map GOp.succ).getD []).foldl (fun d j => mapAt d j (· - 1)) d) deps
    acyclic ops fuel deps (left.filter fun i => !go.contains i)

/-- R204: DEPR counts the predecessor edges, and there is no cycle. (DEDUCED, log 24) -/
def graphOk (ops : List GOp) : Bool :=
  let ix := List.range ops.length
  (ops.zipIdx.all fun o => o.1.depr == preds ops o.2) && acyclic ops (ops.length + 1) (ops.map GOp.depr) ix

def Mach.slot (m : Mach) (n : Nat) : Slot := nthD .free m.slots n
def Mach.updSlot (m : Mach) (n : Nat) (f : Slot → Slot) : Mach := { m with slots := mapAt m.slots n f }

/-- A slot that `cgld` can take: a free one, else a faulted one of the partition without runs (R188, R437). (DEDUCED, log 25) -/
def Mach.findSlot (m : Mach) (q : Nat) : Option Nat :=
  match m.slots.zipIdx.find? fun s => s.1.state == 0 with
  | some s => some s.2
  | none => (m.slots.zipIdx.find? fun s => s.1.state == 3 && s.1.part == q && s.1.run.isNone && s.1.wait.isEmpty).map Prod.snd

/-- The waits of a blocking engine instruction: nothing of the context can fault before it, and its stores and commands have
gone ahead (R152, R420). -/
def Ctx.engineReady (x : Ctx) : Bool := !x.anyUnsafe && x.sb.isEmpty && x.hold.isEmpty

/-- `cgld` (R437). -/
def execCgld (d a : BitVec 5) (s : State) : Out :=
  scalarStep [d.toNat, a.toNat] (fun m => do
    let c := m.cur
    let va := (m.me.rx a.toNat).toNat
    if va % 64 != 0 then raise m (fltConfig 0x15 0) else
    waitFor m.me.engineReady m
    let h ← m.loadsFrom .no 0 va 8 8
    let hv := leVal h.2
    let n := bitsOf hv 11 0
    let nbase := bitsOf hv 15 12
    let sva := bitsOf hv 127 64
    if bitsOf hv 63 16 != 0 || bitsOf hv 511 128 != 0 || sva % 64 != 0 then raise h.1 (fltConfig 0x15 0) else
    let r ← h.1.loadsFrom .no 0 va 8 (8 * (n + 2))
    let m := r.1.touchN c sva 64
    let ops := (blocksOf 64 (n + 1) (r.2.drop 64)).map fun b => gopOf (leVal b)
    let st := match m.resolve c kWrite sva 64 .no with
      | .ok ((.pa a, _) :: _) => if (m.keyOf a).isSome then some a else none
      | _ => none
    if !(ops.all fun o => o.legal n nbase) || !graphOk ops || st.isNone then raise m (fltConfig 0x15 0) else
    match m.findSlot (m.qOf c) with
    | none => raise m (fltConfig 0x17 0)
    | some k =>
      let q := m.qOf c
      let m := m.dropReqs c m.me.pc
      pure ((m.updSlot k fun _ => { Slot.free with state := 1, part := q, ops := ops, nbase := nbase, status := st.getD 0 }).setX
        d.toNat (BitVec.ofNat 64 k))) s

/-- The configuration check of a slot number (R438, R439). -/
def Mach.slotState (m : Mach) (n : Nat) (faultedOk : Bool) : Except Flt Unit :=
  let k := m.slot n
  if 64 ≤ n || k.state = 0 || (k.state = 3 && !faultedOk) then .error (fltConfig 0x17 0) else .ok ()

/-- A slot of another partition raises PROT (R187); it comes after the configuration faults (R296). (DEDUCED, log 26) -/
def Mach.slotOwner (m : Mach) (n c : Nat) : Except Flt Unit :=
  if (m.slot n).part = m.qOf c then .ok () else .error (fltProt kWrite 0)

/-- `cgrun` places its command in the hold (R438). -/
def execCgrun (a b : BitVec 5) (s : State) : Out :=
  scalarStep [a.toNat, b.toNat] (fun m => do
    let n := (m.me.rx a.toNat).toNat
    let va := (m.me.rx b.toNat).toNat
    orRaise m (m.slotState n false)
    orRaise m (m.windowCheck m.cur va)
    orRaise m (m.slotOwner n m.cur)
    if isWindow va then raise m (fltProt kRead va) else
    m.toHold (.cgrun n va)) s

/-- `cgfree` (R439): waits until every run started before it has ended. -/
def execCgfree (a : BitVec 5) (s : State) : Out :=
  scalarStep [a.toNat] (fun m => do
    let n := (m.me.rx a.toNat).toNat
    orRaise m (m.slotState n true)
    orRaise m (m.slotOwner n m.cur)
    let k := m.slot n
    waitFor (m.me.engineReady && k.run.isNone && k.wait.isEmpty) m
    pure (m.updSlot n fun k => { k with state := 0, held := [] })) s

/-! ### Release from the command hold (R152) -/

/-- COMMAND_RELEASE: the oldest held command, once every vector-side instruction dispatched before it is fault-safe. A posted write and
a run start only once every older scalar store has been performed. -/
def Mach.release (m : Mach) (c : Nat) : Mach :=
  let x := m.ctx c
  match x.hold with
  | [] => m
  | h :: rest =>
    if x.unsafeUpTo h.after then m else
    let pop := fun (m : Mach) => m.updCtx c fun x => { x with hold := rest }
    let marked := !x.sb.any fun s => decide (s.id < h.mark)
    match h.cmd with
    | .copy k => if 32 ≤ x.copyq.length then m else (pop m).releaseCopy c h k
    | .fst member off v va =>
      if !marked then m else
      match m.post c h.after (h.mark + 1) h.word member clsReq (.write off (leBytes 8 v.toNat) 0 .none) va with
      | .ok m => (pop m).settle c
      | .error _ => m
    | .cgrun n bases =>
      if !marked then m else
      (pop m).updSlot n fun k => { k with wait := k.wait ++
        [GRun.mk c x.task h.word h.after (h.mark + 1) bases [] [] [] [] [] 0 0 none] }

def execCommandRelease (c : Nat) (s : State) : Out := onMach s fun m => m.release c

/-! ### Runs (R189, R204, R205) -/

/-- The bytes of a status record (R189). -/
def statusBytes (absent poison runs : Nat) (bad : Option Nat) : List Byte :=
  leBytes 8 absent ++ leBytes 4 poison ++ leBytes 4 runs ++ leBytes 4 (bad.getD 0xFFFFFFFF) ++ leBytes 44 0

/-- Carousel, on the IOD, writes a slot's status record; a parked PC comes back for it (R310). -/
def Mach.putStatus (m : Mach) (n : Nat) (bs : List Byte) : Mach :=
  (m.wake [(.pa (m.slot n).status, bs.length)]).writeFrom 4 1 [(.pa (m.slot n).status, bs)]

/-- The fault of a run goes to its issuer (R305): pending for its context; dropped while the task ends (R267); a partition fault once it
has ended (R306). -/
def Mach.graphIssuer (m : Mach) (n : Nat) (g : GRun) (f : Flt) : Mach :=
  let x := m.ctx g.c
  if x.task == g.task && x.status == .running then
    m.updCtx g.c fun x => { x with engFaults := x.engFaults ++ [EngFault.mk g.age g.ord 4 f g.word 0] }
  else if x.task == g.task && x.status != .idle then m
  else { m with pfaults := m.pfaults ++ [PFault.mk (m.slot n).part f.code f.detail] }

/-- The end of a run by a fault (R305): the slot is faulted, the record names the operation, the issuer gets the fault. -/
def Mach.graphFault (m : Mach) (n : Nat) (g : GRun) (op : Option Nat) (f : Flt) : Mach :=
  let m := m.putStatus n (statusBytes g.absent g.poison (m.slot n).runs.toNat op)
  let rest := m.ready.filter fun r => r.2.1 != n
  let m := { m.updSlot n (fun k => { k with state := 3, run := none }) with ready := rest }
  (m.graphIssuer n g f).settle g.c

/-- The segments of an access by a run, which reaches no other member and no window (R438); it waits for open chains (R159). -/
def Mach.chunkSegs (m : Mach) (g : GRun) (k va n : Nat) : Except Stop (List (Loc × Nat)) := do
  let ss ← orRaise m (m.resolve g.c k va n .no)
  if ss.any fun s => (apertureOf s.1).isSome then raise m (fltProt k va) else
  waitFor (!m.chainBusy ss) m
  pure ss

/-- GRAPH_RUN_START: the slot is checked once more, the record is zeroed, the base addresses are read, every counter is reloaded. -/
def Mach.graphStart (m : Mach) (n : Nat) : Mach :=
  let k := m.slot n
  match k.wait with
  | [] => m
  | g :: rest =>
    if k.run.isSome then m else
    let go := m.updSlot n fun k => { k with wait := rest }
    match (do
      orRaise go (go.slotState n false)
      orRaise go (go.slotOwner n g.c)
      go.chunkSegs g kRead g.bases (8 * (k.nbase + 1)) : Except Stop (List (Loc × Nat))) with
    | .error (.wait _) => m
    | .error (.trap f _) =>
      if k.state != 1 || k.part != go.qOf g.c then (go.graphIssuer n g f).settle g.c
      else (go.putStatus n (leBytes 64 0)).graphFault n g none f
    | .ok ss =>
      let base := chunks 8 (k.nbase + 1) (go.readSegs ss)
      (((go.eccRead ss).fetchFlits 4 1 ss).putStatus n (leBytes 64 0)).updSlot n fun k =>
        { k with state := 2, run := some { g with base := base, dep := k.ops.map GOp.depr } }

/-- The unit an operation runs on (R168): copy units, reduction ALUs, fabric send and receive ports, one queue for each kind.
(DEDUCED, log 92) -/
def GOp.unit (o : GOp) : Nat := match o.kind with | 0 => 0 | 1 => 1 | 5 => 1 | 4 => 3 | _ => 2

/-- Updates the run of a slot. -/
def Mach.updRun (m : Mach) (n : Nat) (f : GRun → GRun) : Mach := m.updSlot n fun k => { k with run := k.run.map f }

/-- The operations of slot n that wait at DEP = 0 for a unit, in order. -/
def Slot.waiting (k : Slot) (u : Nat) : List Nat :=
  match k.run with
  | none => []
  | some g => (List.range k.ops.length).filter fun op =>
    nthD 1 g.dep op == 0 && !g.fired.contains op && (k.ops[op]?.map GOp.unit) == some u

/-- Whether an operation is the first that waits for its unit: the lowest graph, then the lowest index (R168, R205). -/
def Mach.firesNext (m : Mach) (u n op : Nat) : Bool :=
  ((m.slots.take n).all fun k => (k.waiting u).isEmpty) && ((m.slot n).waiting u).head? == some op

/-- The address of field j of an operation. -/
def GRun.addr (g : GRun) (o : GOp) (j : Nat) : Nat :=
  let a := nthD (0, 0) o.addr j
  (nthD 0 g.base a.1 + a.2) % 2 ^ 64

/-- Bytes read by an operation, and whether poison was among them. -/
def Mach.chunkRead (m : Mach) (g : GRun) (va n : Nat) : Except Stop (List Byte × Bool) := do
  let ss ← m.chunkSegs g kRead va n
  pure (m.readSegs ss, (m.poisonSegs 0 ss).isSome)

/-- The marks of an operation's read: errors corrected, flits to the IOD (R121, R163). -/
def Mach.chunkCost (m : Mach) (g : GRun) (va n : Nat) : Mach :=
  match m.resolve g.c kRead va n .no with
  | .ok ss => (m.eccRead ss).fetchFlits 4 1 ss
  | .error _ => m

/-- The members that an operation names: a send's and a receive's peer, or those of a multicast's mask (R435). -/
def GOp.members (o : GOp) (mask : Option Nat) : List Nat :=
  match o.kind with
  | 2 => bitList (mask.getD 0) 64
  | 3 => [o.peer]
  | 4 => [o.peer]
  | _ => []

/-- A multicast's mask, read as it fires (R435). -/
def Mach.chunkMask (m : Mach) (g : GRun) (o : GOp) : Except Stop (Mach × Option Nat) :=
  if o.kind != 2 then .ok (m, none) else do
    let r ← m.chunkRead g (g.addr o 6) 8
    pure (m.chunkCost g (g.addr o 6) 8, some (leVal r.1))

/-- CHUNK_FIRE: the first operation that waits for a unit enters its ready queue where there is room (R205). It notes when it fired, the mask
of a multicast, and which of its members were present (R435, R436). -/
def Mach.chunkFire (m : Mach) (n op : Nat) : Mach :=
  match (m.slot n).ops[op]?, (m.slot n).run with
  | some o, some g =>
    if !m.firesNext o.unit n op || 256 ≤ (m.ready.filter fun r => r.1 == o.unit).length then m else
    match m.chunkMask g o with
    | .error (.wait _) => m
    | .error (.trap f _) => m.graphFault n g (some op) f
    | .ok r =>
      let m := ({ r.1 with ready := m.ready ++ [(o.unit, n, op)] } : Mach).iodNote .opsFired 1
      let here := (o.members r.2).filter fun x => m.memberOk x
      m.updRun n fun g => { g with fired := g.fired ++ [op], waits := g.waits ++ [(op, .ready m.cycle r.2 here)] }
  | _, _ => m

/-- Whether an operation is the next of its unit: the lowest graph, then the lowest index (R168). -/
def Mach.readyFirst (m : Mach) (u n op : Nat) : Bool :=
  m.ready.contains (u, n, op) && m.ready.all fun r => r.1 != u || decide (n < r.2.1) || (r.2.1 == n && decide (op ≤ r.2.2))

/-- An operation completes: successors' counters fall by 1 (R204). -/
def Mach.chunkEnd (m : Mach) (n op : Nat) (absent : Nat) (poisoned : Bool) : Mach :=
  let su := ((m.slot n).ops[op]?.map GOp.succ).getD []
  let rest := m.ready.filter fun r => !(r.2.1 == n && r.2.2 == op)
  let m := ({ m with ready := rest } : Mach).iodNote .chunksPoisoned poisoned.toNat
  m.updRun n fun g => { g with
    dep := su.foldl (fun d j => mapAt d j (· - 1)) g.dep, waits := g.waits.filter (fun w => w.1 != op), done := g.done ++ [op],
    absent := g.absent ||| absent, poison := g.poison + poisoned.toNat }

/-- An output of an operation: bytes, poison, deltas (R241, R435). -/
def Mach.chunkWrite (m : Mach) (g : GRun) (o : GOp) (va : Nat) (bs : List Byte) (psn : Bool) : Except Stop Mach := do
  let ss ← m.chunkSegs g kWrite va bs.length
  let e := tySize o.ty
  let t := tyOf o.ty 0
  let vals := if psn then [] else m.copyVals ss e (e - 1) ((chunks e (bs.length / e) bs).map t.val)
  let ds := if o.tid = 0 then [] else m.deltasFor g.c o.tid (m.tit g.c o.tid) vals false psn none
  let m := m.writeFrom 4 1 (segBytes ss bs)
  let units := if psn then (ss.flatMap fun s => match s.1 with
    | .pa a => (List.range s.2).filterMap fun i => (m.keyOf (a + i)).map unitOf
    | _ => []).eraseDups else []
  let more := units.filter (fun u => !m.poison.contains u)
  pure ({ m with poison := m.poison ++ more }.pushDeltas g.c ds)

/-- One fold step on exact or F32 values (R435). -/
def chunkStep (opr : Nat) (a b : XV) : XV :=
  match opr with
  | 0 => f32.val (f32.round 0 0 (a.add false b))
  | 1 => a.maxOf b
  | _ => a.minOf b

/-- The fold of one element over the inputs in the listed order (R231, R435). -/
def chunkFold (t : Ty) (opr : Nat) (cs : List Nat) : Nat :=
  match t with
  | .flt f => match cs.map f.val with
    | [] => 0
    | v :: vs => f.round 0 0 (vs.foldl (chunkStep opr) v)
  | .int s n =>
    let vs := cs.map (intVal s n)
    match opr, vs with
    | 0, _ => wrapN n (vs.foldl (· + ·) 0)
    | _, [] => 0
    | 1, v :: r => wrapN n (r.foldl max v)
    | _, v :: r => wrapN n (r.foldl min v)

/-- Transposes equal rows. -/
def column (rows : List (List Nat)) (i : Nat) : List Nat := rows.map fun r => nthD 0 r i

/-- A reduce's or combine's output (R435). -/
def chunkOut (o : GOp) (gates : List Nat) (ins : List (List Byte)) : List Byte :=
  let e := tySize o.ty
  let t := tyOf o.ty 0
  let n := o.len / e
  let rows := ins.map fun b => chunks e n b
  (List.range n).flatMap fun i =>
    let cs := column rows i
    leBytes e (if o.kind = 1 then chunkFold t o.opr cs
      else
        let terms := (cs.zip gates).map fun p => f32.val (f32.round 0 0 ((f32.val p.2).mul (t.val p.1)))
        match terms with
        | [] => 0
        | v :: vs => t.round 0 0 (vs.foldl (chunkStep 0) v))

/-- Reads several inputs of LEN bytes. -/
def Mach.chunkIns (m : Mach) (g : GRun) (o : GOp) (js : List Nat) : Except Stop (List (List Byte × Bool)) :=
  js.mapM fun j => m.chunkRead g (g.addr o j) o.len

/-- Copy, reduce and combine. -/
def Mach.chunkLocal (m : Mach) (g : GRun) (o : GOp) : Except Stop (Mach × Bool) := do
  let js := if o.kind = 0 then [0] else List.range o.nin
  let ins ← m.chunkIns g o js
  let gates ← if o.kind = 5 then m.chunkRead g (g.addr o 6) (4 * o.nin) else pure ([], false)
  let psn := gates.2 || ins.any Prod.snd
  let out := if o.kind = 0 then (ins.map Prod.fst).flatten else chunkOut o (chunks 4 o.nin gates.1) (ins.map Prod.fst)
  let m := js.foldl (fun m j => m.chunkCost g (g.addr o j) o.len) m
  let m ← m.chunkWrite g o (g.addr o 7) out psn
  pure (m, psn)

/-- Sets what operation op of a run waits for. -/
def GRun.setWait (g : GRun) (op : Nat) (w : GWait) : GRun := { g with waits := g.waits.map fun x => if x.1 = op then (op, w) else x }

/-- A send starts: its bytes are checked, and the members absent at its firing are noted (R436). -/
def Mach.chunkSend (m : Mach) (n op : Nat) (g : GRun) (o : GOp) (mask : Option Nat) (here : List Nat) : Except Stop Mach := do
  let b ← m.chunkRead g (g.addr o 0) o.len
  let gone := (o.members mask).filter fun x => !here.contains x
  let m := (m.chunkCost g (g.addr o 0) o.len).iodNote .chunksPoisoned b.2.toNat
  pure (m.updRun n fun g => { g.setWait op (.sends mask (here.map fun x => (x, 0)) []) with
    absent := g.absent ||| memMask gone, poison := g.poison + b.2.toNat })

/-- The payload of a packet (R276). -/
def packetMax : Nat := 4096

/-- A send goes on: chunks of up to 4,096 bytes to one member after another, as far as the streams have room, `fuel` at most, each marked
where its bytes are poisoned (R435); then it waits for the acknowledgement of each member's last (R276, R436). -/
def Mach.chunkMore (m : Mach) (n op : Nat) (g : GRun) (o : GOp) (mask : Option Nat) : Nat → List (Nat × Nat) → List (Nat × Nat) →
    Except Stop Mach
  | 0, left, acks => .ok (m.updRun n fun g => g.setWait op (.sends mask left acks))
  | _ + 1, [], acks => .ok (m.updRun n fun g => g.setWait op (.acks acks))
  | fuel + 1, (x, at_) :: t, acks => do
    if !m.memberOk x then (m.updRun n fun g => { g with absent := g.absent ||| 2 ^ x }).chunkMore n op g o mask fuel t acks else
    if m.fabStalled x clsColl then pure (m.updRun n fun g => g.setWait op (.sends mask ((x, at_) :: t) acks)) else
    let k := min packetMax (o.len - at_)
    let b ← m.chunkRead g ((g.addr o 0 + at_) % 2 ^ 64) k
    let r := nthD (0, 0) o.addr 7
    let raw := r.1 + r.2 * 16
    let more := decide (at_ + k < o.len)
    let seq := m.txSeq x clsColl
    let m := m.send x clsColl mask (.chunk (raw % 64) (bitsOf raw 17 6) b.1 more b.2) (.graph n op)
    if more then m.chunkMore n op g o mask fuel ((x, at_ + k) :: t) acks else m.chunkMore n op g o mask fuel t (acks ++ [(x, seq)])

/-- The oldest held arrival, all of which has come, for a receive, and the rest. -/
def takeHeld (op : Nat) : List Arrived → Option (Arrived × List Arrived)
  | [] => none
  | h :: t => if h.op = op && h.whole then some (h, t) else (takeHeld op t).map fun r => (r.1, h :: r.2)

/-- A receive whose peer was present when it fired: it takes its arrival, with its poison, or waits for one (R435, R436). -/
def Mach.chunkRecv (m : Mach) (n op : Nat) (g : GRun) (o : GOp) (since : Nat) : Except Stop Mach :=
  match takeHeld op (m.slot n).held with
  | some h => do
    let m ← (m.updSlot n fun k => { k with held := h.2 }).chunkWrite g o (g.addr o 7) (h.1.bytes.take o.len) h.1.psn
    pure (m.chunkEnd n op 0 h.1.psn)
  | none => .ok (m.updRun n fun g => g.setWait op (.arrival since))

/-- An operation acts when its unit reaches it, and goes on until what it waits for has come. -/
def Mach.chunkStep (m : Mach) (n op : Nat) (g : GRun) (o : GOp) : GWait → Except Stop Mach
  | .ready since mask here => do
    waitFor (m.readyFirst o.unit n op && (o.kind == 2 || o.kind == 3 || m.sqRoom g.c 5)) m
    let m := { m with ready := m.ready.filter fun r => !(r.2.1 == n && r.2.2 == op) }
    match o.kind with
    | 2 => m.chunkSend n op g o mask here
    | 3 => m.chunkSend n op g o mask here
    | 4 => if here.isEmpty then .ok (m.chunkEnd n op (2 ^ o.peer) false) else m.chunkRecv n op g o since
    | _ => do
      let r ← m.chunkLocal g o
      pure (r.1.chunkEnd n op 0 r.2)
  | .sends mask left acks => m.chunkMore n op g o mask 256 left acks
  | .acks l =>
    if l.any fun a => m.troupe.txq.any fun p => p.dst == a.1 && p.cls == clsColl && p.seq == a.2 then .ok m
    else .ok (m.chunkEnd n op 0 false)
  | .arrival since => do
    waitFor (m.sqRoom g.c 5) m
    m.chunkRecv n op g o since

/-- CHUNK_OP_COMPLETION. -/
def Mach.chunkAct (m : Mach) (n op : Nat) : Mach :=
  match (m.slot n).run, (m.slot n).ops[op]? with
  | some g, some o =>
    match (g.waits.find? fun w => w.1 == op).map Prod.snd with
    | none => m
    | some w => match m.chunkStep n op g o w with
      | .ok m => m
      | .error (.wait _) => m
      | .error (.trap f _) => m.graphFault n g (some op) f
  | _, _ => m

/-- When an operation that still waits for an arrival, or for its turn, fired. -/
def GWait.since (w : GWait) : Option Nat :=
  match w with
  | .ready t _ _ => some t
  | .arrival t => some t
  | .sends _ _ _ => none
  | .acks _ => none

/-- RECEIVE_TIMEOUT: no arrival 1 ms (1,200,000 clk) after firing (R436). -/
def Mach.chunkTimeout (m : Mach) (n op : Nat) : Mach :=
  match (m.slot n).run, (m.slot n).ops[op]? with
  | some g, some o => match (g.waits.find? fun w => w.1 == op).bind fun w => w.2.since with
    | some t =>
      if o.kind = 4 && t + 1200000 ≤ m.cycle && (takeHeld op (m.slot n).held).isNone then m.chunkEnd n op (2 ^ o.peer) false else m
    | none => m
  | _, _ => m

/-- GRAPH_RUN_END: every operation has completed; RUNS counts the run and the record is written (R189). -/
def Mach.graphEnd (m : Mach) (n : Nat) : Mach :=
  let k := m.slot n
  match k.run with
  | none => m
  | some g =>
    if g.done.length < k.ops.length then m else
    let runs := k.runs + 1
    let m := m.putStatus n (statusBytes g.absent g.poison runs.toNat none)
    (m.updSlot n fun k => { k with state := 1, runs := runs, run := none }).settle g.c

/-- Carousel's steps; its page walks see no buffered store (R186). -/
def execGraphRunStart (n : Nat) (s : State) : Out := onMach s fun m => m.bounded 0 fun m => m.graphStart n
def execChunkFire (n op : Nat) (s : State) : Out := onMach s fun m => m.bounded 0 fun m => m.chunkFire n op
def execChunkOpCompletion (n op : Nat) (s : State) : Out := onMach s fun m => m.bounded 0 fun m => m.chunkAct n op
def execReceiveTimeout (n op : Nat) (s : State) : Out := onMach s fun m => m.chunkTimeout n op
def execGraphRunEnd (n : Nat) (s : State) : Out := onMach s fun m => m.graphEnd n

end Sys2Proof.Machine
end

