-- ==== Sys2Proof/Machine/Fabric.lean ====
section
/-!
DEFINITION. Fabric instructions (R440 to R442), the application of scatter-add chains (R159) and deltas (R244), and inbound requests
at this chip (R285).
-/

namespace Sys2Proof.Machine

/-! ### fld and fst (R440) -/

/-- The member and offset of the doubleword at an aperture address, or PROT. -/
def Mach.apertureWord (m : Mach) (k va : Nat) : Except Flt (Nat × Nat) :=
  match m.resolve m.cur k va 8 .no with
  | .error f => .error f
  | .ok ss => match ss.findSome? fun s => apertureOf s.1 with
    | some t => .ok t
    | none => .error (fltProt k va)

/-- `fld`: an acquire of the write it returns. -/
def execFld (d a : BitVec 5) (i : BitVec 12) (s : State) : Out :=
  scalarStep [d.toNat, a.toNat] (fun m => do
    let c := m.cur
    let va := m.me.ea a i / 8 * 8
    waitFor (!m.walkWaits c va 8) m
    let m := m.countKey 0 fun m => m.touchN c va 8
    let t ← orRaise m (m.apertureWord kRead va)
    waitFor m.me.engineReady m
    let r ← m.request c m.me.pc m.me.ir 0 t.1 clsReq (.read t.2 8) va 0
    pure (((r.1.dropReqs c m.me.pc).setX d.toNat (zextW (leVal r.2))).acquire c)) s

/-- `fst`: a curtain stalls its issue (R294); it is posted from the command hold. -/
def execFst (d a : BitVec 5) (i : BitVec 12) (s : State) : Out :=
  scalarStep [d.toNat, a.toNat] (fun m => do
    let va := m.me.ea a i / 8 * 8
    waitFor (!m.walkWaits m.cur va 8) m
    let m := m.countKey 0 fun m => m.touchN m.cur va 8
    let t ← orRaise m (m.apertureWord kWrite va)
    waitFor (!m.curtained) m
    m.toHold (.fst t.1 t.2 (m.me.rx d.toNat) va)) s

/-! ### What an aperture offset of this chip names (R285) -/

/-- The context number that stands for the IOD in address resolution: it has no stores and no cached translations. -/
def iodCtx : Nat := 4096

/-- What an inbound access of kind k to n bytes of one partition's 16 GiB reaches, or the error response: code and detail. With no sub-link
named, as if it had arrived on one of the partition's own (R453). (DEDUCED, log 52; DEDUCED, log 57) -/
def Mach.inboundOne (m : Mach) (via : Option Nat) (k off n : Nat) : Except (Nat × Nat) (List (Loc × Nat)) :=
  let q := off / 2 ^ 34 % 64
  match m.part q with
  | none => .error (0x09, kCode k)
  | some p =>
    if via.any fun l => !p.e.subl.getLsbD l then .error (0x09, kCode k) else
    let m' := m.setCtx iodCtx { Ctx.reset with task := ⟨q, 0, 0, 0⟩ }
    match m'.resolve iodCtx k (off % 2 ^ 34) n .no with
    | .error f => .error (f.code, f.detail)
    | .ok ss => if ss.any fun s => (apertureOf s.1).isSome then .error (0x09, kCode k) else .ok ss

/-- What an inbound access reaches: the bytes of an offset past one partition's 16 GiB are the next partition's (R285). -/
def Mach.inboundFrom (m : Mach) (via : Option Nat) (k off n : Nat) : Except (Nat × Nat) (List (Loc × Nat)) :=
  let here := min n (2 ^ 34 - off % 2 ^ 34)
  match m.inboundOne via k off here with
  | .error e => .error e
  | .ok ss => if here = n then .ok ss else match m.inboundOne via k ((off + here) % 2 ^ 40) (n - here) with
    | .error e => .error e
    | .ok t => .ok (ss ++ t)

/-- The same for a request that arrived on a sub-link. -/
def Mach.inbound (m : Mach) (via k off n : Nat) : Except (Nat × Nat) (List (Loc × Nat)) := m.inboundFrom (some via) k off n

/-! ### fldr (R441) -/

/-- The fold of one element over the replies in ascending member order (R231). -/
def fldrFold (t : FFmt) (rm op : Nat) (cs : List Nat) : Nat :=
  match cs.map t.val with
  | [] => redIdent (.flt t) op
  | v :: vs => t.round rm 0 (vs.foldl (fun a b => match op with
      | 0 => f32.val (f32.round 0 0 (a.add false b))
      | 1 => a.maxOf b
      | _ => a.minOf b) v)

/-- Whether scalar stores or commands older than entry e have not gone ahead of it (R152). -/
def Ctx.olderOut (x : Ctx) (e : VEnt) : Bool :=
  x.sb.any (fun s => decide (s.after < e.stamp)) || x.hold.any fun h => decide (h.after < e.stamp)

/-- The requester's own value, read on chip as an answered request (R453). -/
def Mach.gatherOwn (m : Mach) (e : VEnt) (off n : Nat) : Except Stop Mach :=
  let ans := fun (m : Mach) (data : Option (List Byte)) (err : Option (Nat × Nat)) => m.updTroupe fun t => { t with
    reqs := t.reqs ++ [⟨m.cur, e.cap.pc, t.node, t.node, clsColl, 0, [], [], data, err⟩] }
  match m.inboundFrom none kRead off n with
  | .error x => .ok (ans m none (some x))
  | .ok ss =>
    if m.chainBusy ss then .error (.wait m) else
    let m := (m.eccRead ss).fetchFlits 4 4 ss
    match m.poisonSegs 0 ss with
    | some p => .ok (ans m none (some (0x0C, p.2)))
    | none => .ok (ans m (some (m.readSegs ss)) none)

/-- Issues the request of each present member. -/
def Mach.gatherOut (m : Mach) (e : VEnt) (param off n : Nat) (ks : List Nat) : Mach :=
  ks.foldl (fun m k =>
    let r : FabReq := ⟨m.cur, e.cap.pc, k, k, clsColl, m.txSeq k clsColl, [], [], none, none⟩
    (m.send k clsColl (some param) (.gather off n) (.ctx m.cur e.cap.word off none)).updTroupe fun t =>
      { t with reqs := t.reqs ++ [r] }) m

/-- What is known of a member's reply: nothing yet, left out, its bytes, or a fault. -/
inductive Answer where
  | due
  | out
  | data (bs : List Byte)
  | bad (f : Flt)

/-- The answer of member k to the requests of entry e. -/
def Mach.answer (m : Mach) (e : VEnt) (off k : Nat) : Answer :=
  match m.findReq m.cur e.cap.pc k with
  | none => .out
  | some r => match r.err with
    | some (0x0F, _) => .out
    | some (c, b) => .bad (reqFault r c b off 0)
    | none => match r.data with
      | some bs => .data bs
      | none => .due

/-- The end of a `fldr` once no answer is due: the fold, and the mask of the members left out. -/
def Mach.fldrEnd (m : Mach) (e : VEnt) (op d xa : Nat) (ks : List Nat) (off : Word) : Except Stop Mach :=
  let k := e.cap
  let as := ks.map fun j => (j, m.answer e off.toNat j)
  if as.any fun a => match a.2 with | .due => true | _ => false then .error (.wait m) else
  match as.findSome? fun a => match a.2 with | .bad f => some f | _ => none with
  | some f => .error (.trap f (m.dropReqs m.cur k.pc))
  | none =>
    let rows := as.filterMap fun a => match a.2 with | .data bs => some (chunks k.size k.vl bs) | _ => none
    let out := as.filterMap fun a => match a.2 with | .out => some a.1 | _ => none
    let f := match k.tyv with | .flt f => f | .int _ _ => f32
    let m := m.dropReqs m.cur k.pc
    let row := (m.me.actives k).zipIdx.map fun a => if a.1 then some (fldrFold f k.rm op (column rows a.2)) else none
    .ok ((putCodes m k.size d [row]).upd fun x => x.setXAt e.stamp xa (BitVec.ofNat 64 (memMask out)))

def runFldr (op d : Nat) (grp off : Word) (xa : Nat) : VRun := fun m e => do
  let k := e.cap
  let c := m.cur
  orRaise m (vPreAt mdl m.me k [(d, k.g)] [k.size] (2 < k.ty || k.g != 1 || k.rm == 5) [])
  if k.vl = 0 then pure (m.upd fun x => x.setXAt e.stamp xa 0) else
  let g ← orRaise m (m.group c grp.toNat 4)
  vWait m e [(d, 1)]
  let ks := bitList g.param 64
  let issued := ((m.me.vq.find? fun v => v.stamp == e.stamp).bind VEnt.timer).isSome
  if !issued then
    waitFor (!m.me.olderOut e) m
    let own := m.troupe.node
    let here := ks.filter fun x => x != own && m.memberOk x
    if here.any fun x => m.fabStalled x clsColl then .error (.wait m) else
    let m ← if ks.contains own then m.gatherOwn e off.toNat (k.vl * k.size) else pure m
    if here.isEmpty then m.fldrEnd e op d xa ks off
    else .error (.wait ((m.gatherOut e g.param off.toNat (k.vl * k.size) here).startTimer e))
  else m.fldrEnd e op d xa ks off

/-! ### fred (R442) -/

/-- A `fred` past its checks is fault-safe (R147): the active elements leave for their member in one packet, scaled by S where it is valid,
after all that is older (R152, R442). (DEDUCED, log 57) -/
def Mach.fredGo (m : Mach) (e : VEnt) (va a s : Nat) (t : Nat × Nat) : Except Stop Mach := do
  let k := e.cap
  let m := m.upd fun x => x.markSafe e
  waitFor (!m.me.olderOut e) m
  let x := m.me
  let sr := vecAt 0 x.sreg s
  let els := (List.range k.g).flatMap fun r =>
    ((List.range k.vl).filter fun i => x.active k i).map fun i => ((r * k.vl + i) * k.size, x.elem a r i k.size)
  m.post m.cur e.stamp 0 k.word t.1 clsColl (.fred t.2 k.ty (if sValid sr then sExp sr else 0) k.tid els) va

def runFred (addr : Word) (a s : Nat) : VRun := fun m e => do
  let k := e.cap
  let c := m.cur
  let g := k.g
  let sr := vecAt 0 m.me.sreg s
  let target := fun (ss : List (Loc × Nat)) => ss.findSome? fun s => apertureOf s.1
  match (m.me.progOf e).todo.bind fun p => p.1.head?.bind fun st => target st.ss with
  | some t => m.fredGo e addr.toNat a s t
  | none =>
    let tyOk := k.ty ≤ 2 || k.ty == 5
    orRaise m (m.me.checkRegs [(a, g)])
    if k.vl = 0 then pure m else
    if !tyCodeOk k.ty then raise m (fltMode mdl) else
    if m.me.maxvlOf k.size < k.vl || 3968 < k.vl * g * k.size then raise m (fltConfig 0x10 0) else
    if !tyOk || 6 ≤ k.rm || (k.ty == 5 && sValid sr && sExp sr != 0) then raise m (fltMode mdl) else
    orRaise m (m.windowCheck c addr.toNat)
    orRaise m (tidCheck (m.titUsed e c k.tid) k.tid)
    vWait m e [(a, g)]
    let m := (m.titStart e c k.tid).countOnce e fun m => m.touch c addr.toNat
    let ss ← orRaise m (m.resolve c kWrite addr.toNat k.size .no)
    match target ss with
    | none => raise m (fltProt kWrite addr.toNat)
    | some t =>
      orRaise m (srcPoison m.me k [(a, g, k.size)])
      (m.note e fun p => { p with todo := some ([⟨⟨0, 0, addr.toNat⟩, 0, ss⟩], none) }).fredGo e addr.toNat a s t

/-! ### The application of scatter-add chains (R159) -/

/-- Applies a chain's operation: a poisoned word is added to as it stands (R121), but no `vamo.add` changes one (R407).
(DEDUCED, log 51) -/
def Mach.chainOp (m : Mach) (o : ChainOp) : Mach :=
  match o with
  | .delta d _ => m.applyDelta d
  | .add key ty fmt x code q tid =>
    let t := tyOf ty fmt
    let n := tySize ty
    let psn := m.poison.contains (unitOf key)
    let new := addAt t x (leVal (cgetRange m.mem key n)) code
    ((m.poke key (leBytes n new)).clobberTb key n).homeDelta (dieOfKey key) 1024 q tid (if psn then [] else [t.val new]) false psn
  | .vamo key ty rm code q tid c dest =>
    if m.poison.contains (unitOf key) then m.addAnswer dest none else
    let t := tyOf ty 0
    let n := tySize ty
    let old := leVal (cgetRange m.mem key n)
    let new := vamoNew 0 t rm old code
    (((m.poke key (leBytes n new)).clobberTb key n).homeDelta (dieOfKey key) c q tid [t.val new]).addAnswer dest (some (leBytes n old))

/-- Whether what an operation leads to finds room: n deltas at its record's home, n replies in a stream. -/
def Mach.opFits (m : Mach) (n : Nat) (o : ChainOp) : Bool :=
  match o with
  | .delta _ _ => true
  | .add _ _ _ _ _ q tid => m.recRoom q tid n
  | .vamo _ _ _ _ q tid _ dest => m.recRoom q tid n && match dest with
    | .node src _ => m.streamRoom src clsResp n
    | .elem _ _ _ => true

/-- Whether a chain can be applied now: its old value has come from an awake PC (R310), and what its operations lead to finds room. -/
def Mach.chainFits (m : Mach) (ch : Chain) : Bool :=
  !m.parkedKey ch.key && ch.ops.all fun o => { m with chains := m.chains.erase ch }.opFits ch.ops.length o

/-- SCATTER_ADD_CHAIN_APPLY: the oldest chain of a port that can be applied, its operations in arrival order. -/
def Mach.chainApply (m : Mach) (port : Nat) : Mach :=
  match m.chains.find? fun ch => ch.port == port && m.chainFits ch with
  | none => m
  | some ch =>
    let m := ({ m with chains := m.chains.erase ch } : Mach).eccUnitRead ch.key
    let m := ch.ops.foldl Mach.chainOp m
    ch.ops.foldl (fun m o => match o with
      | .delta d _ => m.settle d.c
      | .vamo _ _ _ _ _ _ c _ => m.settle c
      | .add _ _ _ _ _ _ _ => m) m

def execScatterAddChainApply (port : Nat) (s : State) : Out := onMach s fun m => m.chainApply port

/-- DELTA_APPLICATION: the oldest delta of a pair's statistics queue reaches its record's home, where the chain has room (R158, R159); it
keeps its place in the queue until it is applied (R145). -/
def Mach.deltaOut (m : Mach) (p : Nat) : Mach :=
  match (m.pair p).sq with
  | [] => m
  | d :: rest =>
    match m.recWord d.q d.tid with
    | none => ((m.updPair p fun x => { x with sq := rest }).applyDelta d).settle d.c
    | some w =>
      if !m.chainRoom w then m.dieNote (dieOfKey w) .chainWaits 1 else
      ((m.updPair p fun x => { x with sq := rest }).carry (dieOfPair p) (dieOfKey w) 3 64).deltaAt d (some p)

def execDeltaApplication (p : Nat) (s : State) : Out := onMach s fun m => m.deltaOut p

/-! ### Inbound requests (R285) -/

/-- Sends a reply on the response class, or for a gather on the collective class (R165). (DEDUCED, log 53) -/
def Mach.answerTo (m : Mach) (src cls : Nat) (o : FabOp) : Mach := m.send src cls none o .other

/-- The packets that a reply of n bytes takes (R276). -/
def replyParts (n : Nat) : Nat := max 1 ((n + packetMax - 1) / packetMax)

/-- A reply with data: in packets of up to 4,096 bytes (R276). -/
def Mach.replyData (m : Mach) (src out cls seq poison : Nat) : Nat → List Byte → Mach
  | 0, _ => m
  | n + 1, bs => (m.answerTo src out (.reply cls seq (bs.take packetMax) poison (n != 0))).replyData src out cls seq poison n
      (bs.drop packetMax)

/-- The combining additions of a `fred` packet by location, with the partition of its target (R442). (DEDUCED, log 50) -/
def Mach.fredOps (m : Mach) (via off ty : Nat) (x : Int) (tid : Nat) : List (Nat × Nat) → Except (Nat × Nat) (List (Nat × ChainOp))
  | [] => .ok []
  | p :: t =>
    match m.inbound via kWrite (off + p.1) (tySize ty) with
    | .error e => .error e
    | .ok ss => match m.fredOps via off ty x tid t with
      | .error e => .error e
      | .ok r => match ss.head?.bind fun s => match s.1 with | .pa a => m.keyOf a | _ => none with
        | some k => .ok ((k, .add k ty 0 x p.2 (off / 2 ^ 34 % 64) tid) :: r)
        | none => .ok r

/-- The bytes that a combining operation brings to its home. -/
def ChainOp.size (o : ChainOp) : Nat :=
  match o with
  | .delta _ _ => 64
  | .add _ ty _ _ _ _ _ => tySize ty
  | .vamo _ ty _ _ _ _ _ _ => tySize ty

/-- Combining operations from the IOD enter the chains of their bank words (R163, R209); a scratchpad word is combined at once. Where there
is no room: the die whose port has no chain for one, if that is why. -/
def Mach.chainAll (m : Mach) : List (Nat × ChainOp) → Except (Option Nat) Mach
  | [] => .ok m
  | p :: t =>
    let m' := m.carry 4 (dieOfKey p.1) 4 p.2.size
    if Config.dramEnd ≤ p.1 then (if m.opFits 1 p.2 then (m'.chainOp p.2).chainAll t else .error none)
    else
      let w := unitOf p.1
      if m.chainRoom w then (m'.chainAdd w p.2).chainAll t else .error (some (dieOfKey p.1))

/-- The values that a remote write stores, with the dies of their homes: of elements read as the writer names their type, or as the
entry here has it, at the places and with the scales that it names; or of a copy's plain bytes, read by the entry (R237, R241, R396, R422).
(DEDUCED, log 52) -/
def Mach.writeVals (m : Mach) (t : Tit) (ss : List (Loc × Nat)) (bs : List Byte) (st : WStat) : List (Nat × XV) :=
  match st.vals with
  | .codes ty els =>
    let v := match ty with
      | some y => tyOf y.1 y.2
      | none => t.tyv
    els.filterMap fun p => ((segLoc ss p.1).bind m.deltaDie).map fun d => (d, (v.val (p.2.1 % 2 ^ v.bits)).scale p.2.2)
  | .plain pos before =>
    let es := tySize t.ty
    m.copyVals ss es (es - pos % es - 1) ((elemCut es pos before bs).map fun c => t.tyv.val (c % 2 ^ t.tyv.bits))

/-- A remote write and its home-formed deltas, one for each die (R242). -/
def Mach.inWrite (m : Mach) (q tid : Nat) (ss : List (Loc × Nat)) (bs : List Byte) (st : WStat) : Mach :=
  (m.writeFrom 4 4 (segBytes ss bs)).homeDeltas 4 1024 q tid (if tid = 0 then [] else m.writeVals (m.titHome q tid) ss bs st) st.ovf st.x

/-- An arrival, or a part of one, for a receive: held until it fires; where there is no such receive it is discarded and counted
(R436). None: the 64 MiB of chunk buffers are full. -/
def Mach.chunkIn (m : Mach) (src slot op : Nat) (bs : List Byte) (more psn : Bool) : Option Mach :=
  let k := m.slot slot
  let mine := match k.ops[op]? with
    | some g => slot < 64 && (k.state == 1 || k.state == 2) && g.kind == 4 && g.peer == src
    | none => false
  if !mine then some (if more then m else m.iodNote .chunksDropped 1)
  else if 0x400_0000 < (m.slots.flatMap fun s => s.held.map fun h => h.bytes.length).sum + bs.length then none
  else
    let part := fun (h : Arrived) => h.src == src && h.op == op && !h.whole
    some (m.updSlot slot fun k =>
      if k.held.any part then { k with held := k.held.map fun h => if part h then ⟨src, op, h.bytes ++ bs, !more, h.psn || psn⟩ else h }
      else { k with held := k.held ++ [⟨src, op, bs, !more, psn⟩] })

/-- The contexts that wait for a request, once it is answered, may have nothing left. -/
def Mach.settleReqs (m : Mach) (src c q : Nat) : Mach :=
  (m.troupe.reqs.filter fun r => r.dst == src && r.cls == c && r.seq == q).foldl (fun m r => m.settle r.c) m

/-- Data for the request of class c and number q to member src: a part is kept until the last has come. -/
def Mach.replyIn (m : Mach) (src c q : Nat) (d : List Byte) (poison : Nat) (more : Bool) : Mach :=
  (m.updTroupe fun t => { t with reqs := t.reqs.map fun r =>
    if r.dst = src && r.cls = c && r.seq = q then
      (if poison != 0 then { r with err := some (0x0C, poison) } else if more then { r with part := r.part ++ d }
       else { r with part := [], data := some (r.part ++ d) })
    else r }).settleReqs src c q

/-- An error response: for the request that waits, or as an engine fault of the posted operation (R285, R304). -/
def Mach.errorIn (m : Mach) (src c q code bits : Nat) : Mach :=
  let m' := (m.updTroupe fun t => { t with reqs := t.reqs.map fun r =>
    if r.dst = src && r.cls = c && r.seq = q then { r with err := some (code, bits) } else r }).settleReqs src c q
  match (m.troupe.txq.find? fun p => p.dst == src && p.cls == c && p.seq == q).map TxPkt.owner with
  | some (.ctx x word va (some n)) =>
    if (m.ctx x).status == .running then
      m'.updCtx x fun y => { y with engFaults := y.engFaults ++ [⟨n.1, n.2, 3, { code := code, detail := bits, faddr := va }, word, 0⟩] }
    else m'
  | _ => m'

/-- Where the poison among segments lies, as R295 codes it; 0 for none. -/
def Mach.poisonWhere (m : Mach) (ss : List (Loc × Nat)) : Nat := ((m.poisonSegs 0 ss).map Prod.snd).getD 0

/-- What an accepted request does here, with its reply; none while it must wait at its home or for room (R159, R280, R285).
(DEDUCED, log 48; DEDUCED, log 53) -/
def Mach.serve (m : Mach) (src cls seq via : Nat) (o : FabOp) : Option Mach :=
  let room := fun (out n : Nat) => m.streamRoom src out n
  let bad := fun (e : Nat × Nat) => if room clsResp 1 then some (m.answerTo src clsResp (.errReply cls seq e.1 e.2)) else none
  let data := fun (out off n : Nat) => match m.inbound via kRead off n with
    | .error e => bad e
    | .ok ss => if m.chainBusy ss || !room out (replyParts n) then none else
      some (((m.eccRead ss).fetchFlits 4 4 ss).replyData src out cls seq (m.poisonWhere ss) (replyParts n) (m.readSegs ss))
  match o with
  | .read off n => data clsResp off n
  | .gather off n => data clsColl off n
  | .write off bs tid st =>
    match m.inbound via kWrite off bs.length with
    | .error e => bad e
    | .ok ss => if m.chainBusy ss || !m.recRoom (off / 2 ^ 34 % 64) tid 5 then none
      else some (m.inWrite (off / 2 ^ 34 % 64) tid ss bs st)
  | .amo off f b ex ret =>
    match m.inbound via kAtomic off 8 with
    | .error e => bad e
    | .ok ss => if m.chainBusy ss || !room clsResp 1 then none else
      if (m.poisonSegs 0 ss).isSome then
        some (m.answerTo src clsResp (if ret then .reply cls seq [] (m.poisonWhere ss) false
          else .errReply cls seq 0x0C (m.poisonWhere ss)))
      else
        let m := (m.eccRead ss).fetchFlits 4 4 ss
        let old := zextW (leVal (m.readSegs ss))
        let m := if amoWrites f old ex then m.writeFrom 4 4 (segBytes ss (leBytes 8 (amoNew f old b ex).toNat)) else m
        some (if ret then m.answerTo src clsResp (.reply cls seq (leBytes 8 old.toNat) 0 false) else m)
  | .vamo off f ty rm code tid =>
    let n := tySize ty
    let q := off / 2 ^ 34 % 64
    match m.inbound via kAtomic off n with
    | .error e => bad e
    | .ok ss =>
      match m.combineWord f ⟨⟨0, 0, 0⟩, ss, code⟩ with
      | some key =>
        (m.chainAll [(key, .vamo key ty rm code q tid 1024 (.node src seq))]).toOption
      | none =>
        if m.chainBusy ss || !room clsResp 1 || !m.recRoom q tid 1 then none else
        if (m.poisonSegs 0 ss).isSome then some (m.answerTo src clsResp (.reply cls seq [] (m.poisonWhere ss) false))
        else
          let t := tyOf ty 0
          let m := (m.eccRead ss).fetchFlits 4 4 ss
          let old := leVal (m.readSegs ss)
          let new := vamoNew f t rm old code
          some (((m.writeFrom 4 4 (segBytes ss (leBytes n new))).homeDelta
            (((ss.head?.bind fun s => m.homeDie s.1)).getD 4) 1024 q tid [t.val new]).answerTo src clsResp (.reply cls seq (leBytes n old) 0 false))
  | .fred off ty x tid els =>
    match m.fredOps via off ty x tid els with
    | .error e => bad e
    | .ok ops => (m.chainAll ops).toOption
  | .chunk slot op bs more psn => m.chunkIn src slot op bs more psn
  | .reply c q d p more => some (m.replyIn src c q d p more)
  | .errReply c q code bits => some (m.errorIn src c q code bits)
  | .mgmt typ code _ body => some (m.updTroupe fun t => { t with inbox := t.inbox ++ [(src, typ, code, body)] })
  | .launch _ => some m
  | .launchStatus _ _ _ => some m
  | .record _ _ => some m
  | .ckpt _ _ => some m
  | .ack _ _ _ _ => some m

/-- A packet that finds no chain at its port waits there, and the die counts it (R159, R213). -/
def Mach.chainWait (m : Mach) (via : Nat) (o : FabOp) : Mach :=
  let count := fun (ops : List (Nat × ChainOp)) => match m.chainAll ops with
    | .error (some d) => m.dieNote d .chainWaits 1
    | _ => m
  match o with
  | .fred off ty x tid els => match m.fredOps via off ty x tid els with
    | .ok ops => count ops
    | .error _ => m
  | .vamo off f ty rm code tid => match m.inbound via kAtomic off (tySize ty) with
    | .ok ss => match m.combineWord f ⟨⟨0, 0, 0⟩, ss, code⟩ with
      | some key => count [(key, .vamo key ty rm code (off / 2 ^ 34 % 64) tid 1024 (.node 0 0))]
      | none => m
    | .error _ => m
  | _ => m

end Sys2Proof.Machine
end

