-- ==== Sys2Proof/Machine/VRun.lean ====
section
/-!
DEFINITION. What a queued vector-side instruction does when it runs: one match over the operand forms of VOp.
-/

namespace Sys2Proof.Machine

/-- Runs the operation of a queue entry. -/
def vrun : VRun := fun m e =>
  match e.op with
  | .ew op d a b => runEw op d a b m e
  | .fma op d a b => runFma op d a b m e
  | .un op d a => runUn op d a m e
  | .cvt d a s => runCvt d a s m e
  | .cmp op d a b => runCmp op d a b m e
  | .sel d a b f => runSel d a b f m e
  | .splat d w => runSplat d w m e
  | .extr xd a i => runExtr xd a i m e
  | .slide up d a n => runSlide up d a n m e
  | .perm d a b => runPerm d a b m e
  | .vstep d => runVstep d m e
  | .red op d a => runRed op d a m e
  | .dot d a b => runDot d a b m e
  | .qnt d a s => runQnt d a s m e
  | .dqnt d a s => runDqnt d a s m e
  | .sset s w => runSset s w m e
  | .sget xd s => runSget xd s m e
  | .compr n d a b => runCompr n d a b m e
  | .mlog op d a b => runMlog op d a b m e
  | .mred op xd a => runMred op xd a m e
  | .accop d a b => runAccop d a b m e
  | .accopH d a b => runAccopH d a b m e
  | .accsp n d a b f => runAccsp n d a b f m e
  | .acczero d => runAcczero d m e
  | .accrd d n row => runAccrd d n row m e
  | .accwr n a row => runAccwr n a row m e
  | .accld n addr => runAccld n addr m e
  | .accst addr n => runAccst addr n m e
  | .accstq addr n s => runAccstq addr n s m e
  | .gath d base b => runGath d base b m e
  | .ld d addr => runLd d addr m e
  | .st d addr => runSt d addr m e
  | .lds d addr st => runLds d addr st m e
  | .sts d addr st => runSts d addr st m e
  | .ldx d addr b => runLdx d addr b m e
  | .stx d addr b => runStx d addr b m e
  | .stn d addr p => runStn d addr p m e
  | .pld op d set off => runPld op d set off m e
  | .pst d set off => runPst d set off m e
  | .prun x set off => runPrun x set off m e
  | .vamo op d addr b => runVamo op d addr b m e
  | .vlock md addr b => runVlock md addr b m e
  | .waitv all md addr _ b f => runWaitv all md addr b f m e
  | .vsint xd xa a na b nb => runVsint xd xa a na b nb m e
  | .fence op => runFence op m e
  | .qfence q => runQfence q m e
  | .fldr op d grp off xa => runFldr op d grp off xa m e
  | .fred addr a s => runFred addr a s m e

end Sys2Proof.Machine
end

