-- ==== Sys2Proof/Machine/VectorArms.lean ====
section
/-!
DEFINITION. The meanings of the vector-side instructions: each captures its operands and its mode register at dispatch (R101, R146)
and runs by `vrun`. The scalar registers listed are those the instruction names (R347).
-/

namespace Sys2Proof.Machine

/-- The offset of a plural operand: the displacement in bank words, the low six bits cleared (R316, R401). -/
def pluralOff {n : Nat} (w : Word) (p : BitVec n) : Word := (w + p.signExtend 64 * 64) &&& ~~~63

def execVadd (d a b : BitVec 6) (s : State) : Out := vectorStep vrun mdv [] (fun _ => VOp.ew 0 d.toNat a.toNat (.reg b.toNat)) s
def execVsub (d a b : BitVec 6) (s : State) : Out := vectorStep vrun mdv [] (fun _ => VOp.ew 1 d.toNat a.toNat (.reg b.toNat)) s
def execVmul (d a b : BitVec 6) (s : State) : Out := vectorStep vrun mdv [] (fun _ => VOp.ew 2 d.toNat a.toNat (.reg b.toNat)) s
def execVdiv (d a b : BitVec 6) (s : State) : Out := vectorStep vrun mdv [] (fun _ => VOp.ew 3 d.toNat a.toNat (.reg b.toNat)) s
def execVmin (d a b : BitVec 6) (s : State) : Out := vectorStep vrun mdv [] (fun _ => VOp.ew 4 d.toNat a.toNat (.reg b.toNat)) s
def execVmax (d a b : BitVec 6) (s : State) : Out := vectorStep vrun mdv [] (fun _ => VOp.ew 5 d.toNat a.toNat (.reg b.toNat)) s
def execVand (d a b : BitVec 6) (s : State) : Out := vectorStep vrun mdv [] (fun _ => VOp.ew 6 d.toNat a.toNat (.reg b.toNat)) s
def execVor (d a b : BitVec 6) (s : State) : Out := vectorStep vrun mdv [] (fun _ => VOp.ew 7 d.toNat a.toNat (.reg b.toNat)) s
def execVxor (d a b : BitVec 6) (s : State) : Out := vectorStep vrun mdv [] (fun _ => VOp.ew 8 d.toNat a.toNat (.reg b.toNat)) s
def execVsll (d a b : BitVec 6) (s : State) : Out := vectorStep vrun mdv [] (fun _ => VOp.ew 9 d.toNat a.toNat (.reg b.toNat)) s
def execVsrl (d a b : BitVec 6) (s : State) : Out := vectorStep vrun mdv [] (fun _ => VOp.ew 10 d.toNat a.toNat (.reg b.toNat)) s
def execVsra (d a b : BitVec 6) (s : State) : Out := vectorStep vrun mdv [] (fun _ => VOp.ew 11 d.toNat a.toNat (.reg b.toNat)) s
def execVaddX (d a : BitVec 6) (b : BitVec 5) (s : State) : Out :=
  vectorStep vrun mdv [b.toNat] (fun x => VOp.ew 0 d.toNat a.toNat (.scal (x.rx b.toNat))) s
def execVsubX (d a : BitVec 6) (b : BitVec 5) (s : State) : Out :=
  vectorStep vrun mdv [b.toNat] (fun x => VOp.ew 1 d.toNat a.toNat (.scal (x.rx b.toNat))) s
def execVmulX (d a : BitVec 6) (b : BitVec 5) (s : State) : Out :=
  vectorStep vrun mdv [b.toNat] (fun x => VOp.ew 2 d.toNat a.toNat (.scal (x.rx b.toNat))) s
def execVdivX (d a : BitVec 6) (b : BitVec 5) (s : State) : Out :=
  vectorStep vrun mdv [b.toNat] (fun x => VOp.ew 3 d.toNat a.toNat (.scal (x.rx b.toNat))) s
def execVminX (d a : BitVec 6) (b : BitVec 5) (s : State) : Out :=
  vectorStep vrun mdv [b.toNat] (fun x => VOp.ew 4 d.toNat a.toNat (.scal (x.rx b.toNat))) s
def execVmaxX (d a : BitVec 6) (b : BitVec 5) (s : State) : Out :=
  vectorStep vrun mdv [b.toNat] (fun x => VOp.ew 5 d.toNat a.toNat (.scal (x.rx b.toNat))) s
def execVandX (d a : BitVec 6) (b : BitVec 5) (s : State) : Out :=
  vectorStep vrun mdv [b.toNat] (fun x => VOp.ew 6 d.toNat a.toNat (.scal (x.rx b.toNat))) s
def execVorX (d a : BitVec 6) (b : BitVec 5) (s : State) : Out :=
  vectorStep vrun mdv [b.toNat] (fun x => VOp.ew 7 d.toNat a.toNat (.scal (x.rx b.toNat))) s
def execVxorX (d a : BitVec 6) (b : BitVec 5) (s : State) : Out :=
  vectorStep vrun mdv [b.toNat] (fun x => VOp.ew 8 d.toNat a.toNat (.scal (x.rx b.toNat))) s
def execVsllX (d a : BitVec 6) (b : BitVec 5) (s : State) : Out :=
  vectorStep vrun mdv [b.toNat] (fun x => VOp.ew 9 d.toNat a.toNat (.scal (x.rx b.toNat))) s
def execVsrlX (d a : BitVec 6) (b : BitVec 5) (s : State) : Out :=
  vectorStep vrun mdv [b.toNat] (fun x => VOp.ew 10 d.toNat a.toNat (.scal (x.rx b.toNat))) s
def execVsraX (d a : BitVec 6) (b : BitVec 5) (s : State) : Out :=
  vectorStep vrun mdv [b.toNat] (fun x => VOp.ew 11 d.toNat a.toNat (.scal (x.rx b.toNat))) s
def execVfma (d a b : BitVec 6) (s : State) : Out := vectorStep vrun mdv [] (fun _ => VOp.fma 0 d.toNat a.toNat b.toNat) s
def execVfms (d a b : BitVec 6) (s : State) : Out := vectorStep vrun mdv [] (fun _ => VOp.fma 1 d.toNat a.toNat b.toNat) s
def execVfnma (d a b : BitVec 6) (s : State) : Out := vectorStep vrun mdv [] (fun _ => VOp.fma 2 d.toNat a.toNat b.toNat) s
def execVfnms (d a b : BitVec 6) (s : State) : Out := vectorStep vrun mdv [] (fun _ => VOp.fma 3 d.toNat a.toNat b.toNat) s
def execVneg (d a : BitVec 6) (s : State) : Out := vectorStep vrun mdv [] (fun _ => VOp.un 0 d.toNat a.toNat) s
def execVabs (d a : BitVec 6) (s : State) : Out := vectorStep vrun mdv [] (fun _ => VOp.un 1 d.toNat a.toNat) s
def execVmov (d a : BitVec 6) (s : State) : Out := vectorStep vrun mdv [] (fun _ => VOp.un 2 d.toNat a.toNat) s
def execVsqrt (d a : BitVec 6) (s : State) : Out := vectorStep vrun mdv [] (fun _ => VOp.un 3 d.toNat a.toNat) s
def execVrcp (d a : BitVec 6) (s : State) : Out := vectorStep vrun mdv [] (fun _ => VOp.un 4 d.toNat a.toNat) s
def execVrsqrt (d a : BitVec 6) (s : State) : Out := vectorStep vrun mdv [] (fun _ => VOp.un 5 d.toNat a.toNat) s
def execVexp2 (d a : BitVec 6) (s : State) : Out := vectorStep vrun mdv [] (fun _ => VOp.un 6 d.toNat a.toNat) s
def execVlog2 (d a : BitVec 6) (s : State) : Out := vectorStep vrun mdv [] (fun _ => VOp.un 7 d.toNat a.toNat) s
def execVcvt (d a : BitVec 6) (t : BitVec 5) (s : State) : Out :=
  vectorStep vrun mdv [] (fun _ => VOp.cvt d.toNat a.toNat t.toNat) s
def execVcmpeq (d : BitVec 4) (a b : BitVec 6) (s : State) : Out :=
  vectorStep vrun mdv [] (fun _ => VOp.cmp 0 d.toNat a.toNat (.reg b.toNat)) s
def execVcmpne (d : BitVec 4) (a b : BitVec 6) (s : State) : Out :=
  vectorStep vrun mdv [] (fun _ => VOp.cmp 1 d.toNat a.toNat (.reg b.toNat)) s
def execVcmplt (d : BitVec 4) (a b : BitVec 6) (s : State) : Out :=
  vectorStep vrun mdv [] (fun _ => VOp.cmp 2 d.toNat a.toNat (.reg b.toNat)) s
def execVcmple (d : BitVec 4) (a b : BitVec 6) (s : State) : Out :=
  vectorStep vrun mdv [] (fun _ => VOp.cmp 3 d.toNat a.toNat (.reg b.toNat)) s
def execVcmpgt (d : BitVec 4) (a b : BitVec 6) (s : State) : Out :=
  vectorStep vrun mdv [] (fun _ => VOp.cmp 4 d.toNat a.toNat (.reg b.toNat)) s
def execVcmpge (d : BitVec 4) (a b : BitVec 6) (s : State) : Out :=
  vectorStep vrun mdv [] (fun _ => VOp.cmp 5 d.toNat a.toNat (.reg b.toNat)) s
def execVcmpeqX (d : BitVec 4) (a : BitVec 6) (b : BitVec 5) (s : State) : Out :=
  vectorStep vrun mdv [b.toNat] (fun x => VOp.cmp 0 d.toNat a.toNat (.scal (x.rx b.toNat))) s
def execVcmpneX (d : BitVec 4) (a : BitVec 6) (b : BitVec 5) (s : State) : Out :=
  vectorStep vrun mdv [b.toNat] (fun x => VOp.cmp 1 d.toNat a.toNat (.scal (x.rx b.toNat))) s
def execVcmpltX (d : BitVec 4) (a : BitVec 6) (b : BitVec 5) (s : State) : Out :=
  vectorStep vrun mdv [b.toNat] (fun x => VOp.cmp 2 d.toNat a.toNat (.scal (x.rx b.toNat))) s
def execVcmpleX (d : BitVec 4) (a : BitVec 6) (b : BitVec 5) (s : State) : Out :=
  vectorStep vrun mdv [b.toNat] (fun x => VOp.cmp 3 d.toNat a.toNat (.scal (x.rx b.toNat))) s
def execVcmpgtX (d : BitVec 4) (a : BitVec 6) (b : BitVec 5) (s : State) : Out :=
  vectorStep vrun mdv [b.toNat] (fun x => VOp.cmp 4 d.toNat a.toNat (.scal (x.rx b.toNat))) s
def execVcmpgeX (d : BitVec 4) (a : BitVec 6) (b : BitVec 5) (s : State) : Out :=
  vectorStep vrun mdv [b.toNat] (fun x => VOp.cmp 5 d.toNat a.toNat (.scal (x.rx b.toNat))) s
def execVsel (d a b : BitVec 6) (f : BitVec 4) (s : State) : Out :=
  vectorStep vrun mdv [] (fun _ => VOp.sel d.toNat a.toNat b.toNat f.toNat) s
def execVsplat (d : BitVec 6) (a : BitVec 5) (s : State) : Out :=
  vectorStep vrun mdv [a.toNat] (fun x => VOp.splat d.toNat (x.rx a.toNat)) s
def execVextr (d : BitVec 5) (a : BitVec 6) (b : BitVec 5) (s : State) : Out :=
  vectorStep vrun mdv [d.toNat, b.toNat] (fun x => VOp.extr d.toNat a.toNat (x.rx b.toNat)) s
def execVslideup (d a : BitVec 6) (b : BitVec 5) (s : State) : Out :=
  vectorStep vrun mdv [b.toNat] (fun x => VOp.slide true d.toNat a.toNat (x.rx b.toNat)) s
def execVslidedn (d a : BitVec 6) (b : BitVec 5) (s : State) : Out :=
  vectorStep vrun mdv [b.toNat] (fun x => VOp.slide false d.toNat a.toNat (x.rx b.toNat)) s
def execVperm (d a b : BitVec 6) (s : State) : Out := vectorStep vrun mdv [] (fun _ => VOp.perm d.toNat a.toNat b.toNat) s
def execVstep (d : BitVec 6) (s : State) : Out := vectorStep vrun mdv [] (fun _ => VOp.vstep d.toNat) s
def execVredsum (d a : BitVec 6) (s : State) : Out := vectorStep vrun mdv [] (fun _ => VOp.red 0 d.toNat a.toNat) s
def execVredmax (d a : BitVec 6) (s : State) : Out := vectorStep vrun mdv [] (fun _ => VOp.red 1 d.toNat a.toNat) s
def execVredmin (d a : BitVec 6) (s : State) : Out := vectorStep vrun mdv [] (fun _ => VOp.red 2 d.toNat a.toNat) s
def execVredand (d a : BitVec 6) (s : State) : Out := vectorStep vrun mdv [] (fun _ => VOp.red 3 d.toNat a.toNat) s
def execVredor (d a : BitVec 6) (s : State) : Out := vectorStep vrun mdv [] (fun _ => VOp.red 4 d.toNat a.toNat) s
def execVredxor (d a : BitVec 6) (s : State) : Out := vectorStep vrun mdv [] (fun _ => VOp.red 5 d.toNat a.toNat) s
def execVdot (d a b : BitVec 6) (s : State) : Out := vectorStep vrun mdv [] (fun _ => VOp.dot d.toNat a.toNat b.toNat) s
def execVqnt (d a : BitVec 6) (b : BitVec 3) (s : State) : Out :=
  vectorStep vrun mdv [] (fun _ => VOp.qnt d.toNat a.toNat b.toNat) s
def execVdqnt (d a : BitVec 6) (b : BitVec 3) (s : State) : Out :=
  vectorStep vrun mdv [] (fun _ => VOp.dqnt d.toNat a.toNat b.toNat) s
def execVsset (d : BitVec 3) (a : BitVec 5) (s : State) : Out :=
  vectorStep vrun mdv [a.toNat] (fun x => VOp.sset d.toNat (x.rx a.toNat)) s
def execVsget (d : BitVec 5) (a : BitVec 3) (s : State) : Out :=
  vectorStep vrun mdv [d.toNat] (fun _ => VOp.sget d.toNat a.toNat) s
def execVcompr24 (d a b : BitVec 6) (s : State) : Out := vectorStep vrun mdv [] (fun _ => VOp.compr 0 d.toNat a.toNat b.toNat) s
def execVcompr48 (d a b : BitVec 6) (s : State) : Out := vectorStep vrun mdv [] (fun _ => VOp.compr 1 d.toNat a.toNat b.toNat) s
def execMand (d a b : BitVec 4) (s : State) : Out := vectorStep vrun mdv [] (fun _ => VOp.mlog 0 d.toNat a.toNat b.toNat) s
def execMor (d a b : BitVec 4) (s : State) : Out := vectorStep vrun mdv [] (fun _ => VOp.mlog 1 d.toNat a.toNat b.toNat) s
def execMxor (d a b : BitVec 4) (s : State) : Out := vectorStep vrun mdv [] (fun _ => VOp.mlog 2 d.toNat a.toNat b.toNat) s
def execMandn (d a b : BitVec 4) (s : State) : Out := vectorStep vrun mdv [] (fun _ => VOp.mlog 3 d.toNat a.toNat b.toNat) s
def execMnot (d a : BitVec 4) (s : State) : Out := vectorStep vrun mdv [] (fun _ => VOp.mlog 4 d.toNat a.toNat 0) s
def execMmov (d a : BitVec 4) (s : State) : Out := vectorStep vrun mdv [] (fun _ => VOp.mlog 5 d.toNat a.toNat 0) s
def execMset (d : BitVec 4) (s : State) : Out := vectorStep vrun mdv [] (fun _ => VOp.mlog 6 d.toNat 0 0) s
def execMclr (d : BitVec 4) (s : State) : Out := vectorStep vrun mdv [] (fun _ => VOp.mlog 7 d.toNat 0 0) s
def execMcnt (d : BitVec 5) (a : BitVec 4) (s : State) : Out :=
  vectorStep vrun mdv [d.toNat] (fun _ => VOp.mred 0 d.toNat a.toNat) s
def execMany (d : BitVec 5) (a : BitVec 4) (s : State) : Out :=
  vectorStep vrun mdv [d.toNat] (fun _ => VOp.mred 1 d.toNat a.toNat) s
def execMfirst (d : BitVec 5) (a : BitVec 4) (s : State) : Out :=
  vectorStep vrun mdv [d.toNat] (fun _ => VOp.mred 2 d.toNat a.toNat) s
def execAccop (d : BitVec 2) (a b : BitVec 6) (s : State) : Out :=
  vectorStep vrun mdm [] (fun _ => VOp.accop d.toNat a.toNat b.toNat) s
def execAccopH (d : BitVec 2) (a b : BitVec 5) (s : State) : Out :=
  vectorStep vrun mdm [a.toNat, b.toNat] (fun x => VOp.accopH d.toNat (x.rx a.toNat) (x.rx b.toNat)) s
def execAccsp24 (d : BitVec 2) (a b f : BitVec 6) (s : State) : Out :=
  vectorStep vrun mdm [] (fun _ => VOp.accsp 0 d.toNat a.toNat b.toNat f.toNat) s
def execAccsp48 (d : BitVec 2) (a b f : BitVec 6) (s : State) : Out :=
  vectorStep vrun mdm [] (fun _ => VOp.accsp 1 d.toNat a.toNat b.toNat f.toNat) s
def execAcczero (d : BitVec 2) (s : State) : Out := vectorStep vrun mdm [] (fun _ => VOp.acczero d.toNat) s
def execAccrd (d : BitVec 6) (a : BitVec 2) (b : BitVec 5) (s : State) : Out :=
  vectorStep vrun mdm [b.toNat] (fun x => VOp.accrd d.toNat a.toNat (x.rx b.toNat)) s
def execAccwr (d : BitVec 2) (a : BitVec 6) (b : BitVec 5) (s : State) : Out :=
  vectorStep vrun mdm [b.toNat] (fun x => VOp.accwr d.toNat a.toNat (x.rx b.toNat)) s
def execAccld (d : BitVec 2) (a : BitVec 5) (s : State) : Out :=
  vectorStep vrun mdm [a.toNat] (fun x => VOp.accld d.toNat (x.rx a.toNat)) s
def execAccst (d : BitVec 5) (a : BitVec 2) (s : State) : Out :=
  vectorStep vrun mdm [d.toNat] (fun x => VOp.accst (x.rx d.toNat) a.toNat) s
def execAccstQ (d : BitVec 5) (a : BitVec 2) (b : BitVec 3) (s : State) : Out :=
  vectorStep vrun mdm [d.toNat] (fun x => VOp.accstq (x.rx d.toNat) a.toNat b.toNat) s
def execVgathr (d : BitVec 6) (a : BitVec 5) (b : BitVec 6) (s : State) : Out :=
  vectorStep vrun mdm [a.toNat] (fun x => VOp.gath d.toNat (x.rx a.toNat) b.toNat) s
def execVld (d : BitVec 6) (a : BitVec 5) (i : BitVec 12) (s : State) : Out :=
  vectorStep vrun mdl [a.toNat] (fun x => VOp.ld d.toNat (x.rx a.toNat + immX i)) s
def execVst (d : BitVec 6) (a : BitVec 5) (i : BitVec 12) (s : State) : Out :=
  vectorStep vrun mdl [a.toNat] (fun x => VOp.st d.toNat (x.rx a.toNat + immX i)) s
def execVlds (d : BitVec 6) (a b : BitVec 5) (s : State) : Out :=
  vectorStep vrun mdl [a.toNat, b.toNat] (fun x => VOp.lds d.toNat (x.rx a.toNat) (x.rx b.toNat)) s
def execVsts (d : BitVec 6) (a b : BitVec 5) (s : State) : Out :=
  vectorStep vrun mdl [a.toNat, b.toNat] (fun x => VOp.sts d.toNat (x.rx a.toNat) (x.rx b.toNat)) s
def execVldx (d : BitVec 6) (a : BitVec 5) (b : BitVec 6) (s : State) : Out :=
  vectorStep vrun mdl [a.toNat] (fun x => VOp.ldx d.toNat (x.rx a.toNat) b.toNat) s
def execVstx (d : BitVec 6) (a : BitVec 5) (b : BitVec 6) (s : State) : Out :=
  vectorStep vrun mdl [a.toNat] (fun x => VOp.stx d.toNat (x.rx a.toNat) b.toNat) s
def execVstn (d : BitVec 6) (a b : BitVec 5) (s : State) : Out :=
  vectorStep vrun mdl [a.toNat, b.toNat] (fun x => VOp.stn d.toNat (x.rx a.toNat) (x.rx b.toNat)) s
def execPldSum (d : BitVec 6) (a b : BitVec 5) (p : BitVec 3) (s : State) : Out :=
  vectorStep vrun mdp [a.toNat, b.toNat] (fun x => VOp.pld 0 d.toNat (x.rx a.toNat) (pluralOff (x.rx b.toNat) p)) s
def execPldMax (d : BitVec 6) (a b : BitVec 5) (p : BitVec 3) (s : State) : Out :=
  vectorStep vrun mdp [a.toNat, b.toNat] (fun x => VOp.pld 1 d.toNat (x.rx a.toNat) (pluralOff (x.rx b.toNat) p)) s
def execPldMin (d : BitVec 6) (a b : BitVec 5) (p : BitVec 3) (s : State) : Out :=
  vectorStep vrun mdp [a.toNat, b.toNat] (fun x => VOp.pld 2 d.toNat (x.rx a.toNat) (pluralOff (x.rx b.toNat) p)) s
def execPldMaxabs (d : BitVec 6) (a b : BitVec 5) (p : BitVec 3) (s : State) : Out :=
  vectorStep vrun mdp [a.toNat, b.toNat] (fun x => VOp.pld 3 d.toNat (x.rx a.toNat) (pluralOff (x.rx b.toNat) p)) s
def execPldAnd (d : BitVec 6) (a b : BitVec 5) (p : BitVec 3) (s : State) : Out :=
  vectorStep vrun mdp [a.toNat, b.toNat] (fun x => VOp.pld 4 d.toNat (x.rx a.toNat) (pluralOff (x.rx b.toNat) p)) s
def execPldOr (d : BitVec 6) (a b : BitVec 5) (p : BitVec 3) (s : State) : Out :=
  vectorStep vrun mdp [a.toNat, b.toNat] (fun x => VOp.pld 5 d.toNat (x.rx a.toNat) (pluralOff (x.rx b.toNat) p)) s
def execPldXor (d : BitVec 6) (a b : BitVec 5) (p : BitVec 3) (s : State) : Out :=
  vectorStep vrun mdp [a.toNat, b.toNat] (fun x => VOp.pld 6 d.toNat (x.rx a.toNat) (pluralOff (x.rx b.toNat) p)) s
def execPst (d : BitVec 6) (a b : BitVec 5) (p : BitVec 6) (s : State) : Out :=
  vectorStep vrun mdp [a.toNat, b.toNat] (fun x => VOp.pst d.toNat (x.rx a.toNat) (pluralOff (x.rx b.toNat) p)) s
def execPrun (d a b : BitVec 5) (p : BitVec 6) (s : State) : Out :=
  vectorStep vrun mdp [d.toNat, a.toNat, b.toNat] (fun x => VOp.prun (x.rx d.toNat) (x.rx a.toNat) (pluralOff (x.rx b.toNat) p)) s
def execVamoAdd (d : BitVec 6) (a : BitVec 5) (b : BitVec 6) (s : State) : Out :=
  vectorStep vrun mdl [a.toNat] (fun x => VOp.vamo 0 d.toNat (x.rx a.toNat) b.toNat) s
def execVamoSwap (d : BitVec 6) (a : BitVec 5) (b : BitVec 6) (s : State) : Out :=
  vectorStep vrun mdl [a.toNat] (fun x => VOp.vamo 1 d.toNat (x.rx a.toNat) b.toNat) s
def execVamoMax (d : BitVec 6) (a : BitVec 5) (b : BitVec 6) (s : State) : Out :=
  vectorStep vrun mdl [a.toNat] (fun x => VOp.vamo 2 d.toNat (x.rx a.toNat) b.toNat) s
def execVamoMin (d : BitVec 6) (a : BitVec 5) (b : BitVec 6) (s : State) : Out :=
  vectorStep vrun mdl [a.toNat] (fun x => VOp.vamo 3 d.toNat (x.rx a.toNat) b.toNat) s
def execVamoMaxu (d : BitVec 6) (a : BitVec 5) (b : BitVec 6) (s : State) : Out :=
  vectorStep vrun mdl [a.toNat] (fun x => VOp.vamo 4 d.toNat (x.rx a.toNat) b.toNat) s
def execVamoMinu (d : BitVec 6) (a : BitVec 5) (b : BitVec 6) (s : State) : Out :=
  vectorStep vrun mdl [a.toNat] (fun x => VOp.vamo 5 d.toNat (x.rx a.toNat) b.toNat) s
def execVamoAnd (d : BitVec 6) (a : BitVec 5) (b : BitVec 6) (s : State) : Out :=
  vectorStep vrun mdl [a.toNat] (fun x => VOp.vamo 6 d.toNat (x.rx a.toNat) b.toNat) s
def execVamoOr (d : BitVec 6) (a : BitVec 5) (b : BitVec 6) (s : State) : Out :=
  vectorStep vrun mdl [a.toNat] (fun x => VOp.vamo 7 d.toNat (x.rx a.toNat) b.toNat) s
def execVamoXor (d : BitVec 6) (a : BitVec 5) (b : BitVec 6) (s : State) : Out :=
  vectorStep vrun mdl [a.toNat] (fun x => VOp.vamo 8 d.toNat (x.rx a.toNat) b.toNat) s
def execVlock (d : BitVec 4) (a : BitVec 5) (b : BitVec 6) (s : State) : Out :=
  vectorStep vrun mdl [a.toNat] (fun x => VOp.vlock d.toNat (x.rx a.toNat) b.toNat) s
def execWaitvAny (d : BitVec 4) (a : BitVec 5) (b f : BitVec 6) (s : State) : Out :=
  vectorStep vrun mdl [a.toNat] (fun x => VOp.waitv false d.toNat (x.rx a.toNat) x.wdog b.toNat f.toNat) s
def execWaitvAll (d : BitVec 4) (a : BitVec 5) (b f : BitVec 6) (s : State) : Out :=
  vectorStep vrun mdl [a.toNat] (fun x => VOp.waitv true d.toNat (x.rx a.toNat) x.wdog b.toNat f.toNat) s
def execVsint (d : BitVec 5) (a b : BitVec 4) (s : State) : Out :=
  vectorStep vrun mdl [d.toNat, 2 * a.toNat, 2 * a.toNat + 1, 2 * b.toNat, 2 * b.toNat + 1] (fun x => VOp.vsint d.toNat (2 * a.toNat + 64 * (2 * b.toNat)) (x.rx (2 * a.toNat)) (x.rx (2 * a.toNat + 1))
    (x.rx (2 * b.toNat)) (x.rx (2 * b.toNat + 1))) s
def execFenceSv (s : State) : Out := vectorStep vrun mdv [] (fun _ => VOp.fence 0) s
def execFenceVv (s : State) : Out := vectorStep vrun mdv [] (fun _ => VOp.fence 2) s
def execFenceXp (s : State) : Out := vectorStep vrun mdv [] (fun _ => VOp.fence 3) s
def execFenceSt (s : State) : Out := vectorStep vrun mdv [] (fun _ => VOp.fence 4) s
def execQfence (q : BitVec 8) (s : State) : Out := vectorStep vrun mdv [] (fun _ => VOp.qfence q.toNat) s
def execFldrSum (d : BitVec 6) (a b : BitVec 5) (s : State) : Out :=
  vectorStep vrun mdl [a.toNat, b.toNat] (fun x => VOp.fldr 0 d.toNat (x.rx a.toNat) (x.rx b.toNat) a.toNat) s
def execFldrMax (d : BitVec 6) (a b : BitVec 5) (s : State) : Out :=
  vectorStep vrun mdl [a.toNat, b.toNat] (fun x => VOp.fldr 1 d.toNat (x.rx a.toNat) (x.rx b.toNat) a.toNat) s
def execFldrMin (d : BitVec 6) (a b : BitVec 5) (s : State) : Out :=
  vectorStep vrun mdl [a.toNat, b.toNat] (fun x => VOp.fldr 2 d.toNat (x.rx a.toNat) (x.rx b.toNat) a.toNat) s
def execFred (d : BitVec 5) (a : BitVec 6) (b : BitVec 3) (s : State) : Out :=
  vectorStep vrun mdl [d.toNat] (fun x => VOp.fred (x.rx d.toNat) a.toNat b.toNat) s

end Sys2Proof.Machine
end

