-- ==== Sys2Proof/Machine/Queue.lean ====
section
/-!
DEFINITION. Steps of the vector queue and of sleeping instructions: fault-safe points, completion, deferred trap entry, waking and
timeouts (R89, R123, R147, R149, R208, R246, R298, R402, R410, R411).
-/

namespace Sys2Proof.Machine

/-- Entry e of context c is tried: finished, trapped, or waiting as it left the machine. Its page walks see only the buffered stores that
are older, and follow the older atomics (R186). -/
def Mach.attempt (m : Mach) (c : Nat) (e : VEnt) (run : VRun) (fin : Mach → Mach) : Mach :=
  m.bounded e.stamp fun m =>
    if e.op.walks && m.amoAhead c then m else
    match run ((m.as c).updCtx c fun x => { x with vstall := 0 }) e with
    | .ok m2 => fin m2
    | .error (.trap f m2) => (m2.vectorTrap c e f).settle c
    | .error (.wait m2) => m2

/-- Whether an entry is a fence that waits past its fault-safe point (R418). -/
def VEnt.waits (e : VEnt) : Bool :=
  e.safe && !e.done && match e.op with
    | .fence _ => true
    | _ => false

/-- The arithmetic instruction that may run past the fences at the head of the queue, which wait (R419). -/
def Ctx.passer (x : Ctx) : Option VEnt :=
  match x.vq.dropWhile fun e => e.waits || (e.op.arith && e.done) with
  | e :: _ => if e.op.arith then some e else none
  | [] => none

/-- It runs, unless it would trap or has to wait itself. -/
def Mach.passFence (m : Mach) (c : Nat) : Mach :=
  match (m.ctx c).passer with
  | none => m
  | some e => m.bounded e.stamp fun m => match vrun (m.as c) e with
    | .ok m2 => m2.updCtx c fun x => (x.markSafe e).updEnt e fun v => { v with done := true }
    | .error _ => m

/-- FAULT_SAFE_POINT: the oldest vector-side instruction runs; once it can no longer fault its undo entries retire, and what it does is done.
Behind fences that wait the oldest arithmetic instruction runs (R271, R419). Else a context's vector-side instructions, and so its vector memory
accesses, are performed in program order, of which R253 asks nothing for disjoint bytes. (DESIGN CHOICE, log 104) -/
def Mach.faultSafe (m : Mach) (c : Nat) : Mach :=
  match (m.ctx c).vq with
  | [] => m
  | e :: _ =>
    if e.done then m else
    let m := m.attempt c e vrun fun m => m.updCtx c fun x => (x.markSafe e).updEnt e fun v => { v with done := true }
    if (m.ctx c).vq.head?.any VEnt.waits then m.passFence c else m

def execFaultSafePoint (c : Nat) (s : State) : Out := onMach s fun m => m.faultSafe c

/-- VECTOR_COMPLETION: the oldest instruction that is done leaves the queue (R149); only arithmetic behind waiting fences is not its head
(R419). -/
def Mach.vectorDone (m : Mach) (c : Nat) : Mach :=
  match (m.ctx c).vq.find? VEnt.done with
  | some e => (m.vcomplete c e).settle c
  | none => m

def execVectorCompletion (c : Nat) (s : State) : Out := onMach s fun m => m.vectorDone c

/-- TRAP_ENTRY: a scalar-side fault that waited for older vector-side instructions is taken (R111, R298). -/
def Mach.trapNow (m : Mach) (c : Nat) : Mach :=
  let x := m.ctx c
  match x.pendTrap with
  | some t => if x.anyUnsafe then m else m.enterTrap c t.1 t.2.1 t.2.2
  | none => m

def execTrapEntry (c : Nat) (s : State) : Out := onMach s fun m => m.trapNow c

/-- WAITV_SATISFIED: a sleeping `waitv` whose codes have landed ends (R410). -/
def Mach.waitvDone (m : Mach) (c : Nat) (expired : Bool) : Mach :=
  match (m.ctx c).vq with
  | [] => m
  | e :: _ =>
    match e.op, e.timer with
    | .waitv all md addr timeout b f, some t =>
      if expired && t < timeout.toNat then m else
      m.attempt c e (runWaitvX expired all md addr b f) fun m => (m.vcomplete c e).settle c
    | _, _ => m

def execWaitvSatisfied (c : Nat) (s : State) : Out := onMach s fun m => m.waitvDone c false

/-- The WAIT_TIMEOUT of a sleeping scalar-side instruction (R89, R295). -/
def WaitOn.flt (w : WaitOn) (idx : Nat) : Flt :=
  match w with
  | .bar grp n _ _ => fltTimeout (if grp then 2 else 1) n 0
  | .tb _ va _ => fltTimeout 3 0 va
  | .report _ _ => fltTimeout 4 idx 0

/-- Takes the oldest unread report of the acting task's window. -/
def Mach.takeReport (m : Mach) : Option (Mach × Report) :=
  let t := m.me.task
  let l := Launcher.task t.q t.cast t.idx
  match m.windows.find? fun w => w.l == l with
  | none => none
  | some w => match w.unread with
    | [] => none
    | r :: rest => some (m.updWindow l fun w => { w with unread := rest }, r)

/-- Whether what the acting context sleeps on has come: a wake at the same clk as the expiry counts as a wake (R208). -/
def Mach.woken (m : Mach) (on : WaitOn) : Bool :=
  match on with
  | .bar grp n phase gen => (m.bar grp n).over phase gen
  | .tb l _ p => (m.tbAt l).pcount != p
  | .report _ _ => m.takeReport.isSome

/-- SLEEP_EXPIRY: a sleep timer has reached its timeout; `waitv` ends with the elements satisfied so far (R208, R411). -/
def Mach.expire (m : Mach) (c : Nat) : Mach :=
  let x := m.ctx c
  match x.sleep with
  | some z =>
    if z.timeout ≤ z.timer && x.status == .running then
      (if (m.as c).woken z.on then m else (m.as c).scalarTrap (z.on.flt x.task.idx))
    else m.waitvDone c true
  | none => m.waitvDone c true

def execSleepExpiry (c : Nat) (s : State) : Out := onMach s fun m => m.expire c

/-- BANK_TIMEOUT: BANKTO clk have passed without the replies of a plural instruction (R402, R403). -/
def Mach.bankLate (m : Mach) (c : Nat) : Mach :=
  let x := m.ctx c
  match x.vq with
  | [] => m
  | e :: _ =>
    match e.timer with
    | none => m
    | some t =>
      if t < x.banko.toNat then m else
      let fin := fun (m : Mach) => (m.vcomplete c e).settle c
      match e.op with
      | .pld op d set off => m.attempt c e (runPldL true op d set off) fin
      | .pst d set off => m.attempt c e (runPstL true d set off) fin
      | _ => m

def execBankTimeout (c : Nat) (s : State) : Out := onMach s fun m => m.bankLate c

/-- SNAPSHOT_FETCH: a fresh snapshot arrives for the contexts of a pair that wait for one of the record, once no chain is open on it (R246). -/
def Mach.snapArrive (m : Mach) (p tid : Nat) : Mach :=
  (List.range 4).foldl (fun m k =>
    let c := p * 4 + k
    let q := m.qOf c
    let due := fun (r : SnapReq) => r.tid == tid && r.snap.isNone
    if (m.ctx c).snapReqs.any due && m.recReady q tid then
      let z := m.snapNow q tid
      (((m.ownRead (m.recAddr q tid) 128).snapStore p z).updCtx c fun x =>
        { x with snapReqs := x.snapReqs.map fun r => if due r then { r with snap := some z } else r })
    else m) m

def execSnapshotFetch (p tid : Nat) (s : State) : Out := onMach s fun m => m.snapArrive p tid

/-- MEMBER_ACTIVATION: the oldest due activation of a stack happens if fewer than 8 all-bank activations of the stack lie within
the last 64 ns, which is 384 fifths of a clk (R122, R123); else the die counts a deferral (R213). (DESIGN CHOICE, log 64) -/
def Mach.activateNext (m : Mach) (stack : Nat) : Mach :=
  match m.pacts.find? fun a => a.stack == stack && decide (a.earliest ≤ m.cycle) with
  | none => m
  | some a =>
    let t := 5 * m.cycle
    let near := (nthD [] m.acts stack).filter fun u => decide (t < u + 384)
    if near.length < 8 then { m with pacts := m.pacts.erase a, acts := m.acts.set stack (near ++ [t]) }
    else if a.late then m
    else ({ m with pacts := { a with late := true } :: m.pacts.erase a } : Mach).dieNote (stack / 4) .allBankDeferred 1

def execMemberActivation (stack : Nat) (s : State) : Out := onMach s fun m => m.activateNext stack

end Sys2Proof.Machine
end

