-- ==== Sys2Proof/Machine/Launch.lean ====
section
/-!
DEFINITION. Launches (R61 to R64, R74 to R76, R182, R443), placement (R65 to R68, R71, R77), and completion (R69 to R72, R444).
-/

namespace Sys2Proof.Machine

open Sys2Proof.Config

/-! ### Headers and group images -/

/-- The fields of a task header's 2,048-bit value (R63); `ntasks` is the cast size. -/
def taskHdr (h : Nat) : Hdr where
  entry := bitsOf h 63 0
  handler := bitsOf h 127 64
  wdog := bitsOf h 191 128
  groups := bitsOf h 255 192
  args := bitsOf h 319 256
  ntasks := bitsOf h 335 320 + 1
  cor := bitOf h 336
  pack := bitOf h 337
  first := bitsOf h 351 344
  sections := bitsOf h 355 352
  vregs := bitsOf h 357 356
  accs := bitsOf h 362 360
  barriers := bitsOf h 373 364
  scratch := bitsOf h 397 376
  vshare := bitsOf h 407 400

/-- Checks 1 to 3 of R64 for a partition of p pairs. -/
def hdrCheck (h p : Nat) : Option Nat :=
  let k := taskHdr h
  if bitsOf h 415 408 != 1 then some 1
  else if bitsOf h 343 338 != 0 || bitsOf h 359 358 != 0 || bitsOf h 363 363 != 0 || bitsOf h 375 374 != 0 ||
      bitsOf h 399 398 != 0 || bitsOf h 2047 416 != 0 then some 2
  else if 8 < k.sections || 4 < k.accs || 512 < k.barriers || 0x200000 < k.scratch || k.scratch % 64 != 0 || k.wdog == 0 ||
      k.entry % 4 != 0 || k.groups % 64 != 0 || p ≤ k.first then some 3
  else none

/-- The member set of a group-table entry, or none where it is malformed (R182, R183). -/
def groupSet (e : Nat) : Option (List Nat) :=
  match bitsOf e 4 3 with
  | 0 =>
    let lo := bitsOf e 143 128
    let hi := bitsOf e 159 144
    if hi < lo || bitsOf e 511 160 != 0 then none else some ((List.range (hi + 1 - lo)).map (· + lo))
  | 1 => if bitsOf e 511 384 != 0 then none else some (bitList (bitsOf e 383 128) 256)
  | 2 =>
    let n := bitsOf e 135 128
    let l := (List.range n).map fun j => bitsOf e (143 + 8 * j) (136 + 8 * j)
    if n = 0 || 47 < n || l.eraseDups != l || bitsOf e 511 (136 + 8 * n) != 0 then none else some l
  | _ => none

/-- One entry of a group image for a cast of n tasks, or none where it is malformed (R182). -/
def groupOf (n e : Nat) : Option Group :=
  let kind := bitsOf e 2 0
  let gvl := bitsOf e 32 16
  let param := bitsOf e 127 64
  if kind = 0 then (if e = 0 then some ⟨0, [], 0, 0⟩ else none)
  else if 4 < kind || bitsOf e 15 5 != 0 || bitsOf e 63 33 != 0 || ((kind == 2) == (gvl == 0)) || ((kind == 4) == (param == 0)) then none
  else match groupSet e with
    | none => none
    | some l => if l.isEmpty || l.any (fun i => decide (n ≤ i)) then none else some ⟨kind, l, gvl, param⟩

/-- Check 4 of R64 on the entries of a group image. -/
def groupsOf (n : Nat) (es : List Nat) : Option (List Group) :=
  match es.mapM (groupOf n) with
  | none => none
  | some gs => if (List.range n).any (fun i => decide (4 < (gs.filter fun g => g.mem.contains i).length)) then none else some gs

/-- The entries a group image's header announces, or none where the header is malformed. -/
def groupCount (h : Nat) : Option Nat :=
  let n := bitsOf h 8 0
  if bitsOf h 511 9 != 0 || n = 0 || 256 < n then none else some n

/-! ### What a context can take (R65) -/

/-- The reservations on a pair: scratchpad intervals of its contexts that hold tasks. -/
def Mach.pairTasks (m : Mach) (p : Nat) : List Ctx :=
  ((List.range 4).map fun k => m.ctx (p * 4 + k)).filter fun x => x.status != .idle

/-- The lowest free run of n scratchpad bytes that begins at a multiple of 256. -/
def Mach.scratchRun (m : Mach) (p n : Nat) : Option Nat :=
  let used := (m.pairTasks p).filterMap fun x => if x.spSize = 0 then none else some (x.spBase, x.spBase + x.spSize)
  let starts := 0 :: used.map fun u => (u.2 + 255) / 256 * 256
  let ok := starts.filter fun s => s + n ≤ 0x200000 && used.all fun u => n = 0 || s + n ≤ u.1 || u.2 ≤ s
  match ok with
  | [] => none
  | a :: t => some (t.foldl min a)

def Mach.holdsBars (m : Mach) (p q id : Nat) : Bool := (m.pair p).bars.any fun b => b.q == q && b.cast == id

/-- The lowest context of a pair that can take a task of the cast, with its scratchpad base (R65). -/
def Mach.canTake (m : Mach) (p q id : Nat) (h : Hdr) : Option (Nat × Nat) :=
  let bars := ((m.pair p).bars.map fun b => b.bars.length).foldl (· + ·) 0
  let accs := ((m.pairTasks p).map Ctx.accs).foldl (· + ·) 0
  if 4 < accs + h.accs || (!m.holdsBars p q id && 512 < bars + h.barriers) then none
  else match (List.range 4).find? fun k => (m.ctx (p * 4 + k)).status == .idle, m.scratchRun p h.scratch with
    | some k, some b => some (p * 4 + k, b)
    | _, _ => none

/-- The candidate pairs of task i in order (R66). -/
def candidates (e : PartEntry) (h : Hdr) (i : Nat) : List Nat :=
  let ps := pePairs e
  let p := ps.length
  let s := if h.pack then h.first else h.first + i
  (List.range p).map fun j => nthD 0 ps ((s + j) % p)

/-- The context a task of a cast goes to now. -/
def Mach.placeFor (m : Mach) (q id : Nat) (h : Hdr) (i : Nat) : Option (Nat × Nat) :=
  match m.part q with
  | none => none
  | some p => (candidates p.e h i).findSome? fun r => m.canTake r q id h

/-- The instruction cache of a pair is emptied when a cast comes to it for the first time (R132). -/
def Mach.icacheFor (m : Mach) (p q id : Nat) : Mach :=
  if (m.pair p).icasts.contains (q, id) then m
  else m.updPair p fun x => { x with icache := [], icasts := (q, id) :: x.icasts }

/-- A context's registers at task start (R77). -/
def startCtx (h : Hdr) (t : TaskId) (base : Nat) : Ctx :=
  let x := Ctx.reset
  { x with status := .running, task := t, pc := BitVec.ofNat 64 h.entry,
           x := vecSet (vecSet (vecSet x.x 1 (BitVec.ofNat 64 h.args)) 2 (BitVec.ofNat 64 t.idx)) 3 (BitVec.ofNat 64 t.size),
           thandler := BitVec.ofNat 64 h.handler &&& ~~~3, wdog := BitVec.ofNat 64 h.wdog,
           vshare := BitVec.ofNat 8 h.vshare, vshareNext := BitVec.ofNat 8 h.vshare,
           maxSec := h.sections, maxVregs := h.vregs, accs := h.accs, barriers := h.barriers, spBase := base, spSize := h.scratch }

/-- Reserved scratchpad bytes read zero (R77). -/
def Mach.clearScratch (m : Mach) (p base n : Nat) : Mach :=
  let lo := pairBase + p * pairBlock + base
  let keep := fun (k : Nat) => decide (k < lo) || decide (lo + n ≤ k)
  { m with mem := cclear m.mem lo (lo + n), poison := m.poison.filter keep, soft := m.soft.filter (fun e => keep e.1),
           tbs := m.tbs.filter keep }

/-- Reserves named barriers on a pair for a cast (R65). -/
def Mach.reserveBars (m : Mach) (p q id : Nat) (bars : List Bar) : Mach :=
  m.updPair p fun x => { x with bars := x.bars ++ [⟨q, id, bars, x.barNo⟩], barNo := x.barNo + 1 }

/-- Places task i of a cast on context c (R65, R77, R197). Its first instruction is an acquire (R270). -/
def Mach.placeTask (m : Mach) (q id : Nat) (h : Hdr) (i c base : Nat) : Mach :=
  let p := pairOf c
  let m := m.icacheFor p q id
  let m := if m.holdsBars p q id then m else m.reserveBars p q id (List.replicate h.barriers ⟨if h.cor then 0 else 1, 0, false, 0⟩)
  let m := if h.cor then m.updPair p fun x => { x with bars := x.bars.map fun b =>
      if b.q = q && b.cast = id then { b with bars := b.bars.map fun r => { r with exp := r.exp + 1 } } else b } else m
  (m.clearScratch p base h.scratch).setCtx c { startCtx h ⟨q, id, i, h.ntasks⟩ base with lastAcq := m.cycle }

/-- Places the tasks of a co-resident cast in turn on the present state, or none of them (R67). -/
def Mach.placeAll (m : Mach) (q id : Nat) (h : Hdr) : Nat → Nat → Option Mach
  | 0, _ => some m
  | n + 1, i => match m.placeFor q id h i with
    | none => none
    | some c => (m.placeTask q id h i c.1 c.2).placeAll q id h n (i + 1)

/-- Check 5 of R64. -/
def Mach.noFit (m : Mach) (q : Nat) (h : Hdr) : Bool :=
  h.cor && (decide (256 < h.ntasks) || ((({ m with ctxs := [], pairs := [] } : Mach).placeAll q 0 h h.ntasks 0).isNone))

/-! ### Launch acceptance -/

/-- Pending casts of a partition: those not yet wholly placed (R169). -/
def Part.pending (p : Part) : Nat := (p.casts.filter fun k => decide (k.next < k.hdr.ntasks)).length

/-- The next cast identifier that no cast of the partition carries (R61). -/
def freeId (used : List Nat) : Nat → Nat → Nat
  | 0, i => i
  | n + 1, i => if used.contains i then freeId used n ((i + 1) % 2 ^ 32) else i

/-- Accepts a cast: its identifier, its place in its launcher's window, its groups and group barriers (R61, R69, R197). -/
def Mach.accept (m : Mach) (q : Nat) (l : Launcher) (h : Hdr) (gs : List Group) : Mach × Nat :=
  match m.part q with
  | none => (m, 0)
  | some p =>
    let id := freeId (p.casts.map Cast.id) (p.casts.length + 1) p.nextCast
    let m := if m.windows.any fun w => w.l == l then m else { m with windows := m.windows ++ [⟨l, 0, 0, [], [], false⟩] }
    let seq := ((m.windows.find? fun w => w.l == l).map Window.next).getD 0
    let m := m.updWindow l fun w => { w with next := w.next + h.ntasks }
    let k : Cast := ⟨id, h, l, seq, 0, 0, 0, gs, gs.map (fun g => Bar.mk g.mem.length 0 false 0), false⟩
    (m.updPart q fun p => { p with casts := p.casts ++ [k], nextCast := (id + 1) % 2 ^ 32 }, id)

/-- Checks 1 to 3 and 5, and the first half of check 4, which need no group image. -/
def Mach.preCheck (m : Mach) (q h : Nat) : Option Nat :=
  match m.part q with
  | none => some 7
  | some p => match hdrCheck h (pePairs p.e).length with
    | some c => some c
    | none => let k := taskHdr h
      if k.groups != 0 && !k.cor then some 4 else none

/-- `lnch` (R76, R443): its stores are performed first; it waits while the pending-cast queue is full (R167). -/
def execLnch (d a : BitVec 5) (s : State) : Out :=
  scalarStep [d.toNat, a.toNat] (fun m => do
    let c := m.cur
    let q := m.qOf c
    let va := (m.me.rx a.toNat).toNat
    waitFor (m.me.engineReady && m.me.vq.isEmpty && (match m.part q with | some p => decide (p.pending < 128) | none => false)) m
    let r ← m.loadsFrom .no 0 va 8 32
    let m := r.1
    let h := leVal r.2
    let k := taskHdr h
    match m.preCheck q h with
    | some code => raise (m.dropReqs c m.me.pc) (fltConfig code 0)
    | none =>
      let g ← if k.groups = 0 then pure (m, some []) else do
        let g0 ← m.loadsFrom .no 64 k.groups 8 8
        match groupCount (leVal g0.2) with
        | none => pure (g0.1, none)
        | some n =>
          let g1 ← g0.1.loadsFrom .no 64 k.groups 8 (8 * (n + 1))
          pure (g1.1, groupsOf k.ntasks ((blocksOf 64 n (g1.2.drop 64)).map leVal))
      let m := g.1.dropReqs c g.1.me.pc
      match g.2 with
      | none => raise m (fltConfig 4 0)
      | some gs =>
        if m.noFit q k then raise m (fltConfig 5 0) else
        let t := m.me.task
        let r := m.accept q (.task q t.cast t.idx) k gs
        pure ((r.1.charge (dieOf c) 4 5 64).setX d.toNat (BitVec.ofNat 64 r.2))) s

/-- The marks of a read by the IOD: errors corrected, parked PCs back, flits (R163, R310, R463). -/
def Mach.iodMark (m : Mach) (q va n : Nat) : Mach :=
  match (m.setCtx iodCtx { Ctx.reset with task := ⟨q, 0, 0, 0⟩ }).resolve iodCtx kRead va n .no with
  | .ok ss => ((m.eccRead ss).wake ss).fetchFlits 4 5 ss
  | .error _ => m

/-- Bytes of partition q's memory as the IOD reads them, or none where they do not translate. Poisoned bytes and aperture pages count as
not translating. (DESIGN CHOICE, log 96) -/
def Mach.iodRead (m : Mach) (q va n : Nat) : Option (List Byte) :=
  let m' := m.setCtx iodCtx { Ctx.reset with task := ⟨q, 0, 0, 0⟩ }
  match m'.resolve iodCtx kRead va n .no with
  | .ok ss => if (ss.any fun s => (apertureOf s.1).isSome) || (m.poisonSegs 0 ss).isSome then none else some (m.readSegs ss)
  | .error _ => none

/-- The checks of a host launch: the status, or the header and groups of an accepted one (R64, R74). A group image that does not
translate is found before the check of code 5, since check 4 needs the image. (DESIGN CHOICE, log 95) -/
def Mach.hostCheck (m : Mach) (g : LaunchMsg) : Except Nat (Hdr × List Group) :=
  match m.part g.q with
  | none => .error 7
  | some _ => match m.iodRead g.q g.hdr.toNat 256 with
    | none => .error 6
    | some b =>
      let h := leVal b
      let k := taskHdr h
      match m.preCheck g.q h with
      | some code => .error code
      | none =>
        if k.groups = 0 then (if m.noFit g.q k then .error 5 else .ok (k, [])) else
        match m.iodRead g.q k.groups 64 with
        | none => .error 6
        | some b0 => match groupCount (leVal b0) with
          | none => .error 4
          | some n => match m.iodRead g.q k.groups (64 * (n + 1)) with
            | none => .error 6
            | some b1 => match groupsOf k.ntasks ((blocksOf 64 n (b1.drop 64)).map leVal) with
              | none => .error 4
              | some gs => if m.noFit g.q k then .error 5 else .ok (k, gs)

/-- The marks of what the checks of a host launch read. -/
def Mach.launchMarks (m : Mach) (g : LaunchMsg) : Mach :=
  let m := m.iodMark g.q g.hdr.toNat 256
  match (m.iodRead g.q g.hdr.toNat 256).map fun b => (taskHdr (leVal b)).groups with
  | some a => if a = 0 then m else
    let m := m.iodMark g.q a 64
    match (m.iodRead g.q a 64).bind fun b => groupCount (leVal b) with
    | some n => m.iodMark g.q (a + 64) (64 * n)
    | none => m
  | none => m

/-- The member in whose aperture a completion address lies (R74, R134). (DEDUCED, log 59) -/
def complMember (a : Word) : Nat := bitsOf a.toNat 45 40

/-- Whether a LAUNCH message waits: its partition's queue of pending casts is full (R167), or the stream that its answer takes. -/
def Mach.launchWaits (m : Mach) (g : LaunchMsg) : Bool :=
  (match m.part g.q with | some p => decide (128 ≤ p.pending) | none => false) || !m.streamRoom (complMember g.compl) clsLaunch 1

/-- HOST_LAUNCH: a LAUNCH message is answered with its status; none is answered before bring-up has completed (R459). -/
def Mach.hostLaunch (m : Mach) (g : LaunchMsg) : Mach :=
  if m.launchWaits g then m else
  let dst := complMember g.compl
  let answer := fun (m : Mach) (st : Nat) => m.send dst clsLaunch none (.launchStatus g.q (g.slot % 64) st) .other
  let m := m.launchMarks g
  match m.hostCheck g with
  | .error st => answer m st
  | .ok k =>
    let r := m.accept g.q (.host g.q (g.slot % 64)) k.1 k.2
    answer { r.1 with hostRecs := r.1.hostRecs ++ [⟨g.q, g.slot % 64, r.2, g.compl &&& ~~~15, k.1.ntasks, 0, 0, 0xFFFFFFFF, true⟩] } 0

def execHostLaunch (g : LaunchMsg) (s : State) : Out :=
  if s.plat.stage = 7 && !s.plat.responder then onMach s fun m => m.hostLaunch g else .next s

/-! ### Placement -/

/-- The oldest unended sequence number of a window (R71). -/
def Window.oldest (w : Window) : Nat :=
  ((List.range (w.ended.length + 1)).find? fun i => !(w.ended.any fun r => r.seq == w.base + i)).getD 0 + w.base

/-- Whether the window lets task i of a cast be placed: R71 counts the tasks that have not ended, and that is what the model counts, not the
reports which R145 leaves in the window until `lwait` takes them. (DESIGN CHOICE, log 105) -/
def Mach.inWindow (m : Mach) (k : Cast) (i : Nat) : Bool :=
  match m.windows.find? fun w => w.l == k.launcher with
  | some w => decide (k.seq0 + i < w.oldest + 256)
  | none => true

/-- The context for the next task of a streaming cast, where it can be placed now. -/
def Mach.nextPlace (m : Mach) (q : Nat) (k : Cast) : Option (Nat × Nat) :=
  if k.hdr.cor || k.hdr.ntasks ≤ k.next || !m.inWindow k k.next then none else m.placeFor q k.id k.hdr k.next

/-- The casts of a partition that are pending, in order of acceptance. -/
def Part.waiting (p : Part) : List Cast := p.casts.filter fun k => decide (k.next < k.hdr.ntasks)

/-- The casts before the first pending co-resident one, which blocks every later cast (R68). -/
def unblocked : List Cast → List Cast
  | [] => []
  | k :: t => if k.hdr.cor then [] else k :: unblocked t

/-- TASK_PLACEMENT: the first streaming cast that can use a context gets it (R66, R68). -/
def Mach.placeNext (m : Mach) (q : Nat) : Mach :=
  match m.part q with
  | none => m
  | some p =>
    if p.held != 0 then m else
    match (unblocked p.waiting).findSome? fun k => (m.nextPlace q k).map fun c => (k, c) with
    | none => m
    | some r => (m.placeTask q r.1.id r.1.hdr r.1.next r.2.1 r.2.2).updCast q r.1.id fun k => { k with next := k.next + 1 }

def execTaskPlacement (q : Nat) (s : State) : Out := onMach s fun m => m.placeNext q

/-- CORESIDENT_PLACEMENT: the first pending co-resident cast is placed whole, where no earlier streaming cast can use a context
(R67, R68). -/
def Mach.placeCor (m : Mach) (q : Nat) : Mach :=
  match m.part q with
  | none => m
  | some p =>
    let ws := p.waiting
    if p.held != 0 then m else
    if (unblocked ws).any fun k => (m.nextPlace q k).isSome then m else
    match ws.find? fun k => k.hdr.cor with
    | none => m
    | some k =>
      if !m.inWindow k (k.hdr.ntasks - 1) then m else
      match m.placeAll q k.id k.hdr k.hdr.ntasks 0 with
      | none => m
      | some m' => m'.updCast q k.id fun k => { k with next := k.hdr.ntasks }

def execCoresidentPlacement (q : Nat) (s : State) : Out := onMach s fun m => m.placeCor q

/-! ### Completion -/

/-- A host launch slot's report goes into its completion record (R72, R74). -/
def HostRec.note (h : HostRec) (r : Report) : HostRec :=
  { h with count := h.count + 1, faulted := h.faulted + r.faulted.toNat,
           first := if r.faulted && h.first = 0xFFFFFFFF then r.idx else h.first, dirty := true }

/-- Takes a report of a cast into account: a cast wholly reported is gone (R61, R184). -/
def Mach.castReported (m : Mach) (q id : Nat) : Mach :=
  m.updPart q fun p =>
    let ks := p.casts.map fun (k : Cast) => if k.id = id then { k with reported := k.reported + 1 } else k
    { p with casts := ks.filter (fun k => decide (k.reported < k.hdr.ntasks)) }

def launcherQ (l : Launcher) : Nat := match l with | .task q _ _ => q | .host q _ => q

/-- COMPLETION_REPORT: the next task of a launcher in sequence order is reported once it has ended (R70). Reports that no `lwait` has taken are
kept, however many. (DESIGN CHOICE, log 105) -/
def Mach.report (m : Mach) (l : Launcher) : Mach :=
  match m.windows.find? fun w => w.l == l with
  | none => m
  | some w =>
    match w.ended.find? fun r => r.seq == w.base with
    | none => m
    | some r =>
      let keep := match l with | .task _ _ _ => if w.dead then [] else w.unread ++ [r] | .host _ _ => []
      let m := m.updWindow l fun w => { w with base := w.base + 1, ended := w.ended.erase r, unread := keep }
      let m := match l with
        | .task _ _ _ => m
        | .host q sl =>
          { m with hostRecs := m.hostRecs.map (fun (h : HostRec) => if h.q = q && h.slot = sl && h.cast = r.cast then h.note r else h) }
      let m := m.castReported (launcherQ l) r.cast
      { m with windows := m.windows.filter (fun w => !(w.dead && w.base == w.next)) }

def execCompletionReport (l : Launcher) (s : State) : Out := onMach s fun m => m.report l

/-- The sixteen bytes of a completion record (R74). (DEDUCED, log 59) -/
def HostRec.bytes (h : HostRec) : List Byte := leBytes 4 h.count ++ leBytes 4 h.faulted ++ leBytes 4 h.first ++ leBytes 4 h.cast

/-- HOST_COMPLETION_RECORD: a record that has changed is rewritten whole. -/
def Mach.rewriteRec (m : Mach) (q slot : Nat) : Mach :=
  match m.hostRecs.find? fun h => h.q == q && h.slot == slot && h.dirty with
  | none => m
  | some h =>
    if !m.streamRoom (complMember h.addr) clsLaunch 1 then m else
    let m := m.send (complMember h.addr) clsLaunch none (.record h.addr h.bytes) .other
    let rs := m.hostRecs.map fun (g : HostRec) => if g = h then { g with dirty := false } else g
    { m with hostRecs := rs.filter (fun g => g.dirty || decide (g.count < g.total)) }

def execHostCompletionRecord (q slot : Nat) (s : State) : Out := onMach s fun m => m.rewriteRec q slot

/-! ### lwait (R444) -/

/-- The report as X[A] receives it. -/
def Report.word (r : Report) : Word :=
  BitVec.ofNat 64 (r.cast % 2 ^ 32 * 2 ^ 32 + (if r.faulted then r.value.toNat % 256 * 2 ^ 24 + 2 ^ 16 else 0) + r.idx % 65536)

/-- The registers that a taken report fills, as an acquire. (DEDUCED, log 58) -/
def Mach.giveReport (m : Mach) (d a : Nat) (r : Report) : Mach := ((m.setX d r.value).setX a r.word).acquire m.cur

def execLwait (d a : BitVec 5) (s : State) : Out :=
  scalarStep [d.toNat, a.toNat] (fun m =>
    match m.takeReport with
    | some r => do
      m.undoRoom 2
      pure (r.1.giveReport d.toNat a.toNat r.2)
    | none =>
      let w := m.me.rx a.toNat
      m.sleepOn (.report d.toNat a.toNat) (if w = 0 then m.me.wdog else w).toNat (fltTimeout 4 m.me.task.idx 0)) s

/-- LWAIT_REPORT: a report arrives for a sleeping `lwait`. (DEDUCED, log 58) -/
def Mach.lwaitWake (m : Mach) (c : Nat) : Mach :=
  match (m.ctx c).status, (m.ctx c).sleep.map Sleep.on with
  | .running, some (.report d a) => match (m.as c).takeReport with
    | some r => if ((m.as c).undoRoom 2).toOption.isNone then m else (r.1.giveReport d a r.2).retire
    | none => m
  | _, _ => m

def execLwaitReport (c : Nat) (s : State) : Out := onMach s fun m => m.lwaitWake c

end Sys2Proof.Machine
end

