-- ==== Sys2Proof/Machine/Tables.lean ====
section
/-!
DEFINITION. Table instructions (R176 to R181, R238 to R240, R445), groups (R446), TLB invalidation (R448) and requests to
Ringmaster (R449).
-/

namespace Sys2Proof.Machine

/-- The TID an instruction names in X[A][11:0] (R445). -/
def Ctx.tidOf (x : Ctx) (a : BitVec 5) : Nat := (x.rx a.toNat).toNat % 4096

/-! ### tdef -/

/-- Whether the extents of a TIT image are legal (R176). -/
def extentsOk (e : Nat) : Bool :=
  (List.range 4).all fun i =>
    let v := bitsOf e (159 + 32 * i) (128 + 32 * i)
    if i ≤ bitsOf e 97 96 then v != 0 else v == 0

/-- Whether a TIT image is malformed (R176). (DEDUCED, log 60) -/
def titImageBad (e : Nat) : Bool :=
  let t := titOf e
  !t.v || bitsOf e 7 6 != 0 || bitsOf e 63 55 != 0 || bitsOf e 95 88 != 0 || bitsOf e 127 98 != 0 || bitsOf e 511 304 != 0 ||
  bitsOf e 303 256 != 0 || !tyCodeOk t.ty || t.rescale == 3 || !extentsOk e ||
  (if t.ty = 3 then !fmtValid t.nfmt || decide (2 ^ 20 ≤ t.nfmt)
   else t.nfmt != fmtBlk t.nfmt * 2 ^ 18 || fmtBlk t.nfmt == 3)

/-- Writes entry t of partition q from a checked image, with its record (R176, R177, R238); the deltas on their way to a record that
STATS = 0 retires are dropped. -/
def Mach.titWrite (m : Mach) (q t e : Nat) : Mach :=
  let new := titOf e
  let old := titOf (leVal (m.readPa (m.titAddr q t) 64))
  let rec_ := if new.stats then m.recAddr q t else 0
  let m := (m.ownRead (m.titAddr q t) 64).pokeFrom (dieOf m.cur) (m.titAddr q t) (leBytes 64 (e + rec_ * 2 ^ 256))
  let m := if new.stats then m else (m.ctxs.map Prod.fst).foldl Mach.settle (m.deltasDrop q t)
  let m := if new.stats && !(old.v && old.stats) then
    (m.ownRead (m.recAddr q t) 128).pokeFrom (dieOf m.cur) (m.recAddr q t) (leBytes 128 (freshRec (recGen (m.record q t)) new)) else m
  m.titDrop q t

/-- Whether a scalar-side table instruction may act: the older vector-side instructions of its context have completed (R177, R239). -/
def Ctx.tableReady (x : Ctx) : Bool := x.vq.isEmpty

/-- TID 0 with an image that cannot be read: TID_INVALID comes before the faults of addresses (R296). -/
def noImage {α : Type} (t : Nat) (r : Except Stop α) : Except Stop α :=
  match r with
  | .error (.trap f m) => raise m (if t = 0 && f.code != 0x03 then fltTid 0 else f)
  | r => r

/-- The image is checked before the TID (R296). -/
def execTdef (a b : BitVec 5) (s : State) : Out :=
  scalarStep [a.toNat, b.toNat] (fun m => do
    let c := m.cur
    let t := m.me.tidOf a
    let va := (m.me.rx b.toNat).toNat
    if va % 64 != 0 then raise m (fltConfig 0x15 0) else
    waitFor m.me.tableReady m
    let r ← noImage t (m.imageRead va 8)
    let e := leVal r.2
    if titImageBad e then raise r.1 (fltConfig 0x15 0) else
    if t = 0 then raise r.1 (fltTid 0) else
    pure (r.1.titWrite (m.qOf c) t e)) s

/-! ### tldf -/

def execTldf (d : BitVec 2) (a : BitVec 5) (s : State) : Out :=
  scalarStep [a.toNat] (fun m => do
    let c := m.cur
    let t := m.me.tidOf a
    let e := m.tit c t
    if t = 0 || !e.v then raise m (fltTid t) else
    if e.ty != 3 then raise m (fltConfig 0x12 d.toNat) else
    pure ((m.titFill c t).upd fun x => x.setFmt d.toNat (BitVec.ofNat 32 (e.nfmt % 2 ^ 20)))) s

/-! ### Records -/

/-- TID_INVALID of an instruction that needs a record (R178). (DEDUCED, log 61) -/
def Mach.recCheck (m : Mach) (c t : Nat) : Except Flt Unit :=
  let e := m.tit c t
  if t = 0 || !e.v || !e.stats then .error (fltTid t) else .ok ()

/-- `strs`: it waits for deltas as `fence.st` does, those of copies under way and of fabric writes among them (R239, R247). -/
def execStrs (a : BitVec 5) (s : State) : Out :=
  scalarStep [a.toNat] (fun m => do
    let c := m.cur
    let q := m.qOf c
    let t := m.me.tidOf a
    orRaise m (m.recCheck c t)
    waitFor (m.me.tableReady && (m.me.counted.contains 1 || m.sqRoom c 5)) m
    let m := m.countKey 1 fun m => m.flushCopies c
    waitFor (!m.deltasTo q t && !m.sentTids c) m
    let m := (m.titFill c t).ownRead (m.recAddr q t) 128
    pure ((m.pokeFrom (dieOf c) (m.recAddr q t) (leBytes 128 (freshRec (recGen (m.record q t)) (m.tit c t)))).snapDrop q t)) s

/-- n doubleword stores in ascending address. -/
def Mach.storesTo (m : Mach) (va : Nat) : Nat → List Byte → Except Stop Mach
  | 0, _ => .ok m
  | n + 1, bs => do
    let m ← m.scalarStoreAt n va (bs.take 8)
    m.storesTo ((va + 8) % 2 ^ 64) n (bs.drop 8)

/-- `strd`: one atomic read of the record, then scalar stores (R240, R445). (DEDUCED, log 61) -/
def execStrd (a b : BitVec 5) (s : State) : Out :=
  scalarStep [a.toNat, b.toNat] (fun m => do
    let c := m.cur
    let q := m.qOf c
    let t := m.me.tidOf a
    let va := (m.me.rx b.toNat).toNat
    if va % 128 != 0 then raise m (fltConfig 0x15 0) else
    orRaise m (m.windowCheck c va)
    orRaise m (m.recCheck c t)
    waitFor (m.recReady q t) m
    if 16 < m.me.sb.length then stallOn evSbStall m else
    let m := (m.titFill c t).ownRead (m.recAddr q t) 128
    if (m.poisonAt (.pa (m.recAddr q t)) 128).isSome then raise m (fltPoison 0 1 0) else
    m.storesTo va 16 (leBytes 128 (m.record q t))) s

/-! ### pdef -/

/-- Whether a BST image is malformed (R180). (DEDUCED, log 60) -/
def bstImageBad (e : Nat) : Bool :=
  let b := bstOf e
  !b.v || bitsOf e 7 7 != 0 || bitsOf e 63 16 != 0 || !isCanonical b.base || b.base % 64 != 0 || b.stride == 0 ||
  b.stride % 64 != 0 || decide (2 ^ (b.count + 1) ≤ b.mask)

/-- Writes entry n of the bank-set table; every pair of the partition drops its copy (R181). -/
def Mach.bstWrite (m : Mach) (q n e : Nat) : Mach :=
  let m := m.pokeFrom (dieOf m.cur) (m.bstAddr q n) (leBytes 32 e)
  { m with pairs := m.pairs.map fun p => (p.1, { p.2 with bstc := p.2.bstc.filter (fun x => !(x.1 == q && x.2.1 == n)) }) }

def execPdef (a b : BitVec 5) (s : State) : Out :=
  scalarStep [a.toNat, b.toNat] (fun m => do
    let n := (m.me.rx a.toNat).toNat
    let va := (m.me.rx b.toNat).toNat
    if va % 32 != 0 then raise m (fltConfig 0x15 0) else
    if 1024 ≤ n then raise m (fltConfig 0x16 n) else
    waitFor m.me.tableReady m
    let r ← m.imageRead va 4
    let e := leVal r.2
    if bstImageBad e then raise r.1 (fltConfig 0x15 0) else pure (r.1.bstWrite (m.qOf m.cur) n e)) s

/-! ### Groups (R446) -/

/-- The rank of a task among members: how many lie below it. -/
def rankOf (mem : List Nat) (i : Nat) : Nat := (mem.filter fun j => decide (j < i)).length

def execGrpinfo (d a : BitVec 5) (s : State) : Out :=
  scalarStep [d.toNat, a.toNat] (fun m => do
    let g ← orRaise m (m.group m.cur ((m.me.rx a.toNat).toNat % 256) 0)
    pure (m.setX d.toNat (BitVec.ofNat 64
      (g.kind + g.mem.length * 2 ^ 3 + rankOf g.mem m.me.task.idx * 2 ^ 12 + g.gvl * 2 ^ 20)))) s

def execGrpidx (d a b : BitVec 5) (s : State) : Out :=
  scalarStep [d.toNat, a.toNat, b.toNat] (fun m => do
    let g ← orRaise m (m.group m.cur ((m.me.rx a.toNat).toNat % 256) 0)
    let r := (m.me.rx b.toNat).toNat
    pure (m.setX d.toNat (match g.mem.find? fun i => rankOf g.mem i == r with
      | some i => BitVec.ofNat 64 i
      | none => BitVec.allOnes 64))) s

/-! ### tlbinv (R185, R448) -/

/-- Drops the cached translations of partition q that cover an address, in every pair, and those of a 4 KiB leaf with C64 in the same 64 KiB,
which is one page (R136, R185). -/
def Mach.tlbDrop (m : Mach) (q va : Nat) : Mach :=
  let hit := fun (e : TlbEnt) => e.q == q && ((decide (e.va ≤ va) && decide (va < e.va + e.size)) ||
    (e.lvl == 0 && e.pte.testBit 4 && e.va / 65536 == va / 65536))
  { m with pairs := m.pairs.map fun p => (p.1, { p.2 with
      tlb := p.2.tlb.filter (fun e => !hit e), probe := p.2.probe.filter (fun e => !hit e.2) }) }

/-- `tlbinv`: the entries of every TLB that hold the page (R185, R448). (DEDUCED, log 62) -/
def execTlbinv (a : BitVec 5) (s : State) : Out :=
  scalarStep [a.toNat] (fun m => do
    let va := (m.me.rx a.toNat).toNat
    if !isCanonical va then raise m (fltPage 3 0 va) else
    pure (m.tlbDrop (m.qOf m.cur) va)) s

/-! ### preq (R309, R449) -/

/-- Whether a pseudo-channel belongs to a partition. -/
def Mach.ownsPc (m : Mach) (q pc : Nat) : Bool :=
  decide (pc < 1024) && match m.part q with
    | some p => p.e.pgrp.getLsbD (pc / 16)
    | none => false

/-- The frequencies an island may be given (R465). -/
def mhzOk (v : Nat) : Bool := decide (400 ≤ v) && decide (v ≤ 1200) && v % 100 == 0

/-- What Ringmaster does with a request: the machine, the islands, and the status (DEDUCED, log 66). No request reads an island's
frequency (R19): Ringmaster reads it by a move of its own. (DESIGN CHOICE, log 84) -/
def serveRequest (m : Mach) (p : Plat) (code arg : Nat) : Mach × Plat × Nat :=
  let q := m.qOf m.cur
  match code with
  | 1 => if m.ownsPc q arg then (m.updNmu arg fun u => { u with pend := some .down }, p, 0) else (m, p, 3)
  | 2 => if m.ownsPc q arg then (m.updNmu arg fun u => { u with pend := some .refresh }, p, 0) else (m, p, 3)
  | 3 => if m.ownsPc q arg then ((m.updNmu arg fun u => { u with pend := none }).parkOut arg, p, 0) else (m, p, 3)
  | 4 =>
    if mhzOk arg && !p.tripped then (m, { p with islands := mapAt p.islands (pairOf m.cur) fun _ => ⟨arg, arg⟩ }, 0) else (m, p, 1)
  | 5 => (m.updCast q m.me.task.cast fun k => { k with sliced := true }, p, 0)
  | _ => (m, p, 2)

/-- The step of a request: it waits until nothing older in the context can fault, and writes the status to X[A]. -/
def preqStep (a b : BitVec 5) (s : State) : Out :=
  let m := s.m
  if !m.me.ready [a.toNat, b.toNat] then .next { s with m := m.notReady }
  else if m.me.anyUnsafe then .next s
  else
    let r := serveRequest m s.plat (m.me.rx a.toNat).toNat (m.me.rx b.toNat).toNat
    .next { s with m := (r.1.setX a.toNat (BitVec.ofNat 64 r.2.2)).retire, plat := r.2.1 }

/-- The five codes of `preq` share one word: the code in X[A] decides (R449). -/
def execPreqPowerDown (a b : BitVec 5) (s : State) : Out := preqStep a b s
def execPreqSelfRefresh (a b : BitVec 5) (s : State) : Out := preqStep a b s
def execPreqWake (a b : BitVec 5) (s : State) : Out := preqStep a b s
/-- Code 4 (R465). (DEDUCED, log 66) -/
def execPreqSetIsland (a b : BitVec 5) (s : State) : Out := preqStep a b s
def execPreqEndSlice (a b : BitVec 5) (s : State) : Out := preqStep a b s

end Sys2Proof.Machine
end

