-- ==== Sys2Proof/Machine/Troupe.lean ====
section
/-!
DEFINITION. The curtain and Troupe control (R191, R282, R290 to R294), and the end of outstanding operations whose destination is
gone.
-/

namespace Sys2Proof.Machine

/-- Settles the contexts that own packets. -/
def Mach.settleOwners (m : Mach) (ps : List TxPkt) : Mach :=
  ps.foldl (fun m p => match p.owner with
    | .ctx c _ _ _ => m.settle c
    | _ => m) m

/-- The fault of an abandoned operation at its issuer: of the instruction that waits, unless its reply has come, or of its queue's join
(R282, R293, R304). -/
def Mach.failOp (m : Mach) (code : Nat) (p : TxPkt) : Mach :=
  match p.owner with
  | .ctx c word va (some n) =>
    if (m.ctx c).status == .running then
      m.updCtx c fun x => { x with engFaults := x.engFaults ++
        [⟨n.1, n.2, 3, { code := code, detail := p.dst % 64 + p.cls % 8 * 64, faddr := va }, word, 0⟩] }
    else m
  | .ctx _ _ _ none =>
    m.updTroupe fun t => { t with reqs := t.reqs.map fun r =>
      if r.dst = p.dst && r.cls = p.cls && r.seq = p.seq && r.data.isNone then { r with err := some (code, 0) } else r }
  | .graph n op =>
    if code = 0x0F then m.updRun n fun g => { g with absent := g.absent ||| 2 ^ p.dst }
    else match (m.slot n).run with
      | some g => m.graphFault n g (some op) { code := code, detail := p.dst % 64 + p.cls % 8 * 64 }
      | none => m
  | .part _ => m
  | .other => m

/-- Ends unacknowledged packets with FABRIC_ABSENT (0x0F) or FABRIC_AUTH (0x10), and with them the requests that were acknowledged
but not answered. -/
def Mach.abandon (m : Mach) (sel : TxPkt → Bool) (gone : FabReq → Bool) (code : Nat) : Mach :=
  let ps := m.troupe.txq.filter sel
  let m := m.updTroupe fun t => { t with
    txq := t.txq.filter (fun p => !sel p),
    reqs := t.reqs.map (fun r => if gone r && r.data.isNone && r.err.isNone then { r with err := some (code, 0) } else r) }
  let m := ps.foldl (fun m p => m.failOp code p) m
  m.settleOwners ps

/-- Everything outstanding to a member ends with FABRIC_ABSENT (R191, R293). -/
def Mach.dropMember (m : Mach) (n : Nat) : Mach := m.abandon (fun p => p.dst == n) (fun r => r.dst == n) 0x0F

/-- The vendor identifier of Troupe control (R290). -/
def vendorId : Nat := 0x0E7C

/-- A Troupe control message as a vendor-defined one: READY and DONE respond to PREPARE and GO, the others are requests (R290).
(PRESUMED, log 67) -/
def ctlOp (typ sess code : Nat) (body : List Byte) : FabOp :=
  .mgmt typ (if code = 2 || code = 4 then 0x7E else 0xFE) sess (leBytes 2 vendorId ++ leBytes 1 code ++ body)

/-- Whether a control message waits (R145, R289, R293): PREPARE, which carries a secret, for its session; another for room in its stream; and
what a member asks of the leader for the end of a curtain. -/
def Mach.ctlWaits (m : Mach) (dst code : Nat) : Bool :=
  code == 1 || (m.memberOk dst && (!m.streamRoom dst clsMgmt 1 || (decide (5 ≤ code) && m.curtained)))

/-- A Troupe control message of type 2, in its stream or, to a node that is no member, in an unsecured packet (R289, R290). -/
def Mach.ctl (m : Mach) (dst code : Nat) (body : List Byte) : Mach :=
  let o := ctlOp 2 0 code body
  if m.ctlWaits dst code then m.updTroupe fun t => { t with prep := t.prep ++ [(dst, code, body)] }
  else if m.memberOk dst then m.send dst clsMgmt none o .other
  else m.updTroupe fun t => { t with out := t.out ++ [t.plain dst o] }

/-- The body of PREPARE (R290). -/
def prepareBody (gen : Nat) (secret : List Byte) (ms : List (Nat × BitVec 64 × Bool)) : List Byte :=
  leBytes 4 gen ++ secret ++ ms.flatMap fun e => leBytes 1 e.1 ++ leBytes 8 e.2.1.toNat ++ leBytes 1 e.2.2.toNat

/-- Whether the operations of the old generation have been acknowledged: packets of every class, management's too, and requests
without their replies (R293). (DEDUCED, log 63) -/
def Mach.drainedFabric (m : Mach) : Bool :=
  m.troupe.txq.isEmpty && m.troupe.reqs.all fun r => r.data.isSome || r.err.isSome

/-- Whether a packet carries GO. -/
def TxPkt.isGo (p : TxPkt) : Bool := match p.pkt.op with
  | .mgmt 2 0xFE _ (_ :: _ :: c :: _) => c == 3
  | _ => false

/-- The switch of R293 step 4 at this chip. Join alone sets CHIPID and HOST (R190). The leader keeps its GOs until they are answered
(R281); a PREPARE or READY that is not acknowledged has been answered already. (DEDUCED, log 63) -/
def Mach.switch (m : Mach) (k : Curtain) : Mach :=
  let t := m.troupe
  let entry := fun (n : Nat) (e : Member) =>
    let e := { e with gen := k.gen, tx := List.replicate 6 0, rx := List.replicate 6 0 }
    if e.state = 4 then e else match k.members.find? fun x => x.1 == n with
      | some x => if e.state = 1 then { e with state := 2, chipid := x.2.1, host := x.2.2 } else { e with state := 2 }
      | none => { e with state := 0 }
  let t' := { t with member := t.member.zipIdx.map (fun e => entry e.2 e.1), gen := k.gen, secret := k.secret, past := (t.gen, t.secret),
                     ackCtr := 0, txq := t.txq.filter TxPkt.isGo, acked := [], ackDue := [], rekey := false,
                     curtain := if t.leader = t.node then some { k with stalled := false, done := [t.node] } else none }
  ({ m with troupe := t' } : Mach).iodNote .curtains 1

/-- GO is due at the leader once every member of the new membership has sent READY: it goes to all, once each stream has room for it, and
the leader switches too. -/
def Mach.goIfReady (m : Mach) : Mach :=
  match m.troupe.curtain with
  | some k =>
    if m.troupe.leader = m.troupe.node && k.stalled && k.members.all (fun e => k.got.contains e.1) &&
        k.members.all (fun e => e.1 == m.troupe.node || !m.ctlWaits e.1 3) then
      let m := k.members.foldl (fun m e => if e.1 = m.troupe.node then m else m.ctl e.1 3 (leBytes 4 k.gen)) m
      m.switch k
    else m
  | none => m

/-- READY is sent once the old generation has drained; the leader counts its own. -/
def Mach.readyIfDrained (m : Mach) : Mach :=
  match m.troupe.curtain with
  | some k =>
    if k.stalled && !k.sent && m.drainedFabric then
      if m.troupe.leader = m.troupe.node then
        (m.updTroupe fun t => { t with curtain := some { k with sent := true, got := t.node :: k.got } }).goIfReady
      else
        let m := m.updTroupe fun t => { t with curtain := some { k with sent := true } }
        m.ctl m.troupe.leader 2 (leBytes 4 k.gen)
    else m
  | none => m

/-- The stall of R293 step 2: entries join or leave, what is outstanding to members left out ends. -/
def Mach.stall (m : Mach) (k : Curtain) : Mach :=
  let inNew := fun (n : Nat) => k.members.any fun e => e.1 == n
  let entry := fun (e : Member × Nat) =>
    if inNew e.2 then (if e.1.state = 0 then { e.1 with state := 1 } else e.1)
    else if e.1.state = 2 || e.1.state = 1 then { e.1 with state := 3 } else e.1
  let m := m.updTroupe fun t => { t with curtain := some k, member := t.member.zipIdx.map entry }
  (m.abandon (fun p => !inNew p.dst) (fun r => !inNew r.dst) 0x0F).readyIfDrained

/-- The leader starts a curtain with a membership (R292, R293 step 1); a PREPARE of an earlier one that still waits is superseded. -/
def Mach.startCurtain (m : Mach) (gen : Nat) (ms : List (Nat × BitVec 64 × Bool)) : Mach :=
  let secret := (List.range 64).map fun i => nthD 0 (Config.random64 m.free) i
  let m := { m with free := m.free + 1, troupe := { m.troupe with prep := m.troupe.prep.filter fun p => p.2.1 != 1 } }
  let m := ms.foldl (fun m e => if e.1 = m.troupe.node then m else m.ctl e.1 1 (prepareBody gen secret ms)) m
  m.stall ⟨gen, secret, ms, true, false, [], [], m.cycle⟩

/-- CHIPID of a node from its encoded public key (R286). -/
def chipidOf (key : List Byte) : BitVec 64 := BitVec.ofNat 64 (leVal ((Config.shake256 8 key).take 8))

/-- CHIPID of this chip. -/
def ownChipid : BitVec 64 := chipidOf Config.devicePublicKey

/-- The present membership. The leader is of it from reset: its own entry becomes member at its first switch, with its own CHIPID
(R286, R291). (DESIGN CHOICE, log 106) -/
def Troupe.current (t : Troupe) : List (Nat × BitVec 64 × Bool) :=
  (t.member.zipIdx.filter fun e => e.1.state == 2 || e.2 == t.node).map fun e =>
    (e.2, if e.1.state == 2 then e.1.chipid else ownChipid, e.1.host)

/-- Whether the leader may start a curtain now: it runs none. -/
def Troupe.free (t : Troupe) : Bool := t.leader == t.node && match t.curtain with
  | some k => !k.stalled
  | none => true

/-- PREPARE received from the leader. (DEDUCED, log 63) -/
def Mach.prepare (m : Mach) (p : PrepareMsg) : Mach :=
  if p.gen ≤ m.troupe.gen || p.leader = m.troupe.node then m else
  (m.updTroupe fun t => { t with leader := p.leader }).stall
    ⟨p.gen, (List.range 64).map fun i => nthD 0 p.secret i, p.members, true, false, [], [], m.cycle⟩

/-- An agent that answers nothing, or only as the failure responder, takes no part in a curtain (R459). -/
def execPrepare (p : PrepareMsg) (s : State) : Out := .next (if s.plat.stage = 7 then { s with m := s.m.prepare p } else s)

/-- READY received by the leader. (DEDUCED, log 63) -/
def Mach.readyFrom (m : Mach) (n gen : Nat) : Mach :=
  match m.troupe.curtain with
  | some k =>
    if m.troupe.leader = m.troupe.node && k.stalled && k.gen = gen && k.members.any (fun e => e.1 == n) then
      (m.updTroupe fun t => { t with curtain := some { k with got := n :: k.got.filter (· != n) } }).goIfReady
    else m
  | none => m

def execReady (n gen : Nat) (s : State) : Out := onMach s fun m => m.readyFrom n gen

/-- GO received by a member that has sent READY. -/
def Mach.go (m : Mach) (gen : Nat) : Mach :=
  match m.troupe.curtain with
  | some k => if k.stalled && k.sent && k.gen = gen && m.troupe.leader != m.troupe.node then
      let m := m.switch k
      m.ctl m.troupe.leader 4 (leBytes 4 gen)
    else m
  | none => m

def execGo (gen : Nat) (s : State) : Out := onMach s fun m => m.go gen

/-- DONE received by the leader: it answers the GO that led to its generation, and the curtain is over with the last one. -/
def Mach.done (m : Mach) (n gen : Nat) : Mach :=
  let m := m.updTroupe fun t => { t with txq := t.txq.filter fun p => !(p.isGo && p.dst == n && bitsOf p.pkt.hdr.toNat 31 24 != gen % 256) }
  match m.troupe.curtain with
  | some k =>
    if m.troupe.leader = m.troupe.node && !k.stalled && k.gen = gen && k.members.any (fun e => e.1 == n) then
      let k' := { k with done := n :: k.done.filter (· != n) }
      m.updTroupe fun t => { t with curtain := if k.members.all (fun e => k'.done.contains e.1) then none else some k' }
    else m
  | none => m

def execDone (n gen : Nat) (s : State) : Out := onMach s fun m => m.done n gen

/-- LEAVE: a curtain without the member. -/
def Mach.leave (m : Mach) (n : Nat) : Mach :=
  let t := m.troupe
  if t.free && (t.mem n).state = 2 && n != t.node then
    m.startCurtain (t.gen + 1) (t.current.filter fun e => e.1 != n)
  else m

def execLeave (n : Nat) (s : State) : Out := onMach s fun m => m.leave n

/-- LEAVE is sent by a member that asks to leave (R290). -/
def Mach.askLeave (m : Mach) : Mach :=
  let t := m.troupe
  if t.leader = t.node || !m.memberOk t.node then m else m.ctl t.leader 5 (leBytes 1 t.node)

/-- A node joins at the leader once its chain and measurements have passed the acceptance policy (R283, R291 steps 2 to 4): if its entry is
absent, through a curtain whose membership includes it; else the join fails and no table changes. (DESIGN CHOICE, log 80) -/
def Mach.join (m : Mach) (n : Nat) (key chain meas : List Byte) (host : Bool) : Mach :=
  let t := m.troupe
  if t.free && decide (n < 64) && (t.mem n).state = 0 && Config.admits chain meas key host then
    m.startCurtain (t.gen + 1) (t.current ++ [(n, chipidOf key, host)])
  else m

/-- Marks a member failed; what is outstanding to it ends (R191, R281). -/
def Mach.markFailed (m : Mach) (n : Nat) : Mach :=
  ((m.updTroupe fun t => t.updMem n fun e => { e with state := 4 }).dropMember n).readyIfDrained

/-- FAIL_REPORT: the leader marks the member failed and runs a curtain without it. -/
def Mach.failReport (m : Mach) (failed : Nat) : Mach :=
  let t := m.troupe
  if t.free && (t.mem failed).state = 2 && failed != t.node then
    let m := m.markFailed failed
    m.startCurtain (t.gen + 1) m.troupe.current
  else m

def execFailReport (_n failed : Nat) (s : State) : Out := onMach s fun m => m.failReport failed

/-- REKEY_REQUEST: a curtain without a membership change (R191, R282). -/
def Mach.rekeyNow (m : Mach) : Mach :=
  let t := m.troupe
  if t.free then m.startCurtain (t.gen + 1) t.current else m

def execRekeyRequest (n : Nat) (s : State) : Out :=
  onMach s fun m => if (m.troupe.mem n).state = 2 then m.rekeyNow else m

/-- READY_TIMEOUT: 1 ms (1,200,000 clk) without READY marks a member failed, and the leader restarts with the next generation and
without it. -/
def Mach.readyTimeout (m : Mach) (n : Nat) : Mach :=
  match m.troupe.curtain with
  | some k =>
    if m.troupe.leader = m.troupe.node && k.stalled && n != m.troupe.node && k.members.any (fun e => e.1 == n) && !k.got.contains n &&
        decide (k.since + 1200000 ≤ m.cycle) then
      (m.markFailed n).startCurtain (k.gen + 1) (k.members.filter fun e => e.1 != n)
    else m
  | none => m

def execReadyTimeout (n : Nat) (s : State) : Out := onMach s fun m => m.readyTimeout n

/-- The IOD asks the leader for a curtain; a leader starts it itself (R191, R282). -/
def Mach.askRekey (m : Mach) : Mach :=
  if m.troupe.leader = m.troupe.node then m.rekeyNow
  else if m.troupe.rekey then m
  else (m.updTroupe fun t => { t with rekey := true }).ctl m.troupe.leader 7 []

/-- SEQUENCE_EXHAUSTED: a stream's counter to member n, or the acknowledgement counter, has reached 2^47 (R191, R280). -/
def Mach.exhausted (m : Mach) (n : Nat) : Mach :=
  if (m.troupe.mem n).tx.any (fun s => decide (2 ^ 47 ≤ s)) || decide (2 ^ 47 ≤ m.troupe.ackCtr) then m.askRekey else m

def execSequenceExhausted (n : Nat) (s : State) : Out := onMach s fun m => m.exhausted n

/-- A path has failed (R281, R306): the destination is marked failed, Ringmaster gets a partition fault, the leader a report. The fault's code
0x0F, its detail, the member's number, and partition 0 for a packet of none are the model's. (DESIGN CHOICE, log 107) -/
def Mach.pathFailed (m : Mach) (n q : Nat) : Mach :=
  let m := { m.markFailed n with pfaults := m.pfaults ++ [PFault.mk q 0x0F n] }
  if m.troupe.leader = m.troupe.node then (if m.troupe.free then m.startCurtain (m.troupe.gen + 1) m.troupe.current else m)
  else m.ctl m.troupe.leader 6 (leBytes 1 n)

end Sys2Proof.Machine
end

