-- ==== Sys2Proof/Machine/Packets.lean ====
section
/-!
DEFINITION. Sub-links and flits (R166, R274, R275), the acceptance of packets (R279), acknowledgements, rejects and retransmission
(R280 to R282).
-/

namespace Sys2Proof

/-- Fields of a packet header (R276). -/
def Packet.ver (p : Packet) : Nat := Machine.bitsOf p.hdr.toNat 3 0
def Packet.cls (p : Packet) : Nat := Machine.bitsOf p.hdr.toNat 6 4
def Packet.src (p : Packet) : Nat := Machine.bitsOf p.hdr.toNat 13 8
def Packet.dst (p : Packet) : Nat := Machine.bitsOf p.hdr.toNat 21 16
def Packet.uns (p : Packet) : Bool := p.hdr.getLsbD 14
def Packet.genlo (p : Packet) : Nat := Machine.bitsOf p.hdr.toNat 31 24
def Packet.seq (p : Packet) : Nat := Machine.bitsOf p.hdr.toNat 79 32
def Packet.len (p : Packet) : Nat := Machine.bitsOf p.hdr.toNat 92 80

/-- A nonzero reserved bit, or a reserved code of the header. (DEDUCED, log 56) -/
def Packet.bad (p : Packet) : Bool :=
  let w := p.hdr.toNat
  p.hdr.getLsbD 15 || Machine.bitsOf w 23 22 != 0 || Machine.bitsOf w 127 93 != 0 || p.ver != 1 || p.cls == 6 || 4096 < p.len || (p.uns && p.cls != 4)

end Sys2Proof

namespace Sys2Proof.Machine

/-! ### Sub-links -/

def Mach.updLink (m : Mach) (l : Nat) (f : Sublink → Sublink) : Mach :=
  { m with links := m.links.map fun k => if k.id = l then f k else k }

def Mach.link (m : Mach) (l : Nat) : Option Sublink := m.links.find? fun k => k.id == l

/-- A sub-link goes down with what its replay buffer held: the packets that were cut by it are sent again by R281. -/
def Mach.linkDown (m : Mach) (l : Nat) : Mach :=
  m.updLink l fun k => if k.up then { k with up := false, replay := [], discard := false, request := none } else k

def execSublinkLosesTraining (l : Nat) (s : State) : Out := onMach s fun m => m.linkDown l

/-- How far an LSEQ lies at or after another, modulo 4,096 (R275). -/
def lseqAfter (a b : BitVec 12) : Nat := (a - b).toNat

/-- REPLAY_REQUEST: the sender resends its flits from the named LSEQ, in order; a flit replayed 16 times takes the sub-link down. -/
def Mach.replayFrom (m : Mach) (l : Nat) (lseq : BitVec 12) : Mach :=
  match m.link l with
  | none => m
  | some k =>
    if !k.up then m else
    let due := fun (f : BitVec 12 × BitVec 2048 × Nat) => decide (lseqAfter f.1 lseq < 2048)
    let again := k.replay.map fun f => if due f then (f.1, f.2.1, f.2.2 + 1) else f
    let flits := (k.replay.filter due).map fun f => f.2.1
    let m := (m.updLink l fun k => { k with replay := again, out := k.out ++ flits }).iodNote .retransmits flits.length
    if again.any (fun f => decide (16 ≤ f.2.2)) then m.linkDown l else m

def execReplayRequest (l : Nat) (lseq : BitVec 12) (s : State) : Out := onMach s fun m => m.replayFrom l lseq

/-- Whether a flit counts as having a CRC error: a wrong CRC, a nonzero reserved bit, a reserved type. -/
def flitBad (w : BitVec 2048) : Bool :=
  let v := w.toNat
  (crc64 (leBytes 248 v)).toNat != bitsOf v 2047 1984 || bitsOf v 1951 1949 != 0 || bitsOf v 1983 1960 != 0 || 2 < bitsOf v 15 12

/-- The acknowledgement and the pauses a good flit carries (R166, R275). (DEDUCED, log 55) -/
def Sublink.heed (k : Sublink) (v : Nat) : Sublink :=
  let ack := BitVec.ofNat 12 (bitsOf v 1947 1936)
  let k := if bitOf v 1948 then { k with replay := k.replay.filter fun f => !decide (lseqAfter ack f.1 < 2048) } else k
  { k with pauseRx := BitVec.ofNat 8 (bitsOf v 1959 1952) }

/-- FLIT_RECEIVE: what is discarded first is asked for again (R275). (DEDUCED, log 55) -/
def Mach.flitIn (m : Mach) (l : Nat) (w : BitVec 2048) : Mach :=
  match m.link l with
  | none => m
  | some k =>
    let v := w.toNat
    let drop := if k.discard then m else
      let pause := m.pauseOut l
      m.updLink l fun k => { k.tell pause 2 k.rxl.toNat with discard := true, request := some k.rxl }
    if !k.up then m
    else if flitBad w then drop
    else
      let next := bitsOf v 15 12 = 1 && bitsOf v 11 0 = k.rxl.toNat
      if k.discard && !next then m
      else
        let new := (bitList (bitsOf v 1959 1952) 8).filter fun c => !k.pauseRx.getLsbD c
        let m := (m.updLink l fun k => k.heed v).iodNote .pauseHeard new.length
        match bitsOf v 15 12 with
        | 1 => if next then m.updLink l fun k =>
            { k with rxl := k.rxl + 1, discard := false, request := none, heard := true, data := BitVec.ofNat 1920 (bitsOf v 1935 16) }
          else drop
        | 2 => m.replayFrom l (BitVec.ofNat 12 (bitsOf v 27 16))
        | _ => m

def execFlitReceive (l : Nat) (w : BitVec 2048) (s : State) : Out := onMach s fun m => m.flitIn l w

/-! ### Acceptance (R279) -/

/-- A 32-bit count that saturates (R190). -/
def satInc (v : BitVec 32) : BitVec 32 := if v = BitVec.allOnes 32 then v else v + 1

/-- A packet dropped as an authentication failure: counted by the IOD, and by the member's entry unless it is absent. -/
def Mach.authFail (m : Mach) (src : Nat) : Mach :=
  let m := m.iodNote .authFail 1
  if (m.troupe.mem src).state = 0 then m else m.updTroupe fun t => t.updMem src fun e => { e with authf := satInc e.authf }

/-- A packet of an old generation. -/
def Mach.oldGen (m : Mach) (src : Nat) : Mach :=
  (m.iodNote .oldGen 1).updTroupe fun t => t.updMem src fun e => { e with oldgen := satInc e.oldgen }

/-- What steps 1 and 2 do with a packet they drop; none where it passes. (DEDUCED, log 56) -/
def Mach.screen (m : Mach) (p : Packet) : Option Mach :=
  if p.bad then some (m.authFail p.src)
  else if p.uns then none
  else
    let e := m.troupe.mem p.src
    let old := p.genlo = (e.gen + 255) % 256
    if e.state = 0 then some (if old then m.oldGen p.src else m.authFail p.src)
    else if p.genlo = e.gen % 256 then none
    else if old then some (m.oldGen p.src)
    else if p.genlo = (e.gen + 1) % 256 then some m
    else some (m.authFail p.src)

/-- An acknowledgement is due to a member for a class. (DEDUCED, log 48) -/
def Mach.owesAck (m : Mach) (src cls : Nat) : Mach :=
  if m.troupe.ackDue.contains (src, cls) then m else m.updTroupe fun t => { t with ackDue := t.ackDue ++ [(src, cls)] }

/-- Sends a CLS 7 packet with the next number of its own counter (R280). -/
def Mach.sendAck (m : Mach) (dst cls kind seq : Nat) : Mach :=
  let t := m.troupe
  let h := hdrOf 7 t.node dst t.gen t.ackCtr 16 none false
  let o := FabOp.ack cls kind seq true
  let p : Packet := ⟨h, o, t.tagOf h o, 0⟩
  let m := m.updTroupe fun t => { t with ackCtr := t.ackCtr + 1, out := t.out ++ [p] }
  if 2 ^ 47 ≤ m.troupe.ackCtr then m.askRekey else m

/-! ### CLS 7 packets (R280 to R282) -/

/-- Whether a kept packet is of the generation in force with its destination. -/
def Troupe.present (t : Troupe) (p : TxPkt) : Bool := p.pkt.genlo == (t.mem p.dst).gen % 256

/-- An acknowledgement: the packets of a stream up to S are done. -/
def Mach.ackIn (m : Mach) (src cls upto : Nat) : Mach :=
  let t := m.troupe
  let held := ((t.acked.find? fun a => a.1 == src && a.2.1 == cls).map fun a => a.2.2).getD 0
  let hit := fun (p : TxPkt) => p.dst == src && p.cls == cls && decide (p.seq ≤ upto) && t.present p
  let done := t.txq.filter hit
  let m := m.updTroupe fun t => { t with
    acked := (src, cls, max held upto) :: t.acked.filter (fun a => !(a.1 == src && a.2.1 == cls)),
    txq := t.txq.filter fun p => !hit p }
  (m.settleOwners done).readyIfDrained

/-- A note on a kept packet. -/
def Mach.notePkt (m : Mach) (p : TxPkt) (f : TxPkt → TxPkt) : Mach :=
  m.updTroupe fun t => { t with txq := t.txq.map fun x => if x.dst = p.dst && x.cls = p.cls && x.pkt.hdr = p.pkt.hdr then f x else x }

/-- A kept packet is sent again, on any sub-link of its partition (R281); f notes it. One that no sub-link carries is lost; one that only a
pause holds back is noted by g and waits. -/
def Mach.sendAgain (m : Mach) (p : TxPkt) (f g : TxPkt → TxPkt) : Mach :=
  let noted := fun (m : Mach) => m.notePkt p fun x => { f x with last := m.cycle }
  match m.emit p.part p.pkt with
  | some m => noted m
  | none => if m.links.any fun k => k.up && m.serves p.part k.id then m.notePkt p g else noted m

/-- A reject: the packet is sent again at once, or as soon as a pause ends; on the fourth, its stream is abandoned. -/
def Mach.rejectIn (m : Mach) (src cls seq : Nat) : Mach :=
  match m.troupe.txq.find? fun p => p.dst == src && p.cls == cls && p.seq == seq && m.troupe.present p with
  | none => m
  | some p =>
    if 4 ≤ p.rejects + 1 then
      let gone := fun (r : FabReq) => r.dst == src && r.cls == cls && decide (seq ≤ r.seq)
      (((m.abandon (fun p => p.dst == src && p.cls == cls && decide (seq ≤ p.seq) && m.troupe.present p) gone 0x10).askRekey)).readyIfDrained
    else m.sendAgain p (fun x => { x with rejects := x.rejects + 1 }) fun x => { x with rejects := x.rejects + 1, sent := false }

/-- A CLS 7 packet that has passed steps 1 and 2: its tag is checked before it acts. -/
def Mach.cls7 (m : Mach) (p : Packet) : Mach :=
  match p.op with
  | .ack cls kind seq zero =>
    if p.tag != m.troupe.tagOf p.hdr p.op || 5 < cls || 1 < kind || !zero || p.len != 16 then m.authFail p.src
    else if kind = 0 then m.ackIn p.src cls seq
    else m.rejectIn p.src cls seq
  | _ => m.authFail p.src

/-- An arriving packet with the kind that the event names. -/
def Mach.ackPacket (m : Mach) (p : Packet) (kind : Nat) : Mach :=
  match p.op with
  | .ack _ k _ _ => if p.dst = m.troupe.node && p.cls = 7 && k = kind then (match m.screen p with | some m' => m' | none => m.cls7 p) else m
  | _ => m

def execAckReceive (p : Packet) (s : State) : Out := onMach s fun m => m.ackPacket p 0
def execRejectReceive (p : Packet) (s : State) : Out := onMach s fun m => m.ackPacket p 1

/-! ### Stream packets -/

/-- An unsecured packet goes to the management agent, which accepts SPDM, secured SPDM and Troupe control (R289). -/
def Mach.unsecured (m : Mach) (p : Packet) : Mach :=
  match p.op with
  | .mgmt typ code _ body => if typ ≤ 2 then m.updTroupe fun t => { t with inbox := t.inbox ++ [(p.src, typ, code, body)] } else m
  | _ => m

/-- What an accepted packet does: a launch message is a host launch (R74), the rest is served at its home. None: it waits. -/
def Mach.applyPacket (m : Mach) (p : Packet) : Option Mach :=
  match p.op with
  | .launch g =>
    if m.launchWaits g then none else some (m.hostLaunch g)
  | o => m.serve p.src p.cls p.seq p.via o

/-- PACKET_RECEIVE: the steps of R279 in order, for a packet whose DST is this node (R284). -/
def Mach.packetIn (m : Mach) (p : Packet) : Mach :=
  if p.dst != m.troupe.node then m else
  match m.screen p with
  | some m' => m'
  | none =>
    if p.uns then m.unsecured p
    else if p.cls = 7 then m.cls7 p
    else
      let rx := nthD 0 (m.troupe.mem p.src).rx p.cls
      if p.seq < rx then (m.iodNote .dupDrop 1).owesAck p.src p.cls
      else if rx < p.seq then m.authFail p.src
      else if p.tag != m.troupe.tagOf p.hdr p.op then (m.authFail p.src).sendAck p.src p.cls 1 p.seq
      else
        match m.applyPacket p with
        | none => m.chainWait p.via p.op
        | some m =>
          let m := m.updTroupe fun t => t.updMem p.src fun e => { e with rx := mapAt e.rx p.cls (· + 1) }
          (m.owesAck p.src p.cls).readyIfDrained

def execPacketReceive (p : Packet) (s : State) : Out := onMach s fun m => m.packetIn p

/-- The first sequence number of a stream that is not completed here: accepted operations whose error response is not yet
acknowledged, and combining additions still in chains, hold it back (R280). -/
def Mach.firstOpen (m : Mach) (src cls : Nat) : Nat :=
  let rx := nthD 0 (m.troupe.mem src).rx cls
  m.troupe.txq.foldl (fun n p => match p.pkt.op with
    | .errReply c q _ _ => if p.dst = src && c = cls then min n q else n
    | _ => n) rx

/-- Whether a combining operation in a chain belongs to a stream's operations, or to a delta that some member's write has formed: they are
performed with it (R242, R267, R280). (DEDUCED, log 50) -/
def ChainOp.holdsAck (o : ChainOp) (dst cls : Nat) : Bool :=
  match o with
  | .add _ _ _ _ _ _ _ => cls == clsColl
  | .vamo _ _ _ _ _ _ _ (.node src _) => src == dst && cls == clsReq
  | .vamo _ _ _ _ _ _ _ (.elem _ _ _) => false
  | .delta d _ => decide (1024 ≤ d.c)

/-- ACK_SEND: the highest sequence number up to which a stream's operations are completed. -/
def Mach.ackOut (m : Mach) (dst cls : Nat) : Mach :=
  if !m.troupe.ackDue.contains (dst, cls) then m else
  if m.chains.any fun ch => ch.ops.any fun o => o.holdsAck dst cls then m else
  let n := m.firstOpen dst cls
  if n = 0 then m else
  (m.updTroupe fun t => { t with ackDue := t.ackDue.filter (· != (dst, cls)) }).sendAck dst cls 0 (n - 1)

def execAckSend (dst cls : Nat) (s : State) : Out := onMach s fun m => m.ackOut dst cls

/-- RETRANSMIT_TIMEOUT: 2 µs (2,400 clk) after its last send a packet goes out again, unchanged; after 8 times the path has
failed (R281). -/
def Mach.retransmit (m : Mach) (dst cls seq : Nat) : Mach :=
  let due := fun (p : TxPkt) => p.dst == dst && p.cls == cls && p.seq == seq && p.sent && decide (p.last + 2400 ≤ m.cycle)
  match m.troupe.txq.find? due with
  | none => m
  | some p => if 8 ≤ p.sends then m.pathFailed dst (p.part.getD 0) else m.sendAgain p (fun x => { x with sends := x.sends + 1 }) id

def execRetransmitTimeout (dst cls seq : Nat) (s : State) : Out := onMach s fun m => m.retransmit dst cls seq

end Sys2Proof.Machine
end

