-- ==== Sys2Proof/Machine/Spdm.lean ====
section
/-!
DEFINITION. The management agent's SPDM requests and sessions (R286 to R289, R459). Messages are kept as what they are and the data
they carry; their byte layout, their error codes and their order are those of SPDM 1.3, which the manual names and does not repeat
(PRESUMED).
-/

namespace Sys2Proof.Machine

open Sys2Proof.Config

/-- Whether the agent answers at all: after stage 7, or as the failure responder (R459). -/
def Plat.answers (p : Plat) : Bool := !p.silent && (p.stage == 7 || p.responder)

/-- Sends a management message. -/
def Plat.say (p : Plat) (node : Nat) (what : String) (body : List Byte) : Plat := { p with out := p.out ++ [⟨node, what, body, 0⟩] }

/-- The connection of a requester, and its update. -/
def Plat.conn (p : Plat) (n : Nat) : Conn := (p.conns.find? fun c => c.node == n).getD ⟨n, 0, [], [], []⟩
def Plat.updConn (p : Plat) (n : Nat) (f : Conn → Conn) : Plat :=
  { p with conns := f (p.conn n) :: p.conns.filter fun c => c.node != n }

/-- ERROR with an error code. -/
def Plat.err (p : Plat) (n code : Nat) : Plat := p.say n "ERROR" (leBytes 1 code)

/-- Error codes of SPDM 1.3 (PRESUMED). -/
def errInvalid : Nat := 0x01
def errSession : Nat := 0x02
def errUnexpected : Nat := 0x04
def errUnsupported : Nat := 0x07
def errLarge : Nat := 0x0F
def errVersion : Nat := 0x41

/-- The bytes of a message that one packet takes: 4,096 less the binding header and the message's code (R276, R289). -/
def msgMax : Nat := 4091

/-- A response; one longer than a packet holds is fetched by CHUNK_GET (R289). -/
def Plat.respond (p : Plat) (n : Nat) (what : String) (body : List Byte) : Plat :=
  if body.length ≤ msgMax then p.say n what body
  else (p.updConn n fun c => { c with outb := body }).err n errLarge

/-- A request the agent answers, or ignores while it answers nothing. -/
def onAgent (s : State) (f : Plat → Plat) : Out := .next (if s.plat.answers then { s with plat := f s.plat } else s)

/-- A request that the failure responder does not support (R459). -/
def onFull (n : Nat) (s : State) (f : Plat → Plat) : Out :=
  onAgent s fun p => if p.responder then p.err n errUnsupported else f p

/-- GET_VERSION: version 1.3 and no other. -/
def execGetVersion (n : Nat) (s : State) : Out :=
  onAgent s fun p => (p.updConn n fun c => { c with stage := 1 }).respond n "VERSION" [0x13]

/-- The capability flags the agent advertises: CERT, CHAL, MEAS with signature, ENCRYPT, MAC, MUT_AUTH, KEY_EX, HBEAT, KEY_UPD,
CHUNK; the failure responder's are CERT and MEAS. (PRESUMED, log 67) -/
def capabilities (responder : Bool) : Nat := if responder then 0x12 else 0x263D6

/-- GET_CAPABILITIES. -/
def execGetCapabilities (n : Nat) (s : State) : Out :=
  onAgent s fun p =>
    if (p.conn n).stage = 0 then p.err n errUnexpected
    else (p.updConn n fun c => { c with stage := 2 }).respond n "CAPABILITIES" (leBytes 4 (capabilities p.responder))

/-- Whether an offer has the algorithms of R288; a verifier that opens no session needs neither key exchange nor encryption.
(PRESUMED, log 67) -/
def offerOk (o : AlgOffer) (responder : Bool) : Bool := o.ed448 && o.sha3512 && (responder || (o.p521 && o.aes256gcm))

/-- NEGOTIATE_ALGORITHMS: nothing below version 1.3 is accepted. -/
def execNegotiateAlgorithms (n : Nat) (o : AlgOffer) (s : State) : Out :=
  onAgent s fun p =>
    if (p.conn n).stage != 2 then p.err n errUnexpected
    else if !o.version13 then p.err n errVersion
    else if !offerOk o p.responder then p.err n errInvalid
    else (p.updConn n fun c => { c with stage := 3 }).respond n "ALGORITHMS" []

/-- Whether the negotiation with a requester is done. -/
def Plat.negotiated (p : Plat) (n : Nat) : Bool := (p.conn n).stage == 3

/-- GET_DIGESTS: slot 0 only. -/
def execGetDigests (n : Nat) (s : State) : Out :=
  onAgent s fun p => if p.negotiated n then p.respond n "DIGESTS" (sha3512 certChain) else p.err n errUnexpected

/-- GET_CERTIFICATE: slots 1 to 7 are not provided (R286). -/
def execGetCertificate (n slot : Nat) (s : State) : Out :=
  onAgent s fun p =>
    if !p.negotiated n then p.err n errUnexpected
    else if slot != 0 then p.err n errInvalid
    else p.respond n "CERTIFICATE" certChain

/-- Block 7: the last stage completed and the stage that failed (R287). -/
def Plat.block7 (p : Plat) : List Byte := leBytes 1 p.stage ++ leBytes 1 p.failed ++ List.replicate 6 0

/-- Measurement block i, where it has been measured (R287). (DEDUCED, log 72) -/
def Plat.block (p : Plat) (i : Nat) : Option (List Byte) :=
  if i = 7 then some p.block7 else if i = 0 then none else (p.meas[i - 1]?).join

/-- The blocks that an index asks for, each behind its number. -/
def Plat.blocks (p : Plat) (index : Nat) : List (List Byte) :=
  (if index = 0xFF then List.range 8 else [index]).filterMap fun i => (p.block i).map fun b => leBytes 1 i ++ b

/-- CHALLENGE: the signature covers the nonce, the chain's digest and the measurements. -/
def execChallenge (n slot : Nat) (nonce : List Byte) (s : State) : Out :=
  onFull n s fun p =>
    if !p.negotiated n then p.err n errUnexpected
    else if slot != 0 then p.err n errInvalid
    else p.respond n "CHALLENGE_AUTH" (deviceSign (nonce ++ sha3512 certChain ++ (p.blocks 0xFF).flatten))

/-- GET_MEASUREMENTS (R287); the failure responder answers only with a signature. -/
def execGetMeasurements (n index : Nat) (sign : Bool) (nonce : List Byte) (s : State) : Out :=
  onAgent s fun p =>
    if p.responder && !sign then p.err n errUnsupported
    else if !p.negotiated n then p.err n errUnexpected
    else
      let bs := p.blocks index
      if bs.isEmpty then p.err n errInvalid
      else p.respond n "MEASUREMENTS" (bs.flatten ++ (if sign then deviceSign (nonce ++ bs.flatten) else []))

/-! ### Sessions -/

def Plat.session (p : Plat) (id : Nat) : Option Session := p.sessions.find? fun e => e.id == id
def Plat.updSession (p : Plat) (id : Nat) (f : Session → Session) : Plat :=
  { p with sessions := p.sessions.map fun e => if e.id == id then f e else e }
def Plat.dropSession (p : Plat) (id : Nat) : Plat := { p with sessions := p.sessions.filter fun e => e.id != id }

/-- The lowest session number not in use, from 1. -/
def Plat.freeSession (p : Plat) : Nat :=
  ((List.range (p.sessions.length + 1)).find? fun i => (p.session (i + 1)).isNone).getD p.sessions.length + 1

/-- KEY_EXCHANGE: a session begins; it is usable after FINISH. -/
def execKeyExchange (n slot : Nat) (share : List Byte) (s : State) : Out :=
  onFull n s fun p =>
    if !p.negotiated n then p.err n errUnexpected
    else if slot != 0 then p.err n errInvalid
    else
      let id := p.freeSession
      let p := { p with sessions := p.sessions ++ [Session.mk id n false s.m.cycle s.m.cycle 0 false] }
      p.respond n "KEY_EXCHANGE_RSP" (leBytes 2 id ++ deviceSign (share ++ leBytes 2 id))

/-- What an answer adds travels in a session (R289). -/
def Plat.within (p : Plat) (id : Nat) (f : Plat → Plat) : Plat :=
  let q := f p
  { q with out := p.out ++ (q.out.drop p.out.length).map fun (g : Mgmt) => { g with sess := id } }

/-- A request in an opened session of the node: the session carries a message now (R288). -/
def inSession (n id : Nat) (s : State) (f : Plat → Plat) : Out :=
  onFull n s fun p =>
    match p.session id with
    | some e => if e.node = n && e.opened then (p.updSession id fun e => { e with last := s.m.cycle }).within id f
      else p.err n errSession
    | none => p.err n errSession

/-- FINISH: mutual authentication is required; a bad proof ends the handshake (R288). -/
def execFinish (n id : Nat) (proof : Bool) (s : State) : Out :=
  onFull n s fun p =>
    match p.session id with
    | some e =>
      if e.node != n || e.opened || e.mine then p.err n errSession
      else if proof then
        (p.updSession id fun e => { e with opened := true, last := s.m.cycle, beat := s.m.cycle }).within id fun p =>
          p.respond n "FINISH_RSP" (leBytes 2 id)
      else (p.dropSession id).err n errInvalid
    | none => p.err n errSession

/-- HEARTBEAT. -/
def execHeartbeat (n id : Nat) (s : State) : Out := inSession n id s fun p => p.respond n "HEARTBEAT_ACK" (leBytes 2 id)

/-- KEY_UPDATE. -/
def execKeyUpdate (n id : Nat) (s : State) : Out :=
  inSession n id s fun p => (p.updSession id fun e => { e with keys := e.keys + 1 }).respond n "KEY_UPDATE_ACK" (leBytes 2 id)

/-- END_SESSION. -/
def execEndSession (n id : Nat) (s : State) : Out :=
  inSession n id s fun p => (p.dropSession id).respond n "END_SESSION_ACK" (leBytes 2 id)

/-- CHUNK_SEND: the parts of a long message are collected (R289). Session 0 is an unsecured exchange. -/
def Plat.chunkIn (p : Plat) (n : Nat) (part : List Byte) : Plat :=
  (p.updConn n fun c => { c with inb := c.inb ++ part }).say n "CHUNK_SEND_ACK" []

/-- The last part completes the message, which goes to the agent's inbox. -/
def execChunkSend (n id : Nat) (part : List Byte) (last : Bool) (s : State) : Out :=
  if !s.plat.answers then .next s
  else if s.plat.responder then .next { s with plat := s.plat.err n errUnsupported }
  else if id != 0 && !(s.plat.sessions.any fun e => e.id == id && e.node == n && e.opened) then
    .next { s with plat := s.plat.err n errSession }
  else
    let p := (s.plat.within id fun p => p.chunkIn n part).updSession id fun e => { e with last := s.m.cycle }
    if last then
      let msg := (p.conn n).inb
      .next { s with plat := p.updConn n fun c => { c with inb := [] },
                     m := s.m.updTroupe fun t => { t with inbox := t.inbox ++ [(n, if id = 0 then 0 else 1, 0, msg)] } }
    else .next { s with plat := p }

/-- CHUNK_GET: the next part of a response that was too long for a packet (R289). -/
def Plat.chunkOut (p : Plat) (n : Nat) : Plat :=
  let b := (p.conn n).outb
  if b.isEmpty then p.err n errUnexpected
  else (p.updConn n fun c => { c with outb := b.drop msgMax }).say n "CHUNK_RESPONSE" (b.take msgMax)

def execChunkGet (n id : Nat) (s : State) : Out :=
  if id = 0 then onFull n s fun p => p.chunkOut n else inSession n id s fun p => p.chunkOut n

/-- Any other request (R288). -/
def execUnsupportedRequest (n _code : Nat) (s : State) : Out := onAgent s fun p => p.err n errUnsupported

/-- SESSION_TIMEOUT: 2 s without a message, 2,400,000,000 clk. -/
def execSessionTimeout (id : Nat) (s : State) : Out :=
  match s.plat.session id with
  | some e => if e.last + 2400000000 ≤ s.m.cycle then .next { s with plat := s.plat.dropSession id } else .next s
  | none => .next s

/-- HEARTBEAT_PERIOD: 1 s, 1,200,000,000 clk; the agent sends HEARTBEAT. -/
def execHeartbeatPeriod (id : Nat) (s : State) : Out :=
  match s.plat.session id with
  | some e =>
    if e.opened && decide (e.beat + 1200000000 ≤ s.m.cycle) then
      let p := s.plat.updSession id fun e => { e with beat := s.m.cycle, last := s.m.cycle }
      .next { s with plat := p.within id fun p => p.say e.node "HEARTBEAT" (leBytes 2 id) }
    else .next s
  | none => .next s

/-! ### Requests of this chip's agent, and the packets that carry the messages -/

/-- The codes of SPDM 1.3 of the messages the agent sends. (PRESUMED, log 67) -/
def spdmCodes : List (String × Nat) :=
  [("DIGESTS", 0x01), ("CERTIFICATE", 0x02), ("CHALLENGE_AUTH", 0x03), ("VERSION", 0x04), ("CHUNK_SEND_ACK", 0x05), ("CHUNK_RESPONSE", 0x06),
   ("MEASUREMENTS", 0x60), ("CAPABILITIES", 0x61), ("ALGORITHMS", 0x63), ("KEY_EXCHANGE_RSP", 0x64), ("FINISH_RSP", 0x65),
   ("HEARTBEAT_ACK", 0x68), ("KEY_UPDATE_ACK", 0x69), ("END_SESSION_ACK", 0x6C), ("ERROR", 0x7F), ("THERMAL_TRIP", 0xFE)]

/-- The requests the agent makes, with their codes (R288). (PRESUMED, log 67) -/
def requestCodes : List (String × Nat) :=
  [("GET_DIGESTS", 0x81), ("GET_CERTIFICATE", 0x82), ("CHALLENGE", 0x83), ("GET_VERSION", 0x84), ("CHUNK_SEND", 0x85), ("CHUNK_GET", 0x86),
   ("GET_MEASUREMENTS", 0xE0), ("GET_CAPABILITIES", 0xE1), ("NEGOTIATE_ALGORITHMS", 0xE3), ("KEY_EXCHANGE", 0xE4), ("FINISH", 0xE5),
   ("HEARTBEAT", 0xE8), ("KEY_UPDATE", 0xE9), ("END_SESSION", 0xEC), ("VENDOR_DEFINED_REQUEST", 0xFE)]

def codeOf (what : String) : Option Nat := ((spdmCodes ++ requestCodes).find? fun e => e.1 == what).map Prod.snd

/-- The opened session with a node, 0 for none. -/
def Plat.sessionOf (p : Plat) (n : Nat) : Nat := ((p.sessions.find? fun e => e.node == n && e.opened).map Session.id).getD 0

/-- The agent's own side of a request made of node n (R288): GET_VERSION begins the connection anew, KEY_EXCHANGE a session, which FINISH
opens; KEY_UPDATE renews its keys and END_SESSION ends it. (DESIGN CHOICE, log 80) -/
def Plat.asks (p : Plat) (n : Nat) (what : String) (body : List Byte) (now : Nat) : Plat :=
  let p := p.updConn n fun c => { c with asked := if what = "GET_VERSION" then [(what, body)] else c.asked ++ [(what, body)] }
  let id := p.sessionOf n
  match what with
  | "KEY_EXCHANGE" => { p with sessions := (p.sessions.filter fun e => !(e.node == n && e.mine && !e.opened)) ++
      [Session.mk p.freeSession n false now now 0 true] }
  | "FINISH" => { p with sessions := p.sessions.map fun e => if e.node = n && e.mine && !e.opened then { e with opened := true, beat := now } else e }
  | "KEY_UPDATE" => p.updSession id fun e => { e with keys := e.keys + 1 }
  | "END_SESSION" => p.dropSession id
  | _ => p

/-- The agent sends a request of R288's list, in the session with the node where one is open. (DESIGN CHOICE, log 84) -/
def Plat.request (p : Plat) (n : Nat) (what : String) (body : List Byte) (now : Nat) : Plat :=
  if !p.answers || p.responder || body.length > msgMax || !(requestCodes.any fun e => e.1 == what) then p else
  let id := p.sessionOf n
  (((p.updSession id fun e => { e with last := now }).within id fun p => p.say n what body)).asks n what body now

/-- The requests that a leader makes of a node that joins, in their order (R291). -/
def joinAsks : List String :=
  ["GET_VERSION", "GET_CAPABILITIES", "NEGOTIATE_ALGORITHMS", "GET_DIGESTS", "GET_CERTIFICATE", "CHALLENGE", "GET_MEASUREMENTS",
   "KEY_EXCHANGE", "FINISH"]

/-- The body of the last request of a name made of a node. -/
def Plat.askedWith (p : Plat) (n : Nat) (what : String) : List Byte :=
  (((p.conn n).asked.filter fun a => a.1 == what).getLast?.map Prod.snd).getD []

/-- Steps 1 to 4 of R291 at the leader: the requests made, the chain verified to a root, its leaf's signatures over the challenge and over the
measurements of index 0xFF verified with the nonces that were sent, and the session open. (DESIGN CHOICE, log 80) -/
def Plat.attested (p : Plat) (n : Nat) (key chain meas chal sig : List Byte) (host : Bool) : Bool :=
  joinAsks.isSublist ((p.conn n).asked.map Prod.fst) && p.sessionOf n != 0 && chainVerifies chain key host &&
  ed448Verify key (p.askedWith n "CHALLENGE" ++ sha3512 chain ++ meas) chal &&
  (p.askedWith n "GET_MEASUREMENTS").take 1 == [0xFF] && ed448Verify key ((p.askedWith n "GET_MEASUREMENTS").drop 1 ++ meas) sig

/-- A management message in a packet of class 4: of its stream to a member, while it has room, else unsecured (R289). -/
def Mach.mailTo (m : Mach) (dst : Nat) (o : FabOp) : Option Mach :=
  if !m.memberOk dst then some (m.updTroupe fun t => { t with out := t.out ++ [t.plain dst o] })
  else if m.streamRoom dst clsMgmt 1 then some (m.send dst clsMgmt none o .other)
  else none

/-- A control message that has waited: PREPARE leaves in the session with its node, which carries a message so (R288, R289). -/
def State.mailCtl (s : State) (p : Nat × Nat × List Byte) : State :=
  let id := s.plat.sessionOf p.1
  if p.2.1 != 1 then { s with m := s.m.ctl p.1 p.2.1 p.2.2 } else
  match if id = 0 then none else s.m.mailTo p.1 (ctlOp 1 id 1 p.2.2) with
  | some m => { s with m := m, plat := s.plat.updSession id fun e => { e with last := s.m.cycle } }
  | none => { s with m := s.m.updTroupe fun t => { t with prep := t.prep ++ [p] } }

/-- What the agent has said to another node leaves, secured where it travels in a session; to a member not while a curtain stalls (R293). What
it says to its own node is Ringmaster's management interface. -/
def State.mailOne (s : State) (g : Mgmt) : State :=
  let keep := { s with plat := { s.plat with out := s.plat.out ++ [g] } }
  if g.node = s.m.troupe.node || (s.m.curtained && s.m.memberOk g.node) then keep else
  match (codeOf g.what).bind fun code => s.m.mailTo g.node (.mgmt (if g.sess = 0 then 0 else 1) code g.sess g.body) with
  | some m => { s with m := m }
  | none => keep

/-- What the management agent has to send leaves, a GO that waited for room too. -/
def State.mail (s : State) : State :=
  let s := { s with m := s.m.goIfReady }
  if s.m.troupe.prep.isEmpty && s.plat.out.all (fun g => g.node == s.m.troupe.node) then s else
  let t := s.m.troupe.prep.foldl State.mailCtl { s with m := s.m.updTroupe fun t => { t with prep := [] } }
  t.plat.out.foldl State.mailOne { t with plat := { t.plat with out := [] } }

/-- A join at the leader (R291): once steps 1 to 4 have passed, the curtain begins if the node's entry is absent and the policy admits it.
(DESIGN CHOICE, log 80) -/
def State.join (s : State) (n : Nat) (key chain meas chal sig : List Byte) (host : Bool) : State :=
  if s.plat.stage != 7 || n == s.m.troupe.node || !s.plat.attested n key chain meas chal sig host then s
  else { s with m := s.m.join n key chain meas host }

end Sys2Proof.Machine
end

