-- ==== Sys2Proof/Machine/System.lean ====
section
/-!
DEFINITION. Ringmaster's work on partitions: creation, teardown and table writes (R84, R174, R192, R193), budgets (R163, R164), repair
(R195, R462), slices, pre-emption and restore (R86, R87, R114, R131, R171, R199, R307, R308), and the checkpoint (R467).
-/

namespace Sys2Proof.Machine

open Sys2Proof.Config

/-! ### Partition entries -/

/-- The 1,024-bit value of a partition entry (R192). -/
def peWord (e : PartEntry) : Nat :=
  1 + e.bklim.toNat * 2 ^ 8 + e.slice.toNat * 2 ^ 16 + e.xbar.toNat * 2 ^ 64 + e.pgrp.toNat * 2 ^ 128 + e.subl.toNat * 2 ^ 192 +
    e.pairs.toNat * 2 ^ 256 + e.ptroot.toNat * 2 ^ 512 + e.titbase.toNat * 2 ^ 576 + e.recbase.toNat * 2 ^ 640 +
    e.bstbase.toNat * 2 ^ 704

/-- The value of entry q as last written (R192, R193): a written SLICE before it takes effect, and what a torn-down partition left. -/
def Mach.entryWord (m : Mach) (q : Nat) : Nat :=
  match m.part q with
  | some p => peWord { p.e with slice := p.sliceNext }
  | none => match tabFind m.gone q with
    | some e => peWord e - 1
    | none => 0

/-- A row of six 11-bit budgets (R194). -/
def budgetWord (r : List Nat) : Nat := (r.zipIdx.map fun b => b.1 % 2 ^ 11 * 2 ^ (11 * b.2)).sum

/-- The partition table as bytes: 64 entries and the four rows of die budgets (R173, R192, R194). (DESIGN CHOICE, log 83) -/
def tableBytes (m : Mach) (p : Plat) : List Byte :=
  ((List.range 64).flatMap fun q => leBytes 128 (m.entryWord q)) ++ p.budNext.flatMap fun r => leBytes 9 (budgetWord r)

/-- Whether a lane quad is one of a sub-link's (R274). -/
def Sublink.has (l : Sublink) (i : Nat) : Bool := decide (l.id ≤ i) && decide (i < l.id + l.quads)

/-- Whether SUBL names whole sub-links only, and no quad that is in none (R84, R274); one that is down is not offered to a partition that does
not hold it yet (R462). (DEDUCED, log 81) -/
def Mach.sublWhole (m : Mach) (old v : BitVec 64) : Bool :=
  (List.range 64).all fun i => match m.links.find? fun l => l.has i with
    | some l => v.getLsbD i == v.getLsbD l.id && (!v.getLsbD i || old.getLsbD i || l.up)
    | none => !v.getLsbD i

/-- Whether n bytes from physical address pa, 4 KiB-aligned, lie in partition q's memory. -/
def Mach.inPart (m : Mach) (q pa n : Nat) : Bool :=
  pa % 4096 == 0 && (List.range ((n + 4095) / 4096)).all fun i => match m.phys (pa + 4096 * i) with
    | .dram _ q' => q' == q
    | _ => false

/-- The resources of two entries are disjoint (R84). -/
def peDisjoint (a b : PartEntry) : Bool := a.pgrp &&& b.pgrp == 0 && a.pairs &&& b.pairs == 0 && a.subl &&& b.subl == 0

/-- Puts an entry at q with nothing launched. -/
def Mach.putEntry (m : Mach) (q : Nat) (e : PartEntry) : Mach := { m with parts := tabSet m.parts q ⟨e, [], 0, e.slice, 0, [], []⟩ }

/-- The limits of R84 and R193 on an entry for q. (DEDUCED, log 70) -/
def Mach.entryOk (m : Mach) (q : Nat) (e : PartEntry) : Bool :=
  let m' := m.putEntry q e
  e.pairs != 0 && e.pgrp != 0 && m.parts.all (fun p => p.1 == q || peDisjoint e p.2.e) && m.sublWhole (((m.part q).map fun p => p.e.subl).getD 0) e.subl &&
  e.xbar.getLsbD q && decide (e.bklim.toNat ≤ 24) &&
  m'.inPart q e.titbase.toNat 0x40000 && m'.inPart q e.bstbase.toNat 0x8000 && m'.inPart q e.recbase.toNat 0x80000 &&
  m'.inPart q e.ptroot.toNat 4096

/-- Zeroes n bytes from a physical address. -/
def Mach.zeroPa (m : Mach) (pa n : Nat) : Mach :=
  (m.keyRuns (n / 256 + 2) pa n).foldl (fun m r => match r.1 with
    | some k =>
      let keep := fun (u : Nat) => decide (u < k) || decide (k + r.2 ≤ u)
      { m with mem := cclear m.mem k (k + r.2), poison := m.poison.filter keep, soft := m.soft.filter (fun e => keep e.1),
               tbs := m.tbs.filter keep }
    | none => m) m

/-- Caches of every pair lose what they hold of a partition. -/
def Mach.cachesDrop (m : Mach) (q : Nat) : Mach :=
  let f := fun (p : Pair) => { p with
    tlb := p.tlb.filter (fun e => e.q != q), probe := p.probe.filter (fun e => e.2.q != q),
    titc := p.titc.filter (fun e => e.1 != q), bstc := p.bstc.filter (fun e => e.1 != q), snaps := p.snaps.filter (fun s => s.q != q),
    icache := [], icasts := p.icasts.filter (fun e => e.1 != q) }
  { m with pairs := m.pairs.map fun e => (e.1, f e.2) }

/-- Creates partition q (R174): zeroed TIT, BST and records, and the state of its NMUs. -/
def Mach.createPart (m : Mach) (q : Nat) (e : PartEntry) : Mach :=
  let m := (m.putEntry q e).cachesDrop q
  let m := ((m.zeroPa e.titbase.toNat 0x40000).zeroPa e.bstbase.toNat 0x8000).zeroPa e.recbase.toNat 0x80000
  (m.partNmus q).foldl (fun m n => { m with nmus := tabDrop m.nmus n }) { m with gone := tabDrop m.gone q }

/-- A status to Ringmaster, and measurement block 6 of the table as last written (R287). (DESIGN CHOICE, log 83) -/
def Plat.tableStatus (p : Plat) (m : Mach) (ok : Bool) : Plat :=
  let p := if ok then { p with meas := p.meas.set 5 (some (shake256 64 (tableBytes m p))) } else p
  p.say m.troupe.node "STATUS" (leBytes 1 (if ok then 0 else 1))

/-- An accepted or refused management write of the table; before stage 7 has completed there is no one to answer it (R459). -/
def tableWrite (s : State) (r : Option Mach) : Out :=
  if s.plat.stage != 7 then .next s else
  match r with
  | some m => .next { s with m := m, plat := s.plat.tableStatus m true }
  | none => .next { s with plat := s.plat.tableStatus s.m false }

/-- PARTITION_CREATION. -/
def execPartitionCreation (q : Nat) (e : PartEntry) (s : State) : Out :=
  tableWrite s (if q < 64 && (s.m.part q).isNone && s.m.entryOk q e then some (s.m.createPart q e) else none)

/-- Whether a task of the partition is resident, or pre-empted and saved. -/
def Mach.resident (m : Mach) (q : Nat) : Bool := m.ctxs.any fun e => e.2.status != .idle && e.2.task.q == q
def Mach.savedOf (m : Mach) (q : Nat) : Bool := m.saved.any fun v => v.ctx.task.q == q

/-- Whether a Carousel run of the partition has not ended. -/
def Mach.graphing (m : Mach) (q : Nat) : Bool := m.slots.any fun k => k.part == q && (k.run.isSome || !k.wait.isEmpty)

/-- Ends partition q: its V is cleared, its pending casts, launch windows and completion records go, and its graph slots are freed (R7, R187,
R192). (DEDUCED, log 70) -/
def Mach.dropPart (m : Mach) (q : Nat) : Mach :=
  let m := m.cachesDrop q
  { m with parts := tabDrop m.parts q, windows := m.windows.filter (fun w => launcherQ w.l != q),
           hostRecs := m.hostRecs.filter (fun h => h.q != q),
           slots := m.slots.map (fun k => if k.state != 0 && k.part == q then { k with state := 0, held := [] } else k),
           gone := (match m.part q with | some p => tabSet m.gone q { p.e with slice := p.sliceNext } | none => m.gone) }

/-- PARTITION_TEARDOWN: refused while a task of the partition is resident or saved, or a graph of it runs. -/
def execPartitionTeardown (q : Nat) (s : State) : Out :=
  tableWrite s (if (s.m.part q).isNone || s.m.resident q || s.m.savedOf q || s.m.graphing q then none else some (s.m.dropPart q))

/-- Whether a fabric operation of the partition is outstanding. -/
def Mach.fabricOf (m : Mach) (q : Nat) : Bool :=
  (m.troupe.txq.any fun p => p.part == some q) ||
  m.troupe.reqs.any fun r => (m.ctx r.c).status != .idle && m.qOf r.c == q && r.data.isNone && r.err.isNone

/-- A management write of an existing entry (R193): the fixed fields stay, PTROOT and SUBL change only at rest, SLICE waits for
the next slice end, and for 4,096 clk an access may still be checked against the old XBAR. -/
def Mach.rewriteEntry (m : Mach) (q : Nat) (e : PartEntry) : Option Mach :=
  match m.part q with
  | none => none
  | some p =>
    let o := p.e
    let fixed := e.bklim == o.bklim && e.pgrp == o.pgrp && e.pairs == o.pairs && e.titbase == o.titbase && e.recbase == o.recbase &&
      e.bstbase == o.bstbase
    let rest := (e.ptroot == o.ptroot && e.subl == o.subl) || !(m.resident q || m.fabricOf q)
    if fixed && rest && m.entryOk q e then
      some (m.updPart q fun p => { p with
        e := { e with slice := o.slice }, sliceNext := e.slice,
        xbarPast := if e.xbar = o.xbar then p.xbarPast
          else (o.xbar, m.cycle + 4096) :: p.xbarPast.filter fun x => decide (m.cycle < x.2) })
    else none

def execPartitionTableWrite (q : Nat) (e : PartEntry) (s : State) : Out := tableWrite s (s.m.rewriteEntry q e)

/-- RINGMASTER_TLB_INVALIDATION: every TLB of the partition (R185). -/
def Mach.tlbClear (m : Mach) (q : Nat) : Mach :=
  let f := fun (p : Pair) => { p with tlb := p.tlb.filter (fun e => e.q != q), probe := p.probe.filter (fun e => e.2.q != q) }
  { m with pairs := m.pairs.map fun e => (e.1, f e.2) }

def execRingmasterTlbInvalidation (q : Nat) (s : State) : Out := onMach s fun m => m.tlbClear q

/-! ### Budgets and repair -/

/-- The six budgets of a row (R194). -/
def budgetRow (row : BitVec 66) : List Nat := (List.range 6).map fun c => bitsOf row.toNat (11 * c + 10) (11 * c)

/-- The limits of R164 on a row of budgets. -/
def budgetOk (r : List Nat) : Bool := r.all (fun b => decide (1 ≤ b)) && decide (r.sum ≤ 1024)

/-- BUDGET_WRITE: refused with a status, or in force from the next period (R164). (DESIGN CHOICE, log 83) -/
def execBudgetWrite (die : Nat) (row : BitVec 66) (s : State) : Out :=
  let r := budgetRow row
  if s.plat.stage != 7 then .next s
  else if die < 4 && budgetOk r then .next { s with plat := { s.plat with budNext := s.plat.budNext.set die r }.tableStatus s.m true }
  else .next { s with plat := s.plat.tableStatus s.m false }

/-- The flits of a period past their class's budget count as clk on which the budget limited the class (R213). (DESIGN CHOICE, log 79) -/
def Mach.overBudget (m : Mach) (die : Nat) (budgets : List Nat) : Mach :=
  (List.range 6).foldl (fun m c => m.dieNote die (.budget c) (nthD 0 (nthD [] m.used die) c - nthD 0 budgets c)) m

/-- NETWORK_PERIOD: at a period's first clk the die's counts start at 0 and the latest budgets are in force (R163, R164). -/
def execNetworkPeriod (die : Nat) (s : State) : Out :=
  if s.m.cycle % 1024 = 0 then
    let m := s.m.overBudget die (nthD [] s.plat.budgets die)
    .next { s with m := { m with used := mapAt m.used die fun l => l.map fun _ => 0 },
                   plat := { s.plat with budgets := mapAt s.plat.budgets die fun o => s.plat.budNext.getD die o } }
  else .next s

/-- Whether a pair site may back index i of a die: a good site that backs no other index (R195). -/
def Plat.siteFree (p : Plat) (die site : Nat) : Bool :=
  decide (site < 68) && (nthD [] p.good die).contains site && !(nthD [] p.sites die).contains site

/-- RUNTIME_REPAIR: a pair that no partition holds is moved to another good site (R195, R462). -/
def execRuntimeRepair (die idx site : Nat) (s : State) : Out :=
  if die < 4 && idx < 64 && (s.m.partOfPair (die * 64 + idx)).isNone && s.plat.siteFree die site then
    .next { s with plat := { s.plat with sites := mapAt s.plat.sites die fun l => l.set idx site } }
  else .next s

/-- Whether a resource of the repair map belongs to no partition: the pair of a vector lane, the PC of a row or column, the quad of a Fraing
lane (R195). A UCIe lane is never a partition's. -/
def Mach.spareFree (m : Mach) (kind n : Nat) : Bool :=
  if kind = 0 then (m.partOfPair n).isNone
  else if kind ≤ 2 then (m.partOfGroup (n / 16)).isNone
  else if kind = 3 then true
  else !m.parts.any fun p => p.2.e.subl.getLsbD n

/-- A spare is taken into use while no partition holds what it repairs. A sub-link that was down is offered again once its lanes are spared
(R195, R462). (DESIGN CHOICE, log 84) -/
def State.useSpare (s : State) (die kind n : Nat) : State :=
  if 4 < kind || !s.m.spareFree kind n then s else
  let fresh := fun (l : Sublink) => { l with up := true, txl := 0, rxl := 0, replay := [], discard := false, pauseRx := 0, pauseTx := 0,
                                             request := none, data := 0, heard := false }
  let mend := fun (l : Sublink) => if kind = 4 && !l.up && l.has n then fresh l else l
  { s with m := { s.m with links := s.m.links.map mend }, plat := { s.plat with spares := s.plat.spares ++ [(die, kind, n)] } }

/-! ### Pre-emption -/

/-- SLICE_END: the next slice length takes effect, and with pending or saved work every running cast of the partition is to be pre-empted,
where R86 says that the placer may. (DESIGN CHOICE, log 108) -/
def Mach.sliceEnd (m : Mach) (q : Nat) : Mach :=
  match m.part q with
  | none => m
  | some p =>
    let more := decide (0 < p.pending) || m.savedOf q
    let runs := fun (k : Cast) => m.ctxs.any fun e => e.2.status == .running && e.2.task.q == q && e.2.task.cast == k.id
    m.updPart q fun p => { p with
      e := { p.e with slice := p.sliceNext },
      casts := p.casts.map (fun (k : Cast) => if more && runs k then { k with sliced := true } else k) }

def execSliceEnd (q : Nat) (s : State) : Out := onMach s fun m => m.sliceEnd q

/-- The contexts that are pre-empted with c: every one of a co-resident cast (R86). -/
def Mach.preemptSet (m : Mach) (c : Nat) : List Nat :=
  let t := (m.ctx c).task
  if ((m.cast t.q t.cast).map fun k => k.hdr.cor).getD false then
    (m.ctxs.filter fun e => e.2.status == .running && e.2.task.q == t.q && e.2.task.cast == t.cast).map Prod.fst
  else [c]

/-- Whether a queued instruction has started, so that it is kept (R170); a sleeping `waitv` is abandoned (R87). -/
def Mach.started (m : Mach) (c : Nat) (e : VEnt) : Bool :=
  e.done || e.safe || match e.op with
  | .waitv _ _ _ _ _ _ => false
  | _ => e.timer.isSome || e.sat != 0 || e.prog.pos != 0 || e.prog.todo.isSome || !e.prog.got.isEmpty ||
    m.troupe.reqs.any fun r => r.c == c && r.pc == e.cap.pc

/-- The copy commands that a stopped copy queue still holds leave the queues, to be discarded once the fault is taken; their scoreboard
counts are released (R172, R302). -/
def Mach.releaseStopped (m : Mach) (c : Nat) : Mach :=
  let x := m.ctx c
  if !x.copyStop then m else
  let copy := fun (h : HoldEnt) => match h.cmd with
    | .copy k => some k
    | _ => none
  let m := m.unscore (x.copyq.flatMap (·.held))
  m.updCtx c fun x => { x with copyq := [], hold := x.hold.filter fun h => (copy h).isNone,
                               youngCopies := x.youngCopies ++ x.copyq.map CopyEnt.cmd ++ x.hold.filterMap copy }

/-- The sleep timers kept, and the sleep abandoned (R87, R307). -/
def Ctx.keepSleep (x : Ctx) : Ctx :=
  match x.sleep with
  | some z => { x with kept := (x.pc, z.timer) :: x.kept.filter (fun t => t.1 != x.pc), sleep := none }
  | none => x

/-- The timer of an abandoned `waitv`. -/
def Ctx.keepTimer (x : Ctx) (e : VEnt) : Ctx :=
  match e.timer with
  | some t => { x with kept := (e.cap.pc, t) :: x.kept.filter (fun k => k.1 != e.cap.pc) }
  | none => x

/-- Steps 1 and 2 of R307: issue stops, what has not started is squashed, the scalar side rolls back. (DEDUCED, log 68) -/
def Mach.halt (m : Mach) (c : Nat) : Mach :=
  let x := (m.ctx c).keepSleep
  let run := x.vq.takeWhile fun e => m.started c e
  let y := match x.vq.drop run.length with
    | [] => x
    | e :: _ =>
      let y := (x.keepTimer e).squash e.stamp
      { y with pc := e.cap.pc, firstH := e.first,
               joinWord := if run.isEmpty then none else y.joinWord }
  let m := if run.length < x.vq.length then m.count c evSquash 1 else m
  (m.setCtx c { y with halted := true, pendTrap := none, snapReqs := if run.isEmpty then [] else y.snapReqs, stall := 0, counted := [],
                       half := none, pload := none }).releaseStopped c

/-- Whether the instruction at a context's PC waits for a reply: it is finished first, for its request may not be repeated. -/
def Mach.inFlight (m : Mach) (c : Nat) : Bool := m.troupe.reqs.any fun r => r.c == c && r.pc == (m.ctx c).pc

/-- Whether a copy into a window of context c's task is outstanding (R131). -/
def Mach.copiesToward (m : Mach) (c : Nat) : Bool :=
  m.ctxs.any fun e =>
    let into := fun (k : CopyCmd) => isWindow k.dst && ((m.windowCtx e.1 k.dst == some c) ||
      (k.kind == 2 && (m.gangCtxs e.1 k).any fun g => g.2 == some c))
    !e.2.copyStop && ((e.2.copyq.any fun k => into k.cmd) || e.2.hold.any fun h => match h.cmd with
      | .copy k => into k
      | _ => false)

/-- Whether a halted context may be saved (R114, R131, R172): everything of it has drained. -/
def Mach.saveReady (m : Mach) (c : Nat) : Bool :=
  m.drained c && !m.fabricDue c ((m.ctx c).stamp + 1) && !m.copiesToward c

/-- The physical base of a context's reservation. -/
def Mach.spLo (m : Mach) (c : Nat) : Nat := pairBase + pairOf c * pairBlock + (m.ctx c).spBase

/-- The live state of a context (R96, R99, R114): of the register file the dirty registers up to VHWM, of the accumulators the dirty
arrays. -/
def Ctx.live (x : Ctx) : Ctx :=
  let reg := fun (k : Nat) => x.vdirty.getLsbD (k / 65536) && decide (k % 65536 < x.vhwm.toNat)
  let arr := fun (k : Nat) => x.adirty.getLsbD (k / akey 1 0 0)
  { x with halted := false, snapReqs := [], pload := none, vrf := x.vrf.filter (fun e => reg e.1), vrPoison := x.vrPoison.filter reg,
           acc := x.acc.filter (fun e => arr e.1), accPoison := x.accPoison.filter arr }

/-- Steps 3 and 4 of R307: the live state, the reserved scratchpad with its poison, and the named barriers are saved, in the management
class (R163). (DESIGN CHOICE, log 79) -/
def Mach.save (m : Mach) (c : Nat) : Mach :=
  let x := m.ctx c
  let lo := m.spLo c
  let here := fun (k : Nat) => decide (lo ≤ k) && decide (k < lo + x.spSize)
  let set := ((m.pair (pairOf c)).bars.find? fun b => b.q == x.task.q && b.cast == x.task.cast).getD ⟨0, 0, [], 0⟩
  let v : Saved := ⟨x.live, (m.mem.filter fun e => here e.1).map (fun e => (e.1 - lo, e.2)),
    (m.poison.filter here).map (· - lo), (m.tbs.filter here).map (· - lo), pairOf c, set.tag, set.bars⟩
  let m := ({ m with saved := m.saved ++ [v] } : Mach).freeCtx c
  ({ m with tbs := m.tbs.filter fun k => !here k } : Mach).charge (dieOf c) 4 5 (x.spSize + 4096)

/-- PREEMPTION of context c, with its co-resident cast: first the halt, then, once everything has drained, the save. (DEDUCED, log 68) -/
def Mach.preempt (m : Mach) (c : Nat) : Mach :=
  if (m.ctx c).status != .running then m else
  let cs := m.preemptSet c
  if cs.any fun d => !(m.ctx d).halted then
    if cs.any fun d => m.inFlight d then m else cs.foldl Mach.halt m
  else
    let m := cs.foldl Mach.releaseStopped m
    if cs.all fun d => m.saveReady d then
      let t := (m.ctx c).task
      (cs.foldl Mach.save m).updCast t.q t.cast fun k => { k with sliced := false }
    else m

/-- A task goes on: a trap that was recorded while it was halted is entered before its next instruction (R171). -/
def Mach.goOn (m : Mach) (c : Nat) : Mach :=
  let m' := m.updCtx c fun x => { x with halted := false, savedTrap := none }
  match (m.ctx c).savedTrap with
  | some f => m'.enterTrap c f.1 f.2.1 f.2.2
  | none => m'

/-- A failed save: the task, with its co-resident cast, stays resident and goes on, and Ringmaster receives a partition fault (R306, R308).
(DEDUCED, log 68) -/
def Mach.saveFails (m : Mach) (c code detail : Nat) : Mach :=
  if (m.ctx c).halted && (m.ctx c).status == .running then
    let cs := m.preemptSet c
    let m := { m with pfaults := m.pfaults ++ [PFault.mk (m.ctx c).task.q code detail] }
    cs.foldl Mach.goOn m
  else m

def execPreemption (c : Nat) (s : State) : Out := onMach s fun m => m.preempt c

/-! ### Restore -/

/-- Whether two saved tasks shared named barriers. -/
def Saved.with_ (a b : Saved) : Bool := a.ctx.task.q == b.ctx.task.q && a.ctx.task.cast == b.ctx.task.cast && a.pair == b.pair && a.tag == b.tag

/-- Whether pair p holds the named barriers that a saved task shares (R199). -/
def Mach.barsLive (m : Mach) (v : Saved) (p : Nat) : Bool :=
  p == v.pair && (m.pair p).bars.any fun b => b.q == v.ctx.task.q && b.cast == v.ctx.task.cast && b.tag == v.tag

/-- Whether a saved task's named barriers let it go to pair p: to the pair that holds them, else to one that holds none of the cast (R65,
R199). -/
def Mach.barsAllow (m : Mach) (v : Saved) (p : Nat) : Bool :=
  v.bars.isEmpty || if m.barsLive v v.pair then p == v.pair else !m.holdsBars p v.ctx.task.q v.ctx.task.cast

/-- Writes a saved task into a context of pair p, where one can take it (R86, R308). (DEDUCED, log 69) -/
def Mach.placeSaved (m : Mach) (p : Nat) (v : Saved) : Option Mach :=
  let t := v.ctx.task
  match m.cast t.q t.cast with
  | none => none
  | some k =>
    if !m.barsAllow v p || m.freeSections p < v.ctx.sec then none else
    match m.canTake p t.q t.cast k.hdr with
    | none => none
    | some cb =>
      let lo := pairBase + p * pairBlock + cb.2
      let m := m.updPair p fun x => { x with icache := [], icasts := (t.q, t.cast) :: x.icasts.filter (fun e => e != (t.q, t.cast)) }
      let tag := (m.pair p).barNo
      let fresh := !m.holdsBars p t.q t.cast
      let m := if fresh then m.reserveBars p t.q t.cast v.bars else m
      let m := m.clearScratch p cb.2 v.ctx.spSize
      let at_ := fun (k : Nat) => lo + k
      let move := fun (w : Saved) => if fresh && w.with_ v then { w with pair := p, tag := tag } else w
      let m := { m with mem := csetAll (v.scratch.map fun (e : Nat × Byte) => (at_ e.1, e.2)) m.mem, poison := v.poison.map at_ ++ m.poison,
                        tbs := v.tbs.map at_ ++ m.tbs, saved := (m.saved.erase v).map move }
      some (((m.setCtx cb.1 { v.ctx with spBase := cb.2 }).charge 4 (dieOf cb.1) 5 (v.ctx.spSize + 4096)).goOn cb.1)

/-- Writes saved tasks that share barriers onto one pair, the lowest of the partition that can take them all. -/
def Mach.placeTogether (m : Mach) (vs : List Saved) : Option Mach :=
  match vs with
  | [] => some m
  | v :: _ => match m.part v.ctx.task.q with
    | none => none
    | some p => (pePairs p.e).findSome? fun r => vs.foldlM (fun m v =>
        m.placeSaved r (match m.saved.find? fun w => w.ctx == v.ctx with | some w => w | none => v)) m

/-- The saved tasks that are restored with task v, in the groups that must share a pair: all of a co-resident cast, else those that
share its named barriers unless a pair still holds these, else it alone. -/
def Mach.restoreSets (m : Mach) (v : Saved) : List (List Saved) :=
  let t := v.ctx.task
  let cor := ((m.cast t.q t.cast).map fun k => k.hdr.cor).getD false
  let mine := m.saved.filter fun w => w.ctx.task.q == t.q && w.ctx.task.cast == t.cast && (cor || w == v || (!v.bars.isEmpty && !m.barsLive v v.pair && w.with_ v))
  if v.bars.isEmpty then mine.map fun w => [w]
  else ((mine.map fun w => (w.pair, w.tag)).eraseDups).map fun p => mine.filter fun w => (w.pair, w.tag) == p

/-- RESTORE of saved task k, with all it must be restored with, or of none (R86, R308). (DEDUCED, log 69) -/
def Mach.restore (m : Mach) (k : Nat) : Mach :=
  match m.saved[k]? with
  | none => m
  | some v =>
    let q := v.ctx.task.q
    let held := ((m.part q).map Part.held).getD 1
    if held = 1 || held = 2 then m else
    match (m.restoreSets v).foldlM Mach.placeTogether m with
    | none => m
    | some m => if m.savedOf q then m else m.updPart q fun p => { p with held := 0 }

def execRestore (k : Nat) (s : State) : Out := onMach s fun m => m.restore k

/-- A failed restore: the task stays saved, and Ringmaster receives a partition fault (R306, R308). (DEDUCED, log 69) -/
def Mach.restoreFails (m : Mach) (k code detail : Nat) : Mach :=
  match m.saved[k]? with
  | some v => { m with pfaults := m.pfaults ++ [PFault.mk v.ctx.task.q code detail] }
  | none => m

/-! ### Checkpoint -/

/-- The 64-byte pieces at a base that hold a cell. -/
def piecesOf (base : Nat) (t : Cells 8) : List (Nat × List Byte) :=
  ((t.map fun e => e.1 / 64 * 64).eraseDups).map fun o => (base + o, cgetRange t o 64)

/-- A fault as bytes. -/
def Flt.bytes (f : Flt) : List Byte :=
  leBytes 8 f.code ++ leBytes 8 f.detail ++ leBytes 8 f.faddr ++ leBytes 4 (f.vstart.getD 0) ++ leBytes 8 (f.pdone.getD 0) ++
    leBytes 8 (f.pfmask.getD 0)

/-- The live state of a saved task but its registers and accumulators (R114, R307): scalar registers, PC, context CSRs, modes, formats, scale
registers, masks, named barriers, the recorded trap and the pending engine faults. -/
def Saved.image (v : Saved) : List Byte :=
  let x := v.ctx
  let csrs := [x.vstart.toNat, x.vl.toNat, x.vcp.toNat, x.vhwm.toNat, x.vdirty.toNat, x.adirty.toNat, x.vshare.toNat, x.vshareNext.toNat, x.srstep.toNat,
    x.pdone.toNat, x.pfmask.toNat, x.fcause.toNat, x.faddr.toNat, x.finstr.toNat, x.epc.toNat, x.thandler.toNat, x.wdog.toNat, x.banko.toNat,
    x.tscr.toNat, x.sec, x.vregs]
  (x.x.toList.flatMap fun w => leBytes 8 w.toNat) ++ leBytes 8 x.pc.toNat ++ csrs.flatMap (leBytes 8) ++
    (x.md.toList.flatMap fun w => leBytes 4 w.toNat) ++ (x.fmt.toList.flatMap fun w => leBytes 4 w.toNat) ++
    (x.sreg.toList.flatMap fun w => leBytes 8 w.toNat) ++ x.masks.toList.flatMap (leBytes 8192) ++
    (v.bars.flatMap fun b => leBytes 4 b.exp ++ leBytes 4 b.arr ++ leBytes 1 b.phase.toNat) ++
    (match x.savedTrap with | some t => t.1.bytes ++ leBytes 8 t.2.1.toNat ++ leBytes 4 t.2.2.toNat | none => []) ++
    x.engFaults.flatMap fun e => leBytes 8 e.queue ++ e.flt.bytes ++ leBytes 4 e.word.toNat

/-- The save area of a saved task as pieces of the stream, number k: its image, its registers, accumulators and scratchpad, and a piece without
bytes for each poisoned granule. -/
def Saved.pieces (k : Nat) (v : Saved) : List (Nat × List Byte) :=
  let at_ := fun (part : Nat) => 2 ^ 52 + k * 2 ^ 32 + part * 2 ^ 28
  let bad := fun (part : Nat) (us : List Nat) => us.map fun u => (2 ^ 60 + at_ part + u, ([] : List Byte))
  let im := v.image
  ((List.range ((im.length + 63) / 64)).map fun i => (at_ 0 + 64 * i, (im.drop (64 * i)).take 64)) ++
    piecesOf (at_ 1) v.ctx.vrf ++ (v.ctx.acc.map fun e => (at_ 2 + 4 * e.1, leBytes 4 e.2.toNat)) ++ piecesOf (at_ 3) v.scratch ++
    bad 1 v.ctx.vrPoison ++ bad 2 v.ctx.accPoison ++ bad 3 v.poison

/-- The bank words of a partition that hold a nonzero byte, its poisoned ones, and its save areas, as pieces of the stream: key and
bytes. Words that read zero need no piece. -/
def Mach.streamOf (m : Mach) (q : Nat) : List (Nat × List Byte) :=
  let own := fun (k : Nat) => decide (k < dramEnd) && m.partOfGroup (k / bankBytes / 256) == some q
  piecesOf 0 (m.mem.filter fun e => own e.1) ++ (m.poison.filter own).map (fun u => (2 ^ 60 + u, [])) ++
    (m.saved.filter fun v => v.ctx.task.q == q).zipIdx.flatMap fun v => v.1.pieces v.2

/-- Streams what is left of a partition to the safe tier in the checkpoint class, as far as the stream has room (R165, R467). (DEDUCED, log 75) -/
def Mach.stream (m : Mach) (tier q : Nat) : Mach :=
  match m.part q with
  | none => m
  | some p =>
    let n := 256 - (m.troupe.txq.filter fun e => e.dst == tier && e.cls == clsCkpt && !e.sent).length
    ((p.ckpt.take n).foldl (fun m p => m.send tier clsCkpt none (.ckpt p.1 p.2) (.part q)) m).updPart q fun p => { p with ckpt := p.ckpt.drop n }

/-- The checkpoint of a partition is over: its saved tasks are to be restored. -/
def Mach.ckptEnd (m : Mach) (q : Nat) : Mach :=
  m.updPart q fun p => { p with ckpt := [], held := if p.held = 0 then 0 else if m.savedOf q then 3 else 0 }

/-- CHECKPOINT: the partitions' tasks are pre-empted, their Carousel runs end, their state is streamed; then they are restored.
(DEDUCED, log 75) -/
def Mach.checkpoint (m : Mach) (parts : List Nat) (tier : Nat) : Mach :=
  let qs := parts.filter fun q => (m.part q).isSome
  if !m.memberOk tier then qs.foldl Mach.ckptEnd m else
  let m := qs.foldl (fun m q => m.updPart q fun p => if p.held = 0 then { p with held := 1 } else p) m
  let busy := (m.ctxs.filter fun e => e.2.status != .idle && qs.contains e.2.task.q).map Prod.fst
  if qs.any fun q => ((m.part q).map Part.held) == some 1 then
    if !busy.isEmpty then busy.foldl Mach.preempt m
    else if qs.any fun q => m.graphing q then m
    else qs.foldl (fun m q => m.updPart q fun p => if p.held = 1 then { p with held := 2, ckpt := m.streamOf q } else p) m
  else if m.curtained then m
  else
    let m := qs.foldl (fun m q => m.stream tier q) m
    qs.foldl (fun m q => if ((m.part q).map Part.ckpt) == some [] then m.ckptEnd q else m) m

def execCheckpoint (parts : List Nat) (tier : Nat) (s : State) : Out := onMach s fun m => m.checkpoint parts tier

end Sys2Proof.Machine
end

