-- ==== Sys2Proof/Machine/Power.lean ====
section
/-!
DEFINITION. The reference clock and the event counters (R106, R207, R208, R212), arbitration (R160, R161), errors and scrubbing (R121,
R463, R464), frequencies and heat (R19, R20, R465, R466), and bring-up (R287, R459 to R461).
-/

namespace Sys2Proof.Machine

open Sys2Proof.Config

/-! ### CLK -/

/-- Whether a context sleeps: a scalar-side instruction that waits asleep, or a `waitv` (R208). -/
def Ctx.sleeping (x : Ctx) : Bool := x.sleep.isSome || match x.vq with
  | e :: _ => match e.op with
    | .waitv _ _ _ _ _ _ => e.timer.isSome
    | _ => false
  | [] => false

/-- One clk of a context: its sleep timer and the timers of its queue (R208, R402). -/
def Ctx.tick (x : Ctx) : Ctx :=
  { x with sleep := x.sleep.map (fun (z : Sleep) => { z with timer := z.timer + 1 }),
           vq := x.vq.map (fun (e : VEnt) => { e with timer := e.timer.map (· + 1) }) }

/-- Events that one clk itself gives to a selector: CLK, clk stalled, clk asleep (R212). -/
def clkEvents (xs : List Ctx) (sel : BitVec 64) : Nat :=
  let src := sel.toNat % 256
  let ks := (xs.zipIdx.filter fun e => sel.getLsbD (8 + e.2)).map Prod.fst
  if src = evClk then (ks.any fun x => x.status != .idle).toNat
  else if src = evSleep then (ks.filter Ctx.sleeping).length
  else if src = 0 then 0 else (ks.filter fun x => x.stall == src || x.vstall == src).length

/-- One clk of a pair's counters: at most 16 events each are added, the rest is carried; a wrap sets OVF (R211, R212). -/
def Pair.tick (p : Pair) (xs : List Ctx) : Pair :=
  if p.esel.toList.all (· == 0) then p else
  let one := fun (i : Nat) =>
    let sel := vecAt 0 p.esel i
    let c := nthD 0 p.carry i + clkEvents xs sel
    let add := min 16 c
    let n := (vecAt 0 p.ecnt i).toNat + add
    (BitVec.ofNat 64 n, if 2 ^ 64 ≤ n then sel ||| 0x1000 else sel, c - add)
  { p with ecnt := vecOf 8 (fun i => (one i).1), esel := vecOf 8 (fun i => (one i).2.1), carry := (List.range 8).map (fun i => (one i).2.2) }

/-- CLK. (DESIGN CHOICE, log 11) -/
def Mach.clk (m : Mach) : Mach :=
  let tickPair := fun (e : Nat × Pair) => (e.1, e.2.tick ((List.range 4).map fun k => m.ctx (e.1 * 4 + k)))
  { m with cycle := m.cycle + 1, pairs := m.pairs.map tickPair, ctxs := m.ctxs.map (fun e => (e.1, e.2.tick)) }

def execClk (s : State) : Out := onMach s fun m => m.clk

/-! ### Arbitration -/

/-- A new arbitration period: the spends start from what ran over the end of the last one, and VSHARE writes take effect (R106,
R161). (DEDUCED, log 74) -/
def Mach.newPeriod (m : Mach) (p : Nat) : Mach :=
  let u := m.pair p
  let n := m.cycle / 1024
  if n ≤ u.period then m else
  let m := m.updPair p fun u => { u with
    spend := if n = u.period + 1 then u.spill else List.replicate 12 0, spill := List.replicate 12 0, period := n }
  (List.range 4).foldl (fun m k => let c := p * 4 + k
    if (m.ctx c).vshare = (m.ctx c).vshareNext then m else m.updCtx c fun x => { x with vshare := x.vshareNext }) m

def execArbitrationPeriod (p : Nat) (s : State) : Out := onMach s fun m => m.newPeriod p

/-- The context of lowest spend, the lowest number among equals. -/
def leastSpent (spend : Nat → Nat) : List Nat → Option Nat
  | [] => none
  | k :: t => match leastSpent spend t with
    | none => some k
    | some j => if spend k ≤ spend j then some k else some j

/-- What is owed after a strip of b beats of the first instruction or copy command (R160). -/
def paid (b : Nat) (l : List Nat) : List Nat :=
  match l with
  | [] => []
  | n :: t => if n ≤ b then t else (n - b) :: t

/-- STRIP_GRANT: at a strip boundary the resource goes to the ready context of lowest spend, and to one of VSHARE 0 only when no other is
ready (R161). A strip is of one instruction or copy command (R160). Beats past the period's end are charged to the next one as well.
(DEDUCED, log 12) -/
def Mach.grantStrip (m : Mach) (p res : Nat) : Mach :=
  let m := m.newPeriod p
  let u := m.pair p
  if 3 ≤ res || m.cycle < nthD 0 u.till res then m else
  let at_ := fun (k : Nat) => 4 * res + k
  let w := fun (k : Nat) => (m.ctx (p * 4 + k)).vshare.toNat
  let next := fun (k : Nat) => (nthD [] u.need (at_ k)).headD 0
  let due := (List.range 4).filter fun k => next k != 0
  let pick := match leastSpent (fun k => nthD 0 u.spend (at_ k)) (due.filter fun k => w k != 0) with
    | some k => some k
    | none => due.head?
  match pick with
  | none => m
  | some k =>
    let b := min 16 (next k)
    let past := m.cycle + b - (m.cycle / 1024 + 1) * 1024
    let cost := fun (n : Nat) => if w k = 0 then 0 else n * 256 / w k
    m.updPair p fun u => { u with
      need := mapAt u.need (at_ k) (paid b), till := u.till.set res (m.cycle + b),
      spend := mapAt u.spend (at_ k) (· + cost b), spill := u.spill.set (at_ k) (cost past) }

def execStripGrant (p res : Nat) (s : State) : Out := onMach s fun m => m.grantStrip p res

/-! ### Soft errors and scrubbing -/

/-- Bits flipped a second time are right again. -/
def symDiff (a b : List Nat) : List Nat := a.filter (fun i => !b.contains i) ++ b.filter (fun i => !a.contains i)

/-- Flipped bits of a memory unit: one is held as correctable, and counts once the unit is read or scrubbed; more poison the unit, which counts
at once (R121, R463). (DEDUCED, log 65) -/
def Mach.flipUnit (m : Mach) (u : Nat) (bits : List Nat) : Mach :=
  if m.poison.contains u then m else
  let old := ((m.soft.find? fun e => e.1 == u).map Prod.snd).getD []
  let now := symDiff old ((bits.filter fun i => decide (i < 8 * eccUnit u)).eraseDups)
  let rest := m.soft.filter fun e => e.1 != u
  if now.length < 2 then { m with soft := if now.isEmpty then rest else (u, now) :: rest }
  else ({ m with soft := rest, poison := u :: m.poison } : Mach).eccCount (dieOfKey u) (stackOfKey u) true

/-- SOFT_ERROR. The key's bits from 60 up say what is hit: 0 a memory unit by its key, 1 a register byte and 2 an accumulator
element of the context in bits 43 to 32, by its key in bits 31 to 0, 3 a granule of a microprogram store or an on-die table of the
die in bits 43 to 32 (4 is the IOD). In the last three a single-bit error is corrected and counted at once. No rule says what a
reader of a poisoned granule of kind 3 meets, so its poison is only recorded (DEDUCED, log 65). (DESIGN CHOICE, log 78) -/
def Mach.softError (m : Mach) (key : Nat) (bits : List Nat) : Mach :=
  let c := key / 2 ^ 32 % 2 ^ 12
  let off := key % 2 ^ 32
  let n := (bits.filter fun i => decide (i < 64)).eraseDups.length
  match key / 2 ^ 60 with
  | 0 => m.flipUnit (unitOf key) bits
  | 1 =>
    if n = 0 || (m.ctx c).status = .idle then m
    else if n = 1 then m.eccCount (dieOf c) 4 false
    else (m.updCtx c fun x => { x with vrPoison := off / 8 * 8 :: x.vrPoison.filter (fun u => u != off / 8 * 8) }).eccCount (dieOf c) 4 true
  | 2 =>
    if n = 0 || (m.ctx c).status = .idle then m
    else if n = 1 then m.eccCount (dieOf c) 4 false
    else (m.updCtx c fun x => { x with accPoison := off / 2 * 2 :: x.accPoison.filter (fun u => u != off / 2 * 2) }).eccCount (dieOf c) 4 true
  | 3 =>
    let u := key / 8 * 8
    if n = 0 then m
    else if n = 1 then m.eccCount (min c 4) 4 false
    else { m with poison := u :: m.poison.filter (fun v => v != u) }.eccCount (min c 4) 4 true
  | _ => m

def execSoftError (key : Nat) (bits : List Nat) (s : State) : Out := onMach s fun m => m.softError key bits

/-- SCRUB of the unit that holds a key: a correctable error is written back corrected, an uncorrectable one has poisoned the unit; no
task faults (R464). -/
def Mach.scrub (m : Mach) (key : Nat) : Mach := m.eccUnitRead (unitOf key)

def execScrub (key : Nat) (s : State) : Out := onMach s fun m => m.scrub key

/-! ### Power and heat -/

/-- Whether island i belongs to a die, 4 being the IOD: pairs 0 to 255, stack base dies 256 to 271, two of each compute die from 272,
the IOD's eight from 280 (R19). -/
def islandOf (die i : Nat) : Bool :=
  if i < 256 then i / 64 == die else if i < 272 then (i - 256) / 4 == die else if i < 280 then (i - 272) / 2 == die else die == 4

/-- The IOD's always-on control. -/
def alwaysOn : Nat := 287

/-- One step of 100 MHz down, to no less than 400 MHz (R465). (DEDUCED, log 73) -/
def Island.lower (i : Island) : Island := if i.mhz ≤ 400 then i else { i with mhz := i.mhz - 100 }

def Plat.mapIslands (p : Plat) (f : Nat → Island → Island) : Plat := { p with islands := p.islands.zipIdx.map fun e => f e.2 e.1 }

/-- THERMAL_THROTTLE: a die above 100 °C runs its islands one step lower (R466). (DEDUCED, log 73) -/
def execThermalThrottle (die temp : Nat) (s : State) : Out :=
  let p := { s.plat with temps := s.plat.temps.set die temp }
  .next { s with plat := if 100 < temp && !p.tripped then p.mapIslands fun n i => if islandOf die n then i.lower else i else p }

/-- Tasks, resident and saved, are lost, and their launchers report nothing further (R466). -/
def Mach.loseTasks (m : Mach) : Mach :=
  { m with ctxs := [], saved := [], windows := [], hostRecs := [], parts := m.parts.map fun e => (e.1, { e.2 with casts := [] }) }

/-- The host nodes of the Troupe; without one, the host reads this chip's own management queue. (DESIGN CHOICE, log 84) -/
def Mach.hostNodes (m : Mach) : List Nat :=
  match (m.troupe.member.zipIdx.filter fun e => e.1.state == 2 && e.1.host).map Prod.snd with
  | [] => [m.troupe.node]
  | l => l

/-- THERMAL_TRIP: at 115 °C every island but the always-on control stops, and the host gets a report as a management message (R466). -/
def execThermalTrip (die temp : Nat) (s : State) : Out :=
  if temp < 115 then .next s else
  let p := { s.plat with temps := s.plat.temps.set die temp, tripped := true }
  let p := p.mapIslands fun n i => if n = alwaysOn then i else { i with mhz := 0 }
  .next { s with m := s.m.loseTasks, plat := s.m.hostNodes.foldl (fun p n => p.say n "THERMAL_TRIP" (leBytes 1 die)) p }

/-- CHANGE_OF_FREQUENCY: the power manager sets an island to a legal frequency up to its ceiling (R20, R465). -/
def execChangeOfFrequency (island mhz : Nat) (s : State) : Out :=
  let p := s.plat
  if mhzOk mhz && !p.tripped then
    .next { s with plat := { p with islands := mapAt p.islands island fun i => if mhz ≤ i.ceil then { i with mhz := mhz } else i } }
  else .next s

/-! ### Bring-up -/

/-- The distinct good sites of a die, and the 64 that back its local indices (R195, R461). (DEDUCED, log 72) -/
def goodSites (b : BootInput) (die : Nat) : List Nat := ((nthD [] b.sites die).filter fun i => decide (i < 68)).eraseDups

/-- Whether firmware image i, with its signature, may run (R459, R460). -/
def firmwareOk (b : BootInput) (i sig : Nat) : Bool :=
  ed448Verify ouvoftKey (nthD [] b.images i) (nthD [] b.sigs sig) && decide (versionFloor ≤ imageVersion (nthD [] b.images i))

/-- Whether stage k fails: the one given; 2 and 6 for Ringmaster and Carousel firmware that may not run (R459, R460); 5 for a die with too few
good sites (R461). -/
def stageFails (b : BootInput) (k : Nat) : Bool :=
  b.fails == some k || match k with
    | 2 => !firmwareOk b 1 0
    | 5 => (List.range 4).any fun d => decide ((goodSites b d).length < 64)
    | 6 => !firmwareOk b 2 1
    | _ => false

/-- The stage that stops bring-up, the first that fails. -/
def bootFails (b : BootInput) : Option Nat := (List.range' 1 7).find? (stageFails b)

/-- The 64 sites of each die that back its local indices. -/
def bootSites (b : BootInput) : List (List Nat) := (List.range 4).map fun d => (goodSites b d).take 64

/-- The repair map as bytes (R195): the sites, then the spares in use. (DESIGN CHOICE, log 83) -/
def repairBytes (b : BootInput) : List Byte :=
  (bootSites b).flatten.flatMap (leBytes 1) ++ b.spares.flatMap fun e => leBytes 1 e.1 ++ leBytes 1 e.2.1 ++ leBytes 4 e.2.2

/-- What block i measures: images and configuration as given, the repair map, the partition table as the stages leave it (R287, R460). -/
def measuredBytes (b : BootInput) (i : Nat) : List Byte :=
  match i with
  | 5 => repairBytes b
  | 6 => tableBytes .reset .reset
  | _ => nthD [] b.images (i - 1)

/-- The stage after which block i is measured (R459). -/
def measuredAt (i : Nat) : Nat := match i with | 1 => 1 | 2 => 2 | 3 => 6 | 4 => 7 | 5 => 5 | _ => 7

/-- The platform after the bring-up stages; quads with a failed lane are reported to Ringmaster (R195, R287, R459 to R461). -/
def bootPlat (b : BootInput) : Plat :=
  let last := match bootFails b with
    | some k => k - 1
    | none => 7
  { Plat.reset with
    stage := last, failed := (bootFails b).getD 0, responder := (match bootFails b with | some k => k != 1 | none => false),
    silent := bootFails b == some 1,
    meas := (List.range' 1 6).map (fun i => if measuredAt i ≤ last then some (shake256 64 (measuredBytes b i)) else none),
    spares := if 5 ≤ last then b.spares else [],
    good := (List.range 4).map (fun d => goodSites b d),
    sites := if 5 ≤ last then bootSites b else Plat.reset.sites,
    out := if bootFails b == some 1 then [] else b.badQuads.map fun q => ⟨b.node % 64, "QUAD_UNAVAILABLE", leBytes 1 q, 0⟩ }

/-- A trained sub-link: its first lane quad and how many it has. -/
def freshLink (id quads : Nat) : Sublink := ⟨id, quads, true, 0, 0, [], false, 0, 0, none, 0, false, []⟩

/-- The sub-links of a configuration: of one, two or four quads of a link, each beginning at a multiple of its size (R274); what is none, or
has a quad of an earlier one or a failed lane (R461), is left out. (DEDUCED, log 81) -/
def legalLinks (bad : List Nat) (l : List (Nat × Nat)) : List Sublink :=
  (l.filter fun e => !bad.any (freshLink e.1 e.2).has).foldl (fun ls e =>
    let k := freshLink e.1 e.2
    if (e.2 = 1 || e.2 = 2 || e.2 = 4) && e.1 < 64 && e.1 % e.2 = 0 && ls.all (fun j => !((List.range 4).any fun i => k.has (e.1 + i) && j.has (e.1 + i)))
    then ls ++ [k] else ls) []

/-- The machine after bring-up: DRAM zero, no partition; the links as configured, or whole for the failure responder (R459). -/
def bootMach (b : BootInput) : Mach :=
  let links := match bootFails b with
    | none => legalLinks b.badQuads b.sublinks
    | some 1 => []
    | some _ => legalLinks b.badQuads ((List.range 16).map fun l => (4 * l, 4))
  let node := if bootFails b == some 1 then 0 else b.node % 64
  { Mach.reset with links := links, troupe := { Troupe.reset with node := node, leader := node } }

/-- PACKAGE_RESET: every register and table at its reset value, then the bring-up stages. -/
def execPackageReset (b : BootInput) (s : State) : Out :=
  .next { s with m := { bootMach b with free := s.m.free }, plat := bootPlat b }

/-! ### Ringmaster's management interface -/

/-- Ringmaster selects the source of an event counter, whose count goes on (R213). (DESIGN CHOICE, log 84) -/
def Mach.selectCtr (m : Mach) (die i : Nat) (src : Option EvSrc) : Mach :=
  let sel := fun (l : List EvCtr) => mapAt l i fun c => { c with sel := src }
  if die < 4 then { m with dieCnt := mapAt m.dieCnt die sel } else { m with iodCnt := sel m.iodCnt }

/-- The count of an event counter. -/
def Mach.readCtr (m : Mach) (die i : Nat) : BitVec 64 := (nthD EvCtr.reset (if die < 4 then nthD [] m.dieCnt die else m.iodCnt) i).n

/-- An event of a die, or of the IOD. -/
def Mach.noteAt (m : Mach) (die : Nat) (src : EvSrc) : Mach := if die < 4 then m.dieNote die src 1 else m.iodNote src 1

/-- What Ringmaster's management interface and the links do. (DESIGN CHOICE, log 84) -/
def netMove (e : NetMove) (s : State) : State :=
  let me := s.m.troupe.node
  match e with
  | .select die i src => { s with m := s.m.selectCtr die i src }
  | .read die i => { s with plat := s.plat.say me "COUNTER" (leBytes 8 (s.m.readCtr die i).toNat) }
  | .readIsland i => { s with plat := s.plat.say me "ISLAND" (leBytes 2 (nthD ⟨0, 0⟩ s.plat.islands i).mhz) }
  | .ucie die src => if src = .ucieCrc || src = .ucieRetry then { s with m := s.m.noteAt die src } else s
  | .spare die kind n =>
    let t := s.useSpare die kind n
    if kind = 3 then { t with m := t.m.noteAt die .ucieSpared } else t
  | .leave => { s with m := s.m.askLeave }
  | .request n what body => { s with plat := s.plat.request n what body s.m.cycle }
  | .saveFail c code detail => { s with m := s.m.saveFails c code detail }
  | .restoreFail k code detail => { s with m := s.m.restoreFails k code detail }

end Sys2Proof.Machine
end

