-- ==== Sys2Proof/Machine/Dispatch.lean ====
section
/-!
DEFINITION. The meaning of every instruction and event: one arm per constructor of Instr, each a call of its own meaning.
-/

namespace Sys2Proof.Machine

def exec (i : Instr) (s : State) : Host.Outcome State Fault Refusal :=
  match i with
  | .add x0 x1 x2 => Sys2Proof.Machine.execAdd x0 x1 x2 s
  | .sub x0 x1 x2 => Sys2Proof.Machine.execSub x0 x1 x2 s
  | .mul x0 x1 x2 => Sys2Proof.Machine.execMul x0 x1 x2 s
  | .mulh x0 x1 x2 => Sys2Proof.Machine.execMulh x0 x1 x2 s
  | .mulhu x0 x1 x2 => Sys2Proof.Machine.execMulhu x0 x1 x2 s
  | .div x0 x1 x2 => Sys2Proof.Machine.execDiv x0 x1 x2 s
  | .divu x0 x1 x2 => Sys2Proof.Machine.execDivu x0 x1 x2 s
  | .rem x0 x1 x2 => Sys2Proof.Machine.execRem x0 x1 x2 s
  | .remu x0 x1 x2 => Sys2Proof.Machine.execRemu x0 x1 x2 s
  | .and x0 x1 x2 => Sys2Proof.Machine.execAnd x0 x1 x2 s
  | .or x0 x1 x2 => Sys2Proof.Machine.execOr x0 x1 x2 s
  | .xor x0 x1 x2 => Sys2Proof.Machine.execXor x0 x1 x2 s
  | .sll x0 x1 x2 => Sys2Proof.Machine.execSll x0 x1 x2 s
  | .srl x0 x1 x2 => Sys2Proof.Machine.execSrl x0 x1 x2 s
  | .sra x0 x1 x2 => Sys2Proof.Machine.execSra x0 x1 x2 s
  | .slt x0 x1 x2 => Sys2Proof.Machine.execSlt x0 x1 x2 s
  | .sltu x0 x1 x2 => Sys2Proof.Machine.execSltu x0 x1 x2 s
  | .min x0 x1 x2 => Sys2Proof.Machine.execMin x0 x1 x2 s
  | .max x0 x1 x2 => Sys2Proof.Machine.execMax x0 x1 x2 s
  | .minu x0 x1 x2 => Sys2Proof.Machine.execMinu x0 x1 x2 s
  | .maxu x0 x1 x2 => Sys2Proof.Machine.execMaxu x0 x1 x2 s
  | .sel x0 x1 x2 => Sys2Proof.Machine.execSel x0 x1 x2 s
  | .clz x0 x1 => Sys2Proof.Machine.execClz x0 x1 s
  | .popc x0 x1 => Sys2Proof.Machine.execPopc x0 x1 s
  | .addi x0 x1 x2 => Sys2Proof.Machine.execAddi x0 x1 x2 s
  | .andi x0 x1 x2 => Sys2Proof.Machine.execAndi x0 x1 x2 s
  | .ori x0 x1 x2 => Sys2Proof.Machine.execOri x0 x1 x2 s
  | .xori x0 x1 x2 => Sys2Proof.Machine.execXori x0 x1 x2 s
  | .slli x0 x1 x2 => Sys2Proof.Machine.execSlli x0 x1 x2 s
  | .srli x0 x1 x2 => Sys2Proof.Machine.execSrli x0 x1 x2 s
  | .srai x0 x1 x2 => Sys2Proof.Machine.execSrai x0 x1 x2 s
  | .slti x0 x1 x2 => Sys2Proof.Machine.execSlti x0 x1 x2 s
  | .sltiu x0 x1 x2 => Sys2Proof.Machine.execSltiu x0 x1 x2 s
  | .lui x0 x1 => Sys2Proof.Machine.execLui x0 x1 s
  | .auipc x0 x1 => Sys2Proof.Machine.execAuipc x0 x1 s
  | .faddS x0 x1 x2 => Sys2Proof.Machine.execFaddS x0 x1 x2 s
  | .fsubS x0 x1 x2 => Sys2Proof.Machine.execFsubS x0 x1 x2 s
  | .fmulS x0 x1 x2 => Sys2Proof.Machine.execFmulS x0 x1 x2 s
  | .fdivS x0 x1 x2 => Sys2Proof.Machine.execFdivS x0 x1 x2 s
  | .fminS x0 x1 x2 => Sys2Proof.Machine.execFminS x0 x1 x2 s
  | .fmaxS x0 x1 x2 => Sys2Proof.Machine.execFmaxS x0 x1 x2 s
  | .fcvtSL x0 x1 => Sys2Proof.Machine.execFcvtSL x0 x1 s
  | .fcvtLS x0 x1 => Sys2Proof.Machine.execFcvtLS x0 x1 s
  | .fltS x0 x1 x2 => Sys2Proof.Machine.execFltS x0 x1 x2 s
  | .fleS x0 x1 x2 => Sys2Proof.Machine.execFleS x0 x1 x2 s
  | .feqS x0 x1 x2 => Sys2Proof.Machine.execFeqS x0 x1 x2 s
  | .ldB x0 x1 x2 => Sys2Proof.Machine.execLdB x0 x1 x2 s
  | .ldBu x0 x1 x2 => Sys2Proof.Machine.execLdBu x0 x1 x2 s
  | .ldH x0 x1 x2 => Sys2Proof.Machine.execLdH x0 x1 x2 s
  | .ldHu x0 x1 x2 => Sys2Proof.Machine.execLdHu x0 x1 x2 s
  | .ldW x0 x1 x2 => Sys2Proof.Machine.execLdW x0 x1 x2 s
  | .ldWu x0 x1 x2 => Sys2Proof.Machine.execLdWu x0 x1 x2 s
  | .ldD x0 x1 x2 => Sys2Proof.Machine.execLdD x0 x1 x2 s
  | .ldDAq x0 x1 x2 => Sys2Proof.Machine.execLdDAq x0 x1 x2 s
  | .stB x0 x1 x2 => Sys2Proof.Machine.execStB x0 x1 x2 s
  | .stH x0 x1 x2 => Sys2Proof.Machine.execStH x0 x1 x2 s
  | .stW x0 x1 x2 => Sys2Proof.Machine.execStW x0 x1 x2 s
  | .stD x0 x1 x2 => Sys2Proof.Machine.execStD x0 x1 x2 s
  | .beq x0 x1 x2 => Sys2Proof.Machine.execBeq x0 x1 x2 s
  | .bne x0 x1 x2 => Sys2Proof.Machine.execBne x0 x1 x2 s
  | .blt x0 x1 x2 => Sys2Proof.Machine.execBlt x0 x1 x2 s
  | .bge x0 x1 x2 => Sys2Proof.Machine.execBge x0 x1 x2 s
  | .bltu x0 x1 x2 => Sys2Proof.Machine.execBltu x0 x1 x2 s
  | .bgeu x0 x1 x2 => Sys2Proof.Machine.execBgeu x0 x1 x2 s
  | .j x0 => Sys2Proof.Machine.execJ x0 s
  | .call x0 => Sys2Proof.Machine.execCall x0 s
  | .jalr x0 x1 x2 => Sys2Proof.Machine.execJalr x0 x1 x2 s
  | .loop x0 x1 => Sys2Proof.Machine.execLoop x0 x1 s
  | .csrr x0 x1 => Sys2Proof.Machine.execCsrr x0 x1 s
  | .csrw x0 x1 => Sys2Proof.Machine.execCsrw x0 x1 s
  | .vstartWrite x0 => Sys2Proof.Machine.execVstartWrite x0 s
  | .vshareWrite x0 => Sys2Proof.Machine.execVshareWrite x0 s
  | .srstepWrite x0 => Sys2Proof.Machine.execSrstepWrite x0 s
  | .pdoneWrite x0 => Sys2Proof.Machine.execPdoneWrite x0 s
  | .wdogWrite x0 => Sys2Proof.Machine.execWdogWrite x0 s
  | .banktoWrite x0 => Sys2Proof.Machine.execBanktoWrite x0 s
  | .ecntWrite x0 x1 => Sys2Proof.Machine.execEcntWrite x0 x1 s
  | .eselWrite x0 x1 => Sys2Proof.Machine.execEselWrite x0 x1 s
  | .modeField x0 x1 x2 x3 x4 x5 x6 => Sys2Proof.Machine.execModeField x0 x1 x2 x3 x4 x5 x6 s
  | .modeTid x0 x1 => Sys2Proof.Machine.execModeTid x0 x1 s
  | .vcfg x0 x1 x2 => Sys2Proof.Machine.execVcfg x0 x1 x2 s
  | .vsetvl x0 x1 => Sys2Proof.Machine.execVsetvl x0 x1 s
  | .mcnt x0 x1 => Sys2Proof.Machine.execMcnt x0 x1 s
  | .many x0 x1 => Sys2Proof.Machine.execMany x0 x1 s
  | .mfirst x0 x1 => Sys2Proof.Machine.execMfirst x0 x1 s
  | .texit x0 => Sys2Proof.Machine.execTexit x0 s
  | .vadd x0 x1 x2 => Sys2Proof.Machine.execVadd x0 x1 x2 s
  | .vsub x0 x1 x2 => Sys2Proof.Machine.execVsub x0 x1 x2 s
  | .vmul x0 x1 x2 => Sys2Proof.Machine.execVmul x0 x1 x2 s
  | .vdiv x0 x1 x2 => Sys2Proof.Machine.execVdiv x0 x1 x2 s
  | .vmin x0 x1 x2 => Sys2Proof.Machine.execVmin x0 x1 x2 s
  | .vmax x0 x1 x2 => Sys2Proof.Machine.execVmax x0 x1 x2 s
  | .vand x0 x1 x2 => Sys2Proof.Machine.execVand x0 x1 x2 s
  | .vor x0 x1 x2 => Sys2Proof.Machine.execVor x0 x1 x2 s
  | .vxor x0 x1 x2 => Sys2Proof.Machine.execVxor x0 x1 x2 s
  | .vsll x0 x1 x2 => Sys2Proof.Machine.execVsll x0 x1 x2 s
  | .vsrl x0 x1 x2 => Sys2Proof.Machine.execVsrl x0 x1 x2 s
  | .vsra x0 x1 x2 => Sys2Proof.Machine.execVsra x0 x1 x2 s
  | .vaddX x0 x1 x2 => Sys2Proof.Machine.execVaddX x0 x1 x2 s
  | .vsubX x0 x1 x2 => Sys2Proof.Machine.execVsubX x0 x1 x2 s
  | .vmulX x0 x1 x2 => Sys2Proof.Machine.execVmulX x0 x1 x2 s
  | .vdivX x0 x1 x2 => Sys2Proof.Machine.execVdivX x0 x1 x2 s
  | .vminX x0 x1 x2 => Sys2Proof.Machine.execVminX x0 x1 x2 s
  | .vmaxX x0 x1 x2 => Sys2Proof.Machine.execVmaxX x0 x1 x2 s
  | .vandX x0 x1 x2 => Sys2Proof.Machine.execVandX x0 x1 x2 s
  | .vorX x0 x1 x2 => Sys2Proof.Machine.execVorX x0 x1 x2 s
  | .vxorX x0 x1 x2 => Sys2Proof.Machine.execVxorX x0 x1 x2 s
  | .vsllX x0 x1 x2 => Sys2Proof.Machine.execVsllX x0 x1 x2 s
  | .vsrlX x0 x1 x2 => Sys2Proof.Machine.execVsrlX x0 x1 x2 s
  | .vsraX x0 x1 x2 => Sys2Proof.Machine.execVsraX x0 x1 x2 s
  | .vfma x0 x1 x2 => Sys2Proof.Machine.execVfma x0 x1 x2 s
  | .vfms x0 x1 x2 => Sys2Proof.Machine.execVfms x0 x1 x2 s
  | .vfnma x0 x1 x2 => Sys2Proof.Machine.execVfnma x0 x1 x2 s
  | .vfnms x0 x1 x2 => Sys2Proof.Machine.execVfnms x0 x1 x2 s
  | .vneg x0 x1 => Sys2Proof.Machine.execVneg x0 x1 s
  | .vabs x0 x1 => Sys2Proof.Machine.execVabs x0 x1 s
  | .vmov x0 x1 => Sys2Proof.Machine.execVmov x0 x1 s
  | .vsqrt x0 x1 => Sys2Proof.Machine.execVsqrt x0 x1 s
  | .vrcp x0 x1 => Sys2Proof.Machine.execVrcp x0 x1 s
  | .vrsqrt x0 x1 => Sys2Proof.Machine.execVrsqrt x0 x1 s
  | .vexp2 x0 x1 => Sys2Proof.Machine.execVexp2 x0 x1 s
  | .vlog2 x0 x1 => Sys2Proof.Machine.execVlog2 x0 x1 s
  | .vcvt x0 x1 x2 => Sys2Proof.Machine.execVcvt x0 x1 x2 s
  | .vcmpeq x0 x1 x2 => Sys2Proof.Machine.execVcmpeq x0 x1 x2 s
  | .vcmpne x0 x1 x2 => Sys2Proof.Machine.execVcmpne x0 x1 x2 s
  | .vcmplt x0 x1 x2 => Sys2Proof.Machine.execVcmplt x0 x1 x2 s
  | .vcmple x0 x1 x2 => Sys2Proof.Machine.execVcmple x0 x1 x2 s
  | .vcmpgt x0 x1 x2 => Sys2Proof.Machine.execVcmpgt x0 x1 x2 s
  | .vcmpge x0 x1 x2 => Sys2Proof.Machine.execVcmpge x0 x1 x2 s
  | .vcmpeqX x0 x1 x2 => Sys2Proof.Machine.execVcmpeqX x0 x1 x2 s
  | .vcmpneX x0 x1 x2 => Sys2Proof.Machine.execVcmpneX x0 x1 x2 s
  | .vcmpltX x0 x1 x2 => Sys2Proof.Machine.execVcmpltX x0 x1 x2 s
  | .vcmpleX x0 x1 x2 => Sys2Proof.Machine.execVcmpleX x0 x1 x2 s
  | .vcmpgtX x0 x1 x2 => Sys2Proof.Machine.execVcmpgtX x0 x1 x2 s
  | .vcmpgeX x0 x1 x2 => Sys2Proof.Machine.execVcmpgeX x0 x1 x2 s
  | .vsel x0 x1 x2 x3 => Sys2Proof.Machine.execVsel x0 x1 x2 x3 s
  | .vsplat x0 x1 => Sys2Proof.Machine.execVsplat x0 x1 s
  | .vextr x0 x1 x2 => Sys2Proof.Machine.execVextr x0 x1 x2 s
  | .vslideup x0 x1 x2 => Sys2Proof.Machine.execVslideup x0 x1 x2 s
  | .vslidedn x0 x1 x2 => Sys2Proof.Machine.execVslidedn x0 x1 x2 s
  | .vperm x0 x1 x2 => Sys2Proof.Machine.execVperm x0 x1 x2 s
  | .vstep x0 => Sys2Proof.Machine.execVstep x0 s
  | .vredsum x0 x1 => Sys2Proof.Machine.execVredsum x0 x1 s
  | .vredmax x0 x1 => Sys2Proof.Machine.execVredmax x0 x1 s
  | .vredmin x0 x1 => Sys2Proof.Machine.execVredmin x0 x1 s
  | .vredand x0 x1 => Sys2Proof.Machine.execVredand x0 x1 s
  | .vredor x0 x1 => Sys2Proof.Machine.execVredor x0 x1 s
  | .vredxor x0 x1 => Sys2Proof.Machine.execVredxor x0 x1 s
  | .vdot x0 x1 x2 => Sys2Proof.Machine.execVdot x0 x1 x2 s
  | .vqnt x0 x1 x2 => Sys2Proof.Machine.execVqnt x0 x1 x2 s
  | .vdqnt x0 x1 x2 => Sys2Proof.Machine.execVdqnt x0 x1 x2 s
  | .vsset x0 x1 => Sys2Proof.Machine.execVsset x0 x1 s
  | .vsget x0 x1 => Sys2Proof.Machine.execVsget x0 x1 s
  | .vcompr24 x0 x1 x2 => Sys2Proof.Machine.execVcompr24 x0 x1 x2 s
  | .vcompr48 x0 x1 x2 => Sys2Proof.Machine.execVcompr48 x0 x1 x2 s
  | .mand x0 x1 x2 => Sys2Proof.Machine.execMand x0 x1 x2 s
  | .mor x0 x1 x2 => Sys2Proof.Machine.execMor x0 x1 x2 s
  | .mxor x0 x1 x2 => Sys2Proof.Machine.execMxor x0 x1 x2 s
  | .mandn x0 x1 x2 => Sys2Proof.Machine.execMandn x0 x1 x2 s
  | .mnot x0 x1 => Sys2Proof.Machine.execMnot x0 x1 s
  | .mmov x0 x1 => Sys2Proof.Machine.execMmov x0 x1 s
  | .mset x0 => Sys2Proof.Machine.execMset x0 s
  | .mclr x0 => Sys2Proof.Machine.execMclr x0 s
  | .accop x0 x1 x2 => Sys2Proof.Machine.execAccop x0 x1 x2 s
  | .accopH x0 x1 x2 => Sys2Proof.Machine.execAccopH x0 x1 x2 s
  | .accsp24 x0 x1 x2 x3 => Sys2Proof.Machine.execAccsp24 x0 x1 x2 x3 s
  | .accsp48 x0 x1 x2 x3 => Sys2Proof.Machine.execAccsp48 x0 x1 x2 x3 s
  | .acczero x0 => Sys2Proof.Machine.execAcczero x0 s
  | .accrd x0 x1 x2 => Sys2Proof.Machine.execAccrd x0 x1 x2 s
  | .accwr x0 x1 x2 => Sys2Proof.Machine.execAccwr x0 x1 x2 s
  | .accld x0 x1 => Sys2Proof.Machine.execAccld x0 x1 s
  | .accst x0 x1 => Sys2Proof.Machine.execAccst x0 x1 s
  | .accstQ x0 x1 x2 => Sys2Proof.Machine.execAccstQ x0 x1 x2 s
  | .vgathr x0 x1 x2 => Sys2Proof.Machine.execVgathr x0 x1 x2 s
  | .vld x0 x1 x2 => Sys2Proof.Machine.execVld x0 x1 x2 s
  | .vst x0 x1 x2 => Sys2Proof.Machine.execVst x0 x1 x2 s
  | .vlds x0 x1 x2 => Sys2Proof.Machine.execVlds x0 x1 x2 s
  | .vsts x0 x1 x2 => Sys2Proof.Machine.execVsts x0 x1 x2 s
  | .vldx x0 x1 x2 => Sys2Proof.Machine.execVldx x0 x1 x2 s
  | .vstx x0 x1 x2 => Sys2Proof.Machine.execVstx x0 x1 x2 s
  | .vstn x0 x1 x2 => Sys2Proof.Machine.execVstn x0 x1 x2 s
  | .pldSum x0 x1 x2 x3 => Sys2Proof.Machine.execPldSum x0 x1 x2 x3 s
  | .pldMax x0 x1 x2 x3 => Sys2Proof.Machine.execPldMax x0 x1 x2 x3 s
  | .pldMin x0 x1 x2 x3 => Sys2Proof.Machine.execPldMin x0 x1 x2 x3 s
  | .pldMaxabs x0 x1 x2 x3 => Sys2Proof.Machine.execPldMaxabs x0 x1 x2 x3 s
  | .pldAnd x0 x1 x2 x3 => Sys2Proof.Machine.execPldAnd x0 x1 x2 x3 s
  | .pldOr x0 x1 x2 x3 => Sys2Proof.Machine.execPldOr x0 x1 x2 x3 s
  | .pldXor x0 x1 x2 x3 => Sys2Proof.Machine.execPldXor x0 x1 x2 x3 s
  | .pst x0 x1 x2 x3 => Sys2Proof.Machine.execPst x0 x1 x2 x3 s
  | .prun x0 x1 x2 x3 => Sys2Proof.Machine.execPrun x0 x1 x2 x3 s
  | .amoAdd x0 x1 x2 => Sys2Proof.Machine.execAmoAdd x0 x1 x2 s
  | .amoSwap x0 x1 x2 => Sys2Proof.Machine.execAmoSwap x0 x1 x2 s
  | .amoMax x0 x1 x2 => Sys2Proof.Machine.execAmoMax x0 x1 x2 s
  | .amoMin x0 x1 x2 => Sys2Proof.Machine.execAmoMin x0 x1 x2 s
  | .amoMaxu x0 x1 x2 => Sys2Proof.Machine.execAmoMaxu x0 x1 x2 s
  | .amoMinu x0 x1 x2 => Sys2Proof.Machine.execAmoMinu x0 x1 x2 s
  | .amoAnd x0 x1 x2 => Sys2Proof.Machine.execAmoAnd x0 x1 x2 s
  | .amoOr x0 x1 x2 => Sys2Proof.Machine.execAmoOr x0 x1 x2 s
  | .amoXor x0 x1 x2 => Sys2Proof.Machine.execAmoXor x0 x1 x2 s
  | .amoCas x0 x1 x2 => Sys2Proof.Machine.execAmoCas x0 x1 x2 s
  | .vamoAdd x0 x1 x2 => Sys2Proof.Machine.execVamoAdd x0 x1 x2 s
  | .vamoSwap x0 x1 x2 => Sys2Proof.Machine.execVamoSwap x0 x1 x2 s
  | .vamoMax x0 x1 x2 => Sys2Proof.Machine.execVamoMax x0 x1 x2 s
  | .vamoMin x0 x1 x2 => Sys2Proof.Machine.execVamoMin x0 x1 x2 s
  | .vamoMaxu x0 x1 x2 => Sys2Proof.Machine.execVamoMaxu x0 x1 x2 s
  | .vamoMinu x0 x1 x2 => Sys2Proof.Machine.execVamoMinu x0 x1 x2 s
  | .vamoAnd x0 x1 x2 => Sys2Proof.Machine.execVamoAnd x0 x1 x2 s
  | .vamoOr x0 x1 x2 => Sys2Proof.Machine.execVamoOr x0 x1 x2 s
  | .vamoXor x0 x1 x2 => Sys2Proof.Machine.execVamoXor x0 x1 x2 s
  | .vlock x0 x1 x2 => Sys2Proof.Machine.execVlock x0 x1 x2 s
  | .waitvAny x0 x1 x2 x3 => Sys2Proof.Machine.execWaitvAny x0 x1 x2 x3 s
  | .waitvAll x0 x1 x2 x3 => Sys2Proof.Machine.execWaitvAll x0 x1 x2 x3 s
  | .waitvSatisfied x0 => Sys2Proof.Machine.execWaitvSatisfied x0 s
  | .bara x0 x1 => Sys2Proof.Machine.execBara x0 x1 s
  | .baraG x0 x1 => Sys2Proof.Machine.execBaraG x0 x1 s
  | .barw x0 x1 => Sys2Proof.Machine.execBarw x0 x1 s
  | .barwG x0 x1 => Sys2Proof.Machine.execBarwG x0 x1 s
  | .baraw x0 x1 => Sys2Proof.Machine.execBaraw x0 x1 s
  | .barawG x0 x1 => Sys2Proof.Machine.execBarawG x0 x1 s
  | .barrierWake x0 => Sys2Proof.Machine.execBarrierWake x0 s
  | .tbinit x0 x1 => Sys2Proof.Machine.execTbinit x0 x1 s
  | .tbexp x0 x1 => Sys2Proof.Machine.execTbexp x0 x1 s
  | .tbarr x0 => Sys2Proof.Machine.execTbarr x0 s
  | .tbwait x0 x1 => Sys2Proof.Machine.execTbwait x0 x1 s
  | .tbwaitWake x0 => Sys2Proof.Machine.execTbwaitWake x0 s
  | .vsint x0 x1 x2 => Sys2Proof.Machine.execVsint x0 x1 x2 s
  | .fenceSv => Sys2Proof.Machine.execFenceSv s
  | .fenceVs => Sys2Proof.Machine.execFenceVs s
  | .fenceVv => Sys2Proof.Machine.execFenceVv s
  | .fenceXp => Sys2Proof.Machine.execFenceXp s
  | .fenceSt => Sys2Proof.Machine.execFenceSt s
  | .fenceF => Sys2Proof.Machine.execFenceF s
  | .qfence x0 => Sys2Proof.Machine.execQfence x0 s
  | .cpy x0 x1 x2 => Sys2Proof.Machine.execCpy x0 x1 x2 s
  | .cpyQ x0 x1 x2 => Sys2Proof.Machine.execCpyQ x0 x1 x2 s
  | .cpyG x0 x1 x2 => Sys2Proof.Machine.execCpyG x0 x1 x2 s
  | .lns x0 => Sys2Proof.Machine.execLns x0 s
  | .pmld x0 x1 => Sys2Proof.Machine.execPmld x0 x1 s
  | .cgld x0 x1 => Sys2Proof.Machine.execCgld x0 x1 s
  | .cgrun x0 x1 => Sys2Proof.Machine.execCgrun x0 x1 s
  | .cgfree x0 => Sys2Proof.Machine.execCgfree x0 s
  | .fld x0 x1 x2 => Sys2Proof.Machine.execFld x0 x1 x2 s
  | .fst x0 x1 x2 => Sys2Proof.Machine.execFst x0 x1 x2 s
  | .fldrSum x0 x1 x2 => Sys2Proof.Machine.execFldrSum x0 x1 x2 s
  | .fldrMax x0 x1 x2 => Sys2Proof.Machine.execFldrMax x0 x1 x2 s
  | .fldrMin x0 x1 x2 => Sys2Proof.Machine.execFldrMin x0 x1 x2 s
  | .fred x0 x1 x2 => Sys2Proof.Machine.execFred x0 x1 x2 s
  | .badd x0 x1 x2 x3 x4 => Sys2Proof.Machine.execBadd x0 x1 x2 x3 x4 s
  | .bsub x0 x1 x2 x3 x4 => Sys2Proof.Machine.execBsub x0 x1 x2 x3 x4 s
  | .bmul x0 x1 x2 x3 x4 => Sys2Proof.Machine.execBmul x0 x1 x2 x3 x4 s
  | .bmin x0 x1 x2 x3 x4 => Sys2Proof.Machine.execBmin x0 x1 x2 x3 x4 s
  | .bmax x0 x1 x2 x3 x4 => Sys2Proof.Machine.execBmax x0 x1 x2 x3 x4 s
  | .band x0 x1 x2 x3 => Sys2Proof.Machine.execBand x0 x1 x2 x3 s
  | .bor x0 x1 x2 x3 => Sys2Proof.Machine.execBor x0 x1 x2 x3 s
  | .bxor x0 x1 x2 x3 => Sys2Proof.Machine.execBxor x0 x1 x2 x3 s
  | .bfma x0 x1 x2 x3 x4 => Sys2Proof.Machine.execBfma x0 x1 x2 x3 x4 s
  | .bcmpeq x0 x1 x2 x3 x4 => Sys2Proof.Machine.execBcmpeq x0 x1 x2 x3 x4 s
  | .bcmplt x0 x1 x2 x3 x4 => Sys2Proof.Machine.execBcmplt x0 x1 x2 x3 x4 s
  | .bcmple x0 x1 x2 x3 x4 => Sys2Proof.Machine.execBcmple x0 x1 x2 x3 x4 s
  | .bsel x0 x1 x2 x3 => Sys2Proof.Machine.execBsel x0 x1 x2 x3 s
  | .brld x0 x1 x2 => Sys2Proof.Machine.execBrld x0 x1 x2 s
  | .brst x0 x1 x2 => Sys2Proof.Machine.execBrst x0 x1 x2 s
  | .bskip x0 x1 x2 => Sys2Proof.Machine.execBskip x0 x1 x2 s
  | .byield => Sys2Proof.Machine.execByield s
  | .bend => Sys2Proof.Machine.execBend s
  | .bjmp x0 => Sys2Proof.Machine.execBjmp x0 s
  | .lnch x0 x1 => Sys2Proof.Machine.execLnch x0 x1 s
  | .lwait x0 x1 => Sys2Proof.Machine.execLwait x0 x1 s
  | .tdef x0 x1 => Sys2Proof.Machine.execTdef x0 x1 s
  | .tldf x0 x1 => Sys2Proof.Machine.execTldf x0 x1 s
  | .strs x0 => Sys2Proof.Machine.execStrs x0 s
  | .strd x0 x1 => Sys2Proof.Machine.execStrd x0 x1 s
  | .pdef x0 x1 => Sys2Proof.Machine.execPdef x0 x1 s
  | .grpinfo x0 x1 => Sys2Proof.Machine.execGrpinfo x0 x1 s
  | .grpidx x0 x1 x2 => Sys2Proof.Machine.execGrpidx x0 x1 x2 s
  | .trap x0 => Sys2Proof.Machine.execTrap x0 s
  | .rett => Sys2Proof.Machine.execRett s
  | .tlbinv x0 => Sys2Proof.Machine.execTlbinv x0 s
  | .preqPowerDown x0 x1 => Sys2Proof.Machine.execPreqPowerDown x0 x1 s
  | .preqSelfRefresh x0 x1 => Sys2Proof.Machine.execPreqSelfRefresh x0 x1 s
  | .preqWake x0 x1 => Sys2Proof.Machine.execPreqWake x0 x1 s
  | .preqSetIsland x0 x1 => Sys2Proof.Machine.execPreqSetIsland x0 x1 s
  | .preqEndSlice x0 x1 => Sys2Proof.Machine.execPreqEndSlice x0 x1 s
  | .hint x0 x1 => Sys2Proof.Machine.execHint x0 x1 s
  | .storePerformed x0 => Sys2Proof.Machine.execStorePerformed x0 s
  | .faultSafePoint x0 => Sys2Proof.Machine.execFaultSafePoint x0 s
  | .vectorCompletion x0 => Sys2Proof.Machine.execVectorCompletion x0 s
  | .commandRelease x0 => Sys2Proof.Machine.execCommandRelease x0 s
  | .trapEntry x0 => Sys2Proof.Machine.execTrapEntry x0 s
  | .hostLaunch x0 => Sys2Proof.Machine.execHostLaunch x0 s
  | .taskPlacement x0 => Sys2Proof.Machine.execTaskPlacement x0 s
  | .coresidentPlacement x0 => Sys2Proof.Machine.execCoresidentPlacement x0 s
  | .completionReport x0 => Sys2Proof.Machine.execCompletionReport x0 s
  | .hostCompletionRecord x0 x1 => Sys2Proof.Machine.execHostCompletionRecord x0 x1 s
  | .sleepExpiry x0 => Sys2Proof.Machine.execSleepExpiry x0 s
  | .lwaitReport x0 => Sys2Proof.Machine.execLwaitReport x0 s
  | .copyCommandStart x0 => Sys2Proof.Machine.execCopyCommandStart x0 s
  | .copyPerformed x0 => Sys2Proof.Machine.execCopyPerformed x0 s
  | .copyCompletion x0 => Sys2Proof.Machine.execCopyCompletion x0 s
  | .runToNmu x0 => Sys2Proof.Machine.execRunToNmu x0 s
  | .nmuRunStart x0 => Sys2Proof.Machine.execNmuRunStart x0 s
  | .forcedYield x0 => Sys2Proof.Machine.execForcedYield x0 s
  | .memberActivation x0 => Sys2Proof.Machine.execMemberActivation x0 s
  | .bankTimeout x0 => Sys2Proof.Machine.execBankTimeout x0 s
  | .deltaApplication x0 => Sys2Proof.Machine.execDeltaApplication x0 s
  | .scatterAddChainApply x0 => Sys2Proof.Machine.execScatterAddChainApply x0 s
  | .snapshotFetch x0 x1 => Sys2Proof.Machine.execSnapshotFetch x0 x1 s
  | .graphRunStart x0 => Sys2Proof.Machine.execGraphRunStart x0 s
  | .chunkFire x0 x1 => Sys2Proof.Machine.execChunkFire x0 x1 s
  | .chunkOpCompletion x0 x1 => Sys2Proof.Machine.execChunkOpCompletion x0 x1 s
  | .receiveTimeout x0 x1 => Sys2Proof.Machine.execReceiveTimeout x0 x1 s
  | .graphRunEnd x0 => Sys2Proof.Machine.execGraphRunEnd x0 s
  | .flitReceive x0 x1 => Sys2Proof.Machine.execFlitReceive x0 x1 s
  | .replayRequest x0 x1 => Sys2Proof.Machine.execReplayRequest x0 x1 s
  | .packetReceive x0 => Sys2Proof.Machine.execPacketReceive x0 s
  | .ackReceive x0 => Sys2Proof.Machine.execAckReceive x0 s
  | .rejectReceive x0 => Sys2Proof.Machine.execRejectReceive x0 s
  | .ackSend x0 x1 => Sys2Proof.Machine.execAckSend x0 x1 s
  | .retransmitTimeout x0 x1 x2 => Sys2Proof.Machine.execRetransmitTimeout x0 x1 x2 s
  | .sequenceExhausted x0 => Sys2Proof.Machine.execSequenceExhausted x0 s
  | .getVersion x0 => Sys2Proof.Machine.execGetVersion x0 s
  | .getCapabilities x0 => Sys2Proof.Machine.execGetCapabilities x0 s
  | .negotiateAlgorithms x0 x1 => Sys2Proof.Machine.execNegotiateAlgorithms x0 x1 s
  | .getDigests x0 => Sys2Proof.Machine.execGetDigests x0 s
  | .getCertificate x0 x1 => Sys2Proof.Machine.execGetCertificate x0 x1 s
  | .challenge x0 x1 x2 => Sys2Proof.Machine.execChallenge x0 x1 x2 s
  | .getMeasurements x0 x1 x2 x3 => Sys2Proof.Machine.execGetMeasurements x0 x1 x2 x3 s
  | .keyExchange x0 x1 x2 => Sys2Proof.Machine.execKeyExchange x0 x1 x2 s
  | .finish x0 x1 x2 => Sys2Proof.Machine.execFinish x0 x1 x2 s
  | .heartbeat x0 x1 => Sys2Proof.Machine.execHeartbeat x0 x1 s
  | .keyUpdate x0 x1 => Sys2Proof.Machine.execKeyUpdate x0 x1 s
  | .endSession x0 x1 => Sys2Proof.Machine.execEndSession x0 x1 s
  | .chunkSend x0 x1 x2 x3 => Sys2Proof.Machine.execChunkSend x0 x1 x2 x3 s
  | .chunkGet x0 x1 => Sys2Proof.Machine.execChunkGet x0 x1 s
  | .unsupportedRequest x0 x1 => Sys2Proof.Machine.execUnsupportedRequest x0 x1 s
  | .sessionTimeout x0 => Sys2Proof.Machine.execSessionTimeout x0 s
  | .prepare x0 => Sys2Proof.Machine.execPrepare x0 s
  | .ready x0 x1 => Sys2Proof.Machine.execReady x0 x1 s
  | .go x0 => Sys2Proof.Machine.execGo x0 s
  | .done x0 x1 => Sys2Proof.Machine.execDone x0 x1 s
  | .leave x0 => Sys2Proof.Machine.execLeave x0 s
  | .failReport x0 x1 => Sys2Proof.Machine.execFailReport x0 x1 s
  | .rekeyRequest x0 => Sys2Proof.Machine.execRekeyRequest x0 s
  | .readyTimeout x0 => Sys2Proof.Machine.execReadyTimeout x0 s
  | .partitionCreation x0 x1 => Sys2Proof.Machine.execPartitionCreation x0 x1 s
  | .partitionTeardown x0 => Sys2Proof.Machine.execPartitionTeardown x0 s
  | .partitionTableWrite x0 x1 => Sys2Proof.Machine.execPartitionTableWrite x0 x1 s
  | .budgetWrite x0 x1 => Sys2Proof.Machine.execBudgetWrite x0 x1 s
  | .ringmasterTlbInvalidation x0 => Sys2Proof.Machine.execRingmasterTlbInvalidation x0 s
  | .runtimeRepair x0 x1 x2 => Sys2Proof.Machine.execRuntimeRepair x0 x1 x2 s
  | .sliceEnd x0 => Sys2Proof.Machine.execSliceEnd x0 s
  | .preemption x0 => Sys2Proof.Machine.execPreemption x0 s
  | .restore x0 => Sys2Proof.Machine.execRestore x0 s
  | .stripGrant x0 x1 => Sys2Proof.Machine.execStripGrant x0 x1 s
  | .arbitrationPeriod x0 => Sys2Proof.Machine.execArbitrationPeriod x0 s
  | .networkPeriod x0 => Sys2Proof.Machine.execNetworkPeriod x0 s
  | .parkEntry x0 => Sys2Proof.Machine.execParkEntry x0 s
  | .parkExit x0 => Sys2Proof.Machine.execParkExit x0 s
  | .scrub x0 => Sys2Proof.Machine.execScrub x0 s
  | .thermalThrottle x0 x1 => Sys2Proof.Machine.execThermalThrottle x0 x1 s
  | .thermalTrip x0 x1 => Sys2Proof.Machine.execThermalTrip x0 x1 s
  | .packageReset x0 => Sys2Proof.Machine.execPackageReset x0 s
  | .checkpoint x0 x1 => Sys2Proof.Machine.execCheckpoint x0 x1 s
  | .clk => Sys2Proof.Machine.execClk s
  | .sublinkLosesTraining x0 => Sys2Proof.Machine.execSublinkLosesTraining x0 s
  | .softError x0 x1 => Sys2Proof.Machine.execSoftError x0 x1 s
  | .changeOfFrequency x0 x1 => Sys2Proof.Machine.execChangeOfFrequency x0 x1 s
  | .heartbeatPeriod x0 => Sys2Proof.Machine.execHeartbeatPeriod x0 s

end Sys2Proof.Machine
end

