-- ==== Sys2Proof/Machine/Fetch.lean ====
section
/-!
DEFINITION. Instruction fetch of contexts and NMUs (R132, R322, R338, R429), the model's own order of moves, and a one-word program.
-/

namespace Sys2Proof.Machine

open Sys2Proof.Config

/-! ### Contexts -/

/-- The words that the instruction cache of a pair holds, 64 KiB (R14, R132). -/
def icacheWords : Nat := 16384

/-- The word at physical address a enters the pair's instruction cache, and the oldest leaves a full one. (DEDUCED, log 13) -/
def Mach.cacheWord (m : Mach) (c a w : Nat) : Mach :=
  m.updPair (pairOf c) fun p => { p with icache := ((a, BitVec.ofNat 32 w) :: p.icache).take icacheWords }

/-- The word at context c's PC, through the pair's instruction cache (R132): the machine with the cache filled, and the word. A fetch that
the cache does not serve fills the TLB and counts no TRANSLATE (R455), a poisoned word is MEM_POISON, and a parked PC is waited for (R310).
A walk for it waits for older buffered atomics (R186). (DEDUCED, log 13; DEDUCED, log 14) -/
def Mach.fetch (m : Mach) (c : Nat) : Except Stop (Mach × Nat) :=
  let pc := (m.ctx c).pc.toNat
  if m.walkWaits c pc 4 then hold m else
  match m.resolve c kFetch pc 4 .no with
  | .error f => raise m f
  | .ok ss =>
    let at_ := match ss with
      | [(.pa a, _)] => some a
      | _ => none
    match at_.bind fun a => ((m.pair (pairOf c)).icache.find? fun e => e.1 == a).map Prod.snd with
    | some w => .ok (m, w.toNat)
    | none =>
      if ss.any fun s => match s.1 with | .pa a => ((m.keyOf a).map m.parkedKey).getD false | _ => false then hold m else
      match m.poisonSegs 0 ss with
      | some p => raise m (fltPoison (pc + p.1) p.2 0)
      | none =>
        let w := leVal (m.readSegs ss)
        let m := ((m.eccRead ss).fillTlb c pc).fillTlb c (pc + 3)
        .ok (match at_ with | some a => m.cacheWord c a w | none => m, w)

/-- Whether a context may issue: it runs a task, its issue is not stopped, and no trap waits. -/
def Mach.runnable (m : Mach) (c : Nat) : Bool :=
  let x := m.ctx c
  x.status == .running && !x.halted && x.pendTrap.isNone

noncomputable section

/-- The request of `preq` that a word stands for, by the code in X[A] (R449). A code that names none is answered with a status.
(DEDUCED, log 77) -/
def resolve (i : Instr) (x : Ctx) : Instr :=
  match i with
  | .preqPowerDown a b => match (x.rx a.toNat).toNat with
    | 2 => .preqSelfRefresh a b
    | 3 => .preqWake a b
    | 4 => .preqSetIsland a b
    | 5 => .preqEndSlice a b
    | _ => i
  | _ => i

/-- The acting context, and the word it executes. -/
def Mach.issue (m : Mach) (c : Nat) (lag : Bool) (w : Nat) : Mach :=
  ({ m with cur := c, lag := lag } : Mach).updCtx c fun x => { x with ir := BitVec.ofNat 32 w }

/-- Execution of a fetched word: its meaning, or ILLEGAL_INSTR (R322). -/
def execWord (w : Nat) (s : State) : Out :=
  match decode w with
  | .ok i => exec (resolve i s.m.me) s
  | .error k => onMach s fun m => m.scalarTrap (fltInstr k)

/-- Whether an event goes on after a thermal trip: what the IOD's always-on control and the links do, management traffic, and the next
reset (R466). (DEDUCED, log 73) -/
def goesOn (i : Instr) : Bool :=
  match i with
  | .clk | .packageReset _ | .thermalThrottle _ _ | .thermalTrip _ _ => true
  | .sublinkLosesTraining _ | .replayRequest _ _ | .flitReceive _ _ | .ackReceive _ | .rejectReceive _ => true
  | .packetReceive p => p.uns || p.cls == clsMgmt
  | .ackSend _ cls => cls == clsMgmt
  | .retransmitTimeout _ cls _ => cls == clsMgmt
  | .getVersion _ | .getCapabilities _ | .negotiateAlgorithms _ _ | .getDigests _ | .getCertificate _ _ | .challenge _ _ _ => true
  | .getMeasurements _ _ _ _ | .keyExchange _ _ _ | .finish _ _ _ | .heartbeat _ _ | .keyUpdate _ _ | .endSession _ _ => true
  | .chunkSend _ _ _ _ | .chunkGet _ _ | .unsupportedRequest _ _ | .sessionTimeout _ | .heartbeatPeriod _ => true
  | _ => false

/-- The same of a move. -/
def Move.goesOn (mv : Move) : Bool :=
  match mv with
  | .ev i => Machine.goesOn i
  | .net (.request _ _ _) => true
  | .net (.read _ _) => true
  | .net (.readIsland _) => true
  | _ => false

/-- A context executes the instruction at its PC; a fault of the fetch is taken there (R338). (DEDUCED, log 14) -/
def runCtx (c : Nat) (lag : Bool) (s : State) : Out :=
  if !s.m.runnable c then .next s else
  match s.m.fetch c with
  | .error (.trap f _) => onMach s fun m => (m.issue c lag 0).scalarTrap f
  | .error (.wait _) => .next s
  | .ok r => execWord r.2 { s with m := r.1.issue c lag r.2 }

/-! ### NMUs -/

/-- An NMU executes the word at its run's fetch address (R322, R429). -/
def runNmu (n : Nat) (s : State) : Out :=
  match (s.m.nmu n).cur with
  | none => .next s
  | some r =>
    let s := { s with m := { s.m with ncur := n } }
    let w := (cget (s.m.nmu n).store r.at_).toNat
    if 512 ≤ r.at_ then nmuBad s
    else if 0xF0 ≤ w / 2 ^ 24 && w / 2 ^ 24 ≤ 0xF7 then nmuHint s
    else match decodeB w with
      | some i => exec i s
      | none => nmuBad s

/-- After a move, sleeping `waitv` instructions look at what they watch (R410), the agent's messages and the packets that can leave do.
(DEDUCED, log 32; DESIGN CHOICE, log 38) -/
def afterMove (r : Out) : Out :=
  match r with
  | .next s => let t := s.mail
    .next { t with m := t.m.watch.pump }
  | r => r

/-! ### The model's own order of moves -/

/-- The steps that may be due for a context. -/
def ctxMoves (m : Mach) (c : Nat) : List Instr :=
  let x := m.ctx c
  [.storePerformed c, .faultSafePoint c, .vectorCompletion c, .commandRelease c, .trapEntry c, .copyCommandStart c, .copyPerformed c,
   .copyCompletion c, .runToNmu c, .barrierWake c, .tbwaitWake c, .waitvSatisfied c, .lwaitReport c, .sleepExpiry c, .bankTimeout c] ++
  ((x.snapReqs.filter fun r => r.snap.isNone).map fun r => .snapshotFetch (pairOf c) r.tid) ++
  (if x.halted || ((m.cast x.task.q x.task.cast).map Cast.sliced).getD false then [.preemption c] else [])

/-- The steps of partitions, launches and completions. -/
def placerMoves (m : Mach) : List Instr :=
  m.parts.flatMap (fun e => [.taskPlacement e.1, .coresidentPlacement e.1]) ++ m.windows.map (fun w => .completionReport w.l) ++
  m.hostRecs.map (fun h => .hostCompletionRecord h.q h.slot) ++ (List.range m.saved.length).map (fun k => .restore k)

/-- The steps of pairs and memory. -/
def memoryMoves (m : Mach) : List Instr :=
  m.pairs.flatMap (fun e => [.deltaApplication e.1, .stripGrant e.1 0, .stripGrant e.1 1, .stripGrant e.1 2]) ++
  m.chains.map (fun c => .scatterAddChainApply c.port) ++
  m.nmus.flatMap (fun e => [.nmuRunStart e.1, .forcedYield e.1, .parkEntry e.1] ++
    (if e.2.power != .awake && (!e.2.queue.isEmpty || m.ctxs.any fun x => x.2.status != .idle) then [.parkExit e.1] else [])) ++
  m.pacts.map (fun a => .memberActivation a.stack)

/-- The steps of Carousel and of the fabric. -/
def fabricMoves (m : Mach) : List Instr :=
  (m.slots.zipIdx.flatMap fun k => [.graphRunStart k.2, .graphRunEnd k.2] ++
    (List.range k.1.ops.length).flatMap fun o => [.chunkFire k.2 o, .chunkOpCompletion k.2 o, .receiveTimeout k.2 o]) ++
  m.troupe.ackDue.map (fun a => .ackSend a.1 a.2) ++ m.troupe.txq.map (fun p => .retransmitTimeout p.dst p.cls p.seq)

/-- The move the model makes when its agenda is empty, in turn over contexts, NMUs and every step that may be due; a step that is
not due changes nothing. (DESIGN CHOICE, log 3) -/
def State.auto (s : State) : Move :=
  let m := s.m
  let k := s.tick / 4
  let pick := fun (l : List Move) => l.getD (k % l.length) (.ev .clk)
  let busy := (m.ctxs.filter fun e => e.2.status != .idle).map Prod.fst
  match s.tick % 4 with
  | 0 => pick ((busy.map fun c => .run c false) ++ (m.nmus.filter fun e => e.2.cur.isSome).map fun e => .nmu e.1)
  | 1 => pick (busy.flatMap fun c => (ctxMoves m c).map .ev)
  | 2 => pick ((placerMoves m ++ memoryMoves m ++ fabricMoves m).map .ev)
  | _ => .ev .clk

end

/-! ### A one-word program -/

/-- The virtual address of the word: a page of the first interleaved gigabyte of partition 0, mapped from address 0. -/
def wordVa : Nat := 0x1000

/-- The partition a one-word program runs in: pair 0 and port group 0, all of its memory interleaved. -/
def wordPart : PartEntry where
  bklim := 0
  slice := 0
  xbar := 1
  pgrp := 1
  subl := 0
  pairs := 1
  ptroot := 0x400000010000
  titbase := 0x400000040000
  recbase := 0x400000080000
  bstbase := 0x400000020000

/-- The header of the launch that a one-word program stands for. -/
def wordHdr : Hdr := ⟨wordVa, 0, 2 ^ 32, 0, 0, 1, false, false, 0, 0, 0, 0, 0, 0, 0⟩

/-- The partition with its one task placed. -/
def wordParts : Tab Part := [(0, ⟨wordPart, [⟨0, wordHdr, .host 0 0, 0, 1, 0, 0, [], [], false⟩], 1, 0, 0, [], []⟩)]

/-- Page tables that map the first gigabyte, readable, writable and executable, and the word. -/
def Mach.mapWord (m : Mach) (w : Nat) : Mach :=
  let il := 0x400000000000
  let m := m.pokePa (il + 0x10000) (leBytes 8 (il + 0x11001))
  let m := m.pokePa (il + 0x11000) (leBytes 8 (il + 0x12001))
  let m := m.pokePa (il + 0x12000) (leBytes 8 (il + 0xF))
  m.pokePa (il + wordVa) (leBytes 4 w)

/-- Loads a word for a pair: it is the program of the one task of partition 0, on context 0, and context 0 moves next. (DEDUCED, log 4) -/
def State.placeWordCtx (s : State) (w : Nat) : State :=
  let m := { s.m with parts := wordParts, windows := [⟨.host 0 0, 1, 0, [], [], false⟩], ctxs := [(0, startCtx wordHdr ⟨0, 0, 0, 1⟩ 0)],
                      pairs := [(0, { Pair.reset with icasts := [(0, 0)], bars := [⟨0, 0, [], 0⟩], barNo := 1 })] }
  { s with m := m.mapWord w, plat := { s.plat with tripped := false }, agenda := [.run 0 false] }

/-- Loads a b-class word for NMU 0: it is word 0 of the store, a run stands at it, and NMU 0 moves next. -/
def State.placeWordNmu (s : State) (w : Nat) : State :=
  let run : Run := ⟨0, 0, 0, 0, 0, 0, 0, 0, 0, 0, 0, 0, 0, 0⟩
  let u : Nmu := { Nmu.reset with store := cset [] 0 (BitVec.ofNat 32 w), cur := some ⟨run, 0, 0, true⟩, k := vecSet Nmu.reset.k 0 0xFFFF }
  let m := { s.m with parts := wordParts, ctxs := [(0, startCtx wordHdr ⟨0, 0, 0, 1⟩ 0)], nmus := [(0, u)] }
  { s with m := m.mapWord 0, plat := { s.plat with tripped := false }, agenda := [.nmu 0] }

end Sys2Proof.Machine
end

