-- ==== Sys2Proof/Machine/Step.lean ====
section
/-!
DEFINITION. One step of the device, and how a word comes to stand where the next step fetches. A step makes one move: a context
executes the instruction at its PC, an NMU executes the word at its fetch address, or a device step of the opcode table happens. The
agenda names the moves that come next; when it is empty the model makes its own choice, in turn over everything that can move.
-/

namespace Sys2Proof.Machine

noncomputable section

/-- What a move does; after a thermal trip most do nothing (R466). (DESIGN CHOICE, log 76) -/
def runMove (mv : Move) (s : State) : Host.Outcome State Fault Refusal :=
  if s.plat.tripped && !mv.goesOn then .next s else
  match mv with
  | .run c lag => if c < 1024 then runCtx c lag s else .fault (.noSuchAgent c)
  | .nmu n => if n < 1024 then runNmu n s else .fault (.noSuchAgent n)
  | .ev i => exec i s
  | .join n key chain meas chal sig h => .next (s.join n key chain meas chal sig h)
  | .net e => .next (netMove e s)

/-- The move that comes next, and the state without it on the agenda. (DESIGN CHOICE, log 3) -/
def nextMove (s : State) : Move × State :=
  match s.agenda with
  | mv :: rest => (mv, { s with agenda := rest, tick := s.tick + 1 })
  | [] => (s.auto, { s with tick := s.tick + 1 })

/-- One step. -/
def step (s : State) : Host.Outcome State Fault Refusal :=
  afterMove (runMove (nextMove s).1 (nextMove s).2)

/-- Puts a word of nbits bits where the next step fetches it: into the instruction page of a task running on context 0, or, for a
b-class word, into the store of NMU 0 under a run. It stands for the launch of a one-word program. (DEDUCED, log 4) -/
def State.withFetchWord (s : State) (nbits w : Nat) : State :=
  if isBWord w then s.placeWordNmu (w % 2 ^ nbits) else s.placeWordCtx (w % 2 ^ nbits)

end

end Sys2Proof.Machine
end

