-- ==== Sys2Proof/Safety.lean ====
section
/-!
DEFINITION. The terms the statements use: the registers of the context that acts, when it may execute, the state an instruction
leaves, and what is not to change.
-/

namespace Sys2Proof

/-- The computations of the scalar side: destination and registers named (R327 to R330). -/
def Instr.computes : Instr → Option (BitVec 5 × List (BitVec 5))
  | .add d a b => some (d, [d, a, b])
  | .sub d a b => some (d, [d, a, b])
  | .mul d a b => some (d, [d, a, b])
  | .mulh d a b => some (d, [d, a, b])
  | .mulhu d a b => some (d, [d, a, b])
  | .div d a b => some (d, [d, a, b])
  | .divu d a b => some (d, [d, a, b])
  | .rem d a b => some (d, [d, a, b])
  | .remu d a b => some (d, [d, a, b])
  | .and d a b => some (d, [d, a, b])
  | .or d a b => some (d, [d, a, b])
  | .xor d a b => some (d, [d, a, b])
  | .sll d a b => some (d, [d, a, b])
  | .srl d a b => some (d, [d, a, b])
  | .sra d a b => some (d, [d, a, b])
  | .slt d a b => some (d, [d, a, b])
  | .sltu d a b => some (d, [d, a, b])
  | .min d a b => some (d, [d, a, b])
  | .max d a b => some (d, [d, a, b])
  | .minu d a b => some (d, [d, a, b])
  | .maxu d a b => some (d, [d, a, b])
  | .sel d a b => some (d, [d, a, b])
  | .faddS d a b => some (d, [d, a, b])
  | .fsubS d a b => some (d, [d, a, b])
  | .fmulS d a b => some (d, [d, a, b])
  | .fdivS d a b => some (d, [d, a, b])
  | .fminS d a b => some (d, [d, a, b])
  | .fmaxS d a b => some (d, [d, a, b])
  | .fltS d a b => some (d, [d, a, b])
  | .fleS d a b => some (d, [d, a, b])
  | .feqS d a b => some (d, [d, a, b])
  | .clz d a => some (d, [d, a])
  | .popc d a => some (d, [d, a])
  | .fcvtSL d a => some (d, [d, a, 0])
  | .fcvtLS d a => some (d, [d, a, 0])
  | .addi d a _ => some (d, [d, a])
  | .andi d a _ => some (d, [d, a])
  | .ori d a _ => some (d, [d, a])
  | .xori d a _ => some (d, [d, a])
  | .slli d a _ => some (d, [d, a])
  | .srli d a _ => some (d, [d, a])
  | .srai d a _ => some (d, [d, a])
  | .slti d a _ => some (d, [d, a])
  | .sltiu d a _ => some (d, [d, a])
  | .lui d _ => some (d, [d])
  | .auipc d _ => some (d, [d])
  | _ => none

end Sys2Proof

namespace Sys2Proof.Machine

/-! ### Scalar side -/

/-- Xn of the context that acts (R92). -/
def State.x (s : State) (n : BitVec 5) : Word := s.m.me.rx n.toNat

/-- The context that acts may execute a scalar-side instruction that names rs: its issue is not stopped, no trap is pending, no
older vector-side instruction holds one of rs, and the undo log has room (R109, R111, R347). -/
def State.ready (s : State) (rs : List (BitVec 5)) : Prop := s.m.me.ready (rs.map BitVec.toNat) = true

/-- The state after an instruction that writes v to Xd and goes on at the next instruction. -/
def State.wrote (s : State) (d : BitVec 5) (v : Word) : State := { s with m := (s.m.setX d.toNat v).retire }

/-- The state after an instruction that changes the machine to m and goes on at the next instruction. -/
def State.did (s : State) (m : Mach) : State := { s with m := m.retire }

/-- The state after a fault of a scalar-side instruction (R111, R298). -/
def State.trapped (s : State) (f : Flt) : State := { s with m := s.m.scalarTrap f }

/-- The mode, as RM of MDV (R330). -/
def State.rm (s : State) : Nat := s.m.me.mdvRm

/-- From s to t only the context that acts has changed, and of pairs only event counts (R212) and when their contexts changed a shared
CSR or a grant last (R341, R344). -/
def State.onlyMe (s t : State) : Prop :=
  t = { s with m := { s.m with ctxs := t.m.ctxs, pairs := t.m.pairs } } ∧
  (∀ c, c ≠ s.m.cur → t.m.ctx c = s.m.ctx c) ∧
  ∀ p, t.m.pair p = { s.m.pair p with carry := (t.m.pair p).carry, wrAt := (t.m.pair p).wrAt }

/-- Of a context only X, the PC and what completion itself clears have changed: the undo log, the marks of a handler's first
instruction, of sleep, of stalling and of an access under way, and the arrival record. -/
def Ctx.onlyX (x y : Ctx) : Prop :=
  y = { x with x := y.x, pc := y.pc, undo := y.undo, firstH := y.firstH, sleep := y.sleep, stall := y.stall, kept := y.kept,
               arrival := y.arrival, counted := y.counted, half := y.half, pload := y.pload }

/-- Everything but Xd and the PC is as before. -/
def State.onlyXd (s t : State) (d : BitVec 5) : Prop :=
  s.onlyMe t ∧ s.m.me.onlyX t.m.me ∧ (∀ k, k ≠ d → t.x k = s.x k) ∧ t.m.me.pc = s.m.me.pc + 4

/-- The bits a writable CSR has (R106, R107). -/
def csrField (c : Nat) : Word :=
  if c = 0x03 then 0x1FFFF
  else if c = 0x0E then 0xFFFFFFFF
  else if c = 0x10 then ~~~3
  else if 0x20 ≤ c ∧ c ≤ 0x23 then 0x7FFFFFFF
  else if 0x24 ≤ c ∧ c ≤ 0x27 then 0xFFFFF
  else .allOnes 64

/-! ### Scalar memory -/

/-- A scalar load: the instruction, the bytes it reads, the value that it writes of them, and whether it is an acquire (R331, R333). -/
structure LoadForm where
  instr : Instr
  bytes : Nat
  value : Nat → Word
  acq   : Bool

def loadForms (d a : BitVec 5) (i : BitVec 12) : List LoadForm :=
  [⟨.ldB d a i, 1, fun v => .ofInt 64 (sx 8 v), false⟩, ⟨.ldBu d a i, 1, .ofNat 64, false⟩, ⟨.ldH d a i, 2, fun v => .ofInt 64 (sx 16 v), false⟩,
   ⟨.ldHu d a i, 2, .ofNat 64, false⟩, ⟨.ldW d a i, 4, fun v => .ofInt 64 (sx 32 v), false⟩, ⟨.ldWu d a i, 4, .ofNat 64, false⟩,
   ⟨.ldD d a i, 8, .ofNat 64, false⟩, ⟨.ldDAq d a i, 8, .ofNat 64, true⟩]

/-- The scalar stores: the instruction and the bytes it writes (R331). -/
def storeForms (d a : BitVec 5) (i : BitVec 12) : List (Instr × Nat) := [(.stB d a i, 1), (.stH d a i, 2), (.stW d a i, 4), (.stD d a i, 8)]

/-- The state after load f has written its value of the bytes bs to Xd; an acquire by context c then takes effect (R270, R333). -/
def State.loaded (s : State) (c : Nat) (f : LoadForm) (d : BitVec 5) (bs : List Byte) : State :=
  let m := s.m.setX d.toNat (f.value (leVal bs))
  s.did (if f.acq then m.acquire c else m)

/-- The machine in which access `key` of the instruction of the context that acts has translated n bytes at va: the TLBs and event
counts note it once (R185, R212). -/
def State.reach (s : State) (key va n : Nat) : Mach := s.m.countKey key fun m => m.touchN s.m.cur va n

/-- Nothing of R151, R159, R253, R261, R264, R269, R270, R310 or R334 makes a scalar load of n bytes at va, from locations ss, wait. -/
def State.loadFree (s : State) (va n : Nat) (ss : List (Loc × Nat)) : Bool :=
  let m := s.reach 0 va n
  m.ownWindowReady s.m.cur ss && !m.chainBusy ss && !m.me.pluralAhead s.m.me.stamp ss && m.me.loadMayGo ss

/-- n bytes at address va resolve, for the context that acts, to the memory locations ss of this chip, and may be read now, in one
step: nothing makes the load wait, none of the bytes is poisoned, and the access has one part, or both are read together (R332). -/
structure State.Readable (s : State) (va n : Nat) (ss : List (Loc × Nat)) : Prop where
  here : (s.reach 0 va n).resolve s.m.cur kRead va n .all = .ok ss
  local_ : ss.findSome? (fun l => apertureOf l.1) = none
  free : s.loadFree va n ss = true
  clean : (s.reach 0 va n).poisonBuf s.m.cur 0 ss = none
  whole : (inParts va n ss).length < 2 ∨ s.m.lag = false ∧ s.m.me.half = none

/-- The bytes a scalar load of locations ss sees: the youngest buffered store of the context over what its home holds (R151). -/
def State.seen (s : State) (va n : Nat) (ss : List (Loc × Nat)) : List Byte :=
  (inParts va n ss).flatMap fun l => (s.reach 0 va n).readBuf s.m.cur l.1 l.2

/-- The state after a scalar read of n bytes at va from locations ss: TLB and event counts, corrected errors, beats and flits (R121,
R162, R163, R185, R212), and no outstanding request of the instruction. -/
def State.touched (s : State) (va n : Nat) (ss : List (Loc × Nat)) : State :=
  let m := (s.reach 0 va n).readCost s.m.cur 0 ss
  { s with m := m.dropReqs m.cur m.me.pc }

/-- Machine m once it has translated n loads of w bytes from va on, numbered from `key`. -/
def Mach.fetched (m : Mach) (key va w n : Nat) : Mach :=
  (List.range n).foldl (fun m i => m.countKey (key + 2 * i) fun m => m.touchN m.cur ((va + w * i) % 2 ^ 64) w) m

/-- An image of n words of w bytes at va, loads numbered from `key`: word i lies at location `loc i` of this chip, and may be read now, in
one step; none of it is poisoned (R151, R159, R253, R261, R270, R334, R445). -/
structure Mach.Image (m : Mach) (win : Win) (key va w n : Nat) (loc : Nat → Loc) : Prop where
  whole : va % w = 0 ∧ (w = 4 ∨ w = 8)
  here : ∀ i < n, (m.fetched key va w (i + 1)).resolve m.cur kRead ((va + w * i) % 2 ^ 64) w win = .ok [(loc i, w)]
  local_ : ∀ i < n, apertureOf (loc i) = none
  free : ∀ i < n, (m.ownWindowReady m.cur [(loc i, w)] && !m.chainBusy [(loc i, w)] && !m.me.pluralAhead m.me.stamp [(loc i, w)] &&
    m.me.loadMayGo [(loc i, w)]) = true
  clean : ∀ i < n, m.poisonBuf m.cur 0 [(loc i, w)] = none

/-- The bytes of an image, as scalar loads see them (R151). -/
def Mach.image (m : Mach) (w n : Nat) (loc : Nat → Loc) : List Byte := (List.range n).flatMap fun i => m.readBuf m.cur (loc i) w

/-- From s to t the instruction has read memory, changed the machine as m shows, and gone on at the next instruction; reading leaves only
its TLB entries, event counts, beats, flits and corrected errors (R121, R162, R163, R185, R212). -/
def State.readsTo (s t : State) (m : Mach) : Prop :=
  t.m.me = (s.did m).m.me ∧ (∀ c, c ≠ s.m.cur → t.m.ctx c = m.ctx c) ∧ t.m.cur = s.m.cur ∧ t.m.mem = m.mem ∧ t.m.slots = m.slots ∧
  t.m.parts = m.parts ∧ t.m.windows = m.windows ∧ t.m.troupe.txq = m.troupe.txq ∧ t.plat = s.plat

/-- Group i of the acting task's cast is g, has the kind, and holds the task (R82). -/
def State.Member (s : State) (i kind : Nat) (g : Group) : Prop :=
  (∃ z, s.m.cast s.m.me.task.q s.m.me.task.cast = some z ∧ z.groups[i]? = some g) ∧ g.kind = kind ∧ kind ≠ 0 ∧
  g.mem.contains s.m.me.task.idx = true

/-- n bytes at address va resolve to locations ss that may be stored to, the store buffer has room (R150), no curtain stalls a store to
another member (R293), and no page walk has to wait for a buffered atomic (R186). -/
structure State.Writable (s : State) (va n : Nat) (ss : List (Loc × Nat)) : Prop where
  here : (s.reach 0 va n).resolve s.m.cur kWrite va n .all = .ok ss
  free : (s.reach 0 va n).ownWindowReady s.m.cur ss = true
  walks : s.m.walkWaits s.m.cur va n = false
  issue : s.m.curtained = false ∨ ∀ l ∈ ss, apertureOf l.1 = none
  room : s.m.me.sb.length < 32

/-- The state after a store of bytes bs to address va: its checked bytes, in parts (R332), are the youngest entry of the store buffer
(R150). -/
def State.buffered (s : State) (va : Nat) (bs : List Byte) (ss : List (Loc × Nat)) : State :=
  s.did ((s.reach 0 va bs.length).buffer .store va (segBytes (inParts va bs.length ss) bs))

/-- The address of a scalar load or store (R331). -/
def State.ea (s : State) (a : BitVec 5) (i : BitVec 12) : Nat := s.m.me.ea a i

/-- The doubleword at va resolves to memory locations ss of this chip, with no walk that waits for a buffered atomic (R186), and none of it is
poisoned (R331, R405). -/
structure State.Atomic (s : State) (va : Nat) (ss : List (Loc × Nat)) : Prop where
  here : (s.reach 0 va 8).resolve s.m.cur kAtomic va 8 .sp = .ok ss
  local_ : ss.findSome? (fun l => apertureOf l.1) = none
  clean : (s.reach 0 va 8).poisonSegs 0 ss = none
  walks : s.m.walkWaits s.m.cur va 8 = false

/-- An atomic may be performed at once (R150, R261, R264, R405): the store buffer is empty, every older vector-side instruction is fault-safe,
no older plural access to memory and no `fence.xp` is left, and no open chain holds the word. -/
def State.first (s : State) (va : Nat) (ss : List (Loc × Nat)) : Bool :=
  s.m.me.sb.isEmpty && !s.m.me.anyUnsafe && !s.m.me.pluralAhead s.m.me.stamp ss && !s.m.me.xpAhead s.m.me.stamp && !(s.reach 0 va 8).chainBusy ss && !s.m.lag

/-- The state after an atomic on the doubleword at locations ss: its new value is stored where `store` says so, and X[D] takes the
old one (R404, R405). -/
def State.atomic (s : State) (va : Nat) (ss : List (Loc × Nat)) (d : BitVec 5) (new : Word → Word) (store : Word → Prop)
    [DecidablePred store] : State :=
  let old : Word := .ofNat 64 (leVal ((s.reach 0 va 8).readSegs ss))
  let m := (s.reach 0 va 8).readCost s.m.cur 0 ss
  s.did ((if store old then m.writeFrom (dieOf s.m.cur) 0 (segBytes ss (leBytes 8 (new old).toNat)) else m).setX d.toNat old)

/-- The state after an atomic f has entered the store buffer, with its operand, its expected value and its register (R150, R405). -/
def State.atomicLater (s : State) (va f : Nat) (ss : List (Loc × Nat)) (d b : BitVec 5) : State :=
  s.did ((s.reach 0 va 8).buffer (.amo f d.toNat (s.x b) (s.x d) s.m.me.pc) va (ss.map fun l => (l.1, [])))

/-! ### Barriers -/

/-- The acting task may use barrier n: a named barrier below the task's reservation, or one of its cast's group barriers (R412). -/
def State.BarOk (s : State) (grp : Bool) (n : Nat) : Prop := s.m.barCheck grp n = .ok ()

/-- Every older store of the context that acts has been performed (R198). -/
def State.StoresDone (s : State) : Prop := s.m.me.sb = [] ∧ s.m.me.anyUnsafe = false ∧ ∀ e ∈ s.m.me.vq, e.op.stores = true → e.done = true

/-- The machine that has translated the address of a transaction barrier. -/
def State.tbTouched (s : State) (a : BitVec 5) : Mach := s.reach 0 (s.x a).toNat 16

/-- The transaction barrier an address leads to, in the machine that has translated it with no walk that waits (R186, R200, R414). -/
def State.TbOk (s : State) (a : BitVec 5) (l : Loc) : Prop :=
  s.m.walkWaits s.m.cur (s.x a).toNat 16 = false ∧ (s.tbTouched a).tbAddr (s.x a).toNat false = .ok l

/-! ### Vector side -/

/-- A fence or join has gone through the vector queue: the PC is past it, the queue is empty, VCP is the next instruction, and the
registers, VSTART and memory are as before (R106, R149). -/
def State.passed (s t : State) : Prop :=
  t.m.me.pc = s.m.me.pc + 4 ∧ t.m.me.vq = [] ∧ t.m.me.vcp = s.m.me.pc + 4 ∧ t.m.me.vstart = s.m.me.vstart ∧ t.m.me.x = s.m.me.x ∧
  t.m.me.vrf = s.m.me.vrf ∧ t.m.mem = s.m.mem ∧ t.plat = s.plat

/-- What an instruction of mode register k captures when it is dispatched now (R101). -/
def State.cap (s : State) (k : Nat) : Cap := s.m.me.capture k

/-- The machine once operation o is dispatched into the empty queue (R146). -/
def State.sent (s : State) (k : Nat) (o : VOp) : Mach := (s.m.enqueue (s.m.me.vent k o)).afterDispatch

/-- The state after operation o, dispatched now, has done to the machine what m shows, and completed (R149): it leaves the queue, VCP
moves on, and VSTART becomes 0. -/
def State.vdid (s : State) (k : Nat) (o : VOp) (m : Mach) : State := { s with m := m.vcomplete s.m.cur (s.m.me.vent k o) }

/-- The state after operation o, dispatched now, has faulted in machine m (R110, R298). -/
def State.vtrapped (s : State) (k : Nat) (o : VOp) (m : Mach) (f : Flt) : State :=
  { s with m := m.vectorTrap s.m.cur (s.m.me.vent k o) f }

/-- A vector-side instruction that names rs may be dispatched and starts at once: the context is ready, the vector queue is empty and
the vector unit free, no older scalar store is buffered, no copy into a register is outstanding, no register is poisoned, and page walks
see every buffered store, as they do between the steps of the device. -/
structure State.Vector (s : State) (rs : List (BitVec 5)) : Prop where
  ready : s.ready rs
  empty : s.m.me.vq = []
  unit_ : s.m.lag = false
  stores : s.m.me.sb = []
  score : ∀ n, nthD 0 s.m.me.score n = 0
  clean : s.m.me.vrPoison = []
  seen : s.m.seen = none

/-- The checks of R352 and R394 that rest on the mode register pass: TYPE assigned, RM assigned, VL within MAXVL of every element size
used, and a valid format register where the type is the narrow float. -/
structure State.Modes (s : State) (k : Cap) (sizes : List Nat) : Prop where
  type : tyCodeOk k.ty = true
  round : k.rm < 6
  fits : ∀ e ∈ sizes, k.vl ≤ s.m.me.maxvlOf e
  fmt : k.ty = 3 → fmtValid k.fmt.toNat = true

/-- The registers name groups of g that exist (R95). -/
def State.Groups (s : State) (g : Nat) (vs : List (BitVec 6)) : Prop := ∀ v ∈ vs, s.m.me.regOk v.toNat g = true

/-- Element i of row r of group v, as the code of k's type that stands in the register (R93, R95). -/
def State.code (s : State) (k : Cap) (v : BitVec 6) (r i : Nat) : Nat :=
  nthD 0 (s.m.me.row (v.toNat + r) k.vl k.size) i % 2 ^ k.tyv.bits

/-- The rows of a result: position i of row r is f r i where element i is active (R98, R101), and is left alone elsewhere. -/
def State.rows {α : Type} (s : State) (k : Cap) (f : Nat → Nat → α) : List (List (Option α)) :=
  (List.range k.g).map fun r => (List.range k.vl).map fun i => if s.m.me.active k i then some (f r i) else none

/-- Operation o writes the exact values f, rounded once, into the active elements of group d (R350, R355). -/
def State.rounds (s : State) (k : Cap) (o : VOp) (d : BitVec 6) (f : Nat → Nat → XV) : Out :=
  .next (s.vdid mdv o (putRounded (s.sent mdv o) k k.tyv k.size d.toNat (s.rows k f)))

/-- Operation o writes the codes f, of element size e, into the active elements of group d. -/
def State.codes (s : State) (k : Cap) (o : VOp) (e : Nat) (d : BitVec 6) (f : Nat → Nat → Nat) : Out :=
  .next (s.vdid mdv o (putCodes (s.sent mdv o) e d.toNat (s.rows k f)))

/-- Operation o writes v to Xd (R347). -/
def State.gives (s : State) (k : Nat) (o : VOp) (d : BitVec 5) (v : Word) : Out :=
  .next (s.vdid k o ((s.sent k o).upd fun x => x.setXAt (s.m.me.stamp + 1) d.toNat v))

/-- Operation o writes bits 0 to VL − 1 of mask d (R98). -/
def State.masks (s : State) (k : Cap) (o : VOp) (d : BitVec 4) (f : Nat → Bool) : Out :=
  .next (s.vdid mdv o ((s.sent mdv o).upd fun x => x.putMask d.toNat ((List.range k.vl).map fun i => some (f i))))

/-! ### Elements of memory accesses -/

/-- A context's registers and queues without what the vector queue itself keeps: the PC, VCP, VSTART, the queue, the undo log, and the
marks of stalls, handlers and sleep, and the TIDs written since the last `fence.st`. -/
def Ctx.arch (x : Ctx) : Ctx :=
  { x with pc := 0, ir := 0, vcp := 0, vstart := 0, vq := [], stamp := 0, undo := [], firstH := false, arrival := none, stall := 0,
           vstall := 0, kept := [], snapReqs := [], wrote := [] }

/-- From s to t a vector-side instruction of the context that acts has been dispatched and has completed (R149), and contexts, memory
and platform are otherwise those of machine w. -/
structure State.ends (s t : State) (w : Mach) : Prop where
  arch : t.m.me.arch = w.me.arch
  mem : t.m.mem = w.mem
  others : ∀ c, c ≠ s.m.cur → t.m.ctx c = w.ctx c
  cur : t.m.cur = s.m.cur
  pc : t.m.me.pc = s.m.me.pc + 4
  empty : t.m.me.vq = []
  vstart : t.m.me.vstart = 0
  plat : t.plat = s.plat

/-- In machine m the elements of an access of kind k, n bytes each, resolve to the locations that `loc` gives, on this chip, and no open
scatter-add chain or parked PC holds them, nor a part of one that is performed by itself (R140, R141, R159, R310, R395). -/
structure Mach.Els (m : Mach) (k n : Nat) (win : Win) (els : List VEl) (loc : VEl → List (Loc × Nat)) : Prop where
  here : ∀ e ∈ els, m.resolve m.cur k e.va n win = .ok (loc e)
  local_ : ∀ e ∈ els, ∀ l ∈ loc e, apertureOf l.1 = none
  free : ∀ e ∈ els, m.chainBusy (loc e) = false ∧ ∀ p ∈ storeParts n [(e, loc e)], m.chainBusy p.ss = false

/-- No element of an access is poisoned in machine m (R121). -/
def Mach.Clean (m : Mach) (els : List VEl) (loc : VEl → List (Loc × Nat)) : Prop := ∀ e ∈ els, m.poisonSegs 0 (loc e) = none

/-- Machine m after the acting context has written bytes to segments, one after another, by its vector-side instruction with the given stamp
(R200). -/
def Mach.writesAt (m : Mach) (age : Nat) (ss : List (Loc × List Byte)) : Mach :=
  ss.foldl (fun m s => m.writeFrom (dieOf m.cur) 0 [s] (some (m.cur, age, 0))) m

/-- Machine m after one part of an element with bytes bs is written. -/
def Mach.putPart (m : Mach) (age : Nat) (bs : List Byte) (p : StEl) : Mach :=
  m.writesAt age (segBytes p.ss ((bs.drop p.off).take (p.ss.map Prod.snd).sum))

/-- Machine m after elements els of n bytes are written in order, each with the bytes that `bs` gives, in two parts where an 8-byte boundary
cuts it (R395). -/
def Mach.stores (m : Mach) (age n : Nat) (els : List VEl) (loc : VEl → List (Loc × Nat)) (bs : VEl → List Byte) : Mach :=
  (storeParts n (els.map fun e => (e, loc e))).foldl (fun m p => m.putPart age (bs p.el) p) m

/-- The same with the elements given with their bytes. -/
def Mach.puts (m : Mach) (age : Nat) (loc : VEl → List (Loc × Nat)) (ps : List (VEl × List Byte)) : Mach :=
  ps.foldl (fun m p => (storeParts p.2.length [(p.1, loc p.1)]).foldl (fun m q => m.putPart age p.2 q) m) m

/-- Machine m after the parts ps of a store are written from part `at_` on, and the doubleword at pw has grown, after each run of parts that
lie in one 4 KiB block and in one run of 256 elements, by the element indices passed from `start` on, up to `stop`, of which `adds` are
counted (R203; log 30). `fuel` bounds the runs. -/
def Mach.counted (m : Mach) (age : Nat) (bs : VEl → List Byte) (pw : List (Loc × Nat)) (start stop : Nat) (ps : List StEl) :
    Nat → Nat → Nat → Mach
  | 0, _, _ => m
  | fuel + 1, at_, adds =>
    let due := passed start stop ps at_ - start - adds
    let m := m.addWords pw (due / 256) due
    match batch false (ps.drop at_) with
    | [] => m
    | now => (now.foldl (fun m p => m.putPart age (bs p.el) p) m).counted age bs pw start stop ps fuel (at_ + now.length) (adds + due)

/-- Elements els updated in order: each takes the code that `new` gives for its old one (R407). The machine, and the old codes by
element. -/
def Mach.updates (m : Mach) (n : Nat) (loc : VEl → List (Loc × Nat)) (new : VEl → Nat → Nat) : List VEl → Mach × List (Nat × Nat)
  | [] => (m, [])
  | e :: t =>
    let old := leVal (m.readSegs (loc e))
    let r := (m.writeFrom (dieOf m.cur) 0 (segBytes (loc e) (leBytes n (new e old)))).updates n loc new t
    (r.1, (e.i, old) :: r.2)

/-- The memory cell q is one of the bytes of the locations ss. -/
def Mach.covers (m : Mach) (ss : List (Loc × Nat)) (q : Nat) : Prop :=
  ∃ l ∈ ss, ∃ a, l.1 = .pa a ∧ ∃ r ∈ m.keyRuns (l.2 / 256 + 2) a l.2, ∃ k, r.1 = some k ∧ k ≤ q ∧ q < k + r.2

/-- From m to t every memory cell keeps its byte but those of the locations ss and of transaction-barrier words that instructions or
copies name, or whose fields are undefined (R200). -/
def Mach.keepsBut (m t : Mach) (ss : List (Loc × Nat)) : Prop :=
  ∀ q, ¬ m.covers ss q → (∀ w ∈ m.tbs ++ m.ctxs.flatMap (fun e => m.tbNamed none e.1), ¬ (w ≤ q ∧ q < w + 16)) → cget t.mem q = cget m.mem q

/-- No copy of the context is outstanding, released or held (R390). -/
structure State.NoCopies (s : State) : Prop where
  queue : s.m.me.copyq = []
  held : ∀ h ∈ s.m.me.hold, ∀ k, h.cmd ≠ .copy k

/-- Array n exists, no copy of the context is outstanding and no accumulator is poisoned; VL is in range for the array (R99, R376,
R390). -/
structure State.Tile (s : State) (k : Cap) (n : BitVec 2) : Prop where
  here : n.toNat < s.m.me.accs
  idle : s.NoCopies
  clean : s.m.me.accPoison = []
  fits : k.vl ≤ Config.tlen
  some_ : k.vl ≠ 0

/-- Column c of an array is on (R374). -/
def State.colOn (s : State) (k : Cap) (c : Nat) : Bool := guardBit k.md.toNat (s.m.me.guard k.md.toNat) c

/-! ### Quantisers -/

/-- A quantiser may start at once: none of it waits for a snapshot, and no chain holds its record (R159, R246). -/
def State.QuantFree (s : State) (tid : Nat) : Prop := s.m.me.snapReqs = [] ∧ s.m.recReady (s.m.qOf s.m.cur) tid = true

/-- The snapshots that a quantiser of context c may use at its start now (R246): a fresh one, or a cached one that may still serve. -/
def Mach.MaySnap (m : Mach) (c tid : Nat) (t : Tit) (n : Snap) : Prop :=
  n = m.snapNow (m.qOf c) tid ∨ m.snapFind c tid = some n ∧ m.snapOk c t n = true

def State.MaySnap (s : State) (tid : Nat) (t : Tit) (n : Snap) : Prop := s.m.MaySnap s.m.cur tid t n

/-- Whether a record overflows the tensor's format at the base scale (R249). -/
def Tit.over (t : Tit) (n : Snap) : Bool :=
  let mx := f32.val n.maxabs
  !mx.isZero && (XV.fin false t.tyv.maxFinite.1 (t.tyv.maxFinite.2 + t.scalebase) false).lt mx

/-- The scale that a quantiser uses, by the entry's policy: that of R232, but min(X, SCALEBASE) under saturate with overflow (R249). -/
def Tit.inUse (t : Tit) (n : Snap) : Quant :=
  let x := quantX (f32.val n.maxabs) t.tyv t.scalebase t.margin
  ⟨if 2 ≤ t.rescale ∧ t.over n then min x t.scalebase else x, n.gen, decide (2 ≤ t.rescale), t.over n && t.rescale != 0,
    if t.rescale = 1 then some x else none⟩

/-! ### Engines -/

/-- Segments lie on this chip, and neither an open chain nor a parked PC holds any of them (R159, R310). -/
def Mach.Local (m : Mach) (ss : List (Loc × Nat)) : Prop := (∀ l ∈ ss, apertureOf l.1 = none) ∧ m.chainBusy ss = false

/-- The machine as an engine's page walks see it: without buffered stores (R186). -/
def Mach.walks (m : Mach) : Mach := { m with seen := some 0 }

/-- The machine in which the head e of context c's vector queue is tried: its page walks see the buffered stores that are older (R186). -/
def Mach.trying (m : Mach) (c : Nat) (e : VEnt) : Mach := ({ m with seen := some e.stamp } : Mach).as c

/-- What a try came to, with page walks as they are between the steps of the device. -/
def State.tried (s : State) (m : Mach) : State := { s with m := { m with seen := none } }

/-- The head e of context c's vector queue is an instruction of MDL that may go on: its modes and registers are right, no copy is
outstanding into them, and no older scalar store goes into a window of the task (R94, R97, R103, R334, R352). -/
structure Mach.MayGoOn (m : Mach) (c : Nat) (e : VEnt) (regs sizes : List Nat) : Prop where
  type : tyCodeOk e.cap.ty = true
  round : e.cap.rm < 6
  one : e.cap.g = 1
  some_ : e.cap.vl ≠ 0
  regs : ∀ v ∈ regs, (m.ctx c).regOk v 1 = true ∧ nthD 0 (m.ctx c).score v = 0
  fits : ∀ n ∈ sizes, e.cap.vl ≤ (m.ctx c).maxvlOf n
  stores : (m.ctx c).windowStores e.stamp = false
  clean : (m.ctx c).vrPoison = []

/-- The step leaves context c with copy queue q, and changes no memory. -/
def State.queued (s t : State) (c : Nat) (q : List CopyEnt) : Prop := (t.m.ctx c).copyq = q ∧ t.m.mem = s.m.mem ∧ t.plat = s.plat

/-! ### Near-memory units -/

/-- The NMU that acts, and the run it executes: fewer than 4,096 steps since its last yield (R429); page walks see every buffered store,
as they do between the steps of the device. -/
def State.Running (s : State) (r : NRun) : Prop := (s.m.nmu s.m.ncur).cur = some r ∧ r.steps < 4096 ∧ s.m.seen = none

/-- The outcome in machine m in which the acting NMU holds u, its run r goes on at word `next`, and one more step is counted. -/
def State.nmuOn (s : State) (m : Mach) (u : Nmu) (r : NRun) (next : Nat) : Out :=
  .next { s with m := m.updNmu s.m.ncur fun _ => { u with cur := some { r with at_ := next, steps := r.steps + 1 } } }

/-- From s to t the acting NMU's run r has gone on at word `next`, and the NMU holds u otherwise; contexts keep their registers and
queues. -/
def State.nmuTo (s t : State) (u : Nmu) (r : NRun) (next : Nat) : Prop :=
  t.m.nmu s.m.ncur = { u with cur := some { r with at_ := next, steps := r.steps + 1 } } ∧ (∀ c, (t.m.ctx c).arch = (s.m.ctx c).arch) ∧
  t.m.ncur = s.m.ncur ∧ t.plat = s.plat

/-! ### The platform -/

/-- An island's ceiling is a legal frequency, and its frequency is a legal one up to the ceiling; after a thermal trip it may have
stopped (R465, R466). -/
def Island.Ok (tripped : Bool) (i : Island) : Prop :=
  mhzOk i.ceil = true ∧ (mhzOk i.mhz = true ∧ i.mhz ≤ i.ceil ∨ tripped = true ∧ i.mhz = 0)

/-- The limits that R164, R195 and R465 put on the platform: frequencies, the budgets in force and written, and 64 distinct pair sites
a die. -/
structure Plat.Ok (p : Plat) : Prop where
  islands : ∀ i ∈ p.islands, i.Ok p.tripped
  budgets : ∀ r ∈ p.budgets, r.length = 6 ∧ (∀ b ∈ r, 1 ≤ b) ∧ r.sum ≤ 1024
  written : ∀ r ∈ p.budNext, r.length = 6 ∧ (∀ b ∈ r, 1 ≤ b) ∧ r.sum ≤ 1024
  sites : ∀ l ∈ p.sites, l.length = 64 ∧ l.Nodup ∧ ∀ x ∈ l, x < 68

/-! ### Sub-links -/

/-- Whether some sub-link is up, serves the partition a packet is sent for, and is not paused for its class (R165, R166, R281). -/
def Mach.carries (m : Mach) (q : Option Nat) (cls : Nat) : Bool :=
  m.links.any fun k => k.up && !k.pauseRx.getLsbD cls && ((q.bind m.part).map fun p => p.e.subl.getLsbD k.id).getD true

/-! ### Ended tasks -/

/-- Context c has nothing left in its queues, and no engine fault is pending (R267). -/
def State.Drained (s : State) : Prop :=
  s.m.drained s.m.cur = true ∧ s.m.fabricDue s.m.cur (s.m.me.stamp + 1) = false ∧ s.m.me.engFaults = [] ∧ s.m.me.youngCopies = []

end Sys2Proof.Machine
end

