-- ==== Sys2Proof/Certificates/Slice0/Obligations.lean ====
section
/-!
DEFINITION. The statements put to the provers. Each docstring says what is stated and where the manual says it.
-/

open Sys2Proof Sys2Proof.Machine

/-! ### Scalar instructions -/

/-- R92: X0 reads zero in every context and every state, and an instruction's write to X0 leaves all registers as they were. R92
and R327: a register written by an instruction reads as the value written, and no other register changes. -/
def Obligations.RegisterWrite : Prop :=
  (∀ (s : State) (v : Word) (k : BitVec 5), s.x 0 = 0 ∧ (s.wrote 0 v).x k = s.x k ∧ s.m.me.setX 0 v = s.m.me) ∧
  (∀ (s : State) (d k : BitVec 5) (v : Word), (d ≠ 0 → (s.wrote d v).x d = v) ∧ (k ≠ d → (s.wrote d v).x k = s.x k))

/-- R327: the result of every operation of major 0x01 on two registers, `clz` and `popc` included; the words of that major,
legal and illegal. -/
def Obligations.RegisterOperations : Prop :=
  (∀ (s : State) (d a b : BitVec 5), s.ready [d, a, b] →
    exec (.add d a b) s = .next (s.wrote d (s.x a + s.x b)) ∧
    exec (.sub d a b) s = .next (s.wrote d (s.x a - s.x b)) ∧
    exec (.mul d a b) s = .next (s.wrote d (s.x a * s.x b)) ∧
    exec (.mulh d a b) s = .next (s.wrote d (.ofInt 64 ((s.x a).toInt * (s.x b).toInt / 2 ^ 64))) ∧
    exec (.mulhu d a b) s = .next (s.wrote d (.ofNat 64 ((s.x a).toNat * (s.x b).toNat / 2 ^ 64))) ∧
    exec (.div d a b) s = .next (s.wrote d (if s.x b = 0 then .allOnes 64 else .ofInt 64 ((s.x a).toInt.tdiv (s.x b).toInt))) ∧
    exec (.divu d a b) s = .next (s.wrote d (if s.x b = 0 then .allOnes 64 else .ofNat 64 ((s.x a).toNat / (s.x b).toNat))) ∧
    exec (.rem d a b) s = .next (s.wrote d (if s.x b = 0 then s.x a else .ofInt 64 ((s.x a).toInt.tmod (s.x b).toInt))) ∧
    exec (.remu d a b) s = .next (s.wrote d (if s.x b = 0 then s.x a else .ofNat 64 ((s.x a).toNat % (s.x b).toNat))) ∧
    exec (.and d a b) s = .next (s.wrote d (s.x a &&& s.x b)) ∧
    exec (.or d a b) s = .next (s.wrote d (s.x a ||| s.x b)) ∧
    exec (.xor d a b) s = .next (s.wrote d (s.x a ^^^ s.x b)) ∧
    exec (.sll d a b) s = .next (s.wrote d (s.x a <<< ((s.x b).toNat % 64))) ∧
    exec (.srl d a b) s = .next (s.wrote d (s.x a >>> ((s.x b).toNat % 64))) ∧
    exec (.sra d a b) s = .next (s.wrote d ((s.x a).sshiftRight ((s.x b).toNat % 64))) ∧
    exec (.slt d a b) s = .next (s.wrote d (if (s.x a).toInt < (s.x b).toInt then 1 else 0)) ∧
    exec (.sltu d a b) s = .next (s.wrote d (if (s.x a).toNat < (s.x b).toNat then 1 else 0)) ∧
    exec (.min d a b) s = .next (s.wrote d (if (s.x a).toInt < (s.x b).toInt then s.x a else s.x b)) ∧
    exec (.max d a b) s = .next (s.wrote d (if (s.x a).toInt < (s.x b).toInt then s.x b else s.x a)) ∧
    exec (.minu d a b) s = .next (s.wrote d (if (s.x a).toNat < (s.x b).toNat then s.x a else s.x b)) ∧
    exec (.maxu d a b) s = .next (s.wrote d (if (s.x a).toNat < (s.x b).toNat then s.x b else s.x a)) ∧
    exec (.sel d a b) s = .next (s.wrote d (if s.x d ≠ 0 then s.x a else s.x b))) ∧
  (∀ (s : State) (d a : BitVec 5), s.ready [d, a] →
    (∃ k, exec (.clz d a) s = .next (s.wrote d (.ofNat 64 k)) ∧ k ≤ 64 ∧ (s.x a).toNat < 2 ^ (64 - k) ∧
      (k < 64 → 2 ^ (63 - k) ≤ (s.x a).toNat)) ∧
    exec (.popc d a) s = .next (s.wrote d (.ofNat 64 ((List.range 64).filter fun j => (s.x a).getLsbD j).length))) ∧
  (∀ (d a b : BitVec 5) (f : BitVec 6),
    let w := 0x01000000 + d.toNat * 262144 + a.toNat * 4096 + b.toNat * 64 + f.toNat
    (24 ≤ f.toNat → decode w = .error 2) ∧ (f = 22 ∨ f = 23 → b ≠ 0 → decode w = .error 3)) ∧
  (∀ (d a b : BitVec 5), let w := 0x01000000 + d.toNat * 262144 + a.toNat * 4096
    decode (w + 22) = .ok (.clz d a) ∧ decode (w + 23) = .ok (.popc d a) ∧ ∀ p ∈ [Instr.add d a b, .sub d a b, .mul d a b, .mulh d a b,
      .mulhu d a b, .div d a b, .divu d a b, .rem d a b, .remu d a b, .and d a b, .or d a b, .xor d a b, .sll d a b, .srl d a b, .sra d a b,
      .slt d a b, .sltu d a b, .min d a b, .max d a b, .minu d a b, .maxu d a b, .sel d a b].zipIdx,
      decode (w + b.toNat * 64 + p.2) = .ok p.1) ∧
  encode (.sub 5 6 7) = some 0x011461C1 ∧ encode (.sel 5 6 7) = some 0x011461D5 ∧ encode (.clz 3 4) = some 0x010C4016

/-- R328 and R329: the results of the instructions with an immediate, `lui` and `auipc`. -/
def Obligations.ImmediateOperations : Prop :=
  ∀ (s : State) (d a : BitVec 5) (i : BitVec 12) (n : BitVec 6) (u : BitVec 18), s.ready [d, a] →
    exec (.addi d a i) s = .next (s.wrote d (s.x a + i.signExtend 64)) ∧
    exec (.andi d a i) s = .next (s.wrote d (s.x a &&& i.signExtend 64)) ∧
    exec (.ori d a i) s = .next (s.wrote d (s.x a ||| i.signExtend 64)) ∧
    exec (.xori d a i) s = .next (s.wrote d (s.x a ^^^ i.signExtend 64)) ∧
    exec (.slli d a n) s = .next (s.wrote d (s.x a <<< n.toNat)) ∧
    exec (.srli d a n) s = .next (s.wrote d (s.x a >>> n.toNat)) ∧
    exec (.srai d a n) s = .next (s.wrote d ((s.x a).sshiftRight n.toNat)) ∧
    exec (.slti d a i) s = .next (s.wrote d (if (s.x a).toInt < i.toInt then 1 else 0)) ∧
    exec (.sltiu d a i) s = .next (s.wrote d (if (s.x a).toNat < (i.signExtend 64).toNat then 1 else 0)) ∧
    exec (.lui d u) s = .next (s.wrote d (u.signExtend 64 * 4096)) ∧
    exec (.auipc d u) s = .next (s.wrote d (s.m.me.pc + u.signExtend 64 * 4096))

/-- R330: the results of the scalar F32 instructions where RM of MDV is RNE to RNA: exact, then rounded once; and the mode trap
where RM is SR or reserved. -/
def Obligations.FloatResults : Prop :=
  ∀ (s : State) (d a b : BitVec 5), s.ready [d, a, b] → s.ready [d, a, 0] →
    let p := f32.val ((s.x a).toNat % 2 ^ 32)
    let q := f32.val ((s.x b).toNat % 2 ^ 32)
    let w := fun (n : Nat) => (.next (s.wrote d (.ofNat 64 n)) : Host.Outcome State Fault Refusal)
    let t := (.next (s.trapped (fltConfig 0x11 0)) : Host.Outcome State Fault Refusal)
    (s.rm < 5 →
      exec (.faddS d a b) s = w (f32.round s.rm 0 (p.add (s.rm == 2) q)) ∧
      exec (.fsubS d a b) s = w (f32.round s.rm 0 (p.sub (s.rm == 2) q)) ∧
      exec (.fmulS d a b) s = w (f32.round s.rm 0 (p.mul q)) ∧
      exec (.fdivS d a b) s = w (f32.round s.rm 0 (p.div q)) ∧
      exec (.fminS d a b) s = w (f32.round 0 0 (p.minOf q)) ∧
      exec (.fmaxS d a b) s = w (f32.round 0 0 (p.maxOf q)) ∧
      exec (.fcvtSL d a) s = w (f32.round s.rm 0 (.ofInt (s.x a).toInt)) ∧
      exec (.fcvtLS d a) s = w (intRound true 64 s.rm 0 p) ∧
      exec (.fltS d a b) s = w (if p.lt q then 1 else 0) ∧
      exec (.fleS d a b) s = w (if p.le q then 1 else 0) ∧
      exec (.feqS d a b) s = w (if p.eq q then 1 else 0)) ∧
    (5 ≤ s.rm → exec (.faddS d a b) s = t ∧ exec (.fsubS d a b) s = t ∧ exec (.fmulS d a b) s = t ∧ exec (.fdivS d a b) s = t ∧
      exec (.fminS d a b) s = t ∧ exec (.fmaxS d a b) s = t ∧ exec (.fcvtSL d a) s = t ∧ exec (.fcvtLS d a) s = t ∧
      exec (.fltS d a b) s = t ∧ exec (.fleS d a b) s = t ∧ exec (.feqS d a b) s = t)

/-- The frame of the scalar computations: whichever of them executes, with RM of MDV one the F32 instructions accept, only Xd,
the PC and what completion itself clears change; every flag, CSR, special register, accumulator and every byte of memory stays. -/
def Obligations.ScalarFrame : Prop :=
  ∀ (i : Instr) (d : BitVec 5) (rs : List (BitVec 5)), i.computes = some (d, rs) → ∀ (s : State), s.ready rs → s.rm < 5 →
    ∃ t, exec i s = .next t ∧ s.onlyXd t d

/-- R331 to R333: a scalar load of readable bytes completes: what each writes, with its width and extension; `ld.d.aq` is an acquire.
R332: of a load that two parts make up, the first may be read in an earlier step than the second, which completes it. R150, R331,
R332 and R334: a scalar store of writable bytes completes by putting the low bytes of X[D], little-endian and in its parts, into the
store buffer; no byte of memory changes before the store is performed. R138, R295 and R331: a scalar load or store whose bytes do not
resolve takes the fault that its resolution names, and a load of a poisoned byte takes MEM_POISON; nothing is loaded or stored. R151, R191,
R293 and R304: a load from an aperture sends a request to the member, waits, and completes with the bytes of the reply, those of a buffered
store of the context in their places; without such a member it takes FABRIC_ABSENT; a curtain stalls a store to an aperture. -/
def Obligations.LoadsAndStores : Prop :=
  ∀ (s : State) (d a : BitVec 5) (i : BitVec 12) (ss : List (Loc × Nat)), s.ready [d, a] →
    let va := s.ea a i
    let c := s.m.cur
    (∀ f ∈ loadForms d a i, s.Readable va f.bytes ss →
      exec f.instr s = .next ((s.touched va f.bytes ss).loaded c f d (s.seen va f.bytes ss))) ∧
    (∀ f ∈ loadForms d a i, ∀ p q : Loc × Nat,
      let m := s.reach 0 va f.bytes
      m.resolve c kRead va f.bytes .all = .ok ss → inParts va f.bytes ss = [p, q] → apertureOf p.1 = none → apertureOf q.1 = none →
      s.loadFree va f.bytes ss = true → m.poisonBuf c 0 ss = none →
      (s.m.me.half = none → s.m.lag = true → exec f.instr s =
        .next { s with m := m.upd fun x => { x with half := some (.ofNat 64 va, m.readBuf c p.1 p.2) } }) ∧
      (∀ h, s.m.me.half = some (.ofNat 64 va, h) → exec f.instr s =
        .next ((s.touched va f.bytes ss).loaded c f d (h ++ m.readBuf c q.1 q.2)))) ∧
    (∀ p ∈ storeForms d a i, let bs := leBytes p.2 (s.x d).toNat
      (s.Writable va p.2 ss → exec p.1 s = .next (s.buffered va bs ss)) ∧ (s.buffered va bs ss).m.mem = s.m.mem) ∧
    (∀ f ∈ loadForms d a i, ∀ e, s.m.walkWaits c va f.bytes = false → (s.reach 0 va f.bytes).resolve c kRead va f.bytes .all = .error e →
      exec f.instr s = .next { s with m := (s.reach 0 va f.bytes).scalarTrap e }) ∧
    (∀ p ∈ storeForms d a i, ∀ e, s.m.walkWaits c va p.2 = false → (s.reach 0 va p.2).resolve c kWrite va p.2 .all = .error e →
      exec p.1 s = .next { s with m := (s.reach 0 va p.2).scalarTrap e }) ∧
    (∀ f ∈ loadForms d a i, ∀ p, let m := s.reach 0 va f.bytes
      m.resolve c kRead va f.bytes .all = .ok ss → s.loadFree va f.bytes ss = true → m.poisonBuf c 0 ss = some p →
      exec f.instr s = .next { s with m := (m.eccRead ss).scalarTrap (fltPoison ((va + p.1) % 2 ^ 64) p.2 0) }) ∧
    (∀ f ∈ loadForms d a i, ∀ (l : Loc) (t : Nat × Nat),
      let n := f.bytes
      let m := s.reach 0 va n
      let own := m.me.buffered l n
      m.resolve c kRead va n .all = .ok [(l, n)] → apertureOf l = some t → firstPart va n = 0 → s.loadFree va n [(l, n)] = true →
      m.poisonBuf c 0 [(l, n)] = none → own.length ≠ n →
      (m.findReq c m.me.pc 0 = none → m.fabStalled t.1 clsReq = false →
        (m.memberOk t.1 = false → exec f.instr s = .next { s with m := m.scalarTrap (fltAbsent t.1 clsReq va) }) ∧
        (m.memberOk t.1 = true → exec f.instr s = .next { s with m :=
          (m.send t.1 clsReq none (.read t.2 n) (.ctx c m.me.ir va none)).updTroupe fun z => { z with reqs := z.reqs ++
            [⟨c, m.me.pc, 0, t.1, clsReq, m.txSeq t.1 clsReq, own, [], none, none⟩] } })) ∧
      (∀ r bs, m.findReq c m.me.pc 0 = some r → r.err = none → r.data = some bs →
        exec f.instr s = .next ((s.touched va n [(l, n)]).loaded c f d (r.bytes bs)))) ∧
    (∀ p ∈ storeForms d a i, let m := s.reach 0 va p.2
      s.m.walkWaits c va p.2 = false → m.resolve c kWrite va p.2 .all = .ok ss → m.curtained = true →
      (∃ l ∈ ss, (apertureOf l.1).isSome = true) → exec p.1 s = .next { s with m := m })

/-- R335 and R337: where the branches and `loop` go, and that they change nothing but the PC and the count. -/
def Obligations.Branches : Prop :=
  ∀ (s : State) (a b : BitVec 5) (o : BitVec 12), s.ready [a, b] → s.ready [a] →
    let pc := s.m.me.pc
    let go := fun (m : Mach) (p : Word) => (.next { s with m := m.retireTo p } : Host.Outcome State Fault Refusal)
    let br := fun (c : Prop) [Decidable c] => go s.m (if c then pc + o.signExtend 64 * 4 else pc + 4)
    exec (.beq a b o) s = br (s.x a = s.x b) ∧
    exec (.bne a b o) s = br (s.x a ≠ s.x b) ∧
    exec (.blt a b o) s = br ((s.x a).toInt < (s.x b).toInt) ∧
    exec (.bge a b o) s = br ((s.x b).toInt ≤ (s.x a).toInt) ∧
    exec (.bltu a b o) s = br ((s.x a).toNat < (s.x b).toNat) ∧
    exec (.bgeu a b o) s = br ((s.x b).toNat ≤ (s.x a).toNat) ∧
    exec (.loop a o) s = (if s.x a = 0 then go s.m (pc + o.signExtend 64 * 4) else go (s.m.setX a.toNat (s.x a - 1)) (pc + 4))

/-- R336: where `j`, `call` and `jalr` go, the link that the last two write, and their words; the link of `jalr` is written
after X[A] is read. -/
def Obligations.Jumps : Prop :=
  (∀ (s : State) (d a : BitVec 5) (o : BitVec 12) (l : BitVec 24), s.ready [d, a] → s.ready [31] → s.ready [] →
    let pc := s.m.me.pc
    let go := fun (m : Mach) (p : Word) => (.next { s with m := m.retireTo p } : Host.Outcome State Fault Refusal)
    exec (.j l) s = go s.m (pc + l.signExtend 64 * 4) ∧
    exec (.call l) s = go (s.m.setX 31 (pc + 4)) (pc + l.signExtend 64 * 4) ∧
    exec (.jalr d a o) s = go (s.m.setX d.toNat (pc + 4)) (.ofNat 64 ((s.x a + o.signExtend 64).toNat / 4 * 4))) ∧
  (∀ (d a : BitVec 5) (o : BitVec 12) (l : BitVec 24), decode (0x26000000 + l.toNat) = .ok (.j l) ∧
    decode (0x27000000 + l.toNat) = .ok (.call l) ∧ decode (0x28000000 + d.toNat * 262144 + a.toNat * 4096 + o.toNat) = .ok (.jalr d a o)) ∧
  encode (.jalr 0 31 0) = some 0x2801F000 ∧ encode (.call (.ofNat 24 ((0x400 - 0x200) / 4))) = some 0x27000080

/-- R105 to R108, R339 and R340: `csrr` reads the CSR's value, once older vector-side instructions have completed where R340
asks for it; and the values of some CSRs. R106, R107, R339 and R340: a write of a CSR completes, once older vector-side instructions
have completed or cannot fault any more as R340 asks: the CSR reads after it as the written value with its reserved bits zero, and
only the context that acts changes; of VSHARE the value for the next period is written, and it reads as before. R106: a write of 0 to
WDOG or BANKTO is ILLEGAL_CONFIG 0x13 with the CSR's number and is not performed. R211 and R212: a write of ECNTn replaces the
count, one of ESELn replaces SRC and CTXM and clears OVF where a 1 is written; both drop the counter's carried events. -/
def Obligations.Csrs : Prop :=
  (∀ (s : State) (d : BitVec 5) (c : BitVec 12), s.ready [d] → (csrWaits c.toNat = true → s.m.me.vq = []) →
      exec (.csrr d c) s = .next (s.wrote d (s.m.csr s.m.cur c.toNat)) ∧
      s.m.csr s.m.cur 0x000 = 0x0E7C0101 ∧ s.m.csr s.m.cur 0x001 = 128 ∧ s.m.csr s.m.cur 0x003 = s.m.me.vl.zeroExtend 64 ∧
      s.m.csr s.m.cur 0x008 = s.m.me.vshare.zeroExtend 64 ∧
      s.m.csr s.m.cur 0x00C = s.m.me.fcause ∧ s.m.csr s.m.cur 0x00D = s.m.me.faddr ∧ s.m.csr s.m.cur 0x00F = s.m.me.epc ∧
      s.m.csr s.m.cur 0x014 = .ofNat 64 s.m.cycle ∧ s.m.csr s.m.cur 0x017 = .ofNat 64 s.m.cur) ∧
  (∀ (s : State) (a : BitVec 5) (c : BitVec 12), s.ready [a] →
      (csrWritable c.toNat = true → csrWait s.m.me c.toNat = false →
        ∃ t, exec (.csrw a c) s = .next t ∧ t.m.csr s.m.cur c.toNat = s.x a &&& csrField c.toNat ∧
          s.onlyMe t ∧ t.m.me.x = s.m.me.x ∧ t.m.me.pc = s.m.me.pc + 4) ∧
      (s.m.me.vq = [] →
        exec (.vstartWrite a) s = .next (s.did (s.m.upd fun x => { x with vstart := (s.x a).truncate 17 })) ∧
        exec (.srstepWrite a) s = .next (s.did (s.m.upd fun x => { x with srstep := (s.x a).truncate 32 })) ∧
        exec (.pdoneWrite a) s = .next (s.did (s.m.upd fun x => { x with pdone := s.x a }))) ∧
      (s.m.me.anyUnsafe = false →
        exec (.vshareWrite a) s = .next (s.did (s.m.upd fun x => { x with vshareNext := (s.x a).truncate 8 })) ∧
        (s.x a ≠ 0 → exec (.wdogWrite a) s = .next (s.did (s.m.upd fun x => { x with wdog := s.x a }))) ∧
        (s.x a = 0 → exec (.wdogWrite a) s = .next (s.trapped (fltConfig 0x13 0x011))) ∧
        ((s.x a).truncate 32 ≠ (0 : BitVec 32) →
          exec (.banktoWrite a) s = .next (s.did (s.m.upd fun x => { x with banko := (s.x a).truncate 32 }))) ∧
        ((s.x a).truncate 32 = (0 : BitVec 32) → exec (.banktoWrite a) s = .next (s.trapped (fltConfig 0x13 0x012))))) ∧
  (∀ (s : State) (a : BitVec 5) (n : BitVec 3), s.ready [a] → s.m.me.anyUnsafe = false → s.m.pairTurn = true →
      (exec (.ecntWrite a n) s = .next (s.did (s.m.pairWrite fun p =>
          { p with ecnt := vecSet p.ecnt n.toNat (s.x a), carry := p.carry.set n.toNat 0 }))) ∧
      (exec (.eselWrite a n) s = .next (s.did (s.m.pairWrite fun p =>
          { p with esel := vecSet p.esel n.toNat ((s.x a &&& 0xFFF) ||| (vecAt 0 p.esel n.toNat &&& 0x1000 &&& ~~~(s.x a))),
                   carry := p.carry.set n.toNat 0 }))) ∧
      (∀ (p : Pair) (v : BitVec 64), vecAt 0 (vecSet p.ecnt n.toNat v) n.toNat = v))

/-- R318 and R342: `mode` writes the fields it names of one mode register and keeps those whose code says so; bit 31 is
untouched by either form, and TID is written by the TID form alone. R78, R79, R94, R343 and R345: `vsetvl` writes min(X[A],
MAXVL) to VL and X[D]; `vcfg` at a strip boundary grants the sections asked for as far as the pair has them, and VL becomes
min(VL, MAXVL); a request above the header's ceilings is ILLEGAL_CONFIG 0x1A. R109: `vsetvl` waits while the undo log has no room for
its two entries; R344: `vcfg` waits while a context of a higher number has changed the pair's grants or CSRs in this clk. R94, R352, R376 and R394: with VL = 0 these
instructions do nothing but complete. -/
def Obligations.ModesAndGrants : Prop :=
  (∀ (s : State) (r : BitVec 2) (g : BitVec 6) (t : BitVec 5) (rm : BitVec 3) (q : BitVec 2) (p f : BitVec 3) (e : BitVec 12), s.ready [] →
      let old := (vecAt 0 s.m.me.md r.toNat).toNat
      (∃ v : BitVec 32, exec (.modeField r g t rm q p f) s = .next (s.did (s.m.upd fun x => x.setMd r.toNat v)) ∧
        (t ≠ 31 → bitsOf v.toNat 10 6 = t.toNat) ∧ (t = 31 → bitsOf v.toNat 10 6 = bitsOf old 10 6) ∧
        (rm ≠ 7 → bitsOf v.toNat 13 11 = rm.toNat) ∧ (rm = 7 → bitsOf v.toNat 13 11 = bitsOf old 13 11) ∧
        (q.toNat < 2 → bitsOf v.toNat 14 14 = q.toNat) ∧ (q = 3 → bitsOf v.toNat 14 14 = bitsOf old 14 14) ∧
        (p.toNat < 4 → bitsOf v.toNat 16 15 = p.toNat) ∧ (p = 7 → bitsOf v.toNat 16 15 = bitsOf old 16 15) ∧
        (f.toNat < 4 → bitsOf v.toNat 18 17 = f.toNat) ∧ (f = 7 → bitsOf v.toNat 18 17 = bitsOf old 18 17) ∧
        (g = 0x3F → bitsOf v.toNat 5 0 = bitsOf old 5 0) ∧ (g = 0 → bitsOf v.toNat 4 4 = 0) ∧
        (0x10 ≤ g.toNat → g.toNat ≤ 0x2F → bitsOf v.toNat 4 4 = 1 ∧ bitsOf v.toNat 3 0 = g.toNat % 16 ∧
          bitsOf v.toNat 5 5 = g.toNat / 32) ∧
        bitsOf v.toNat 31 19 = bitsOf old 31 19) ∧
      (∃ v : BitVec 32, exec (.modeTid r e) s = .next (s.did (s.m.upd fun x => x.setMd r.toNat v)) ∧
        bitsOf v.toNat 30 19 = e.toNat ∧ bitsOf v.toNat 18 0 = bitsOf old 18 0 ∧ bitsOf v.toNat 31 31 = bitsOf old 31 31)) ∧
  (∀ (s : State) (d a : BitVec 5) (c : BitVec 2) (n : BitVec 4), s.ready [d, a] →
      (let v := min (s.x a).toNat s.m.me.maxvl
       (s.m.me.anyUnsafe = false ∨ s.m.me.undo.length ≤ 62 →
        exec (.vsetvl d a) s = .next (s.did (s.m.upd fun x => (x.setVl v).setX d.toNat (.ofNat 64 v)))) ∧
       (s.m.me.anyUnsafe = true → 62 < s.m.me.undo.length →
        exec (.vsetvl d a) s = .next { s with m := s.m.upd fun x => { x with stall := evUndoStall } })) ∧
      (s.m.pairTurn = false → s.m.me.vq = [] → s.m.me.score.all (· == 0) = true → exec (.vcfg d c n) s = .next s) ∧
      (s.m.pairTurn = true → s.m.me.vq = [] → s.m.me.score.all (· == 0) = true → n.toNat ≤ s.m.me.maxSec → c.toNat ≤ s.m.me.maxVregs →
        let g := min n.toNat (s.m.me.sec + s.m.freeSections (pairOf s.m.cur))
        ∃ t, exec (.vcfg d c n) s = .next t ∧ t.m.me.sec = g ∧ t.m.me.vregs = c.toNat ∧ (d ≠ 0 → t.x d = .ofNat 64 g) ∧
          t.m.me.vl.toNat = min s.m.me.vl.toNat t.m.me.maxvl ∧ s.onlyMe t) ∧
      (s.m.pairTurn = true → s.m.me.vq = [] → s.m.me.score.all (· == 0) = true → s.m.me.maxSec < n.toNat ∨ s.m.me.maxVregs < c.toNat →
        exec (.vcfg d c n) s = .next (s.trapped (fltConfig 0x1A 0)))) ∧
  (∀ (s : State) (d a b : BitVec 6) (n : BitVec 2) (w : BitVec 3) (l : BitVec 4) (x y : BitVec 5) (i : BitVec 12), s.Vector [x, y] →
      let nop := fun (j : Instr) (r : Nat) (o : VOp) => exec j s = .next (s.vdid r o (s.sent r o))
      ((s.cap mdv).vl = 0 → s.Groups (s.cap mdv).g [d, a, b] →
        nop (.vqnt d a w) mdv (.qnt d.toNat a.toNat w.toNat) ∧ nop (.vdqnt d a w) mdv (.dqnt d.toNat a.toNat w.toNat) ∧
        nop (.vredsum d a) mdv (.red 0 d.toNat a.toNat)) ∧
      ((s.cap mdm).vl = 0 → s.Groups (s.cap mdm).g [a, b] → n.toNat < s.m.me.accs → s.NoCopies →
        nop (.accop n a b) mdm (.accop n.toNat a.toNat b.toNat) ∧ nop (.accopH n x y) mdm (.accopH n.toNat (s.x x) (s.x y)) ∧
        nop (.accld n x) mdm (.accld n.toNat (s.x x)) ∧ nop (.accst x n) mdm (.accst (s.x x) n.toNat) ∧
        nop (.accstQ x n w) mdm (.accstq (s.x x) n.toNat w.toNat)) ∧
      ((s.cap mdl).vl = 0 → s.Groups (s.cap mdl).g [d, b] →
        nop (.vst d x i) mdl (.st d.toNat (s.x x + i.signExtend 64)) ∧ nop (.vsts d x y) mdl (.sts d.toNat (s.x x) (s.x y)) ∧
        nop (.vstx d x b) mdl (.stx d.toNat (s.x x) b.toNat) ∧ nop (.vstn d x y) mdl (.stn d.toNat (s.x x) (s.x y)) ∧
        nop (.vamoAdd d x b) mdl (.vamo 0 d.toNat (s.x x) b.toNat) ∧ nop (.vlock l x b) mdl (.vlock l.toNat (s.x x) b.toNat)))

/-! ### Exceptions, returns, the end of a task, fences -/

/-- R298 and R113: taking an exception. With a handler, FCAUSE, FADDR, FINSTR and EPC hold the fault, its address, the
instruction word and the address to return to; VCP is EPC where the queue is empty; the PC is THANDLER; general registers,
memory and every other context stay as they were. R111: a scalar-side fault waits while an older vector-side instruction can
still fault; nothing but the pending trap changes. R299 and R306: a fault of a handler's first instruction, other than
SOFT_TRAP, ends the task with DOUBLE_FAULT and is reported to Ringmaster as a partition fault. -/
def Obligations.TrapEntry : Prop :=
  (∀ (s : State) (f : Flt), s.m.me.anyUnsafe = false → s.m.me.firstH = false → s.m.me.thandler ≠ 0 →
      let t := s.trapped f
      t.m.me.fcause = .ofNat 64 (f.code + f.detail * 256) ∧ t.m.me.faddr = .ofNat 64 f.faddr ∧ t.m.me.finstr = s.m.me.ir ∧
      t.m.me.epc = s.m.me.pc ∧ (s.m.me.vq = [] → t.m.me.vcp = s.m.me.pc) ∧ t.m.me.pc = s.m.me.thandler ∧
      t.m.me.vstart = (match f.vstart with | some v => .ofNat 17 v | none => s.m.me.vstart) ∧
      t.m.me.pdone = (match f.pdone with | some v => .ofNat 64 v | none => s.m.me.pdone) ∧
      t.m.me.pfmask = (match f.pfmask with | some v => .ofNat 64 v | none => s.m.me.pfmask) ∧
      t.m.me.x = s.m.me.x ∧ t.m.me.vrf = s.m.me.vrf ∧ t.m.me.masks = s.m.me.masks ∧ t.m.me.md = s.m.me.md ∧
      t.m.me.fmt = s.m.me.fmt ∧ t.m.me.sreg = s.m.me.sreg ∧ t.m.me.acc = s.m.me.acc ∧ t.m.me.vl = s.m.me.vl ∧
      t.m.me.firstH = true ∧ s.onlyMe t) ∧
  (∀ (s : State) (f : Flt), s.m.me.anyUnsafe = true →
      (s.trapped f).m.me = { s.m.me with pendTrap := some (f, s.m.me.pc, s.m.me.ir) } ∧ (s.trapped f).m.mem = s.m.mem ∧ s.onlyMe (s.trapped f)) ∧
  (∀ (s : State) (f : Flt), s.m.me.anyUnsafe = false → s.m.me.firstH = true → f.code ≠ 0x11 →
      (s.trapped f).m.pfaults = s.m.pfaults ++ [PFault.mk s.m.me.task.q 0x12 f.code] ∧ (s.trapped f).m.me.status ≠ .running)

/-- R299, R300 and R447: `trap` completes and then enters the handler with SOFT_TRAP, its operand as detail and EPC at the next
instruction; `rett` resumes at EPC and leaves the fault registers as they are; `hint` goes on. R70, R267 and R348: `texit` of a
context with nothing outstanding ends its task with X[A] as status: the context is free again, the cast counts one more
ended task, and an open window of the cast's launcher gains the task's report, which holds X[A]. -/
def Obligations.TrapReturnAndExit : Prop :=
  (∀ (s : State) (i : BitVec 24) (k : BitVec 3), s.ready [] → s.m.me.anyUnsafe = false →
      (s.m.me.thandler ≠ 0 → ∃ t, exec (.trap i) s = .next t ∧ t.m.me.pc = s.m.me.thandler ∧ t.m.me.epc = s.m.me.pc + 4 ∧
        t.m.me.fcause = .ofNat 64 (0x11 + i.toNat * 256) ∧ t.m.me.finstr = s.m.me.ir ∧ t.m.me.faddr = 0 ∧ t.m.me.x = s.m.me.x ∧
        s.onlyMe t) ∧
      (∃ t, exec .rett s = .next t ∧ t.m.me.pc = s.m.me.epc ∧ t.m.me.epc = s.m.me.epc ∧ t.m.me.fcause = s.m.me.fcause ∧
        t.m.me.x = s.m.me.x ∧ t.m.me.vstart = s.m.me.vstart ∧ s.onlyMe t) ∧
      exec (.hint k i) s = .next (s.did s.m)) ∧
  (∀ (s : State) (a : BitVec 5), s.ready [a] → s.Drained →
      ∃ t, exec (.texit a) s = .next t ∧ t.m.ctx s.m.cur = .reset ∧ t.m.mem = s.m.mem ∧
        ∀ k, s.m.cast s.m.me.task.q s.m.me.task.cast = some k →
          t.m.cast s.m.me.task.q s.m.me.task.cast = some { k with ended := k.ended + 1 } ∧
          ∀ w ∈ s.m.windows, w.l = k.launcher → w.base ≠ w.next → ∃ v ∈ t.m.windows, v.l = w.l ∧ v.base = w.base ∧ v.next = w.next ∧
            v.ended = w.ended ++ [⟨k.seq0 + s.m.me.task.idx, s.m.me.task.cast, s.m.me.task.idx, false, s.x a⟩])

/-- R254, R265, R266, R269 and R417 to R419: each fence and join, met with nothing outstanding, completes: the scalar-side ones
by going on, the vector-side ones through the queue, with VSTART as it was. R301: a join whose queues have pending engine faults, `fence.f`
of queue F and `qfence` of the queues of its letters, takes the oldest of them and leaves the others: the fault's code, and FCAUSE with
bit 63 set and the queue's number in bits 62 to 60; EPC is the join's address and FINSTR the word of the instruction that issued the
command. R302: with a fault of the copy queue, every copy command that stands in the queue or in the hold is discarded and counted in
FCAUSE[59:48]. That `fence` and `qfence` leave VSTART alone is the model's reading (log 44). -/
def Obligations.FencesAndJoins : Prop :=
  (∀ (s : State) (q : BitVec 8), s.ready [] → s.m.me.vq = [] → s.m.lag = false → s.m.me.sb = [] → s.Drained →
      exec .fenceVs s = .next (s.did s.m) ∧
      exec .fenceF s = .next (s.did s.m) ∧
      (∃ t, exec .fenceSv s = .next t ∧ s.passed t) ∧
      (∃ t, exec .fenceVv s = .next t ∧ s.passed t) ∧
      (∃ t, exec .fenceXp s = .next t ∧ s.passed t) ∧
      (s.m.sqRoom s.m.cur 5 = true → s.m.sentTids s.m.cur = false → ∃ t, exec .fenceSt s = .next t ∧ s.passed t ∧ t.m.me.wrote = []) ∧
      (q ≠ 0 → s.m.sentTids s.m.cur = false → ∃ t, exec (.qfence q) s = .next t ∧ s.passed t)) ∧
  (∀ (s : State) (f : EngFault) (q : BitVec 8), s.ready [] → s.m.me.firstH = false → s.m.me.thandler ≠ 0 →
      f.flt.detail < 2 ^ 34 → f.flt.code < 256 →
      let x := s.m.me
      let takes := fun (i : Instr) (qs : List Nat) => f ∈ x.engFaults → f.queue ∈ qs →
        (∀ g ∈ x.engFaults, g.queue ∈ qs → g = f ∨ f.older g = true) →
        ∃ t, exec i s = .next t ∧ t.m.me.engFaults = x.engFaults.erase f ∧ t.m.me.epc = x.pc ∧ t.m.me.finstr = f.word ∧
          t.m.me.pc = x.thandler ∧ bitsOf t.m.me.fcause.toNat 7 0 = f.flt.code ∧ bitsOf t.m.me.fcause.toNat 63 60 = 8 + f.queue ∧
          (f.queue = 1 → x.copyStop = true → t.m.me.copyq = [] ∧ (∀ h ∈ t.m.me.hold, ∀ k, h.cmd ≠ .copy k) ∧
            bitsOf t.m.me.fcause.toNat 59 48 = min (x.youngCopies ++ x.copyq.map CopyEnt.cmd ++ x.heldCopies (x.stamp + 1)).length 4095)
      (x.anyUnsafe = false → takes .fenceF [3]) ∧
      (x.vq = [] → s.m.lag = false → takes (.qfence q) ((bitList q.toNat 8).flatMap letterQueue)))

/-! ### Atomics and barriers -/

/-- R404 to R406: a scalar atomic on a doubleword that may be reached completes. R150 and R405: where nothing older must be performed
first, it writes the new value of R404 to its home and the old value to X[D], and `amo.cas` stores X[B] only where the old value equals
X[D]; otherwise it enters the store buffer, from which it is performed in order, and the scalar side goes on. -/
def Obligations.ScalarAtomics : Prop :=
  ∀ (s : State) (d a b : BitVec 5) (ss : List (Loc × Nat)), s.ready [d, a, b] →
    let va := (s.x a).toNat / 8 * 8
    let y := s.x b
    s.Atomic va ss →
    (s.first va ss = true →
      exec (.amoAdd d a b) s = .next (s.atomic va ss d (fun o => o + y) (fun _ => True)) ∧
      exec (.amoSwap d a b) s = .next (s.atomic va ss d (fun _ => y) (fun _ => True)) ∧
      exec (.amoMax d a b) s = .next (s.atomic va ss d (fun o => if o.toInt < y.toInt then y else o) (fun _ => True)) ∧
      exec (.amoMin d a b) s = .next (s.atomic va ss d (fun o => if y.toInt < o.toInt then y else o) (fun _ => True)) ∧
      exec (.amoMaxu d a b) s = .next (s.atomic va ss d (fun o => if o.toNat < y.toNat then y else o) (fun _ => True)) ∧
      exec (.amoMinu d a b) s = .next (s.atomic va ss d (fun o => if y.toNat < o.toNat then y else o) (fun _ => True)) ∧
      exec (.amoAnd d a b) s = .next (s.atomic va ss d (fun o => o &&& y) (fun _ => True)) ∧
      exec (.amoOr d a b) s = .next (s.atomic va ss d (fun o => o ||| y) (fun _ => True)) ∧
      exec (.amoXor d a b) s = .next (s.atomic va ss d (fun o => o ^^^ y) (fun _ => True)) ∧
      exec (.amoCas d a b) s = .next (s.atomic va ss d (fun _ => y) (fun o => o = s.x d))) ∧
    (s.first va ss = false → s.m.me.sb.length < 32 →
      ∀ p ∈ [(0, Instr.amoAdd d a b), (1, .amoSwap d a b), (2, .amoMax d a b), (3, .amoMin d a b), (4, .amoMaxu d a b),
        (5, .amoMinu d a b), (6, .amoAnd d a b), (7, .amoOr d a b), (8, .amoXor d a b), (9, .amoCas d a b)],
        exec p.2 s = .next (s.atomicLater va p.1 ss d b))

/-- R197, R198 and R412: arrival at a named or group barrier returns the phase before it and counts one arrival, and the arrival
that makes EXP inverts the phase and clears the count; a wait whose phase has passed goes on as an acquire; `baraw` does both.
R198, R202 and R208: a sleeping `barw`, `baraw` or `tbwait` whose barrier has completed a phase since it fell asleep completes as an
acquire when it is woken. -/
def Obligations.NamedBarriers : Prop :=
  (∀ (s : State) (d a : BitVec 5) (n : BitVec 10),
      let b := fun (g : Bool) => s.m.bar g n.toNat
      let arrived := fun (g : Bool) => (s.m.updBar g n.toNat Bar.arrive).setX d.toNat (if (b g).phase then 1 else 0)
      (s.ready [d] → s.StoresDone →
        (s.BarOk false n.toNat → exec (.bara d n) s = .next (s.did (arrived false))) ∧
        (s.BarOk true n.toNat → exec (.baraG d n) s = .next (s.did (arrived true)))) ∧
      (s.ready [a] →
        (s.BarOk false n.toNat → (b false).phase ≠ (s.x a).getLsbD 0 → exec (.barw a n) s = .next (s.did (s.m.acquire s.m.cur))) ∧
        (s.BarOk true n.toNat → (b true).phase ≠ (s.x a).getLsbD 0 → exec (.barwG a n) s = .next (s.did (s.m.acquire s.m.cur)))) ∧
      (s.ready [d] → s.StoresDone → s.m.me.arrival = none →
        (s.BarOk false n.toNat → ((arrived false).bar false n.toNat).phase ≠ (b false).phase →
          ∃ t, exec (.baraw d n) s = .next t ∧ t.m.me.pc = s.m.me.pc + 4 ∧ (d ≠ 0 → t.x d = if (b false).phase then 1 else 0) ∧
            t.m.me.arrival = none ∧ t.m.mem = s.m.mem) ∧
        (s.BarOk true n.toNat → ((arrived true).bar true n.toNat).phase ≠ (b true).phase →
          ∃ t, exec (.barawG d n) s = .next t ∧ t.m.me.pc = s.m.me.pc + 4 ∧ (d ≠ 0 → t.x d = if (b true).phase then 1 else 0) ∧
            t.m.me.arrival = none ∧ t.m.mem = s.m.mem)) ∧
      ∀ x : Bar, x.arrive.phase = (if x.arr + 1 = x.exp then !x.phase else x.phase) ∧ x.arrive.arr = (if x.arr + 1 = x.exp then 0 else x.arr + 1)) ∧
  (∀ (s : State) (c : Nat), (s.m.ctx c).status = .running →
      (∀ g n ph k z, (s.m.ctx c).sleep = some z → z.on = .bar g n ph k → ((s.m.as c).bar g n).phase ≠ ph ∨ ((s.m.as c).bar g n).gen ≠ k →
        ∃ t, exec (.barrierWake c) s = .next t ∧ (t.m.ctx c).pc = (s.m.ctx c).pc + 4 ∧ (t.m.ctx c).sleep = none ∧
          (t.m.ctx c).lastAcq = s.m.cycle ∧ t.m.mem = s.m.mem) ∧
      (∀ l va p z, (s.m.ctx c).sleep = some z → z.on = .tb l va p → ((s.m.as c).tbAt l).pcount ≠ p →
        ∃ t, exec (.tbwaitWake c) s = .next t ∧ (t.m.ctx c).pc = (s.m.ctx c).pc + 4 ∧ (t.m.ctx c).sleep = none ∧
          (t.m.ctx c).lastAcq = s.m.cycle ∧ t.m.mem = s.m.mem))

/-- R200 to R202 and R414: `tbinit` and `tbexp` of counts in range enter the store buffer; `tbarr` at a barrier that expects
arrivals takes one, with the completion check of R201; `tbwait` of a phase that has passed goes on as an acquire. R201: a change
of the pending counts that leaves both at zero completes the phase in the same step: PCOUNT counts modulo 2^32 and ARRP is
reloaded from ARRL; any other change completes nothing. SECP clamps to 32 bits and sets ERR where it would not fit. -/
def Obligations.TransactionBarriers : Prop :=
  (∀ (s : State) (a b : BitVec 5) (l : Loc),
      let m := s.tbTouched a
      let n := (s.x b).toNat
      let put := fun (o : SbOp) => s.did (m.buffer o (s.x a).toNat [(l, [])])
      s.TbOk a l →
      (s.ready [a, b] → s.m.me.sb.length < 32 →
        (0 < n → n ≤ 65535 → exec (.tbinit a b) s = .next (put (.tbinit n))) ∧
        (0 < n → n ≤ 0x7FFFFFFF → exec (.tbexp a b) s = .next (put (.tbexp n)))) ∧
      (s.ready [a] → s.StoresDone → (m.tbAt l).arrp ≠ 0 →
        exec (.tbarr a) s = .next (s.did ((m.tbUpdAt l fun t => { t with arrp := t.arrp - 1 }).accessBeats s.m.cur [(l, 16)]))) ∧
      (s.ready [a, b] → s.m.me.sleep = none → (m.tbAt l).pcount ≠ n % 2 ^ 32 →
        exec (.tbwait a b) s = .next (s.did (m.acquire s.m.cur)))) ∧
  (∀ (t : Tb) (n : Int),
      (t.arrp = 0 → t.secp = 0 → t.settle = { t with pcount := (t.pcount + 1) % 2 ^ 32, arrp := t.arrl }) ∧
      (t.arrp ≠ 0 ∨ t.secp ≠ 0 → t.settle = t) ∧
      (-2 ^ 31 ≤ t.secp + n → t.secp + n < 2 ^ 31 → t.addSec n = { t with secp := t.secp + n }) ∧
      (2 ^ 31 ≤ t.secp + n → t.addSec n = { t with secp := 2 ^ 31 - 1, err := true }) ∧
      (t.secp + n < -2 ^ 31 → t.addSec n = { t with secp := -2 ^ 31, err := true }))

/-! ### Vector and mask instructions -/

/-- R101, R226, R355 and R357: every elementwise operation of majors 0x40 and 0x41 on a float type. The active elements take the
exact result, rounded once by RM; `vmin` and `vmax` round nothing away. -/
def Obligations.ElementwiseFloat : Prop :=
  ∀ (s : State) (d a b : BitVec 6) (y : BitVec 5) (f : FFmt),
    let k := s.cap mdv
    s.Vector [y] → s.Modes k [k.size] → s.Groups k.g [d, a, b] → k.tyv = .flt f → k.blocked = false →
    let A := fun r i => f.val (s.code k a r i)
    let B := fun r i => f.val (s.code k b r i)
    let Y := f.val ((s.x y).toNat % 2 ^ k.tyv.bits)
    let v := fun n => VOp.ew n d.toNat a.toNat (.reg b.toNat)
    let x := fun n => VOp.ew n d.toNat a.toNat (.scal (s.x y))
    exec (.vadd d a b) s = s.rounds k (v 0) d (fun r i => (A r i).add k.rdn (B r i)) ∧
    exec (.vaddX d a y) s = s.rounds k (x 0) d (fun r i => (A r i).add k.rdn Y) ∧
    exec (.vsub d a b) s = s.rounds k (v 1) d (fun r i => (A r i).sub k.rdn (B r i)) ∧
    exec (.vsubX d a y) s = s.rounds k (x 1) d (fun r i => (A r i).sub k.rdn Y) ∧
    exec (.vmul d a b) s = s.rounds k (v 2) d (fun r i => (A r i).mul (B r i)) ∧
    exec (.vmulX d a y) s = s.rounds k (x 2) d (fun r i => (A r i).mul Y) ∧
    exec (.vdiv d a b) s = s.rounds k (v 3) d (fun r i => (A r i).div (B r i)) ∧
    exec (.vdivX d a y) s = s.rounds k (x 3) d (fun r i => (A r i).div Y) ∧
    exec (.vmin d a b) s = s.codes k (v 4) k.size d (fun r i => f.round 0 0 ((A r i).minOf (B r i))) ∧
    exec (.vminX d a y) s = s.codes k (x 4) k.size d (fun r i => f.round 0 0 ((A r i).minOf Y)) ∧
    exec (.vmax d a b) s = s.codes k (v 5) k.size d (fun r i => f.round 0 0 ((A r i).maxOf (B r i))) ∧
    exec (.vmaxX d a y) s = s.codes k (x 5) k.size d (fun r i => f.round 0 0 ((A r i).maxOf Y))

/-- R218, R355, R357 and R358: every elementwise operation of majors 0x40 and 0x41 on an integer type: wrapping, or clamping
where SAT is set, for sums, differences, products and quotients; division by zero gives all ones; shift counts are taken modulo
the width. -/
def Obligations.ElementwiseInteger : Prop :=
  ∀ (s : State) (d a b : BitVec 6) (y : BitVec 5) (g : Bool) (n : Nat),
    let k := s.cap mdv
    s.Vector [y] → s.Modes k [k.size] → s.Groups k.g [d, a, b] → k.tyv = .int g n → k.rm < 5 →
    let P := fun r i => s.code k a r i
    let Q := fun r i => s.code k b r i
    let Z := (s.x y).toNat % 2 ^ n
    let I := intVal g n
    let fit := fitInt k.sat g n
    let v := fun j => VOp.ew j d.toNat a.toNat (.reg b.toNat)
    let x := fun j => VOp.ew j d.toNat a.toNat (.scal (s.x y))
    exec (.vadd d a b) s = s.codes k (v 0) k.size d (fun r i => fit (I (P r i) + I (Q r i))) ∧
    exec (.vaddX d a y) s = s.codes k (x 0) k.size d (fun r i => fit (I (P r i) + I Z)) ∧
    exec (.vsub d a b) s = s.codes k (v 1) k.size d (fun r i => fit (I (P r i) - I (Q r i))) ∧
    exec (.vsubX d a y) s = s.codes k (x 1) k.size d (fun r i => fit (I (P r i) - I Z)) ∧
    exec (.vmul d a b) s = s.codes k (v 2) k.size d (fun r i => fit (I (P r i) * I (Q r i))) ∧
    exec (.vmulX d a y) s = s.codes k (x 2) k.size d (fun r i => fit (I (P r i) * I Z)) ∧
    exec (.vdiv d a b) s = s.codes k (v 3) k.size d (fun r i => if I (Q r i) = 0 then 2 ^ n - 1 else fit ((I (P r i)).tdiv (I (Q r i)))) ∧
    exec (.vdivX d a y) s = s.codes k (x 3) k.size d (fun r i => if I Z = 0 then 2 ^ n - 1 else fit ((I (P r i)).tdiv (I Z))) ∧
    exec (.vmin d a b) s = s.codes k (v 4) k.size d (fun r i => wrapN n (min (I (P r i)) (I (Q r i)))) ∧
    exec (.vminX d a y) s = s.codes k (x 4) k.size d (fun r i => wrapN n (min (I (P r i)) (I Z))) ∧
    exec (.vmax d a b) s = s.codes k (v 5) k.size d (fun r i => wrapN n (max (I (P r i)) (I (Q r i)))) ∧
    exec (.vmaxX d a y) s = s.codes k (x 5) k.size d (fun r i => wrapN n (max (I (P r i)) (I Z))) ∧
    exec (.vand d a b) s = s.codes k (v 6) k.size d (fun r i => P r i &&& (Q r i)) ∧
    exec (.vandX d a y) s = s.codes k (x 6) k.size d (fun r i => P r i &&& Z) ∧
    exec (.vor d a b) s = s.codes k (v 7) k.size d (fun r i => P r i ||| (Q r i)) ∧
    exec (.vorX d a y) s = s.codes k (x 7) k.size d (fun r i => P r i ||| Z) ∧
    exec (.vxor d a b) s = s.codes k (v 8) k.size d (fun r i => P r i ^^^ (Q r i)) ∧
    exec (.vxorX d a y) s = s.codes k (x 8) k.size d (fun r i => P r i ^^^ Z) ∧
    exec (.vsll d a b) s = s.codes k (v 9) k.size d (fun r i => P r i * 2 ^ ((Q r i) % n) % 2 ^ n) ∧
    exec (.vsllX d a y) s = s.codes k (x 9) k.size d (fun r i => P r i * 2 ^ (Z % n) % 2 ^ n) ∧
    exec (.vsrl d a b) s = s.codes k (v 10) k.size d (fun r i => P r i / 2 ^ ((Q r i) % n)) ∧
    exec (.vsrlX d a y) s = s.codes k (x 10) k.size d (fun r i => P r i / 2 ^ (Z % n)) ∧
    exec (.vsra d a b) s = s.codes k (v 11) k.size d (fun r i => wrapN n (sx n (P r i) / (2 ^ ((Q r i) % n) : Nat))) ∧
    exec (.vsraX d a y) s = s.codes k (x 11) k.size d (fun r i => wrapN n (sx n (P r i) / (2 ^ (Z % n) : Nat)))

/-- R359 and R360: fused multiply-add in its four signs, and the operations of one operand, on a float type: each exact result
is rounded once; `vmov` moves bits. `vexp2` and `vlog2` go through the fixed-point evaluation of log 39. -/
def Obligations.FusedAndUnary : Prop :=
  ∀ (s : State) (d a b : BitVec 6) (f : FFmt),
    let k := s.cap mdv
    s.Vector [] → s.Modes k [k.size] → s.Groups k.g [d, a, b] → k.tyv = .flt f → tyIsFlt k.ty = true → k.blocked = false →
    let A := fun r i => f.val (s.code k a r i)
    let B := fun r i => f.val (s.code k b r i)
    let D := fun r i => f.val (s.code k d r i)
    let t := fun j => VOp.fma j d.toNat a.toNat b.toNat
    let u := fun j => VOp.un j d.toNat a.toNat
    exec (.vfma d a b) s = s.rounds k (t 0) d (fun r i => ((A r i).mul (B r i)).add k.rdn (D r i)) ∧
    exec (.vfms d a b) s = s.rounds k (t 1) d (fun r i => ((A r i).mul (B r i)).add k.rdn (D r i).neg) ∧
    exec (.vfnma d a b) s = s.rounds k (t 2) d (fun r i => ((A r i).mul (B r i)).neg.add k.rdn (D r i).neg) ∧
    exec (.vfnms d a b) s = s.rounds k (t 3) d (fun r i => ((A r i).mul (B r i)).neg.add k.rdn (D r i)) ∧
    exec (.vneg d a) s = s.rounds k (u 0) d (fun r i => (A r i).neg) ∧
    exec (.vabs d a) s = s.rounds k (u 1) d (fun r i => (A r i).abs) ∧
    exec (.vsqrt d a) s = s.rounds k (u 3) d (fun r i => (A r i).sqrt) ∧
    exec (.vrcp d a) s = s.rounds k (u 4) d (fun r i => (XV.ofInt 1).div (A r i)) ∧
    exec (.vrsqrt d a) s = s.rounds k (u 5) d (fun r i => (A r i).rsqrt) ∧
    exec (.vexp2 d a) s = s.rounds k (u 6) d (fun r i => (A r i).exp2) ∧
    exec (.vlog2 d a) s = s.rounds k (u 7) d (fun r i => (A r i).log2) ∧
    exec (.vmov d a) s = s.codes k (u 2) k.size d (fun r i => s.code k a r i)

/-- R361 to R364: conversion between integer types, from an F32, BF16 or F16, from an integer to a float type, and from a narrow float with or
without blocks; every comparison, whose
bit is 0 where the element is inactive; selection by a mask; the splat of a scalar. R362: what the six comparisons decide, on
integers and on the exact values of floats. -/
def Obligations.ConvertCompareSelect : Prop :=
  (∀ (s : State) (d a b : BitVec 6) (m f : BitVec 4) (y : BitVec 5) (c : BitVec 5),
      let k := s.cap mdv
      s.Vector [y] → s.Modes k [k.size] → s.Groups k.g [d, a, b] → k.blocked = false →
      (∀ sg n sg' n', tyOf c.toNat k.fmt2.toNat = .int sg n → k.tyv = .int sg' n' → c.toNat ≤ 13 → c.toNat ≠ 3 → k.rm < 5 →
        k.vl ≤ s.m.me.maxvlOf (tySize c.toNat) →
        exec (.vcvt d a c) s = s.codes k (.cvt d.toNat a.toNat c.toNat) k.size d fun r i =>
          fitInt k.sat sg' n' (intVal sg n (nthD 0 (s.m.me.row (a.toNat + r) k.vl (tySize c.toNat)) i % 2 ^ n))) ∧
      (∀ g, tyOf c.toNat k.fmt2.toNat = .flt g → c.toNat ≤ 2 → k.srInt = false → k.vl ≤ s.m.me.maxvlOf (tySize c.toNat) →
        exec (.vcvt d a c) s = s.rounds k (.cvt d.toNat a.toNat c.toNat) d fun r i =>
          g.val (nthD 0 (s.m.me.row (a.toNat + r) k.vl (tySize c.toNat)) i % 2 ^ (tyOf c.toNat k.fmt2.toNat).bits)) ∧
      (∀ sg n g, tyOf c.toNat k.fmt2.toNat = .int sg n → k.tyv = .flt g → c.toNat ≤ 13 → c.toNat ≠ 3 → k.vl ≤ s.m.me.maxvlOf (tySize c.toNat) →
        exec (.vcvt d a c) s = s.rounds k (.cvt d.toNat a.toNat c.toNat) d fun r i =>
          .ofInt (intVal sg n (nthD 0 (s.m.me.row (a.toNat + r) k.vl (tySize c.toNat)) i % 2 ^ n))) ∧
      (let w := k.fmt2.toNat
       c.toNat = 3 → fmtValid w = true → k.srInt = false → k.vl ≤ s.m.me.maxvlOf (tySize 3) → (fmtBlk w ≠ 0 → s.m.me.regOk (a.toNat + k.g) 1 = true) →
        exec (.vcvt d a c) s = s.rounds k (.cvt d.toNat a.toNat 3) d fun r i =>
          ((tyOf 3 w).val (nthD 0 (s.m.me.row (a.toNat + r) k.vl (tySize 3)) i % 2 ^ (tyOf 3 w).bits)).underBlock
            (s.m.me.blockByte (a.toNat + k.g) (blkLen (fmtBlk w)) k.vl r i)) ∧
      (k.g = 1 →
        let V := fun j => VOp.cmp j m.toNat a.toNat (.reg b.toNat)
        let X := fun j => VOp.cmp j m.toNat a.toNat (.scal (s.x y))
        let p := fun j i => s.m.me.active k i && cmpT k.tyv j (s.code k a 0 i) (s.code k b 0 i)
        let q := fun j i => s.m.me.active k i && cmpT k.tyv j (s.code k a 0 i) ((s.x y).toNat % 2 ^ k.tyv.bits)
        exec (.vcmpeq m a b) s = s.masks k (V 0) m (p 0) ∧
        exec (.vcmpeqX m a y) s = s.masks k (X 0) m (q 0) ∧
        exec (.vcmpne m a b) s = s.masks k (V 1) m (p 1) ∧
        exec (.vcmpneX m a y) s = s.masks k (X 1) m (q 1) ∧
        exec (.vcmplt m a b) s = s.masks k (V 2) m (p 2) ∧
        exec (.vcmpltX m a y) s = s.masks k (X 2) m (q 2) ∧
        exec (.vcmple m a b) s = s.masks k (V 3) m (p 3) ∧
        exec (.vcmpleX m a y) s = s.masks k (X 3) m (q 3) ∧
        exec (.vcmpgt m a b) s = s.masks k (V 4) m (p 4) ∧
        exec (.vcmpgtX m a y) s = s.masks k (X 4) m (q 4) ∧
        exec (.vcmpge m a b) s = s.masks k (V 5) m (p 5) ∧
        exec (.vcmpgeX m a y) s = s.masks k (X 5) m (q 5)) ∧
      exec (.vsel d a b f) s = s.codes k (.sel d.toNat a.toNat b.toNat f.toNat) k.size d (fun r i =>
        if (vecAt 0 s.m.me.masks f.toNat).testBit i then s.code k a r i else s.code k b r i) ∧
      exec (.vsplat d y) s = s.codes k (.splat d.toNat (s.x y)) k.size d (fun _ _ => (s.x y).toNat % 2 ^ k.tyv.bits)) ∧
  (∀ (g : Bool) (n a b : Nat) (f : FFmt),
      let x := intVal g n a
      let y := intVal g n b
      (cmpT (.int g n) 0 a b = true ↔ x = y) ∧ (cmpT (.int g n) 1 a b = true ↔ x ≠ y) ∧ (cmpT (.int g n) 2 a b = true ↔ x < y) ∧
      (cmpT (.int g n) 3 a b = true ↔ x ≤ y) ∧ (cmpT (.int g n) 4 a b = true ↔ y < x) ∧ (cmpT (.int g n) 5 a b = true ↔ y ≤ x) ∧
      (f.val a = .nan ∨ f.val b = .nan →
        cmpT (.flt f) 0 a b = false ∧ cmpT (.flt f) 1 a b = true ∧ cmpT (.flt f) 2 a b = false ∧ cmpT (.flt f) 3 a b = false ∧
        cmpT (.flt f) 4 a b = false ∧ cmpT (.flt f) 5 a b = false))

/-- R364: extraction of an element, slides, permutation and the index vector; positions that a slide or permutation takes from
beyond VL read 0, and `vslideup` leaves positions below its count alone. -/
def Obligations.Rearrangement : Prop :=
  ∀ (s : State) (d a b : BitVec 6) (x y : BitVec 5),
    let k := s.cap mdv
    s.Vector [x, y] → s.Modes k [k.size] → s.Groups k.g [d, a, b] →
    let n := (s.x y).toNat
    let raw := fun v r i => nthD 0 (s.m.me.row (v + r) k.vl k.size) i
    exec (.vextr x a y) s = s.gives mdv (.extr x.toNat a.toNat (s.x y)) x (extrVal s.m.me k a.toNat n) ∧
    exec (.vslidedn d a y) s = s.codes k (.slide false d.toNat a.toNat (s.x y)) k.size d (fun r i =>
      if i + n < k.vl then s.code k a r (i + n) else 0) ∧
    exec (.vslideup d a y) s = .next (s.vdid mdv (.slide true d.toNat a.toNat (s.x y))
      (putCodes (s.sent mdv (.slide true d.toNat a.toNat (s.x y))) k.size d.toNat ((List.range k.g).map fun r => (List.range k.vl).map fun i =>
        if s.m.me.active k i = true ∧ n ≤ i then some (s.code k a r (i - n)) else none))) ∧
    exec (.vperm d a b) s = s.codes k (.perm d.toNat a.toNat b.toNat) k.size d (fun r i =>
      if raw b.toNat r i < k.vl then s.code k a r (raw b.toNat r i) else 0) ∧
    (∀ f, k.tyv = .flt f → k.blocked = false →
      exec (.vstep d) s = s.rounds k (.vstep d.toNat) d (fun r i => .ofInt ((r * k.vl + i : Nat) : Int))) ∧
    (∀ g w, k.tyv = .int g w → k.rm < 5 →
      exec (.vstep d) s = s.codes k (.vstep d.toNat) k.size d (fun r i => fitInt k.sat g w ((r * k.vl + i : Nat) : Int)))

/-- R227, R230, R365 and R366: each reduction puts one value per row into element 0: the tree fold of the active elements, or
the identity; `vdot` accumulates its products with the window sum, rounded once. -/
def Obligations.ReductionsAndDot : Prop :=
  ∀ (s : State) (d a b : BitVec 6),
    let k := s.cap mdv
    s.Vector [] → s.Modes k [k.size] → s.Groups k.g [d, a, b] → k.vl ≠ 0 →
    let row := fun r => (List.range k.vl).map fun i => if s.m.me.active k i then some (s.code k a r i) else none
    let red := fun j => Host.Outcome.next (s.vdid mdv (.red j d.toNat a.toNat) (putCodes (s.sent mdv (.red j d.toNat a.toNat)) k.size d.toNat
      ((List.range k.g).map fun r => [some (redRow k.tyv k j (row r))])))
    (k.rm < 5 → k.blocked = false → exec (.vredsum d a) s = red 0 ∧ exec (.vredmax d a) s = red 1 ∧ exec (.vredmin d a) s = red 2) ∧
    (k.rm < 5 → tyIsInt k.ty = true → exec (.vredand d a) s = red 3 ∧ exec (.vredor d a) s = red 4 ∧ exec (.vredxor d a) s = red 5) ∧
    (k.ty ≠ 3 → dotD k.ty ≠ 0 → k.vl ≤ s.m.me.maxvlOf 4 → k.vl * dotD k.ty ≤ s.m.me.maxvlOf k.size →
      let val := fun (v : BitVec 6) r j => k.tyv.val (nthD 0 (s.m.me.row (v.toNat + r) (k.vl * dotD k.ty) k.size) j % 2 ^ k.tyv.bits)
      let o := VOp.dot d.toNat a.toNat b.toNat
      exec (.vdot d a b) s = .next (s.vdid mdv o (putRounded (s.sent mdv o) k (.flt f32) 4 d.toNat (s.rows k fun r i =>
        windowSum k.rdn (f32.val (nthD 0 (s.m.me.row (d.toNat + r) k.vl 4) i)) ((List.range (dotD k.ty)).map fun q =>
          ((val a r (i * dotD k.ty + q)).underBlock 0).mul ((val b r (i * dotD k.ty + q)).underBlock 0))))))

/-- R346 and R373: mask logic on bits 0 to VL − 1, and the counts and searches of the active set bits of a mask. -/
def Obligations.MaskOperations : Prop :=
  ∀ (s : State) (d a b : BitVec 4) (x : BitVec 5),
    let k := s.cap mdv
    s.Vector [x] → s.Modes k [k.size] → k.vl ≤ s.m.me.sec * 8192 →
    let p := fun i => (vecAt 0 s.m.me.masks a.toNat).testBit i
    let q := fun i => (vecAt 0 s.m.me.masks b.toNat).testBit i
    let o := fun j => VOp.mlog j d.toNat a.toNat b.toNat
    let u := fun j => VOp.mlog j d.toNat a.toNat 0
    let set := (List.range k.vl).filter fun i => s.m.me.active k i && p i
    exec (.mand d a b) s = s.masks k (o 0) d (fun i => p i && q i) ∧
    exec (.mor d a b) s = s.masks k (o 1) d (fun i => p i || q i) ∧
    exec (.mxor d a b) s = s.masks k (o 2) d (fun i => xor (p i) (q i)) ∧
    exec (.mandn d a b) s = s.masks k (o 3) d (fun i => p i && !q i) ∧
    exec (.mnot d a) s = s.masks k (u 4) d (fun i => !p i) ∧
    exec (.mmov d a) s = s.masks k (u 5) d p ∧
    exec (.mset d) s = s.masks k (.mlog 6 d.toNat 0 0) d (fun _ => true) ∧
    exec (.mclr d) s = s.masks k (.mlog 7 d.toNat 0 0) d (fun _ => false) ∧
    exec (.mcnt x a) s = s.gives mdv (.mred 0 x.toNat a.toNat) x (.ofNat 64 set.length) ∧
    exec (.many x a) s = s.gives mdv (.mred 1 x.toNat a.toNat) x (if set = [] then 0 else 1) ∧
    exec (.mfirst x a) s = s.gives mdv (.mred 2 x.toNat a.toNat) x (match set with | [] => .allOnes 64 | i :: _ => .ofNat 64 i)

/-- R100, R232, R233, R246, R249, R250 and R367 to R372: quantising under a fresh or a cached snapshot, dequantising, scale registers, and
compression of a row to its kept half with the positions kept. R251: under the trap policy an overflow is RESCALE, before any element is
written. R121 and R369: dequantising by a poisoned record is MEM_POISON. -/
def Obligations.Quantisers : Prop :=
  ∀ (s : State) (d a b : BitVec 6) (x : BitVec 5) (n : BitVec 3),
    let k := s.cap mdv
    let y := s.m.me
    let put := VOp.sset n.toNat (s.x x)
    s.Vector [x] →
    exec (.vsset n x) s = .next (s.vdid mdv put ((s.sent mdv put).upd fun c =>
      { c with sreg := vecSet c.sreg n.toNat (.ofNat 64 ((s.x x).toNat % 256 + 2 ^ 36)) })) ∧
    exec (.vsget x n) s = s.gives mdv (.sget x.toNat n.toNat) x (vecAt 0 y.sreg n.toNat) ∧
    (s.Modes k [k.size] → s.Groups k.g [d, a, b] → k.vl ≠ 0 →
      let t := s.m.tit s.m.cur k.tid
      let sr := vecAt 0 y.sreg n.toNat
      let sc := if sValid sr then sExp sr else recScale (s.m.record (s.m.qOf s.m.cur) k.tid)
      let put := fun r => (List.range k.vl).map fun i => if y.active k i then some (k.tyv.val (s.code k a r i)) else none
      (k.ty ≤ 2 → tensorCheck y k t true (d.toNat + k.g) = .ok () → t.tyv.noFinite = false → s.m.sqRoom s.m.cur 1 = true →
        s.QuantFree k.tid → ∃ sn, s.MaySnap k.tid t sn ∧
          (t.rescale = 0 ∧ t.over sn = true → ∃ m, m.mem = s.m.mem ∧ m.me.vrf = y.vrf ∧ m.me.sreg = y.sreg ∧ exec (.vqnt d a n) s =
            .next (s.vtrapped mdv (.qnt d.toNat a.toNat n.toNat) m (fltRescale k.tid (t.inUse sn).x sn.gen))) ∧
          (t.rescale ≠ 0 ∨ t.over sn = false →
            let q := t.inUse sn
            ∃ u, exec (.vqnt d a n) s = .next u ∧ u.m.me.sreg = vecSet y.sreg n.toNat (sregOf q.x k.tid q.gen) ∧
              u.m.me.vrf = (let z := y.putRows d.toNat (tySize t.ty) ((List.range k.g).map fun r =>
                  roundRow t.tyv k.rm y.srstep.toNat r ((quantRow t.tyv t.blk q (put r)).map fun v => v.map Prod.fst))
                if t.blk = 0 then z else putBlocks z (d.toNat + k.g) ((List.range k.g).map fun r => rowBlocks t.tyv t.blk q.x (put r))).vrf ∧
              u.m.mem = s.m.mem ∧ u.m.me.x = y.x ∧ u.m.me.pc = y.pc + 4)) ∧
      (k.ty ≤ 2 → tensorCheck y k t (!sValid sr) (a.toNat + k.g) = .ok () → t.tyv.noFinite = false →
        (sValid sr = false → s.m.recReady (s.m.qOf s.m.cur) k.tid = true) →
        let bad := sValid sr = false ∧ s.m.poisonAt (.pa (s.m.recAddr (s.m.qOf s.m.cur) k.tid)) 128 ≠ none
        (bad → ∃ m, m.mem = s.m.mem ∧ m.me.vrf = y.vrf ∧ exec (.vdqnt d a n) s =
          .next (s.vtrapped mdv (.dqnt d.toNat a.toNat n.toNat) m (fltPoison 0 1 0))) ∧
        (¬ bad → ∃ u, exec (.vdqnt d a n) s = .next u ∧ u.m.me.sreg = y.sreg ∧
          u.m.me.vrf = (y.putRows d.toNat k.size ((List.range k.g).map fun r => roundRow k.tyv k.rm y.srstep.toNat r
            ((List.range k.vl).map fun i => if y.active k i then some (((t.tyv.val (nthD 0 (y.row (a.toNat + r) k.vl (tySize t.ty)) i %
              2 ^ t.tyv.bits)).underBlock (y.blockByte (a.toNat + k.g) t.blk k.vl r i)).scale sc) else none))).vrf ∧
          u.m.mem = s.m.mem ∧ u.m.me.x = y.x ∧ u.m.me.pc = y.pc + 4)) ∧
      (k.g = 1 → d ≠ b →
        let halve := fun (op n wi : Nat) =>
          let ng := (k.vl + n - 1) / n
          let row := fun i => if y.active k i then s.code k a 0 i else 0
          let val := fun c => if c = 0 then XV.fin false 0 0 false else k.tyv.val c
          let kept := fun j => keptOf (n / 2) ((List.range n).map fun q => val (row (j * n + q)))
          let at_ := (List.range ng).foldl (fun v j =>
            v + (kept j).zipIdx.foldl (fun u q => u + q.1 * 2 ^ (q.2 * wi)) 0 * 2 ^ (j * (n / 2 * wi))) 0
          let o := VOp.compr op d.toNat a.toNat b.toNat
          (.next (s.vdid mdv o ((s.sent mdv o).upd fun c =>
            (c.putRow d.toNat k.size ((List.range ng).flatMap fun j => (kept j).map fun q => some (row (j * n + q)))).vwrite b.toNat 0
              (leBytes ((ng * (n / 2 * wi) + 7) / 8) at_))) : Host.Outcome State Fault Refusal)
        exec (.vcompr24 d a b) s = halve 0 4 2 ∧ exec (.vcompr48 d a b) s = halve 1 8 3))

/-! ### Matrix instructions -/

/-- R374 to R383: the outer products, from registers, from scratchpad operands, and with structured sparsity: g updates of the
array, each element one window sum of its products; `accop.h` reads and checks the words of the columns that are on alone (log 21), and its
modes name no size that VL must fit (log 91). `acczero` zeroes one array and leaves the others. R227 and R378: one update
of an array, rounded by a mode other than SR: an element of a column that is on becomes the window sum of its old value and its
products, rounded once; every other element and every other array stays. -/
def Obligations.OuterProducts : Prop :=
  (∀ (s : State) (d : BitVec 2) (a b f : BitVec 6) (x y : BitVec 5),
      let k := s.cap mdm
      s.Vector [x, y] → s.Tile k d →
      let c := s.m.me
      let word := fun (v : BitVec 6) i n => (c.row (v.toNat + i) n 4).map (wordVals k.tyv k.ty)
      (s.Modes k [4] → s.Groups k.g [a, b, f] → k.blocked = false →
        let o := VOp.accop d.toNat a.toNat b.toNat
        (dotD k.ty ≠ 0 → exec (.accop d a b) s = .next (s.vdid mdm o (outer (s.sent mdm o) k d.toNat ((List.range k.g).map fun i =>
          (word a i Config.tlen, word b i k.vl))))) ∧
        (dotD k.ty = 4 →
          let sparse := fun (n : Nat) =>
            let o := VOp.accsp n d.toNat a.toNat b.toNat f.toNat
            let dense := fun i j => k.tyv.val (nthD 0 (c.row (b.toNat + i) (8 * k.vl) 1) j % 2 ^ k.tyv.bits)
            let at_ := fun i r => metaPos (n != 0) (leVal (c.vread (f.toNat + i) 0 (if n = 0 then Config.tlen else Config.tlen * 3 / 2))) r
            (.next (s.vdid mdm o (((s.sent mdm o).upd fun z => ((List.range k.g).foldl (fun z i =>
              z.accUpdate k d.toNat (c.cols k) fun r j => (List.range 4).map fun q =>
                if r < Config.tlen ∧ j < k.vl then (nthD .nan (nthD [] (word a i Config.tlen) r) q).mul (dense i (8 * j + nthD 0 (at_ i r) q))
                else .nan) z |>.dirtyAcc d.toNat).srUsed k ((c.cols k).any id)).beats s.m.cur resMatrix (4 * k.g))) :
              Host.Outcome State Fault Refusal)
          exec (.accsp24 d a b f) s = sparse 0 ∧ exec (.accsp48 d a b f) s = sparse 1)) ∧
      (let ha := opHdr (s.x x)
       let hb := opHdr (s.x y)
       let own := ha.tid = 0 ∨ hb.tid = 0
       let o := VOp.accopH d.toNat (s.x x) (s.x y)
       let m := if ha.tid = 0 then s.sent mdm o else (s.sent mdm o).titFill s.m.cur ha.tid
       let m := if hb.tid = 0 then m else m.titFill s.m.cur hb.tid
       ∀ la lb : Nat → Nat → List (Loc × Nat), s.Modes k [] → (own → dotD k.ty ≠ 0 ∧ k.blocked = false) →
         (s.sent mdm o).hdrTypes k ha hb = .ok () →
         (∀ i r, i < k.g → r < Config.tlen → m.opWord ha 0 (ha.off i r) = .ok (la i r)) →
         (∀ i j, i < k.g → j < k.vl → s.colOn k j = true → m.opWord hb 0 (hb.off i j) = .ok (lb i j)) →
         let offs := ((List.range k.g).flatMap fun i => (List.range Config.tlen).map fun r => (ha, ha.off i r)) ++
           (List.range k.g).flatMap fun i => ((List.range k.vl).filter fun j => s.colOn k j).map fun j => (hb, hb.off i j)
         exec (.accopH d x y) s = .next (s.vdid mdm o ((outer (m.fetchCost offs) k d.toNat ((List.range k.g).map fun i =>
           ((List.range Config.tlen).map fun r => wordVals (m.opTy k ha).2 (m.opTy k ha).1 (leVal (m.readSegs (la i r))),
            (List.range k.vl).map fun j => wordVals (m.opTy k hb).2 (m.opTy k hb).1 (if s.colOn k j then leVal (m.readSegs (lb i j)) else 0)))).beats
             s.m.cur resSp (ha.beats k.g + hb.beats k.g)))) ∧
      (cellsWf c.acc = true → ∃ t, exec (.acczero d) s = .next t ∧
        (∀ q, akey d.toNat 0 0 ≤ q → q < akey (d.toNat + 1) 0 0 → cget t.m.me.acc q = 0) ∧
        (∀ q, q < akey d.toNat 0 0 ∨ akey (d.toNat + 1) 0 0 ≤ q → cget t.m.me.acc q = cget c.acc q) ∧
        t.m.me.adirty = c.adirty &&& ~~~(.ofNat 4 (2 ^ d.toNat)) ∧ t.m.mem = s.m.mem ∧ t.m.me.vrf = c.vrf ∧ t.m.me.x = c.x)) ∧
  (∀ (x : Ctx) (k : Cap) (n : Nat) (cols : List Bool) (prods : Nat → Nat → List XV), cellsWf x.acc = true → k.rm < 5 →
      cols.length = k.vl → k.vl ≤ Config.tlen →
      let y := x.accUpdate k n cols prods
      cellsWf y.acc = true ∧
      (∀ r c, r < Config.tlen → c < Config.tlen → cget y.acc (akey n r c) =
        if nthD false cols c then .ofNat 32 (f32.round k.rm 0 (windowSum k.rdn (f32.val (cget x.acc (akey n r c)).toNat) (prods r c)))
        else cget x.acc (akey n r c)) ∧
      ∀ q, q < akey n 0 0 ∨ akey (n + 1) 0 0 ≤ q → cget y.acc q = cget x.acc q)

/-- R384 to R389: moves between an array, registers and memory. The columns that are on are moved: `accrd` rounds by RM, `accwr`
and `accld` exactly, `accst` rounds and stores; `accst.q` stores the quantised codes and block bytes under a fresh or a cached snapshot's scale, which
it leaves in its S register, or, restarted at a row, under the scale that stands there (that its VL fits the array alone is log 91);
`vgathr` gathers words of a scratchpad operand. -/
def Obligations.AccumulatorMoves : Prop :=
  ∀ (s : State) (d : BitVec 2) (a b : BitVec 6) (x : BitVec 5) (n : BitVec 3) (loc : VEl → List (Loc × Nat)),
    let k := s.cap mdm
    let c := s.m.me
    let row := fun i => ((s.x x).toNat + i) % Config.tlen
    let on := (List.range k.vl).map fun j => s.colOn k j
    let els := fun e => c.accFrom.flatMap fun r => accEls (s.x x) e r on
    s.Vector [x] →
    (s.Tile k d → s.Modes k [k.size] → k.ty ≤ 2 → cellsWf c.acc = true →
      (s.Groups k.g [a] →
        let o := VOp.accrd a.toNat d.toNat (s.x x)
        exec (.accrd a d x) s = .next (s.vdid mdm o ((putRounded (s.sent mdm o) k k.tyv k.size a.toNat ((List.range k.g).map fun i =>
          (List.range k.vl).map fun j => if s.colOn k j then some (f32.val (cget c.acc (akey d.toNat (row i) j)).toNat) else none)).beats
            s.m.cur resMatrix (k.g * ((k.vl * 4 + 63) / 64)))) ∧
        ∃ t, exec (.accwr d a x) s = .next t ∧ t.m.mem = s.m.mem ∧ t.m.me.vrf = c.vrf ∧ t.m.me.x = c.x ∧
          ∀ i j, i < k.g → j < k.vl → cget t.m.me.acc (akey d.toNat (row i) j) =
            if s.colOn k j then .ofNat 32 (f32.round 0 0 (k.tyv.val (nthD 0 (c.row (a.toNat + i) k.vl k.size) j)))
            else cget c.acc (akey d.toNat (row i) j)) ∧
      ((s.sent mdm (.accld d.toNat (s.x x))).Els kRead k.size .all (els k.size) loc → s.m.Clean (els k.size) loc →
        (∀ e ∈ els k.size, ∀ l ∈ loc e, ∀ p q, l.1 ≠ .acc p q) →
        ∃ t, exec (.accld d x) s = .next t ∧ t.m.mem = s.m.mem ∧ t.m.me.vrf = c.vrf ∧ t.m.me.x = c.x ∧
          ∀ r j, r < Config.tlen → j < k.vl → cget t.m.me.acc (akey d.toNat r j) =
            if s.colOn k j = true ∧ c.vstart.toNat ≤ r then
              .ofNat 32 (f32.round 0 0 (k.tyv.val (leVal (s.m.readSegs (loc ⟨r, j, ((s.x x).toNat + (r * Config.tlen + j) * k.size) % 2 ^ 64⟩)))))
            else cget c.acc (akey d.toNat r j)) ∧
      (let o := VOp.accst (s.x x) d.toNat
       let code := fun (e : VEl) => (nthD none (roundRow k.tyv k.rm c.srstep.toNat e.g ((List.range k.vl).map fun j =>
         if s.colOn k j then some (f32.val (cget c.acc (akey d.toNat e.g j)).toNat) else none)) e.i).getD 0
       tidCheck (s.m.tit s.m.cur k.tid) k.tid = .ok () → s.m.sqRoom s.m.cur 5 = true →
       (s.sent mdm o).Els kWrite k.size .all (els k.size) loc → (∀ e ∈ els k.size, ∀ l ∈ loc e, ∃ p, l.1 = .pa p) →
       ∃ ps t, exec (.accst x d) s = .next t ∧
         s.ends t (({ s.sent mdm o with pairs := ps }.stores (c.stamp + 1) k.size (els k.size) loc fun e => leBytes k.size (code e)).upd fun z =>
           z.srUsed k (on.any id && decide (c.vstart.toNat < Config.tlen))))) ∧
    (let t := s.m.tit s.m.cur k.tid
     let es := tySize t.ty
     let o := VOp.accstq (s.x x) d.toNat n.toNat
     let sr := vecAt 0 c.sreg n.toNat
     let row := fun (q : Quant) (r : Nat) => c.qrow k t q (s.x x) d.toNat r on
     let blocks := fun (q : Quant) => c.accFrom.flatMap fun r => (row q r).blocks
     let pieces := fun (q : Quant) => c.accFrom.flatMap fun r =>
       (row q r).els.map (fun p => (p.1, leBytes es p.2.1)) ++ (row q r).blocks.map fun p => (p.1, leBytes 1 p.2)
     let fin := fun (q : Quant) (z : Vector (BitVec 64) 8) => ∃ ps f u, exec (.accstQ x d n) s = .next u ∧
       s.ends u (({ s.sent mdm o with pairs := ps, free := f }.puts (c.stamp + 1) loc (pieces q)).upd fun y =>
         { y with sreg := z }.srUsed k (on.any id && decide (c.vstart.toNat < Config.tlen)))
     s.Tile k d → s.Modes k [] → k.tid ≠ 0 → t.v = true → t.stats = true → quantTy t.ty = true → t.tyv.noFinite = false →
     s.m.sqRoom s.m.cur 6 = true → s.QuantFree k.tid → (s.sent mdm o).Els kWrite es .all (els es) loc →
     (∀ q, (s.sent mdm o).Els kWrite 1 .all ((blocks q).map Prod.fst) loc) →
     (∀ q, ∀ e ∈ els es ++ (blocks q).map Prod.fst, ∀ l ∈ loc e, ∃ p, l.1 = .pa p) →
     (c.vstart = 0 → ∃ sn, s.MaySnap k.tid t sn ∧
       (t.rescale = 0 ∧ t.over sn = true → ∃ m, m.mem = s.m.mem ∧ m.me.sreg = c.sreg ∧
         exec (.accstQ x d n) s = .next (s.vtrapped mdm o m (fltRescale k.tid (t.inUse sn).x sn.gen))) ∧
       (t.rescale ≠ 0 ∨ t.over sn = false → fin (t.inUse sn) (vecSet c.sreg n.toNat (sregOf (t.inUse sn).x k.tid sn.gen)))) ∧
     (c.vstart ≠ 0 → fin ⟨sExp sr, 0, decide (2 ≤ t.rescale), false, if t.rescale = 1 then some (sExp sr) else none⟩ c.sreg)) ∧
    (let h := opHdr (s.x x)
     let o := VOp.gath a.toNat (s.x x) b.toNat
     let at_ := fun r i => h.off r (nthD 0 (c.row b.toNat k.vl 4) i)
     ∀ la : Nat → Nat → List (Loc × Nat), k.rm < 6 → k.vl ≠ 0 → k.vl ≤ Config.tlen → k.vl ≤ c.maxvlOf 4 → s.Groups k.g [a] → s.Groups 1 [b] →
       (h.tid ≠ 0 → (s.m.tit s.m.cur h.tid).v = true) →
       (∀ r i, r < k.g → i < k.vl → c.active k i = true → (s.sent mdm o).opWord h i (at_ r i) = .ok (la r i)) →
       let offs := ((List.range k.vl).filter fun i => c.active k i).flatMap fun i => (List.range k.g).map fun r => (h, at_ r i)
       exec (.vgathr a x b) s = .next (s.vdid mdm o ((putCodes ((s.sent mdm o).fetchCost offs) 4 a.toNat
         (s.rows k fun r i => leVal ((s.sent mdm o).readSegs (la r i)))).beats s.m.cur resSp
           ((((List.range k.vl).filter fun i => c.active k i).length * k.g + 7) / 8))))

/-! ### Vector memory, plural access, vector atomics -/

/-- R392, R393, R397 and R399: the vector loads of elements on this chip complete: each active element of the group takes the bytes at
its address: unit stride, a stride, or an index register; memory and all other registers stay. -/
def Obligations.VectorLoads : Prop :=
  ∀ (s : State) (d b : BitVec 6) (a y : BitVec 5) (i : BitVec 12) (loc : VEl → List (Loc × Nat)),
    let k := s.cap mdl
    s.Vector [a, y] → s.Groups k.g [d] →
    let res := fun (j : Instr) (m : Mach) (els : Nat → Nat → VEl) => ∃ t, exec j s = .next t ∧
      s.ends t (s.m.upd fun x => x.putRows d.toNat k.size (s.rows k fun r i => leVal (m.readSegs (loc (els r i))) % 2 ^ k.tyv.bits))
    let ord := fun (j : Instr) (o : VOp) (addr : Nat → Nat) =>
      (s.sent mdl o).Els kRead k.size .all (vElems s.m.me k k.g addr) loc → s.m.Clean (vElems s.m.me k k.g addr) loc →
      res j (s.sent mdl o) fun r i => ⟨r, i, addr (r * k.vl + i) % 2 ^ 64⟩
    (s.Modes k [k.size] →
      ord (.vld d a i) (.ld d.toNat (s.x a + i.signExtend 64)) (fun j => (s.x a + i.signExtend 64).toNat + j * k.size) ∧
      ord (.vlds d a y) (.lds d.toNat (s.x a) (s.x y)) (fun j => (s.x a + .ofNat 64 j * s.x y).toNat)) ∧
    (s.Modes k [k.size, 4] → k.g = 1 → s.Groups 1 [b] →
      let els := idxElems s.m.me k (s.x a) b.toNat
      let m := (s.sent mdl (.ldx d.toNat (s.x a) b.toNat)).touchProbes k.size els
      (∀ n, n < 16 → ((s.sent mdl (.ldx d.toNat (s.x a) b.toNat)).bankPages els k.size n).length ≤ 64) →
      m.Els kRead k.size .all els loc → s.m.Clean els loc →
      res (.vldx d a b) m fun _ i => ⟨0, i, ((s.x a).toNat + nthD 0 (s.m.me.row b.toNat k.vl 4) i) % 2 ^ 64⟩)

/-- R203, R395 to R400: the vector stores of elements on this chip complete: the active elements are written in order, each with its
element's bytes, in two parts where an 8-byte boundary cuts it; `vstn` adds to its progress word the element indices that each run of parts has
passed (the runs are the model's, log 30); every other byte of memory stays. -/
def Obligations.VectorStores : Prop :=
  ∀ (s : State) (d b : BitVec 6) (a y : BitVec 5) (i : BitVec 12) (loc : VEl → List (Loc × Nat)),
    let k := s.cap mdl
    s.Vector [a, y] → s.Groups k.g [d] → tidCheck (s.m.tit s.m.cur k.tid) k.tid = .ok () → s.m.sqRoom s.m.cur 5 = true →
    s.m.mem.wf = true → k.vl ≠ 0 →
    let bytes := fun (e : VEl) => leBytes k.size (s.m.me.elem d.toNat e.g e.i k.size)
    let res := fun (j : Instr) (o : VOp) (els : List VEl) (ss : List (Loc × Nat)) (wr : Mach → Mach) => ∃ ps t, exec j s = .next t ∧
      s.ends t (wr ({ s.sent mdl o with pairs := ps } : Mach)) ∧ s.m.keepsBut t.m (ss ++ els.flatMap loc)
    let ord := fun (j : Instr) (o : VOp) (addr : Nat → Nat) =>
      (s.sent mdl o).Els kWrite k.size .all (vElems s.m.me k k.g addr) loc →
        res j o (vElems s.m.me k k.g addr) [] fun m => m.stores (s.m.me.stamp + 1) k.size (vElems s.m.me k k.g addr) loc bytes
    (s.Modes k [k.size] →
      ord (.vst d a i) (.st d.toNat (s.x a + i.signExtend 64)) (fun j => (s.x a + i.signExtend 64).toNat + j * k.size) ∧
      ord (.vsts d a y) (.sts d.toNat (s.x a) (s.x y)) (fun j => (s.x a + .ofNat 64 j * s.x y).toNat) ∧
      (k.g = 1 →
        let o := VOp.stn d.toNat (s.x a) (s.x y)
        let els := vElems s.m.me k 1 (fun j => (s.x a).toNat + j * k.size)
        let va := (s.x y).toNat / 8 * 8
        let ps := storeParts k.size (els.map fun e => (e, loc e))
        ∀ pw, (s.sent mdl o).progressWord va = .ok pw → (s.sent mdl o).chainBusy pw = false →
          (s.sent mdl o).postsDue (s.m.me.vent mdl o) = false → (s.sent mdl o).Els kWrite k.size .all els loc →
          res (.vstn d a y) o els pw fun m => m.counted (s.m.me.stamp + 1) bytes pw s.m.me.vstart.toNat k.vl ps (ps.length + 2) 0 0)) ∧
    (s.Modes k [k.size, 4] → k.g = 1 → s.Groups 1 [b] →
      let o := VOp.stx d.toNat (s.x a) b.toNat
      let els := idxElems s.m.me k (s.x a) b.toNat
      (∀ n, n < 16 → ((s.sent mdl o).bankPages els k.size n).length ≤ 64) →
      ((s.sent mdl o).touchProbes k.size els).Els kWrite k.size .all els loc →
      res (.vstx d a b) o els [] fun m => m.stores (s.m.me.stamp + 1) k.size els loc bytes)

/-- R108, R179, R231, R401 to R403 and R428: plural instructions whose members all answer complete: the plural loads fold one word of
every member that is on into the destination group, in ascending member order; `pst` writes the group's words into every member not yet
done; `prun` sends one run to each. -/
def Obligations.PluralAccess : Prop :=
  ∀ (s : State) (d : BitVec 6) (x a y : BitVec 5) (p3 : BitVec 3) (p6 : BitVec 6) (b : Bst),
    let k := s.cap mdp
    let c := s.m.cur
    s.Vector [x, a, y] → tyCodeOk k.ty = true → k.rm < 6 → (k.ty = 3 → fmtValid k.fmt.toNat = true) →
    s.m.bankset c (s.x a) = .ok b →
    let on := membersOn s.m.me k b
    let done := fun i => s.m.me.pdone.getLsbD i
    (∀ e ∈ ([(0, .pldSum d a y p3), (1, .pldMax d a y p3), (2, .pldMin d a y p3), (3, .pldMaxabs d a y p3), (4, .pldAnd d a y p3),
        (5, .pldOr d a y p3), (6, .pldXor d a y p3)] : List (Nat × Instr)),
      let off := pluralOff (s.x y) p3
      let m := s.sent mdp (.pld e.1 d.toNat (s.x a) off)
      let ps := m.members c kPlural b off.toNat k.g (fun _ => false) [] on
      let word := fun (p : PMem) => p.ss.flatMap fun w => m.readSegs w
      s.Groups k.g [d] → pldBad e.1 k = false → 64 ≤ s.m.me.maxvlOf k.size * k.size →
      (∀ p ∈ ps, p.bad = none ∧ (word p).length = 64 * k.g ∧ m.memberPoison p = none ∧ ∀ w ∈ p.ss, m.chainBusy w = false) →
      ∃ t, exec e.2 s = .next t ∧ s.ends t (s.m.upd fun z => { z.putRows d.toNat k.size ((List.range k.g).map fun r =>
        (List.range (64 / k.size)).map fun j => some (pldFold k.tyv k e.1 (ps.map fun p =>
          leVal (((word p).drop (64 * r + k.size * j)).take k.size) % 2 ^ k.tyv.bits))) with pdone := 0 })) ∧
    (let off := pluralOff (s.x y) p6
     let o := VOp.pst d.toNat (s.x a) off
     let m := s.sent mdp o
     let ps := m.members c kPst b off.toNat k.g done [] on
     s.Groups k.g [d] → tidCheck (s.m.tit c k.tid) k.tid = .ok () → s.m.sqRoom c 5 = true → s.m.mem.wf = true →
     (∀ p ∈ ps, p.bad = none ∧ ∀ w ∈ p.ss, m.chainBusy w = false ∧ ∀ l ∈ w, apertureOf l.1 = none) →
     ∃ qs t, exec (.pst d a y p6) s = .next t ∧
       s.ends t ((ps.foldl (fun (m : Mach) (p : PMem) => (p.ss.zip ((List.range k.g).map fun r => s.m.me.vread (d.toNat + r) 0 64)).foldl
         (fun m w => m.writeFrom (dieOf m.cur) 0 (segBytes w.1 w.2)) m) { s.sent mdp o with pairs := qs }).upd fun z =>
           { z with pdone := 0 }) ∧
       s.m.keepsBut t.m (ps.flatMap fun p => p.ss.flatten)) ∧
    (let off := pluralOff (s.x y) p6
     let o := VOp.prun (s.x x) (s.x a) off
     let w := s.m.me.vent mdp o
     let m := ((s.sent mdp o).banksetStart w c (s.x a).toNat).titStart w c k.tid
     let ps := m.members c kPrun b off.toNat 1 done [] on
     tidCheck (s.m.tit c k.tid) k.tid = .ok () → (∀ p ∈ ps, p.bad = none) → ps.length + s.m.me.bankq.length + s.m.runsOf c ≤ 16 →
     ∃ t, exec (.prun x a y p6) s = .next t ∧ s.ends t (s.m.upd fun z =>
       { z with bankq := z.bankq ++ ps.map (m.runOf w (s.x x)), pdone := 0 }))

/-- R407, R409, R410 and R415: vector atomics on words of this chip complete, element by element in order, with the old values in Vd;
`vlock` of free locks; `waitv` of words that have landed; the walk of `vsint`. -/
def Obligations.VectorAtomics : Prop :=
  ∀ (s : State) (d b f : BitVec 6) (a e : BitVec 5) (l : BitVec 4) (u v : BitVec 4) (loc : VEl → List (Loc × Nat)),
    let k := s.cap mdl
    let x := s.m.me
    let c := s.m.cur
    let few := fun (m : Mach) (els : List VEl) (n : Nat) => ∀ i, i < 16 → (m.bankPages els n i).length ≤ 64
    k.vl ≠ 0 →
    (s.Vector [a] → k.g = 1 →
      (∀ j ∈ ([(0, .vamoAdd d a b), (1, .vamoSwap d a b), (2, .vamoMax d a b), (3, .vamoMin d a b), (4, .vamoMaxu d a b),
          (5, .vamoMinu d a b), (6, .vamoAnd d a b), (7, .vamoOr d a b), (8, .vamoXor d a b)] : List (Nat × Instr)),
        let els := alignEls k.size (idxElems x k (s.x a) b.toNat)
        let m := s.sent mdl (.vamo j.1 d.toNat (s.x a) b.toNat)
        s.Modes k [k.size, 4] → s.Groups 1 [d, b] → vamoBad j.1 k = false → tidCheck (s.m.tit c k.tid) k.tid = .ok () →
        m.recRoom (s.m.qOf c) k.tid 5 = true → few m els k.size → (m.touchProbes k.size els).Els kAtomic k.size .no els loc → m.Clean els loc →
        ∃ qs t, exec j.2 s = .next t ∧
          (let r := { m with pairs := qs }.updates k.size loc
             (fun el old => vamoNew j.1 k.tyv k.rm old (x.elem d.toNat 0 el.i k.size)) els
           s.ends t (putCodes r.1 k.size d.toNat [spread k.vl 0 r.2])) ∧
          (s.m.mem.wf = true → s.m.keepsBut t.m (els.flatMap loc))) ∧
      (let els := alignEls 8 (idxElems x k (s.x a) b.toNat)
       let m := s.sent mdl (.vlock l.toNat (s.x a) b.toNat)
       s.Groups 1 [b] → k.vl ≤ x.maxvlOf 4 → few m els 8 → (m.touchProbes 8 els).Els kAtomic 8 .no els loc → m.Clean els loc →
       ∃ qs t, exec (.vlock l a b) s = .next t ∧
         (let r := { m with pairs := qs }.attempts ((els.map fun el => (el, loc el)).foldl (fun z p => insLock p z) [])
          let m := r.1.upd fun z => z.putMask l.toNat ((List.range k.vl).map fun i => some (r.2.1.contains i))
          r.2.2 = none ∧ s.ends t (if r.2.1 = [] then m else m.acquire c))) ∧
      (let els := alignEls k.size (idxElems x k (s.x a) b.toNat)
       let hit := fun (m : Mach) (el : VEl) => leVal (m.readSegs (loc el)) = x.elem f.toNat 0 el.i k.size
       let out := fun (m : Mach) => (s.m.upd fun z => z.putMask l.toNat ((List.range k.vl).map fun i =>
         some (els.any fun el => el.i == i && decide (hit m el)))).acquire c
       s.Modes k [k.size, 4] → s.Groups 1 [b, f] → waitvBad k = false →
       (let m := s.sent mdl (.waitv false l.toNat (s.x a) x.wdog b.toNat f.toNat)
        few m els k.size → (m.touchProbes k.size els).Els kRead k.size .all els loc → m.Clean els loc → (els = [] ∨ ∃ el ∈ els, hit m el) →
        ∃ t, exec (.waitvAny l a b f) s = .next t ∧ s.ends t (out m)) ∧
       (let m := s.sent mdl (.waitv true l.toNat (s.x a) x.wdog b.toNat f.toNat)
        few m els k.size → (m.touchProbes k.size els).Els kRead k.size .all els loc → m.Clean els loc → (∀ el ∈ els, hit m el) →
        ∃ t, exec (.waitvAll l a b f) s = .next t ∧ s.ends t (out m)))) ∧
    (let ra := 2 * u.toNat
     let rb := 2 * v.toNat
     let n := k.size
     let m := s.sent mdl (.vsint e.toNat (ra + 64 * rb) (x.rx ra) (x.rx (ra + 1)) (x.rx rb) (x.rx (rb + 1)))
     let list := fun (w z : Word) => SList.mk (w.toNat / n * n) z.toNat 0 (m.pageOf c (w.toNat / n * n)) false
     let p := list (x.rx ra) (x.rx (ra + 1))
     let q := list (x.rx rb) (x.rx (rb + 1))
     let segs := fun (l : SList) (n : Nat) => match m.resolve c kRead l.p n .all with | .ok ss => ss | .error _ => []
     s.Vector [e, .ofNat 5 ra, .ofNat 5 (ra + 1), .ofNat 5 rb, .ofNat 5 (rb + 1)] → tyCodeOk k.ty = true → k.vl ≤ x.maxvlOf n →
     vamoInt k.ty = true →
     (p.n ≠ 0 → q.n ≠ 0 → (∃ w, (m.touch c p.p).sintElem n p = .ok w) ∧ ∃ w, ((m.touch c p.p).touch c q.p).sintElem n q = .ok w) →
     let r := m.sintWalk k.tyv n k.vl (2 * k.vl + 1) p q 0 []
     m.chainBusy (segs p (r.1.seen * n) ++ segs q (r.2.1.seen * n)) = false →
     ∃ t, exec (.vsint e u v) s = .next t ∧ s.ends t (s.m.upd fun z =>
       let z := (z.wx ra (x.rx ra + .ofNat 64 (r.1.c * n))).wx (ra + 1) (.ofNat 64 r.1.n)
       let z := (z.wx rb (x.rx rb + .ofNat 64 (r.2.1.c * n))).wx (rb + 1) (.ofNat 64 r.2.1.n)
       z.wx e.toNat (z.rx e.toNat + .ofNat 64 r.2.2.1)))

/-! ### Engines -/

/-- R152, R201, R420 to R426: a copy instruction completes: it places its command, as its control word or descriptor gives it, in the
command hold, and goes on; nothing is copied yet. R155, R177, R178, R242, R246, R259, R302 and R422 to R424: a held command is released to
its queue; the head of the queue starts, with its entry and, for a quantising copy, its snapshot and scale read once; a plain copy is
performed up to the next 256-byte boundary of its source, a quantising one encodes its whole source and then writes it block by block
(log 29), a gang multicast writes every member's register; and a done command completes with its deltas and a report of its whole sector
count. -/
def Obligations.Copies : Prop :=
  (∀ (s : State) (d a b : BitVec 5) (loc : Nat → Loc),
      let w := (s.x b).toNat
      let tb := fun (w : Nat) => if w.testBit 36 then some (bitsOf w 53 37 * 16) else none
      let fits := fun (w : Nat) => ∀ o, tb w = some o → o < s.m.me.spSize
      let cmd := fun (kind xf : Nat) => CopyCmd.mk kind (s.x a).toNat (s.x d).toNat (bitsOf w 23 0) (bitsOf w 35 24) (tb w) xf [] s.m.me.ir
      let put := fun (k : CopyCmd) => s.m.upd fun x =>
        { x with hold := x.hold ++ [HoldEnt.mk x.stamp x.sbNext x.ir (.copy k)], sbNext := x.sbNext + 1 }
      s.m.me.hold.length < 16 →
      (s.ready [d, a, b] → fits w →
        exec (.cpy d a b) s = .next (s.did (put (cmd 0 0))) ∧
        (bitsOf w 58 54 ≤ 2 → bitsOf w 35 24 ≠ 0 → exec (.cpyQ d a b) s = .next (s.did (put (cmd 1 (bitsOf w 58 54))))) ∧
        (∀ g, s.Member (bitsOf w 61 54) 2 g → 0xFF40000000000000 ≤ (s.x d).toNat → (s.x d).toNat < 0xFF60000000000000 →
          exec (.cpyG d a b) s = .next (s.did (put (cmd 2 (bitsOf w 61 54)))))) ∧
      (let l := leVal (s.m.image 8 16 loc)
       s.ready [a] → (s.x a).toNat % 128 = 0 → s.m.Image .all 0 (s.x a).toNat 8 16 loc → fits l →
        ∃ t, exec (.lns a) s = .next t ∧ s.readsTo t (put ⟨0, bitsOf l 127 64, bitsOf l 191 128, bitsOf l 23 0, bitsOf l 35 24, tb l, 0,
          (List.range 6).map fun j => (bitsOf l (271 + 128 * j) (256 + 128 * j), sx 32 (bitsOf l (351 + 128 * j) (320 + 128 * j)),
            sx 32 (bitsOf l (383 + 128 * j) (352 + 128 * j))), s.m.me.ir⟩))) ∧
  (∀ (s : State) (c : Nat),
      let x := s.m.ctx c
      (∀ h rest, x.hold = h :: rest → x.unsafeUpTo h.after = false →
        (∀ k, h.cmd = .copy k → x.copyq.length < 32 →
          let held := (s.m.copyRegs c k (s.m.tit c k.tid)).filter fun r => r.1 == c
          ∃ t, exec (.commandRelease c) s = .next t ∧ (t.m.ctx c).hold = rest ∧
            s.queued t c (x.copyq ++ [CopyEnt.mk k h.after h.mark false 0 0 [] held none false 0 []])) ∧
        (∀ n va, h.cmd = .cgrun n va → (∀ e ∈ x.sb, h.mark ≤ e.id) →
          exec (.commandRelease c) s = .next { s with m := (s.m.updCtx c fun x => { x with hold := rest }).updSlot n fun z =>
            ({ z with wait := z.wait ++ [GRun.mk c x.task h.word h.after (h.mark + 1) va [] [] [] [] [] 0 0 none] }) })) ∧
      (∀ e rest, x.copyq = e :: rest → x.copyStop = false →
        let k := e.cmd
        let raw := if k.tid = 0 then 0 else s.m.titRaw (pairOf c) (s.m.qOf c) k.tid
        let regs := s.m.copyRegs c k (titOf raw)
        let started := fun (q : Option (Int × Nat × Bool × Bool)) =>
          ({ e with started := true, held := regs, quant := q, tit := raw, done := k.kind != 1 && k.sectors == 0 } : CopyEnt)
        (s.m.copyMayStart c e = true → (k.tid = 0 ∨ (titOf raw).v = true) →
          (k.kind ≠ 1 → ∃ t, exec (.copyCommandStart c) s = .next t ∧ s.queued t c (started none :: rest)) ∧
          (k.kind = 1 → k.tid ≠ 0 → (titOf raw).v = true → (titOf raw).stats = true → quantTy (titOf raw).ty = true →
            (titOf raw).tyv.noFinite = false → s.m.sqRoom c 1 = true → x.snapReqs = [] → s.m.recReady (s.m.qOf c) k.tid = true →
            ∃ sn, s.m.MaySnap c k.tid (titOf raw) sn ∧ ((titOf raw).rescale ≠ 0 ∨ (titOf raw).over sn = false →
              let q := (titOf raw).inUse sn
              ∃ t, exec (.copyCommandStart c) s = .next t ∧ s.queued t c (started (some (q.x, q.gen, q.clamp, q.ovf)) :: rest)))) ∧
        (e.started = true → e.done = false → s.m.portsPaid c = true → s.m.sqRoom c 5 = true → s.m.mem.wf = true →
          let wrote := fun (ds : List (Loc × Nat)) (bs : List Byte) =>
            (segBytes ds bs).foldl (fun m p => m.writeFrom (dieOf c) 1 [p] (some (c, e.age, e.mark + 1))) s.m
          (∀ ss, k.kind = 2 → s.m.walks.resolve c kRead k.src k.len .all true = .ok ss → s.m.Local ss → s.m.poisonSegs 0 ss = none →
            let off := k.dst % 2 ^ 24
            let gang := s.m.gangCtxs c k
            let gvl := (((s.m.cast x.task.q x.task.cast).bind fun z => z.groups[k.xf]?).map Group.gvl).getD 0
            bitsOf k.dst 36 24 = 0 → off < x.sec * 65536 → (∀ g ∈ gang, ∃ d, g.2 = some d ∧ off % x.regBytes + k.len ≤ (s.m.ctx d).regBytes ∧
              off / x.regBytes < (s.m.ctx d).nregs ∧ gvl ≤ (s.m.ctx d).maxvl) → (gang.filterMap Prod.snd).Nodup →
            ∃ t, exec (.copyPerformed c) s = .next t ∧ s.queued t c ({ e with iter := 1, done := true } :: rest) ∧
              ∀ d ∈ gang.filterMap Prod.snd, (t.m.ctx d).vrf =
                ((s.m.ctx d).vwrite (off / x.regBytes) (off % x.regBytes) (s.m.readSegs ss)).vrf) ∧
          (∀ ss q, k.kind = 1 → e.tail = [] → e.quant = some q → s.m.walks.resolve c kRead k.src k.len .all true = .ok ss →
            s.m.Local ss → s.m.poisonSegs 0 ss = none →
            let t := titOf e.tit
            let n := k.len / tySize k.xf
            let row := (chunks (tySize k.xf) n (s.m.readSegs ss)).map fun v => some ((tyOf k.xf 0).val v)
            let codes := roundRow t.tyv 0 0 0 ((quantRow t.tyv t.blk ⟨q.1, q.2.1, q.2.2.1, q.2.2.2, none⟩ row).map fun v => v.map Prod.fst)
            let exps := (rowBlocks t.tyv t.blk q.1 row ++ [q.1]).map fun b => BitVec.ofNat 8 (wrapN 8 b)
            let out := codes.flatMap (fun v => leBytes (tySize t.ty) (v.getD 0)) ++ exps
            ∃ u z, exec (.copyPerformed c) s = .next u ∧ s.queued u c ({ e with quant := some z, tail := out } :: rest) ∧ z.1 = q.1) ∧
          (∀ ds, k.kind = 1 → e.tail ≠ [] → e.pos < e.tail.length →
            let da := (k.dst + e.pos) % 2 ^ 64
            let n := min (e.tail.length - e.pos) (4096 - da % 4096)
            s.m.walks.resolve c kWrite da n .all true = .ok ds → s.m.Local ds →
            ∃ t e', exec (.copyPerformed c) s = .next t ∧ (t.m.ctx c).copyq = e' :: rest ∧ e'.pos = e.pos + n ∧
              e'.done = (e.pos + n == e.tail.length) ∧ e'.tail = e.tail ∧ e'.cmd = k ∧
              t.m.mem = (wrote ds ((e.tail.drop e.pos).take n)).mem ∧ s.m.keepsBut t.m ds) ∧
          (∀ ss ds, k.kind = 0 → k.tid = 0 →
            let p := k.at e.iter
            let sa := (p.1 + e.pos) % 2 ^ 64
            let da := (p.2 + e.pos) % 2 ^ 64
            let n := min (k.len - e.pos) (256 - sa % 256)
            s.m.walks.resolve c kRead sa n .all true = .ok ss → s.m.Local ss → s.m.poisonSegs 0 ss = none →
            (s.m.readSegs ss).length = n → (s.m.walks.touchN c sa n).resolve c kWrite da n .all true = .ok ds → s.m.Local ds →
            ∃ t e', exec (.copyPerformed c) s = .next t ∧ (t.m.ctx c).copyq = e' :: rest ∧ e'.cmd = k ∧
              (e.pos + n < k.len → e'.iter = e.iter ∧ e'.pos = e.pos + n ∧ e'.done = (e.iter == k.iters)) ∧
              (k.len ≤ e.pos + n → e'.iter = e.iter + 1 ∧ e'.pos = 0 ∧ e'.done = (e.iter + 1 == k.iters)) ∧
              t.m.mem = (wrote ds (s.m.readSegs ss)).mem ∧ s.m.keepsBut t.m ds)) ∧
        (e.done = true → s.m.copyPosted c e = false → s.m.sqRoom c e.sums.length = true → x.status = .running →
          ∃ t, exec (.copyCompletion c) s = .next t ∧ (t.m.ctx c).copyq = rest ∧ t.m.mem = (s.m.copyReport c k false false).mem ∧
            (t.m.pair (pairOf c)).sq = (s.m.pair (pairOf c)).sq ++ e.sums.map Prod.snd ∧
            ∀ v, (c, v) ∉ e.held → nthD 0 (t.m.ctx c).score v = nthD 0 x.score v)))

/-- R304, R440 and R152: `fld` sends a read to the member behind its address when it is first met, and takes the reply, as an acquire,
once it has come; an absent member is FABRIC_ABSENT; `fst` completes: its write is in the command hold, and release posts it once older
scalar stores are performed. R190, R231, R441, R442 and R453: `fldr` asks every other present member of its group when it starts, reads its own
chip's value on the chip, and writes the fold of the values, in ascending member order, and the mask of members left out; it completes at once
where no other member is present, with the identity where it is no member itself;
`fred` completes: its active elements are posted. -/
def Obligations.Fabric : Prop :=
  (∀ (s : State) (d a : BitVec 5) (i : BitVec 12) (t : Nat × Nat),
      let va := s.ea a i / 8 * 8
      let c := s.m.cur
      let m := s.reach 0 va 8
      let seq := s.m.txSeq t.1 clsReq
      s.m.walkWaits c va 8 = false →
      (s.ready [d, a] → m.apertureWord kRead va = .ok t → s.m.me.engineReady = true →
        (∀ r bs, s.m.findReq c s.m.me.pc 0 = some r → r.err = none → r.data = some bs →
          exec (.fld d a i) s = .next (s.did (((m.dropReqs c s.m.me.pc).setX d.toNat (zextW (leVal bs))).acquire c))) ∧
        (s.m.findReq c s.m.me.pc 0 = none → s.m.fabStalled t.1 clsReq = false →
          (s.m.memberOk t.1 = false → exec (.fld d a i) s = .next { s with m := m.scalarTrap (fltAbsent t.1 clsReq va) }) ∧
          (s.m.memberOk t.1 = true → ∃ t', exec (.fld d a i) s = .next t' ∧ t'.m.me.pc = s.m.me.pc ∧ t'.m.mem = s.m.mem ∧
            t'.m.troupe.txq = s.m.troupe.txq ++ [⟨t.1, clsReq, seq, s.m.troupe.seal clsReq t.1 seq none (.read t.2 8),
              .ctx c s.m.me.ir va none, some (s.m.qOf c), false, s.m.cycle, 0, 0⟩] ∧
            t'.m.troupe.reqs = s.m.troupe.reqs ++ [⟨c, s.m.me.pc, 0, t.1, clsReq, seq, [], [], none, none⟩]))) ∧
      (s.ready [d, a] → m.apertureWord kWrite va = .ok t → s.m.me.hold.length < 16 → s.m.curtained = false →
        exec (.fst d a i) s = .next (s.did (m.upd fun x =>
          { x with hold := x.hold ++ [HoldEnt.mk x.stamp x.sbNext x.ir (.fst t.1 t.2 (s.x d) va)], sbNext := x.sbNext + 1 }))) ∧
      (∀ n h rest v, (s.m.ctx n).hold = h :: rest → h.cmd = .fst t.1 t.2 v va → (s.m.ctx n).unsafeUpTo h.after = false →
        (∀ e ∈ (s.m.ctx n).sb, h.mark ≤ e.id) → (s.m.ctx n).status = .running → s.m.fabStalled t.1 clsReq = false →
        (s.m.memberOk t.1 = true → exec (.commandRelease n) s = .next { s with
          m := (s.m.send t.1 clsReq none (.write t.2 (leBytes 8 v.toNat) 0 .none) (.ctx n h.word va (some (h.after, h.mark + 1)))).updCtx n
            fun x => { x with hold := rest } }) ∧
        (s.m.memberOk t.1 = false → ∃ t', exec (.commandRelease n) s = .next t' ∧ (t'.m.ctx n).hold = rest ∧
          (t'.m.ctx n).engFaults = (s.m.ctx n).engFaults ++ [⟨h.after, h.mark + 1, 3, fltAbsent t.1 clsReq va, h.word, 0⟩]))) ∧
  (∀ (s : State) (d v : BitVec 6) (a b : BitVec 5) (y : BitVec 3),
      let k := s.cap mdl
      let c := s.m.cur
      (∀ g, s.Vector [a, b] → s.Modes k [k.size] → s.Groups 1 [d] → k.ty ≤ 2 → k.g = 1 → k.rm ≠ 5 → k.vl ≠ 0 →
        s.Member (s.x a).toNat 4 g → (∀ r ∈ s.m.troupe.reqs, ¬ (r.c = c ∧ r.pc = s.m.me.pc)) →
        let ks := bitList g.param 64
        let own := s.m.troupe.node
        let here := ks.filter fun j => j != own && s.m.memberOk j
        ∀ e ∈ ([(0, .fldrSum d a b), (1, .fldrMax d a b), (2, .fldrMin d a b)] : List (Nat × Instr)),
          let o := VOp.fldr e.1 d.toNat (s.x a) (s.x b) a.toNat
          let w := s.m.me.vent mdl o
          let n := k.vl * k.size
          s.m.me.olderOut w = false → (∀ j ∈ here, s.m.fabStalled j clsColl = false) →
          (own ∉ ks → here = [] → exec e.2 s = .next (s.vdid mdl o ((putCodes (s.sent mdl o) k.size d.toNat
            [(List.range k.vl).map fun i => if s.m.me.active k i then some (redIdent k.tyv e.1) else none]).upd fun x =>
              x.setXAt w.stamp a.toNat (.ofNat 64 (memMask ks))))) ∧
          (own ∉ ks → here ≠ [] →
            exec e.2 s = .next { s with m := ((s.sent mdl o).gatherOut w g.param (s.x b).toNat n here).startTimer w }) ∧
          (own ∈ ks → here ≠ [] → ∀ m, (s.sent mdl o).gatherOwn w (s.x b).toNat n = .ok m →
            exec e.2 s = .next { s with m := (m.gatherOut w g.param (s.x b).toNat n here).startTimer w }) ∧
          (∀ f ss, own ∈ ks → here = [] → k.tyv = .flt f → (s.sent mdl o).inboundFrom none kRead (s.x b).toNat n = .ok ss → s.m.chainBusy ss = false →
            s.m.poisonSegs 0 ss = none → ∃ t, exec e.2 s = .next t ∧ s.ends t (s.m.upd fun x =>
              (x.putRows d.toNat k.size [(List.range k.vl).map fun i => if s.m.me.active k i then
                some (fldrFold f k.rm e.1 [nthD 0 (chunks k.size k.vl (s.m.readSegs ss)) i]) else none]).wx a.toNat
                  (.ofNat 64 (memMask (ks.filter fun j => j != own)))))) ∧
      (∀ n w rest op dst grp off xa τ g f, (s.m.ctx n).vq = w :: rest → w.op = .fldr op dst grp off xa → w.timer = some τ → w.done = false →
        let m := s.m.as n
        let x := s.m.ctx n
        let q := w.cap
        let ks := bitList g.param 64
        q.vl ≠ 0 → q.tyv = .flt f → q.ty ≤ 2 → q.g = 1 → q.rm < 5 → x.regOk dst 1 = true → q.vl ≤ x.maxvlOf q.size →
        ({ s with m := m } : State).Member grp.toNat 4 g → x.scored [(dst, 1)] = false → x.windowStores w.stamp = false →
        (∀ j ∈ ks, m.answer w off.toNat j = .out ∨ ∃ bs, m.answer w off.toNat j = .data bs) →
        let rows := ks.filterMap fun j => match m.answer w off.toNat j with
          | .data bs => some (chunks q.size q.vl bs)
          | _ => none
        let outs := ks.filter fun j => match m.answer w off.toNat j with
          | .out => true
          | _ => false
        let row := (List.range q.vl).map fun i =>
          if x.active q i then some (fldrFold f q.rm op (rows.map fun r => nthD 0 r i)) else none
        ∃ t, exec (.faultSafePoint n) s = .next t ∧ (t.m.ctx n).vrf = (x.putRow dst q.size row).vrf ∧ t.m.mem = s.m.mem ∧
          (t.m.ctx n).x = (x.wx xa (.ofNat 64 (memMask outs))).x ∧
          (t.m.ctx n).vq.head?.map (fun v => (v.stamp, v.safe, v.done)) = some (w.stamp, true, true)) ∧
      (∀ ss t, s.Vector [a] → s.Groups k.g [v] → k.vl ≠ 0 → k.vl ≤ s.m.me.maxvlOf k.size → k.vl * k.g * k.size ≤ 3968 →
        (k.ty ≤ 2 ∨ k.ty = 5) → k.rm < 6 → s.m.me.hold = [] → (k.tid = 0 ∨ (s.m.tit c k.tid).v = true) →
        let r := vecAt 0 s.m.me.sreg y.toNat
        (k.ty = 5 → sValid r = true → sExp r = 0) →
        let va := (s.x a).toNat
        let o := VOp.fred (s.x a) v.toNat y.toNat
        isWindow va = false → ((s.sent mdl o).touch c va).resolve c kWrite va k.size .no = .ok ss →
        ss.findSome? (fun l => apertureOf l.1) = some t → s.m.fabStalled t.1 clsColl = false →
        let seq := s.m.txSeq t.1 clsColl
        let els := (List.range k.g).flatMap fun j => ((List.range k.vl).filter fun i => s.m.me.active k i).map fun i =>
          ((j * k.vl + i) * k.size, s.m.me.elem v.toNat j i k.size)
        (s.m.memberOk t.1 = true → ∃ t', exec (.fred a v y) s = .next t' ∧ s.ends t' s.m ∧
          t'.m.troupe.txq = s.m.troupe.txq ++ [⟨t.1, clsColl, seq,
            s.m.troupe.seal clsColl t.1 seq none (.fred t.2 k.ty (if sValid r then sExp r else 0) k.tid els),
            .ctx c s.m.me.ir va (some (s.m.me.stamp + 1, 0)), some (s.m.qOf c), false, s.m.cycle, 0, 0⟩]) ∧
        (s.m.memberOk t.1 = false → ∃ t', exec (.fred a v y) s = .next t' ∧ s.ends t' (s.m.upd fun x =>
          { x with engFaults := x.engFaults ++ [⟨s.m.me.stamp + 1, 0, 3, fltAbsent t.1 clsColl va, s.m.me.ir, 0⟩] }))))

/-- R430 and R431: lane by lane, F32 operations rounded to nearest even and I32 operations that wrap, where the predicate is 1;
the compares, whose bit is 0 where it is not; `bsel`, which writes every lane. R429, R432 and R433: row loads and stores of the
run's bank under a predicate, jumps, the yield point, and the end of a run. Each word completes, and the run goes on. That the next run takes
the place of one that yields where the queue is full is log 36. -/
def Obligations.NmuInstructions : Prop :=
  (∀ (s : State) (r : NRun) (k e : BitVec 2) (d a b : BitVec 3) (t : BitVec 1), s.Running r →
      let u := s.m.nmu s.m.ncur
      let A := fun l => lane (u.b_ a.toNat) l
      let B := fun l => lane (u.b_ b.toNat) l
      let D := fun l => lane (u.b_ d.toNat) l
      let on := fun l => (u.k_ k.toNat).getLsbD l
      let put := fun i (f : Nat → Nat) => exec i s = s.nmuOn s.m (u.putB k.toNat d.toNat f) r (r.at_ + 1)
      let rnd := f32.round 0 0
      let F := f32.val
      (t = 0 →
        put (.badd k d a b t) (fun l => rnd ((F (A l)).add false (F (B l)))) ∧ put (.bsub k d a b t) (fun l => rnd ((F (A l)).sub false (F (B l)))) ∧
        put (.bmul k d a b t) (fun l => rnd ((F (A l)).mul (F (B l)))) ∧ put (.bmin k d a b t) (fun l => rnd ((F (A l)).minOf (F (B l)))) ∧
        put (.bmax k d a b t) (fun l => rnd ((F (A l)).maxOf (F (B l)))) ∧
        put (.bfma k d a b t) (fun l => rnd (((F (A l)).mul (F (B l))).add false (F (D l))))) ∧
      (t = 1 →
        put (.badd k d a b t) (fun l => (A l + B l) % 2 ^ 32) ∧ put (.bsub k d a b t) (fun l => (A l + (2 ^ 32 - B l)) % 2 ^ 32) ∧
        put (.bmul k d a b t) (fun l => A l * B l % 2 ^ 32) ∧ put (.bfma k d a b t) (fun l => (A l * B l + D l) % 2 ^ 32) ∧
        put (.bmin k d a b t) (fun l => if sx 32 (A l) ≤ sx 32 (B l) then A l else B l) ∧
        put (.bmax k d a b t) (fun l => if sx 32 (A l) ≤ sx 32 (B l) then B l else A l)) ∧
      put (.band k d a b) (fun l => A l &&& B l) ∧ put (.bor k d a b) (fun l => A l ||| B l) ∧ put (.bxor k d a b) (fun l => A l ^^^ B l) ∧
      (∀ f l, l < 16 → lane ((u.putB k.toNat d.toNat f).b_ d.toNat) l = if on l then f l % 2 ^ 32 else D l) ∧
      (∀ c ∈ ([(0, .bcmpeq k e a b t), (2, .bcmplt k e a b t), (3, .bcmple k e a b t)] : List (Nat × Instr)), ∃ w : BitVec 16,
        exec c.2 s = s.nmuOn s.m { u with k := vecSet u.k e.toNat w } r (r.at_ + 1) ∧
        ∀ l, l < 16 → w.getLsbD l = (on l && cmpT (if t = 1 then .int true 32 else .flt f32) c.1 (A l) (B l))) ∧
      (∃ w : BitVec 512, exec (.bsel k d a b) s = s.nmuOn s.m { u with b := vecSet u.b d.toNat w } r (r.at_ + 1) ∧
        ∀ l, l < 16 → lane w l = if on l then A l else B l)) ∧
  (∀ (s : State) (r : NRun) (k : BitVec 2) (d : BitVec 3) (i : BitVec 12) (j : BitVec 9) (at_ : Nat), s.Running r →
      let n := s.m.ncur
      let u := s.m.nmu n
      let va := rowVa r.run i
      let on := fun l => (u.k_ k.toNat).getLsbD l
      let bs := leBytes 64 (u.b_ d.toNat).toNat
      let ws := if u.k_ k.toNat = .allOnes 16 then [(at_, bs)]
        else ((List.range 16).filter on).map fun l => (at_ + 4 * l, (bs.drop (4 * l)).take 4)
      let m : Mach := { s.m with seen := some r.run.age }
      let went := ({ r with at_ := r.at_ + 1, steps := 0 } : NRun)
      (m.amoAhead r.run.c = false → m.rowLoc r.run kRead va = .ok at_ → s.m.chainBusy [(.pa at_, 64)] = false → s.m.poisonAt (.pa at_) 64 = none →
        ∃ t, exec (.brld k d i) s = .next t ∧ t.m.mem = s.m.mem ∧
          s.nmuTo t (u.putB k.toNat d.toNat fun l => lane (.ofNat 512 (leVal (s.m.readPa at_ 64))) l) r (r.at_ + 1)) ∧
      (m.amoAhead r.run.c = false → m.rowLoc r.run kWrite va = .ok at_ → s.m.chainBusy [(.pa at_, 64)] = false → s.m.sqRoom r.run.c 1 = true →
        ∃ t, exec (.brst k d i) s = .next t ∧ s.nmuTo t u r (r.at_ + 1) ∧ t.m.mem = (ws.foldl (fun m w => m.writePa w.1 w.2) s.m).mem ∧
          (s.m.mem.wf = true → s.m.keepsBut t.m (ws.map fun w => (.pa w.1, w.2.length)))) ∧
      ((∀ l, l < 16 → on l = true → lane (u.b_ d.toNat) l = 0) → exec (.bskip k d j) s = s.nmuOn s.m u r j.toNat) ∧
      ((∃ l, l < 16 ∧ on l = true ∧ lane (u.b_ d.toNat) l ≠ 0) → exec (.bskip k d j) s = s.nmuOn s.m u r (r.at_ + 1)) ∧
      exec (.bjmp j) s = s.nmuOn s.m u r j.toNat ∧
      (u.queue = [] → u.pend = none →
        exec .byield s = .next { s with m := s.m.updNmu n fun _ => { u with cur := some went } }) ∧
      (u.queue ≠ [] ∨ u.pend ≠ none → u.queue.length < 8 → exec .byield s = .next { s with
        m := s.m.updNmu n fun _ => { u with cur := none, queue := u.queue ++ [went] } }) ∧
      (∀ h rest, u.queue = h :: rest → 8 ≤ u.queue.length → exec .byield s = .next { s with m := s.m.updNmu n fun _ => { u with
        cur := some { h with steps := 0, begun := true }, queue := rest ++ [went], k := if h.begun then u.k else vecSet u.k 0 0xFFFF } }) ∧
      ((s.m.ctx r.run.c).status = .running →
        exec .bend s = .next { s with m := (s.m.updNmu n fun _ => { u with cur := none }).charge (n / 256) (dieOf r.run.c) 2 64 }))

/-- R123, R156, R309, R310, R427 and R429: `pmld` completes: it fills the stores of its targets; a queued run enters its NMU, starts with
K0 all ones, or resumes with the K0 that it left, and yields after 4,096 steps; a PC parks B, K and the store in its park row and takes
them back; a member activation counts against the window of 64 ns. Which step a forced yield follows, and the yield into a full queue, are log
36, what `pmld` does where a translation fails log 27, that the executing run has left the queue log 93, when an activation is due log 64. -/
def Obligations.NmuSteps : Prop :=
  ∀ (s : State) (n c : Nat),
    (∀ a b loc ns, s.ready [a, b] →
      let w := (s.x b).toNat
      let va := (s.x a).toNat
      let len := bitsOf w 18 9
      va % 4 = 0 → bitsOf w 63 30 = 0 → len ≠ 0 → bitsOf w 8 0 + len ≤ 512 → s.m.Image .all 0 va 4 len loc →
      (w.testBit 19 = false ∧ ns = s.m.partNmus (s.m.qOf s.m.cur) ∨ w.testBit 19 = true ∧
        ∃ y, s.m.bankset s.m.cur (.ofNat 64 (bitsOf w 29 20)) = .ok y ∧ (s.m.fetched 0 va 4 len).pmldTargets s.m.cur (some y) = .ok ns) →
      s.m.me.pload = none → s.m.me.anyUnsafe = false → s.m.runsDue s.m.cur = false → (∀ u ∈ ns, (s.m.nmu u).cur = none) →
      ∃ t, exec (.pmld a b) s = .next t ∧ s.readsTo t s.m ∧
        t.m.nmus = ((s.m.fetched 0 va 4 len).loadStores ns (bitsOf w 8 0) (chunks 4 len (s.m.image 4 len loc))).nmus) ∧
    (∀ r rest, (s.m.ctx c).bankq = r :: rest → (s.m.nmu r.nmu).queue.length < 8 → (s.m.nmu r.nmu).power = .awake →
      (s.m.nmu r.nmu).pend = none → ∃ t, exec (.runToNmu c) s = .next t ∧ (t.m.ctx c).bankq = rest ∧
        t.m.nmu r.nmu = { s.m.nmu r.nmu with queue := (s.m.nmu r.nmu).queue ++ [⟨r, r.entry, 0, false⟩] } ∧ t.m.mem = s.m.mem) ∧
    (∀ r rest, (s.m.nmu n).cur = none → (s.m.nmu n).queue = r :: rest → (s.m.nmu n).power = .awake → (s.m.nmu n).pend = none →
      exec (.nmuRunStart n) s = .next { s with m := s.m.updNmu n fun u =>
        { u with cur := some { r with steps := 0, begun := true }, queue := rest, k := if r.begun then u.k else vecSet u.k 0 0xFFFF } }) ∧
    (∀ r, (s.m.nmu n).cur = some r →
      (4096 ≤ r.steps → (s.m.nmu n).queue.length < 8 → exec (.forcedYield n) s = .next { s with m := s.m.updNmu n fun u =>
        { u with cur := none, queue := u.queue ++ [{ r with steps := 0 }] } }) ∧
      (∀ h rest, 4096 ≤ r.steps → (s.m.nmu n).queue = h :: rest → 8 ≤ (s.m.nmu n).queue.length → exec (.forcedYield n) s = .next { s with
        m := s.m.updNmu n fun u => { u with cur := some { h with steps := 0, begun := true }, queue := rest ++ [{ r with steps := 0 }],
                                            k := if h.begun then u.k else vecSet u.k 0 0xFFFF } }) ∧
      (r.steps < 4096 → exec (.forcedYield n) s = .next s)) ∧
    (∀ p, (s.m.nmu n).pend = some p → (s.m.nmu n).cur = none → (s.m.nmu n).power = .awake →
      (∀ ch ∈ s.m.chains, ¬ (ch.key < Config.dramEnd ∧ pcOf ch.key = n)) → s.m.mem.wf = true →
      ∃ t, exec (.parkEntry n) s = .next t ∧ t.m.nmu n = { s.m.nmu n with power := p, pend := none } ∧
        (∀ i, i < 8 → leVal (cgetRange t.m.mem (parkKey n + 64 * i) 64) = ((s.m.nmu n).b_ i).toNat) ∧
        (∀ i, i < 4 → leVal (cgetRange t.m.mem (parkKey n + 512 + 2 * i) 2) = ((s.m.nmu n).k_ i).toNat) ∧
        (∀ i, i < 512 → leVal (cgetRange t.m.mem (parkKey n + 1024 + 4 * i) 4) = (cget (s.m.nmu n).store i).toNat)) ∧
    ((s.m.nmu n).power ≠ .awake → s.m.poison = [] → s.m.mem.wf = true → ∃ t, exec (.parkExit n) s = .next t ∧ t.m.mem = s.m.mem ∧
      (t.m.nmu n).power = .awake ∧ (t.m.nmu n).queue = (s.m.nmu n).queue ∧
      (∀ i, i < 8 → (t.m.nmu n).b_ i = .ofNat 512 (leVal (cgetRange s.m.mem (parkKey n + 64 * i) 64))) ∧
      (∀ i, i < 4 → (t.m.nmu n).k_ i = .ofNat 16 (leVal (cgetRange s.m.mem (parkKey n + 512 + 2 * i) 2))) ∧
      (∀ i, i < 512 → cget (t.m.nmu n).store i = .ofNat 32 (leVal (cgetRange s.m.mem (parkKey n + 1024 + 4 * i) 4)))) ∧
    (∀ a, s.m.pacts.find? (fun a => a.stack == n && decide (a.earliest ≤ s.m.cycle)) = some a →
      ((nthD [] s.m.acts n).filter fun u => decide (5 * s.m.cycle < u + 384)).length < 8 →
      exec (.memberActivation n) s = .next { s with m := { s.m with
        pacts := s.m.pacts.erase a,
        acts := s.m.acts.set n ((nthD [] s.m.acts n).filter (fun u => decide (5 * s.m.cycle < u + 384)) ++ [5 * s.m.cycle]) } })

/-- R187, R188, R437 to R439: `cgld` of a legal image completes: it loads it into a slot and gives its number; `cgrun` completes: its
command is in the hold; `cgfree` completes: it frees an idle slot. R168, R189, R204, R205, R276, R435 and R436: a run starts with every
counter at DEPR; the first operation that waits for a unit with its counter 0 enters the unit's queue (one for each kind of unit, log 92), and
notes the members present as it fires; it acts when it is the next of its unit: a copy, reduce or combine writes its output, a send goes out
in packets of up to 4,096 bytes to those members, one after another (log 29), and then waits for their acknowledgements, a receive takes its
arrival or waits for it; its completion lowers the counter of every successor; a receive left without its arrival for 1 ms from its firing
completes as absent; a run whose operations have all completed counts in RUNS and writes its record. -/
def Obligations.Carousel : Prop :=
  (∀ (s : State) (d a b : BitVec 5),
      let c := s.m.cur
      let q := s.m.qOf c
      let i := (s.x a).toNat
      let k := s.m.slot i
      (∀ loc ss j sa z, s.ready [d, a] → i % 64 = 0 → s.m.me.engineReady = true →
        let v := leVal (s.m.image 8 8 loc)
        let n := bitsOf v 11 0
        let nb := bitsOf v 15 12
        let sva := bitsOf v 127 64
        let ops := (blocksOf 64 (n + 1) ((s.m.image 8 (8 * (n + 2)) loc).drop 64)).map fun b => gopOf (leVal b)
        s.m.Image .no 0 i 8 (8 * (n + 2)) loc → bitsOf v 63 16 = 0 → bitsOf v 511 128 = 0 → sva % 64 = 0 →
        ((s.m.fetched 0 i 8 (8 * (n + 2))).touchN c sva 64).resolve c kWrite sva 64 .no = .ok ((.pa sa, j) :: ss) →
        (s.m.keyOf sa).isSome = true → ops.all (fun o => o.legal n nb) = true → graphOk ops = true → s.m.findSlot q = some z →
        ∃ t, exec (.cgld d a) s = .next t ∧ s.readsTo t ((s.m.updSlot z fun _ =>
          { Slot.free with state := 1, part := q, ops := ops, nbase := nb, status := sa }).setX d.toNat (.ofNat 64 z))) ∧
      (s.ready [a, b] → i < 64 → k.state ≠ 0 → k.state ≠ 3 → k.part = q → isWindow (s.x b).toNat = false → s.m.me.hold.length < 16 →
        exec (.cgrun a b) s = .next (s.did (s.m.upd fun x =>
          { x with hold := x.hold ++ [HoldEnt.mk x.stamp x.sbNext x.ir (.cgrun i (s.x b).toNat)], sbNext := x.sbNext + 1 }))) ∧
      (s.ready [a] → i < 64 → k.state ≠ 0 → k.part = q → s.m.me.engineReady = true → k.run = none → k.wait = [] →
        exec (.cgfree a) s = .next (s.did (s.m.updSlot i fun z => { z with state := 0, held := [] })))) ∧
  (∀ (s : State) (n op : Nat) (g : GRun) (o : GOp),
      let k := s.m.slot n
      let dropped := s.m.ready.filter fun r => !(r.2.1 == n && r.2.2 == op)
      let sees := fun (kd va len : Nat) (ss : List (Loc × Nat)) => s.m.walks.resolve g.c kd va len .no = .ok ss ∧ s.m.Local ss
      let reads := fun (va len : Nat) (ss : List (Loc × Nat)) => sees kRead va len ss ∧ s.m.poisonSegs 0 ss = none
      let ended := fun (t : State) (absent : Nat) => t.m.ready = dropped ∧ (t.m.slot n).run = some { g with
        dep := o.succ.foldl (fun l j => mapAt l j (· - 1)) g.dep, waits := g.waits.filter (fun w => w.1 != op),
        done := g.done ++ [op], absent := g.absent ||| absent }
      let stores := fun (t : State) (ds : List (Loc × Nat)) (out : List Byte) =>
        t.m.mem = (s.m.writeFrom 4 1 (segBytes ds out)).mem ∧ (s.m.mem.wf = true → s.m.keepsBut t.m ds)
      (∀ rest ss, k.wait = g :: rest → k.run = none → k.state = 1 → k.part = s.m.qOf g.c → sees kRead g.bases (8 * (k.nbase + 1)) ss →
        ∃ t, exec (.graphRunStart n) s = .next t ∧ t.m.mem = (s.m.putStatus n (leBytes 64 0)).mem ∧ t.m.slot n = { k with
          wait := rest, state := 2,
          run := some { g with base := chunks 8 (k.nbase + 1) (s.m.readSegs ss), dep := k.ops.map GOp.depr } }) ∧
      (k.run = some g → k.ops[op]? = some o →
        let wait := (g.waits.find? fun w => w.1 == op).map Prod.snd
        (∀ ms, (∀ i, i < n → (s.m.slot i).waiting o.unit = []) → (k.waiting o.unit).head? = some op →
          (s.m.ready.filter fun r => r.1 == o.unit).length < 256 → (o.kind = 2 → sees kRead (g.addr o 6) 8 ms) →
          let mask := if o.kind = 2 then some (leVal (s.m.readSegs ms)) else none
          let named := if o.kind = 2 then bitList (leVal (s.m.readSegs ms)) 64 else if o.kind = 3 ∨ o.kind = 4 then [o.peer] else []
          ∃ t, exec (.chunkFire n op) s = .next t ∧ t.m.ready = s.m.ready ++ [(o.unit, n, op)] ∧
            (t.m.slot n).run = some { g with
              fired := g.fired ++ [op], waits := g.waits ++ [(op, .ready s.m.cycle mask (named.filter s.m.memberOk))] } ∧ t.m.ctxs = s.m.ctxs ∧ t.m.mem = s.m.mem) ∧
        (∀ fired mask here, wait = some (.ready fired mask here) → s.m.readyFirst o.unit n op = true →
          (∀ (ss : Nat → List (Loc × Nat)) gs ds, o.kind = 0 ∨ o.kind = 1 ∨ o.kind = 5 → o.tid = 0 → s.m.sqRoom g.c 5 = true →
            let js := if o.kind = 0 then [0] else List.range o.nin
            (∀ j ∈ js, reads (g.addr o j) o.len (ss j)) → (o.kind = 5 → reads (g.addr o 6) (4 * o.nin) gs) →
            let gates := chunks 4 o.nin (if o.kind = 5 then s.m.readSegs gs else [])
            let out := if o.kind = 0 then s.m.readSegs (ss 0) else chunkOut o gates (js.map fun j => s.m.readSegs (ss j))
            sees kWrite (g.addr o 7) out.length ds →
            ∃ t, exec (.chunkOpCompletion n op) s = .next t ∧ stores t ds out ∧ ended t 0) ∧
          (∀ ss, o.kind = 2 ∨ o.kind = 3 → reads (g.addr o 0) o.len ss →
            let gone := (if o.kind = 3 then [o.peer] else bitList (mask.getD 0) 64).filter fun x => !here.contains x
            ∃ t, exec (.chunkOpCompletion n op) s = .next t ∧ t.m.ready = dropped ∧ t.m.mem = s.m.mem ∧
              (t.m.slot n).run = some { g.setWait op (.sends mask (here.map fun x => (x, 0)) []) with absent := g.absent ||| memMask gone }) ∧
          (o.kind = 4 → s.m.sqRoom g.c 5 = true →
            (here = [] → ∃ t, exec (.chunkOpCompletion n op) s = .next t ∧ t.m.mem = s.m.mem ∧ ended t (2 ^ o.peer)) ∧
            (here ≠ [] → takeHeld op k.held = none → ∃ t, exec (.chunkOpCompletion n op) s = .next t ∧ t.m.mem = s.m.mem ∧
              t.m.ready = dropped ∧ (t.m.slot n).run = some (g.setWait op (.arrival fired))))) ∧
        (∀ mask x at_ acks ss, wait = some (.sends mask [(x, at_)] acks) → s.m.memberOk x = true → s.m.fabStalled x clsColl = false →
          o.len - at_ ≤ packetMax → reads ((g.addr o 0 + at_) % 2 ^ 64) (o.len - at_) ss →
          let r := nthD (0, 0) o.addr 7
          let raw := r.1 + r.2 * 16
          let seq := s.m.txSeq x clsColl
          ∃ t, exec (.chunkOpCompletion n op) s = .next t ∧ (t.m.slot n).run = some (g.setWait op (.acks (acks ++ [(x, seq)]))) ∧
            t.m.troupe.txq = s.m.troupe.txq ++ [⟨x, clsColl, seq, s.m.troupe.seal clsColl x seq mask
              (.chunk (raw % 64) (bitsOf raw 17 6) (s.m.readSegs ss) false false), .graph n op, some k.part, false, s.m.cycle, 0, 0⟩]) ∧
        (∀ l, wait = some (.acks l) → (∀ a ∈ l, ∀ p ∈ s.m.troupe.txq, ¬ (p.dst = a.1 ∧ p.cls = clsColl ∧ p.seq = a.2)) →
          ∃ t, exec (.chunkOpCompletion n op) s = .next t ∧ t.m.mem = s.m.mem ∧ ended t 0) ∧
        (∀ fired, o.kind = 4 → wait = some (.arrival fired) ∨ (∃ mask here, wait = some (.ready fired mask here) ∧ here ≠ [] ∧
            s.m.readyFirst o.unit n op = true) →
          ∀ h rest ds, takeHeld op k.held = some (h, rest) → h.psn = false → o.tid = 0 → s.m.sqRoom g.c 5 = true →
            sees kWrite (g.addr o 7) (h.bytes.take o.len).length ds → ∃ t, exec (.chunkOpCompletion n op) s = .next t ∧
              stores t ds (h.bytes.take o.len) ∧ ended t 0 ∧ (t.m.slot n).held = rest) ∧
        (∀ fired, o.kind = 4 → wait = some (.arrival fired) ∨ (∃ mask here, wait = some (.ready fired mask here)) →
          fired + 1200000 ≤ s.m.cycle → takeHeld op k.held = none →
          ∃ t, exec (.receiveTimeout n op) s = .next t ∧ t.m.mem = s.m.mem ∧ ended t (2 ^ o.peer)) ∧
        (k.ops.length ≤ g.done.length → (s.m.ctx g.c).status = .running →
          let bs := leBytes 8 g.absent ++ leBytes 4 g.poison ++ leBytes 4 (k.runs + 1).toNat ++ leBytes 4 0xFFFFFFFF ++ leBytes 44 0
          exec (.graphRunEnd n) s = .next { s with
            m := (s.m.putStatus n bs).updSlot n fun z => { z with state := 1, runs := k.runs + 1, run := none } })))

/-! ### Launches, tables, requests -/

/-- R61, R64, R69, R74, R76 and R443: `lnch` of a legal header (and group image) completes: it accepts a cast, last in its partition, with
the next sequence numbers of the task's window, and writes the cast identifier to Xd; a host launch is answered: a legal one launches its
cast, with a completion record, and its status is 0, another gets the status of its refusal. R65 to R68, R71, R77 and R270: the first
streaming cast that can use a context gets it, and a co-resident cast is placed whole; a placed task begins with the registers of R77, as
an acquire, and zeros in its scratchpad reservation. The low 4 bits of a completion address are dropped, and the slot counts modulo 64, by the
model's reading (log 59). -/
def Obligations.LaunchAndPlacement : Prop :=
  (∀ (s : State) (d a : BitVec 5) (p : Part),
      (∀ loc l2, s.ready [d, a] →
        let va := (s.x a).toNat
        let q := s.m.qOf s.m.cur
        let h := leVal (s.m.image 8 32 loc)
        let k := taskHdr h
        let n := bitsOf (leVal (s.m.image 8 8 l2)) 8 0
        let es := (blocksOf 64 n ((s.m.image 8 (8 * (n + 1)) l2).drop 64)).map leVal
        let t := s.m.me.task
        s.m.me.engineReady = true → s.m.me.vq = [] → s.m.part q = some p → p.pending < 128 → s.m.Image .no 0 va 8 32 loc →
        hdrCheck h (pePairs p.e).length = none → s.m.noFit q k = false →
        ∀ gs, (k.groups = 0 ∧ gs = [] ∨ k.groups ≠ 0 ∧ k.cor = true ∧ groupCount (leVal (s.m.image 8 8 l2)) = some n ∧
          (s.m.fetched 0 va 8 32).Image .no 64 k.groups 8 (8 * (n + 1)) l2 ∧ groupsOf k.ntasks es = some gs) →
        let r := s.m.accept q (.task q t.cast t.idx) k gs
        ∃ t, exec (.lnch d a) s = .next t ∧ s.readsTo t (r.1.setX d.toNat (.ofNat 64 r.2))) ∧
      (∀ q l h gs, s.m.part q = some p → ∃ id seq, (s.m.accept q l h gs).2 = id ∧ (s.m.accept q l h gs).1.ctxs = s.m.ctxs ∧
        (s.m.accept q l h gs).1.part q = some { p with
          nextCast := (id + 1) % 2 ^ 32, casts := p.casts ++ [⟨id, h, l, seq, 0, 0, 0, gs, gs.map fun g => ⟨g.mem.length, 0, false, 0⟩, false⟩] } ∧
        (∀ w, s.m.windows.find? (fun w => w.l == l) = some w → seq = w.next)) ∧
      (∀ g, s.plat.stage = 7 → s.plat.responder = false → s.m.part g.q = some p → p.pending < 128 →
        s.m.streamRoom (complMember g.compl) clsLaunch 1 = true →
        let answer := fun (m : Mach) st => m.send (complMember g.compl) clsLaunch none (.launchStatus g.q (g.slot % 64) st) .other
        let m := s.m.launchMarks g
        (∀ e, m.hostCheck g = .error e → exec (.hostLaunch g) s = .next { s with m := answer m e }) ∧
        (∀ ss s0 s1,
          let iod := m.setCtx iodCtx { Ctx.reset with task := ⟨g.q, 0, 0, 0⟩ }
          let sees := fun va n ss => iod.resolve iodCtx kRead va n .no = .ok ss ∧ (∀ l ∈ ss, apertureOf l.1 = none) ∧
            m.poisonSegs 0 ss = none
          let h := leVal (m.readSegs ss)
          let k := taskHdr h
          let n := bitsOf (leVal (m.readSegs s0)) 8 0
          let es := (blocksOf 64 n ((m.readSegs s1).drop 64)).map leVal
          sees g.hdr.toNat 256 ss → hdrCheck h (pePairs p.e).length = none → m.noFit g.q k = false →
          ∀ gs, (k.groups = 0 ∧ gs = [] ∨ k.groups ≠ 0 ∧ k.cor = true ∧ sees k.groups 64 s0 ∧
            groupCount (leVal (m.readSegs s0)) = some n ∧ sees k.groups (64 * (n + 1)) s1 ∧ groupsOf k.ntasks es = some gs) →
          let r := m.accept g.q (.host g.q (g.slot % 64)) k gs
          exec (.hostLaunch g) s = .next { s with m := answer { r.1 with
            hostRecs := r.1.hostRecs ++ [⟨g.q, g.slot % 64, r.2, g.compl &&& ~~~15, k.ntasks, 0, 0, 0xFFFFFFFF, true⟩] } 0 }))) ∧
  (∀ (s : State) (q : Nat) (p : Part), s.m.part q = some p → p.held = 0 →
      (∀ k c base, (unblocked p.waiting).findSome? (fun k => (s.m.nextPlace q k).map fun c => (k, c)) = some (k, c, base) →
        ∃ t, exec (.taskPlacement q) s = .next t ∧
          t.m = (s.m.placeTask q k.id k.hdr k.next c base).updCast q k.id (fun k => { k with next := k.next + 1 }) ∧
          (let x := t.m.ctx c
           x.status = .running ∧ x.task = ⟨q, k.id, k.next, k.hdr.ntasks⟩ ∧ x.pc = .ofNat 64 k.hdr.entry ∧ x.rx 1 = .ofNat 64 k.hdr.args ∧
           x.rx 2 = .ofNat 64 k.next ∧ x.rx 3 = .ofNat 64 k.hdr.ntasks ∧ (∀ n, 4 ≤ n → n < 32 → x.rx n = 0) ∧ x.vl = 0 ∧ x.sec = 0 ∧
           x.wdog = .ofNat 64 k.hdr.wdog ∧ x.banko = 20000 ∧ x.spBase = base ∧ x.spSize = k.hdr.scratch ∧ x.lastAcq = s.m.cycle) ∧
          (s.m.mem.wf = true → let lo := Config.pairBase + pairOf c * Config.pairBlock + base
            (∀ a, lo ≤ a → a < lo + k.hdr.scratch → cget t.m.mem a = 0) ∧
            ∀ a, a < lo ∨ lo + k.hdr.scratch ≤ a → cget t.m.mem a = cget s.m.mem a)) ∧
      ((unblocked p.waiting).all (fun k => (s.m.nextPlace q k).isNone) = true → ∀ k, p.waiting.find? (fun k => k.hdr.cor) = some k →
        s.m.inWindow k (k.hdr.ntasks - 1) = true →
        (∀ m, s.m.placeAll q k.id k.hdr k.hdr.ntasks 0 = some m →
          exec (.coresidentPlacement q) s = .next { s with m := m.updCast q k.id fun k => { k with next := k.hdr.ntasks } }) ∧
        (s.m.placeAll q k.id k.hdr k.hdr.ntasks 0 = none → exec (.coresidentPlacement q) s = .next s)))

/-- R70, R72, R74, R208, R295 and R444: the ended task whose turn it is becomes an unread report of a task's window, or a change of a host's
record, which is rewritten whole; `lwait` completes where there is a report: it takes the oldest unread one as an acquire; else it sleeps
for one; a report wakes it, and so it completes; a sleep whose time is up and whose wait is not over ends with WAIT_TIMEOUT. X[A] is
written after X[D] (log 58). -/
def Obligations.Completion : Prop :=
  ∀ (s : State) (d a : BitVec 5) (l : Launcher) (w : Window) (r : Report),
    (s.m.windows.find? (fun w => w.l == l) = some w → w.ended.find? (fun r => r.seq == w.base) = some r → w.dead = false →
      (∀ q i j, l = .task q i j → ∃ t, exec (.completionReport l) s = .next t ∧ t.m.ctxs = s.m.ctxs ∧
        t.m.windows.find? (fun w => w.l == l) = some { w with base := w.base + 1, ended := w.ended.erase r, unread := w.unread ++ [r] }) ∧
      (∀ q sl, l = .host q sl → ∃ t, exec (.completionReport l) s = .next t ∧ t.m.ctxs = s.m.ctxs ∧
        t.m.hostRecs = s.m.hostRecs.map fun h => if h.q = q ∧ h.slot = sl ∧ h.cast = r.cast then h.note r else h)) ∧
    (∀ q sl h, s.m.hostRecs.find? (fun h => h.q == q && h.slot == sl && h.dirty) = some h →
      s.m.streamRoom (complMember h.addr) clsLaunch 1 = true → ∃ t, exec (.hostCompletionRecord q sl) s = .next t ∧
      t.m.troupe = (s.m.send (complMember h.addr) clsLaunch none
        (.record h.addr (leBytes 4 h.count ++ leBytes 4 h.faulted ++ leBytes 4 h.first ++ leBytes 4 h.cast)) .other).troupe ∧
      h ∉ t.m.hostRecs) ∧
    (let k := s.m.me.task
     let here := fun (rest : List Report) => s.m.updWindow (.task k.q k.cast k.idx) fun w => { w with unread := rest }
     s.ready [d, a] →
     (∀ rest, s.m.windows.find? (fun w => w.l == .task k.q k.cast k.idx) = some w → w.unread = r :: rest →
       s.m.me.anyUnsafe = false ∨ s.m.me.undo.length ≤ 62 →
       exec (.lwait d a) s = .next (s.did ((((here rest).setX d.toNat r.value).setX a.toNat r.word).acquire s.m.cur))) ∧
     (s.m.takeReport.isNone = true → s.m.me.sleep = none → exec (.lwait d a) s = .next { s with m := s.m.upd fun x =>
       { x with sleep := some ⟨.report d.toNat a.toNat, keptTime x.kept x.pc, (if s.x a = 0 then x.wdog else s.x a).toNat⟩ } })) ∧
    (∀ c z, (s.m.ctx c).status = .running → (s.m.ctx c).sleep = some z →
      let k := (s.m.ctx c).task
      (∀ d a rest, z.on = .report d a → s.m.windows.find? (fun w => w.l == .task k.q k.cast k.idx) = some w → w.unread = r :: rest →
        (s.m.ctx c).anyUnsafe = false ∨ (s.m.ctx c).undo.length ≤ 62 →
        let m := ((s.m.as c).updWindow (.task k.q k.cast k.idx) fun w => { w with unread := rest })
        exec (.lwaitReport c) s = .next { s with m := (((m.setX d r.value).setX a r.word).acquire c).retire }) ∧
      (z.timeout ≤ z.timer → (s.m.as c).woken z.on = false → exec (.sleepExpiry c) s = .next { s with m := (s.m.as c).scalarTrap (match z.on with
        | .bar grp n _ _ => fltTimeout (if grp then 2 else 1) n 0
        | .tb _ va _ => fltTimeout 3 0 va
        | .report _ _ => fltTimeout 4 k.idx 0) }))

/-- R176 to R181, R238 to R240 and R445: `tdef` and `pdef` of a legal image complete: it becomes the entry of a tensor or bank set, and every
cached copy of the entry is dropped; `tldf` completes: it loads the narrow format; `strs` completes: it sends the deltas of the copy under way and,
where none is left to apply, starts the record afresh; `strd` completes: it stores the record as sixteen doublewords. -/
def Obligations.Tables : Prop :=
  ∀ (s : State) (d : BitVec 2) (a b : BitVec 5) (loc : Nat → Loc),
    let c := s.m.cur
    let q := s.m.qOf c
    let t := (s.x a).toNat % 4096
    let va := (s.x b).toNat
    (s.ready [a, b] → s.m.me.tableReady = true →
      (let e := leVal (s.m.image 8 8 loc)
       va % 64 = 0 → t ≠ 0 → s.m.me.status = .running → s.m.Image .all 0 va 8 8 loc → titImageBad e = false → ∃ u, exec (.tdef a b) s = .next u ∧
        u.m.mem = (s.m.titWrite q t e).mem ∧ u.m.me.x = s.m.me.x ∧ u.m.me.pc = s.m.me.pc + 4 ∧ u.plat = s.plat ∧
        ∀ p ∈ u.m.pairs, (∀ x ∈ p.2.titc, ¬ (x.1 = q ∧ x.2.1 = t)) ∧ ∀ x ∈ p.2.snaps, ¬ (x.q = q ∧ x.tid = t)) ∧
      (let e := leVal (s.m.image 8 4 loc)
       va % 32 = 0 → (s.x a).toNat < 1024 → s.m.Image .all 0 va 8 4 loc → bstImageBad e = false → ∃ u, exec (.pdef a b) s = .next u ∧
        s.readsTo u (s.m.bstWrite q (s.x a).toNat e) ∧ ∀ p ∈ u.m.pairs, ∀ x ∈ p.2.bstc, ¬ (x.1 = q ∧ x.2.1 = (s.x a).toNat))) ∧
    (s.ready [a] →
      (t ≠ 0 → (s.m.tit c t).v = true → (s.m.tit c t).ty = 3 →
        exec (.tldf d a) s = .next (s.did ((s.m.titFill c t).upd fun x => x.setFmt d.toNat (.ofNat 32 ((s.m.tit c t).nfmt % 2 ^ 20))))) ∧
      (let m := s.m.countKey 1 fun m => m.flushCopies c
       t ≠ 0 → (s.m.tit c t).v = true → (s.m.tit c t).stats = true → s.m.me.tableReady = true → s.m.sqRoom c 5 = true →
        m.deltasTo q t = false → m.sentTids c = false → ∃ u, exec (.strs a) s = .next u ∧ u.m.me = (s.did m).m.me ∧
          u.m.mem = (s.m.setRec q t (freshRec (recGen (s.m.record q t)) (s.m.tit c t))).mem ∧
          ∀ p ∈ u.m.pairs, ∀ x ∈ p.2.snaps, ¬ (x.q = q ∧ x.tid = t))) ∧
    (∀ (ss : Nat → List (Loc × Nat)), s.ready [a, b] → va % 128 = 0 → t ≠ 0 → (s.m.tit c t).v = true → (s.m.tit c t).stats = true →
      s.m.windowCheck c va = .ok () → s.m.recReady q t = true → s.m.me.sb.length ≤ 16 → s.m.poisonAt (.pa (s.m.recAddr q t)) 128 = none →
      let to_ := fun i => (va + 8 * i) % 2 ^ 64
      let segs := fun i => segBytes (ss i) (leBytes 8 (s.m.record q t / 2 ^ (64 * i) % 2 ^ 64))
      let mark := fun (m : Mach) i => m.countKey (15 - i) fun m => m.touchN c (to_ i) 8
      let before := fun i => (List.range i).foldl (fun m j => (mark m j).buffer .store (to_ j) (segs j))
        ((s.m.titFill c t).ownRead (s.m.recAddr q t) 128)
      (∀ i < 16, (before i).walkWaits c (to_ i) 8 = false ∧ (mark (before i) i).resolve c kWrite (to_ i) 8 .all = .ok (ss i) ∧
        s.m.ownWindowReady c (ss i) = true ∧ (s.m.curtained = false ∨ ∀ l ∈ ss i, apertureOf l.1 = none)) →
      ∃ u, exec (.strd a b) s = .next u ∧ u.m.mem = s.m.mem ∧ u.m.me.x = s.m.me.x ∧ u.m.me.pc = s.m.me.pc + 4 ∧
        u.m.me.sb = s.m.me.sb ++ (List.range 16).map fun i => ⟨s.m.me.stamp, s.m.me.sbNext + i, .store, to_ i, s.m.me.ir, segs i⟩)

/-- R185 and R446: `grpinfo` and `grpidx` describe a group that holds the task; after Ringmaster's invalidation no pair holds a
translation of the partition. -/
def Obligations.Groups : Prop :=
  ∀ (s : State) (d a b : BitVec 5) (g : Group),
    let rank := fun i => (g.mem.filter fun j => decide (j < i)).length
    (s.Member ((s.x a).toNat % 256) g.kind g →
      (s.ready [d, a] → exec (.grpinfo d a) s = .next (s.wrote d
        (.ofNat 64 (g.kind + g.mem.length * 2 ^ 3 + rank s.m.me.task.idx * 2 ^ 12 + g.gvl * 2 ^ 20)))) ∧
      (s.ready [d, a, b] → exec (.grpidx d a b) s = .next (s.wrote d (match g.mem.find? fun i => rank i == (s.x b).toNat with
        | some i => .ofNat 64 i
        | none => .allOnes 64)))) ∧
    (∀ q, ∃ t, exec (.ringmasterTlbInvalidation q) s = .next t ∧ t.m.ctxs = s.m.ctxs ∧ t.m.mem = s.m.mem ∧
      ∀ p ∈ t.m.pairs, (∀ e ∈ p.2.tlb, e.q ≠ q) ∧ ∀ e ∈ p.2.probe, e.2.q ≠ q)

/-- R448: after `tlbinv` no pair holds a translation of the partition that covers the address, nor one of a 4 KiB leaf that C64 makes part of
the same 64 KiB page, and registers, memory and other contexts stay; an address that is not canonical is PAGE_FAULT with reason 3; its words. Kind 0 in DETAIL is the model's reading
(log 62). -/
def Obligations.TlbInvalidation : Prop :=
  (∀ (s : State) (a : BitVec 5),
    let c := s.m.cur
    (s.ready [a] → isCanonical (s.x a).toNat = true → ∃ t, exec (.tlbinv a) s = .next t ∧ t.m.mem = s.m.mem ∧
      (∀ n, n ≠ c → t.m.ctx n = s.m.ctx n) ∧ (∀ k, t.x k = s.x k) ∧
      ∀ p ∈ t.m.pairs, (∀ e ∈ p.2.tlb, e.q = s.m.qOf c → ¬ (e.va ≤ (s.x a).toNat ∧ (s.x a).toNat < e.va + e.size) ∧
          ¬ (e.lvl = 0 ∧ e.pte.testBit 4 = true ∧ e.va / 65536 = (s.x a).toNat / 65536)) ∧
        ∀ e ∈ p.2.probe, e.2.q = s.m.qOf c → ¬ (e.2.va ≤ (s.x a).toNat ∧ (s.x a).toNat < e.2.va + e.2.size)) ∧
    (s.ready [a] → isCanonical (s.x a).toNat = false → exec (.tlbinv a) s = .next (s.trapped (fltPage 3 0 (s.x a).toNat)))) ∧
  (∀ (d a b : BitVec 5) (f : BitVec 6), decode (0xEA000000 + d.toNat * 262144 + a.toNat * 4096 + b.toNat * 64 + f.toNat) =
    if d = 0 ∧ b = 0 ∧ f = 0 then .ok (.tlbinv a) else .error 3) ∧
  encode (.tlbinv 5) = some 0xEA005000

/-- R309, R449 and R465: the five requests of `preq`: each has its effect and reports 0 in X[A], or reports its refusal and has
none. That code 4 also sets the ceiling is the model's reading (log 66). -/
def Obligations.Requests : Prop :=
  ∀ (s : State) (a b : BitVec 5), s.ready [a, b] → s.m.me.anyUnsafe = false →
    let c := s.m.cur
    let q := s.m.qOf c
    let n := (s.x b).toNat
    let end_ := fun (m : Mach) (p : Plat) (st : Nat) => Host.Outcome.next { s with m := (m.setX a.toNat (.ofNat 64 st)).retire, plat := p }
    (∀ i ∈ ([(1, .preqPowerDown a b), (2, .preqSelfRefresh a b), (3, .preqWake a b), (4, .preqSetIsland a b), (5, .preqEndSlice a b)] :
        List (Nat × Instr)), (s.x a).toNat = i.1 →
      (i.1 ≤ 3 → s.m.ownsPc q n = false → exec i.2 s = end_ s.m s.plat 3) ∧
      (i.1 = 1 → s.m.ownsPc q n = true → exec i.2 s = end_ (s.m.updNmu n fun u => { u with pend := some .down }) s.plat 0) ∧
      (i.1 = 2 → s.m.ownsPc q n = true → exec i.2 s = end_ (s.m.updNmu n fun u => { u with pend := some .refresh }) s.plat 0) ∧
      (i.1 = 3 → s.m.ownsPc q n = true → exec i.2 s = end_ ((s.m.updNmu n fun u => { u with pend := none }).parkOut n) s.plat 0) ∧
      (i.1 = 4 → 400 ≤ n → n ≤ 1200 → n % 100 = 0 → s.plat.tripped = false →
        exec i.2 s = end_ s.m { s.plat with islands := mapAt s.plat.islands (c / 4) fun _ => ⟨n, n⟩ } 0) ∧
      (i.1 = 4 → n < 400 ∨ 1200 < n ∨ n % 100 ≠ 0 → exec i.2 s = end_ s.m s.plat 1) ∧
      (i.1 = 5 → exec i.2 s = end_ (s.m.updCast q s.m.me.task.cast fun k => { k with sliced := true }) s.plat 0)) ∧
    (0 = (s.x a).toNat ∨ 5 < (s.x a).toNat → exec (.preqPowerDown a b) s = end_ s.m s.plat 2)

/-! ### The steps of queues, homes and links -/

/-- R111, R147, R149, R208, R246, R298, R402, R403, R410 and R411: at its fault-safe point the oldest vector-side instruction does what it
does and is marked, or traps; a `fence.vv` at the head of the queue has nothing left to wait for; completion takes the oldest from the
queue; a `waitv` ends once its words have landed, and at its timeout with the elements satisfied so far; a plural load whose members have
not replied at BANKTO traps; a deferred trap is entered; a snapshot reaches the contexts that wait for it. -/
def Obligations.QueueSteps : Prop :=
  ∀ (s : State) (c : Nat), (s.m.ctx c).status = .running →
    let x := s.m.ctx c
    (∀ e rest, x.vq = e :: rest → (∀ v ∈ rest, v.stamp ≠ e.stamp) →
      let M := s.m.trying c e
      let k := e.cap
      let passed := fun (m : Mach) (e : VEnt) => m.updCtx c fun x =>
        let x := x.markSafe e
        { x with vq := x.vq.map fun (v : VEnt) => if v.stamp = e.stamp then { v with done := true } else v }
      (e.done = false →
        let go := vrun (M.updCtx c fun x => { x with vstall := 0 }) e
        let held := fun (m : Mach) => (m.ctx c).vq.head?.any VEnt.waits
        ((e.op.walks && M.amoAhead c) = true → exec (.faultSafePoint c) s = .next s ∨ held s.m = true) ∧
        ((e.op.walks && M.amoAhead c) = false →
          (∀ m, go = .ok m → (m.ctx c).vq.head?.any (fun v => v.stamp == e.stamp) = true →
            exec (.faultSafePoint c) s = .next (s.tried (passed m e))) ∧
          (∀ f m, go = .error (.trap f m) → held ((m.vectorTrap c e f).settle c) = false →
            exec (.faultSafePoint c) s = .next (s.tried ((m.vectorTrap c e f).settle c))) ∧
          (∀ m, go = .error (.wait m) → held m = false → exec (.faultSafePoint c) s = .next (s.tried m)) ∧
          (∀ m m' a r, go = .error (.wait m) → (m.ctx c).vq = e :: a :: r → e.waits = true → a.op.arith = true → a.done = false →
            vrun (m.trying c a) a = .ok m' → exec (.faultSafePoint c) s = .next (s.tried (passed m' a)))) ∧
        (e.op = .fence 2 → ∃ t, exec (.faultSafePoint c) s = .next t ∧ (t.m.ctx c).vq = { e with safe := true, done := true } :: rest ∧
          (t.m.ctx c).x = x.x ∧ t.m.mem = s.m.mem)) ∧
      (e.done = true → ∃ t, exec (.vectorCompletion c) s = .next t ∧ (t.m.ctx c).vq = rest ∧
        (t.m.ctx c).vcp = (match rest with | [] => k.pc + 4 | h :: _ => h.cap.pc) ∧ (t.m.ctx c).x = x.x ∧ t.m.mem = s.m.mem ∧
        ((∀ q, e.op ≠ .fence q ∧ e.op ≠ .qfence q) → (t.m.ctx c).vstart = 0)) ∧
      (∀ τ all md a lim b f (loc : VEl → List (Loc × Nat)), e.timer = some τ → e.op = .waitv all md a lim b f →
        let els := alignEls k.size (idxElems x k a b)
        let sat := fun (el : VEl) => e.sat.testBit el.i || decide (leVal (M.readSegs (loc el)) = x.elem f 0 el.i k.size)
        let ends := fun (t : State) => (t.m.ctx c).vq = rest ∧ t.m.mem = s.m.mem ∧ (t.m.ctx c).lastAcq = s.m.cycle ∧ (t.m.ctx c).masks =
          (x.putMask md ((List.range k.vl).map fun i => some (els.any fun el => el.i == i && sat el))).masks
        s.m.MayGoOn c e [b, f] [k.size, 4] → waitvBad k = false → e.prog.counted = true → M.amoAhead c = false →
        (∀ i, i < 16 → (M.bankPages els k.size i).length ≤ 64) → M.Els kRead k.size .all els loc → M.Clean els loc →
        ((els = [] ∨ (if all then ∀ el ∈ els, sat el = true else ∃ el ∈ els, sat el = true)) →
          ∃ t, exec (.waitvSatisfied c) s = .next t ∧ ends t) ∧
        (x.sleep = none → lim.toNat ≤ τ → ∃ t, exec (.sleepExpiry c) s = .next t ∧ ends t)) ∧
      (∀ τ op d set off raw p qs, e.timer = some τ → x.banko.toNat ≤ τ → e.op = .pld op d set off →
        let ps := M.members c kPlural (bstOf raw) off.toNat k.g (fun _ => false) [] (membersOn x k (bstOf raw))
        e.prog.bst = some raw → e.prog.counted = true → e.prog.got = [] → M.amoAhead c = false → x.regOk d k.g = true → tyCodeOk k.ty = true →
        64 ≤ x.maxvlOf k.size * k.size → pldBad op k = false → k.rm < 6 → (k.ty = 3 → fmtValid k.fmt.toNat = true) →
        x.scored [(d, k.g)] = false → x.windowStores e.stamp = false → M.storeAhead e ps = false → ps = p :: qs →
        (∀ p ∈ ps, p.bad = none) → x.thandler ≠ 0 → e.first = false → x.halted = false →
        ∃ t, exec (.bankTimeout c) s = .next t ∧ (t.m.ctx c).pc = x.thandler ∧ (t.m.ctx c).epc = k.pc ∧ (t.m.ctx c).pdone = 0 ∧
          (t.m.ctx c).fcause = .ofNat 64 (0x0D + p.k % 64 * 256) ∧ (t.m.ctx c).faddr = .ofNat 64 p.va ∧
          (t.m.ctx c).pfmask = .ofNat 64 (memMask (ps.map PMem.k)) ∧ (t.m.ctx c).vrf = x.vrf ∧ t.m.mem = s.m.mem)) ∧
    (∀ f pc w, x.pendTrap = some (f, pc, w) →
      (x.anyUnsafe = false → exec (.trapEntry c) s = .next { s with m := s.m.enterTrap c f pc w }) ∧
      (x.anyUnsafe = true → exec (.trapEntry c) s = .next s)) ∧
    (∀ tid r, r ∈ x.snapReqs → r.tid = tid → r.snap = none → s.m.recReady (s.m.qOf c) tid = true →
      ∃ t, exec (.snapshotFetch (c / 4) tid) s = .next t ∧ t.m.mem = s.m.mem ∧ (t.m.ctx c).x = x.x ∧
        (t.m.ctx c).snapReqs = x.snapReqs.map fun r =>
          if r.tid = tid ∧ r.snap = none then { r with snap := some (s.m.snapNow (s.m.qOf c) tid) } else r)

/-- R150, R159, R241, R244, R332, R405 and R414: a buffered store, `tbinit`, `tbexp` or atomic whose older vector-side instructions are
fault-safe, with no older plural access or `fence.xp` before it, is performed at its home, a store of two parts part by part, and every
other byte of memory stays; a delta joins or opens the chain of its record's word, waits where that has no room, or is applied where the
record has no home; the operations of a chain are applied in the order they arrived. -/
def Obligations.HomeSteps : Prop :=
  ∀ (s : State),
    (∀ c e rest g gs, (s.m.ctx c).status = .running → (s.m.ctx c).sb = e :: rest → (s.m.ctx c).unsafeUpTo e.after = false →
      (s.m.ctx c).pluralAhead e.after e.touches = false → (s.m.ctx c).xpAhead e.after = false →
      e.segs = g :: gs → (∀ g ∈ e.segs, apertureOf g.1 = none) → s.m.chainBusy e.touches = false →
      (e.op = .store → ∃ t, exec (.storePerformed c) s = .next t ∧
        t.m.mem = (s.m.writeFrom (dieOf c) 0 [g] (some (c, e.after, e.id + 1))).mem ∧
        (s.m.mem.wf = true → s.m.keepsBut t.m [(g.1, g.2.length)]) ∧
        (t.m.ctx c).sb = (if gs = [] then rest else { e with segs := gs } :: rest)) ∧
      (∀ n a, e.op = .tbinit n → g.1 = .pa a → ∃ t, exec (.storePerformed c) s = .next t ∧ (t.m.ctx c).sb = rest ∧
        t.m.mem = (s.m.tbUpd c a fun t => t.init n).mem ∧ t.m.tbs = s.m.tbs.filter (· != a)) ∧
      (∀ n a, e.op = .tbexp n → g.1 = .pa a → ∃ t, exec (.storePerformed c) s = .next t ∧ (t.m.ctx c).sb = rest ∧
        t.m.mem = (s.m.tbUpd c a fun t => t.addSec n).mem) ∧
      (∀ f d b ex pc, e.op = .amo f d b ex pc → s.m.poisonSegs 0 [(g.1, 8)] = none →
        let old : Word := .ofNat 64 (leVal (s.m.readSegs [(g.1, 8)]))
        let new := leBytes 8 (amoNew f old b ex).toNat
        ∃ t, exec (.storePerformed c) s = .next t ∧ (t.m.ctx c).sb = rest ∧ (t.m.ctx c).x = ((s.m.ctx c).wx d old).x ∧
          t.m.mem = (if amoWrites f old ex then s.m.writeFrom (dieOf c) 0 (segBytes [(g.1, 8)] new) else s.m).mem)) ∧
    (∀ p d rest, (s.m.pair p).sq = d :: rest → (∀ f v, (s.m.ctx d.c).status ≠ .ending f v) →
      (∀ w, s.m.recWord d.q d.tid = some w → s.m.chainRoom w = false →
        exec (.deltaApplication p) s = .next { s with m := s.m.dieNote (dieOfKey w) .chainWaits 1 }) ∧
      (s.m.recWord d.q d.tid = none → ∃ t, exec (.deltaApplication p) s = .next t ∧ t.m.mem = (s.m.applyDelta d).mem ∧
        (t.m.pair p).sq = rest ∧ t.m.ctxs = s.m.ctxs) ∧
      (∀ w, s.m.recWord d.q d.tid = some w → s.m.chainRoom w = true → ∃ t, exec (.deltaApplication p) s = .next t ∧ t.m.mem = s.m.mem ∧
        (t.m.pair p).sq = rest ∧ t.m.ctxs = s.m.ctxs ∧ t.m.chains = (s.m.chainAdd w (.delta d (some p))).chains)) ∧
    (∀ port ch, s.m.chains.find? (fun ch => ch.port == port && s.m.chainFits ch) = some ch →
      (∀ c f v, (s.m.ctx c).status ≠ .ending f v) → exec (.scatterAddChainApply port) s = .next { s with
        m := ch.ops.foldl Mach.chainOp (({ s.m with chains := s.m.chains.erase ch } : Mach).eccUnitRead ch.key) })

/-- R166, R274 and R275: each event here completes. A data flit that the sender makes is good, and is accepted where its LSEQ is the expected
one; a bad or unexpected flit starts a discard with a replay request; a replay resends flits from the named LSEQ; a flit replayed 16 times,
or lost training, takes the sub-link down. R191, R279 to R282, R284: a packet for this node is dropped and counted by its first failing step;
the one next in its stream, with a right tag, does what it asks for and is acknowledged; an acknowledgement ends what it covers; a reject or
a timeout resends, unless a pause holds the packet back, and the fourth reject abandons a stream; after 8 resends the path has failed; a
counter at 2^47 asks for a new generation. Which fields make a packet invalid at step 1 is read in log 56. -/
def Obligations.LinksAndPackets : Prop :=
  (∀ (s : State) (l : Nat) (k : Sublink), s.m.link l = some k →
      (∀ w : BitVec 2048, k.up = true →
        let v := w.toNat
        let typ := bitsOf v 15 12
        let next := typ = 1 ∧ bitsOf v 11 0 = k.rxl.toNat
        (flitBad w = true ∨ (typ = 1 ∧ ¬ next) → k.discard = false → exec (.flitReceive l w) s = .next { s with
          m := s.m.updLink l fun k => { k.tell (s.m.pauseOut l) 2 k.rxl.toNat with discard := true, request := some k.rxl } }) ∧
        (flitBad w = true ∨ ¬ next → k.discard = true → exec (.flitReceive l w) s = .next s) ∧
        (flitBad w = false → next → ∃ t, exec (.flitReceive l w) s = .next t ∧ t.m.ctxs = s.m.ctxs ∧ t.m.link l = some { k.heed v with
          rxl := k.rxl + 1, discard := false, request := none, heard := true, data := .ofNat 1920 (bitsOf v 1935 16) }) ∧
        (flitBad w = false → typ = 0 → k.discard = false → ∃ t, exec (.flitReceive l w) s = .next t ∧ t.m.link l = some (k.heed v))) ∧
      (∀ pause typ lseq data, pause < 256 → typ ≤ 2 → lseq < 4096 → let w := k.flitOf pause typ lseq data
        flitBad w = false ∧ bitsOf w.toNat 15 12 = typ ∧ bitsOf w.toNat 11 0 = lseq ∧ bitsOf w.toNat 1959 1952 = pause ∧
        bitsOf w.toNat 1935 16 = data % 2 ^ 1920) ∧
      (∀ n : BitVec 12, k.up = true →
        let due := k.replay.filter fun f => decide ((f.1 - n).toNat < 2048)
        let again := k.replay.map fun f => if (f.1 - n).toNat < 2048 then (f.1, f.2.1, f.2.2 + 1) else f
        ((∀ f ∈ again, f.2.2 < 16) → ∃ t, exec (.replayRequest l n) s = .next t ∧ t.m.iodCnt = noteAll s.m.iodCnt .retransmits due.length ∧
          t.m.link l = some { k with replay := again, out := k.out ++ due.map fun f => f.2.1 }) ∧
        ((∃ f ∈ again, 16 ≤ f.2.2) → ∃ t k', exec (.replayRequest l n) s = .next t ∧ t.m.link l = some k' ∧ k'.up = false)) ∧
      (k.up = true → ∃ t, exec (.sublinkLosesTraining l) s = .next t ∧ (∀ x ∈ s.m.links, x.id ≠ l → x ∈ t.m.links) ∧
        t.m.link l = some { k with up := false, replay := [], discard := false, request := none })) ∧
  (∀ (s : State),
      let t0 := s.m.troupe
      let running := ∀ x ∈ t0.txq, ∀ c w va o, x.owner = .ctx c w va o → (s.m.ctx c).status = .running
      let resent := fun (r : Out) (x : TxPkt) (f paused : TxPkt → TxPkt) =>
        let noted := fun (f : TxPkt → TxPkt) => { t0 with txq := t0.txq.map fun y =>
          if y.dst = x.dst ∧ y.cls = x.cls ∧ y.pkt.hdr = x.pkt.hdr then f y else y }
        let sent := noted fun y => { f y with last := s.m.cycle }
        (s.m.carries x.part x.pkt.cls = true → ∃ t, r = .next t ∧ t.m.troupe = sent ∧ t.m.ctxs = s.m.ctxs ∧
          (t.m.links.map fun k => k.out.length) ≠ s.m.links.map fun k => k.out.length) ∧
        (s.m.carries x.part x.pkt.cls = false → (∃ k ∈ s.m.links, k.up = true ∧ s.m.serves x.part k.id = true) →
          r = .next { s with m := { s.m with troupe := noted paused } }) ∧
        ((∀ k ∈ s.m.links, k.up = true → s.m.serves x.part k.id = false) → r = .next { s with m := { s.m with troupe := sent } })
      (∀ p : Packet, (p.dst ≠ t0.node → exec (.packetReceive p) s = .next s) ∧ (p.dst = t0.node →
        (p.bad = true → exec (.packetReceive p) s = .next { s with m := s.m.authFail p.src }) ∧
        (s.m.screen p = none → p.uns = false → p.cls ≠ 7 →
          let rx := nthD 0 (t0.mem p.src).rx p.cls
          (p.seq < rx → exec (.packetReceive p) s = .next { s with m := (s.m.iodNote .dupDrop 1).owesAck p.src p.cls }) ∧
          (rx < p.seq → exec (.packetReceive p) s = .next { s with m := s.m.authFail p.src }) ∧
          (p.seq = rx → p.tag ≠ t0.tagOf p.hdr p.op →
            exec (.packetReceive p) s = .next { s with m := (s.m.authFail p.src).sendAck p.src p.cls 1 p.seq }) ∧
          (p.seq = rx → p.tag = t0.tagOf p.hdr p.op → t0.curtain = none →
            (∀ typ code se b, p.op = .mgmt typ code se b → exec (.packetReceive p) s = .next { s with
              m := ((s.m.updTroupe fun t => { t with inbox := t.inbox ++ [(p.src, typ, code, b)] }).updTroupe fun t => t.updMem p.src fun e =>
                { e with rx := mapAt e.rx p.cls (· + 1) }).owesAck p.src p.cls }) ∧
            (∀ off bs ss, p.op = .write off bs 0 .none → s.m.inbound p.via kWrite off bs.length = .ok ss → s.m.chainBusy ss = false →
                s.m.mem.wf = true →
              ∃ t, exec (.packetReceive p) s = .next t ∧ t.m.mem = (s.m.writeFrom 4 4 (segBytes ss bs)).mem ∧ s.m.keepsBut t.m ss ∧
                (p.src, p.cls) ∈ t.m.troupe.ackDue))) ∧
        (∀ cls kind seq, p.op = .ack cls kind seq true → p.cls = 7 → s.m.screen p = none → p.tag = t0.tagOf p.hdr p.op → cls ≤ 5 →
          p.len = 16 → t0.curtain = none →
          let mine := fun (y : TxPkt) => y.dst == p.src && y.cls == cls && t0.present y
          (kind = 0 → running → ∃ t, exec (.ackReceive p) s = .next t ∧ t.m.ctxs = s.m.ctxs ∧
            t.m.troupe.txq = t0.txq.filter fun y => !(mine y && decide (y.seq ≤ seq))) ∧
          (∀ x, kind = 1 → t0.txq.find? (fun y => y.dst == p.src && y.cls == cls && y.seq == seq && t0.present y) = some x →
            (x.rejects < 3 → resent (exec (.rejectReceive p) s) x (fun y => { y with rejects := y.rejects + 1 })
              fun y => { y with rejects := y.rejects + 1, sent := false }) ∧
            (3 ≤ x.rejects → cls ≠ clsMgmt → running → ∃ t, exec (.rejectReceive p) s = .next t ∧
              ∀ y ∈ t.m.troupe.txq, ¬ (mine y = true ∧ seq ≤ y.seq)))))) ∧
      (∀ dst cls, (dst, cls) ∈ t0.ackDue → (∀ ch ∈ s.m.chains, ∀ o ∈ ch.ops, o.holdsAck dst cls = false) → s.m.firstOpen dst cls ≠ 0 →
        exec (.ackSend dst cls) s = .next { s with
          m := (s.m.updTroupe fun t => { t with ackDue := t.ackDue.filter (· != (dst, cls)) }).sendAck dst cls 0 (s.m.firstOpen dst cls - 1) }) ∧
      (∀ dst cls seq p,
        t0.txq.find? (fun p => p.dst == dst && p.cls == cls && p.seq == seq && p.sent && decide (p.last + 2400 ≤ s.m.cycle)) = some p →
        (p.sends < 8 → resent (exec (.retransmitTimeout dst cls seq) s) p (fun y => { y with sends := y.sends + 1 }) id) ∧
        (8 ≤ p.sends → t0.leader ≠ t0.node → dst < t0.member.length → ∃ t, exec (.retransmitTimeout dst cls seq) s = .next t ∧
          (t.m.troupe.mem dst).state = 4 ∧ ⟨p.part.getD 0, 0x0F, dst⟩ ∈ t.m.pfaults)) ∧
      (∀ n, (∃ x ∈ (t0.mem n).tx, 2 ^ 47 ≤ x) ∨ 2 ^ 47 ≤ t0.ackCtr → t0.leader ≠ t0.node → t0.rekey = false →
        exec (.sequenceExhausted n) s = .next { s with m := (s.m.updTroupe fun t => { t with rekey := true }).ctl t0.leader 7 [] }))

/-- R191, R283, R286, R290 to R294: each event here completes. The leader starts a curtain for a leave, a failure or a new generation; a
member stalls at PREPARE, sends READY when it has drained (of class 4 too: log 63) and switches at GO, where every sequence number starts
at 0, nothing unacknowledged but GO is kept, and CHIPID and HOST are set for those that join alone; the last DONE ends the curtain. A node
whose chain, signatures and measurements the leader has asked for and verified, in a session (how these come together is the model's,
log 80), that the acceptance policy admits and whose entry is absent joins through a curtain under the CHIPID of its key; any other does
not (R291). A member that asks to leave, a move of the model's (log 84), sends LEAVE. An agent that is not through stage 7 takes part in no
curtain. -/
def Obligations.Curtains : Prop :=
  ∀ (s : State), s.plat.stage = 7 → s.plat.tripped = false →
    let tr := s.m.troupe
    let node := tr.node
    (∀ p : PrepareMsg, tr.gen < p.gen → p.leader ≠ node → ∃ t k, exec (.prepare p) s = .next t ∧ t.m.troupe.curtain = some k ∧
      k.gen = p.gen ∧ k.members = p.members ∧ k.stalled = true ∧ (tr.txq = [] → tr.reqs = [] → k.sent = true) ∧
      t.m.troupe.leader = p.leader ∧ t.m.troupe.gen = tr.gen) ∧
    (∀ p : PrepareMsg, p.gen ≤ tr.gen → exec (.prepare p) s = .next s) ∧
    (∀ (u : State) (p : PrepareMsg), u.plat.stage ≠ 7 → exec (.prepare p) u = .next u) ∧
    (∀ k, tr.curtain = some k →
      (tr.leader ≠ node → k.stalled = true → k.sent = true → ∃ t, exec (.go k.gen) s = .next t ∧ t.m.troupe.gen = k.gen ∧
        t.m.troupe.secret = k.secret ∧ t.m.troupe.past = (tr.gen, tr.secret) ∧ t.m.troupe.curtain = none ∧ t.m.troupe.reqs = tr.reqs ∧
        t.m.ctxs = s.m.ctxs ∧ (∀ p ∈ t.m.troupe.txq, p.isGo = true ∨ p.dst = tr.leader ∧ p.cls = clsMgmt) ∧
        ∀ n, n < tr.member.length → (t.m.troupe.mem n).gen = k.gen ∧ (n ≠ tr.leader → (t.m.troupe.mem n).tx = List.replicate 6 0) ∧
          (t.m.troupe.mem n).rx = List.replicate 6 0 ∧ (t.m.troupe.mem n).state =
            (if (tr.mem n).state = 4 then 4 else if (∃ e ∈ k.members, e.1 = n) then 2 else 0) ∧
          ((tr.mem n).state ≠ 1 → (t.m.troupe.mem n).chipid = (tr.mem n).chipid ∧ (t.m.troupe.mem n).host = (tr.mem n).host)) ∧
      (tr.leader = node →
        (let got := fun (n : Nat) => exec (.ready n k.gen) s = .next { s with m := s.m.updTroupe fun t =>
            { t with curtain := some { k with got := n :: k.got.filter (· != n) } } }
         ∀ n, k.stalled = true → (∃ e ∈ k.members, e.1 = n) →
          ((∃ e ∈ k.members, e.1 ≠ n ∧ e.1 ∉ k.got) → got n) ∧
          ((∃ e ∈ k.members, e.1 ≠ node ∧ s.m.ctlWaits e.1 3 = true) → got n) ∧
          ((∀ e ∈ k.members, e.1 = n ∨ e.1 ∈ k.got) → (∀ e ∈ k.members, e.1 = node ∨ s.m.ctlWaits e.1 3 = false) →
            ∃ t, exec (.ready n k.gen) s = .next t ∧ t.m.troupe.gen = k.gen ∧ t.m.troupe.secret = k.secret)) ∧
        (∀ n, k.stalled = false → (∃ e ∈ k.members, e.1 = n) → ∃ t, exec (.done n k.gen) s = .next t ∧ t.m.ctxs = s.m.ctxs ∧
          (∀ p ∈ t.m.troupe.txq, p.isGo = true → p.dst = n → bitsOf p.pkt.hdr.toNat 31 24 = k.gen % 256) ∧
          ((∀ e ∈ k.members, e.1 = n ∨ e.1 ∈ k.done) → t.m.troupe.curtain = none) ∧
          (∀ e ∈ k.members, e.1 ≠ n → e.1 ∉ k.done → t.m.troupe.curtain = some { k with done := n :: k.done.filter (· != n) })) ∧
        (∀ n, k.stalled = true → n ≠ node → (∃ e ∈ k.members, e.1 = n) → n ∉ k.got → k.since + 1200000 ≤ s.m.cycle →
          exec (.readyTimeout n) s = .next { s with m := (s.m.markFailed n).startCurtain (k.gen + 1) (k.members.filter fun e => e.1 != n) }))) ∧
    (tr.leader = node → tr.curtain = none →
      (∀ n, (tr.mem n).state = 2 → n ≠ node →
        exec (.leave n) s = .next { s with m := s.m.startCurtain (tr.gen + 1) (tr.current.filter fun e => e.1 != n) }) ∧
      (∀ r n, (tr.mem n).state = 2 → n ≠ node → exec (.failReport r n) s = .next { s with
        m := (s.m.markFailed n).startCurtain (tr.gen + 1) (s.m.markFailed n).troupe.current }) ∧
      (∀ n, (tr.mem n).state = 2 → exec (.rekeyRequest n) s = .next { s with m := s.m.startCurtain (tr.gen + 1) tr.current }) ∧
      (∀ n key chain meas chal sig h, n < 64 → n ≠ node →
        let p := s.plat
        let joins := joinAsks.isSublist ((p.conn n).asked.map Prod.fst) = true ∧ p.sessionOf n ≠ 0 ∧ Config.chainVerifies chain key h = true ∧
          Config.ed448Verify key (p.askedWith n "CHALLENGE" ++ Config.sha3512 chain ++ meas) chal = true ∧
          (p.askedWith n "GET_MEASUREMENTS").take 1 = [0xFF] ∧
          Config.ed448Verify key ((p.askedWith n "GET_MEASUREMENTS").drop 1 ++ meas) sig = true ∧
          Config.admits chain meas key h = true ∧ (tr.mem n).state = 0
        ∃ t, runMove (.join n key chain meas chal sig h) s = .next t ∧ t.plat = p ∧
          (joins → t.m = s.m.startCurtain (tr.gen + 1) (tr.current ++ [(n, chipidOf key, h)])) ∧ (¬ joins → t.m = s.m))) ∧
    (∀ n key chain meas chal sig h, tr.leader ≠ node → runMove (.join n key chain meas chal sig h) s = .next s) ∧
    (tr.leader ≠ node → (tr.mem node).state = 2 → runMove (.net .leave) s = .next { s with m := s.m.ctl tr.leader 5 (leBytes 1 node) })

/-! ### Management -/

/-- R286 to R289: the agent negotiates version, capabilities and algorithms in that order, and answers what a requester may then
ask: digests, the chain of slot 0, signatures, measurements, and a session's start. R288 and R289: FINISH with a good proof
opens a session; heartbeats and key updates keep it; END_SESSION, a bad proof, or 2 s without a message end it; the agent sends
HEARTBEAT each second; long messages go and come in parts; the agent makes requests of its own. Each event here completes. The records that
stand for SPDM messages are the model's (log 67), and so is the move that makes a request (log 84). -/
def Obligations.ManagementAgent : Prop :=
  (∀ (s : State) (n : Nat) (nonce : List Byte), s.plat.answers = true → s.plat.responder = false →
      let p := s.plat
      let ok := fun (r : Out) (q : Plat) => r = .next { s with plat := q }
      ok (exec (.getVersion n) s) ((p.updConn n fun c => { c with stage := 1 }).respond n "VERSION" [0x13]) ∧
      ((p.conn n).stage ≠ 0 → ok (exec (.getCapabilities n) s)
        ((p.updConn n fun c => { c with stage := 2 }).respond n "CAPABILITIES" (leBytes 4 (capabilities false)))) ∧
      ((p.conn n).stage = 0 → ok (exec (.getCapabilities n) s) (p.err n errUnexpected)) ∧
      (∀ o : AlgOffer, (p.conn n).stage = 2 →
        (o.version13 = true → o.ed448 = true → o.sha3512 = true → o.p521 = true → o.aes256gcm = true →
          ok (exec (.negotiateAlgorithms n o) s) ((p.updConn n fun c => { c with stage := 3 }).respond n "ALGORITHMS" [])) ∧
        (o.version13 = false → ok (exec (.negotiateAlgorithms n o) s) (p.err n errVersion))) ∧
      ((p.conn n).stage ≠ 3 → ok (exec (.getDigests n) s) (p.err n errUnexpected)) ∧
      ((p.conn n).stage = 3 →
        ok (exec (.getDigests n) s) (p.respond n "DIGESTS" (Config.sha3512 Config.certChain)) ∧
        ok (exec (.getCertificate n 0) s) (p.respond n "CERTIFICATE" Config.certChain) ∧
        ok (exec (.getCertificate n 1) s) (p.err n errInvalid) ∧
        ok (exec (.challenge n 0 nonce) s)
          (p.respond n "CHALLENGE_AUTH" (Config.deviceSign (nonce ++ Config.sha3512 Config.certChain ++ (p.blocks 0xFF).flatten))) ∧
        (∀ i sign, p.blocks i ≠ [] → ok (exec (.getMeasurements n i sign nonce) s) (p.respond n "MEASUREMENTS"
          ((p.blocks i).flatten ++ if sign then Config.deviceSign (nonce ++ (p.blocks i).flatten) else []))) ∧
        (let id := p.freeSession
         ok (exec (.keyExchange n 0 nonce) s) ({ p with sessions := p.sessions ++ [Session.mk id n false s.m.cycle s.m.cycle 0 false] }.respond n
           "KEY_EXCHANGE_RSP" (leBytes 2 id ++ Config.deviceSign (nonce ++ leBytes 2 id))))) ∧
      (∀ c, ok (exec (.unsupportedRequest n c) s) (p.err n errUnsupported))) ∧
  (∀ (s : State) (n id : Nat) (e : Session), s.plat.answers = true → s.plat.responder = false → s.plat.session id = some e →
      let p := s.plat
      let ok := fun (r : Out) (q : Plat) => r = .next { s with plat := q }
      let told := fun (q : Plat) (k : Nat) (what : String) (body : List Byte) => { q with out := q.out ++ [⟨k, what, body, id⟩] }
      let live := p.updSession id fun e => { e with last := s.m.cycle }
      (e.mine = true → ok (exec (.finish n id true) s) (p.err n errSession)) ∧
      (e.node = n → e.opened = false → e.mine = false →
        ok (exec (.finish n id true) s)
          (told (p.updSession id fun e => { e with opened := true, last := s.m.cycle, beat := s.m.cycle }) n "FINISH_RSP" (leBytes 2 id)) ∧
        ok (exec (.finish n id false) s) ((p.dropSession id).err n errInvalid) ∧
        ok (exec (.heartbeat n id) s) (p.err n errSession)) ∧
      (e.node = n → e.opened = true →
        ok (exec (.heartbeat n id) s) (told live n "HEARTBEAT_ACK" (leBytes 2 id)) ∧
        ok (exec (.keyUpdate n id) s) (told (live.updSession id fun e => { e with keys := e.keys + 1 }) n "KEY_UPDATE_ACK" (leBytes 2 id)) ∧
        ok (exec (.endSession n id) s) (told (live.dropSession id) n "END_SESSION_ACK" (leBytes 2 id)) ∧
        (id ≠ 0 → ∀ b bs, (live.conn n).outb = b :: bs → ok (exec (.chunkGet n id) s)
          (told (live.updConn n fun c => { c with outb := (b :: bs).drop msgMax }) n "CHUNK_RESPONSE" ((b :: bs).take msgMax))) ∧
        (∀ part, ok (exec (.chunkSend n id part false) s)
            ((told (p.updConn n fun c => { c with inb := c.inb ++ part }) n "CHUNK_SEND_ACK" []).updSession id fun e =>
              { e with last := s.m.cycle }) ∧
          (id ≠ 0 → ∃ t, exec (.chunkSend n id part true) s = .next t ∧
            t.m.troupe.inbox = s.m.troupe.inbox ++ [(n, 1, 0, (p.conn n).inb ++ part)] ∧ (t.plat.conn n).inb = []))) ∧
      (e.last + 2400000000 ≤ s.m.cycle → ok (exec (.sessionTimeout id) s) (p.dropSession id) ∧ (p.dropSession id).session id = none) ∧
      (s.m.cycle < e.last + 2400000000 → exec (.sessionTimeout id) s = .next s) ∧
      (e.opened = true → e.beat + 1200000000 ≤ s.m.cycle → ok (exec (.heartbeatPeriod id) s)
        (told (p.updSession id fun e => { e with beat := s.m.cycle, last := s.m.cycle }) e.node "HEARTBEAT" (leBytes 2 id))) ∧
      (p.sessionOf n = id → ∀ body, body.length ≤ msgMax →
        let q := fun (what : String) => (told live n what body).updConn n fun c => { c with
          asked := if what = "GET_VERSION" then [(what, body)] else c.asked ++ [(what, body)] }
        let asks := fun (what : String) => ok (runMove (.net (.request n what body)) s)
        (∀ what ∈ ["GET_VERSION", "GET_CAPABILITIES", "NEGOTIATE_ALGORITHMS", "GET_DIGESTS", "GET_CERTIFICATE", "CHALLENGE",
                   "GET_MEASUREMENTS", "HEARTBEAT", "CHUNK_SEND", "CHUNK_GET"], asks what (q what)) ∧
        asks "KEY_UPDATE" ((q "KEY_UPDATE").updSession id fun e => { e with keys := e.keys + 1 }) ∧
        asks "END_SESSION" ((q "END_SESSION").dropSession id) ∧
        asks "KEY_EXCHANGE" { q "KEY_EXCHANGE" with
          sessions := (live.sessions.filter fun e => !(e.node == n && e.mine && !e.opened)) ++
            [⟨live.freeSession, n, false, s.m.cycle, s.m.cycle, 0, true⟩] } ∧
        asks "FINISH" { q "FINISH" with
          sessions := live.sessions.map fun e => if e.node = n ∧ e.mine = true ∧ e.opened = false then
            { e with opened := true, beat := s.m.cycle } else e }))

/-- R84, R174, R192 to R195 and R462: a legal entry creates a partition with nothing launched and fresh NMUs, disjoint from
every other, and offers it no sub-link that is down; teardown and table writes keep to R193; a refused request changes nothing but its
status, and before stage 7 none is heard, nor a budget write (R459); a pair that no partition
holds can move to a good site, and its spare is recorded. Each event here completes. The status byte is log 83, the further conditions of a
request log 70, the move that takes a spare log 84. -/
def Obligations.Partitions : Prop :=
  ∀ (s : State) (q : Nat) (e : PartEntry), s.plat.tripped = false →
    let yes := fun (r : Out) (m : Mach) => s.plat.stage = 7 → r = .next { s with m := m, plat := s.plat.tableStatus m true }
    let no := fun (r : Out) => s.plat.stage = 7 → r = .next { s with plat := s.plat.tableStatus s.m false }
    (s.plat.stage ≠ 7 → exec (.partitionCreation q e) s = .next s ∧ exec (.partitionTeardown q) s = .next s ∧
      exec (.partitionTableWrite q e) s = .next s ∧ ∀ row, exec (.budgetWrite q row) s = .next s) ∧
    (s.m.entryOk q e = true → ∀ l ∈ s.m.links, l.up = false → (∀ p, s.m.part q = some p → p.e.subl.getLsbD l.id = false) → l.id < 64 →
      (∀ k ∈ s.m.links, k.has l.id = true → k = l) → l.has l.id = true → e.subl.getLsbD l.id = false) ∧
    (q < 64 → s.m.part q = none →
      (s.m.entryOk q e = true → yes (exec (.partitionCreation q e) s) (s.m.createPart q e) ∧
        (s.m.createPart q e).part q = some ⟨e, [], 0, e.slice, 0, [], []⟩ ∧ (∀ p, p ≠ q → (s.m.createPart q e).part p = s.m.part p) ∧
        (∀ p ∈ s.m.parts, p.1 ≠ q → p.2.e.pairs &&& e.pairs = 0 ∧ p.2.e.pgrp &&& e.pgrp = 0 ∧ p.2.e.subl &&& e.subl = 0)) ∧
      (s.m.entryOk q e = false → no (exec (.partitionCreation q e) s))) ∧
    ((s.m.part q).isSome = true → no (exec (.partitionCreation q e) s)) ∧
    (((s.m.part q).isNone || s.m.resident q || s.m.savedOf q || s.m.graphing q) = true → no (exec (.partitionTeardown q) s)) ∧
    (((s.m.part q).isNone || s.m.resident q || s.m.savedOf q || s.m.graphing q) = false →
      yes (exec (.partitionTeardown q) s) (s.m.dropPart q)) ∧
    (∀ p, s.m.part q = some p → e.bklim = p.e.bklim → e.pgrp = p.e.pgrp → e.pairs = p.e.pairs → e.titbase = p.e.titbase →
      e.recbase = p.e.recbase → e.bstbase = p.e.bstbase → e.ptroot = p.e.ptroot → e.subl = p.e.subl → s.m.entryOk q e = true →
      ∃ m, yes (exec (.partitionTableWrite q e) s) m ∧ m.part q = some { p with
          e := { e with slice := p.e.slice }, sliceNext := e.slice,
          xbarPast := if e.xbar = p.e.xbar then p.xbarPast
            else (p.e.xbar, s.m.cycle + 4096) :: p.xbarPast.filter fun x => decide (s.m.cycle < x.2) } ∧
        m.ctxs = s.m.ctxs ∧ m.mem = s.m.mem) ∧
    (∀ p, s.m.part q = some p → e.pairs ≠ p.e.pairs ∨ e.pgrp ≠ p.e.pgrp ∨ e.bklim ≠ p.e.bklim → no (exec (.partitionTableWrite q e) s)) ∧
    (∀ die i site, die < 4 → i < 64 → s.m.partOfPair (die * 64 + i) = none → s.plat.siteFree die site = true →
      exec (.runtimeRepair die i site) s = .next { s with plat := { s.plat with
        sites := mapAt s.plat.sites die fun l => l.set i site } }) ∧
    (∀ die kind n, kind ≤ 2 → s.m.spareFree kind n = true → runMove (.net (.spare die kind n)) s =
      .next { s with plat := { s.plat with spares := s.plat.spares ++ [(die, kind, n)] } })

/-- R164, of a device that is up: a write of legal budgets for a die takes effect at the start of the next period; one that breaks a limit is refused
with a status and changes nothing else; a period puts the die's budgets into force and the shares used back to 0. -/
def Obligations.Budgets : Prop :=
  ∀ (s : State),
    (∀ die row, s.plat.stage = 7 → let r := budgetRow row
      (die < 4 → (∀ b ∈ r, 1 ≤ b) → r.sum ≤ 1024 → ∃ p, exec (.budgetWrite die row) s = .next { s with plat := p } ∧
        p.budgets = s.plat.budgets ∧ p.budNext = s.plat.budNext.set die r) ∧
      ((∃ b ∈ r, b = 0) ∨ 1024 < r.sum → ∃ p, exec (.budgetWrite die row) s = .next { s with plat := p } ∧
        p = { s.plat with out := p.out } ∧ p.out.length = s.plat.out.length + 1 ∧ p.out.take s.plat.out.length = s.plat.out)) ∧
    (∀ die, s.m.cycle % 1024 = 0 → die < 4 → s.plat.budgets.length = 4 → s.plat.budNext.length = 4 → s.m.used.length = 4 →
      ∃ t, exec (.networkPeriod die) s = .next t ∧ nthD [] t.plat.budgets die = nthD [] s.plat.budNext die ∧ (∀ u ∈ nthD [] t.m.used die, u = 0) ∧
        ∀ j, j ≠ die → nthD [] t.plat.budgets j = nthD [] s.plat.budgets j ∧ nthD [] t.m.used j = nthD [] s.m.used j)

/-- R86, R114, R171, R199, R307, R308 and R467: at a slice's end every running cast is to be pre-empted where other work waits (that it is
every one is the model's choice, log 108); pre-emption stops issue, then saves what has drained and frees the context; restore brings
registers and scratchpad back; a checkpoint holds its partitions, and streams them when their tasks are saved (what a stream holds, and in
what pieces, is log 75); a failed save or restore is a partition fault. Each event here completes. Where a saved task is placed again is
log 69, what makes a save fail log 68. -/
def Obligations.Preemption : Prop :=
  ∀ (s : State), s.plat.tripped = false →
    (∀ q p, s.m.part q = some p → ∃ t p', exec (.sliceEnd q) s = .next t ∧ t.m.part q = some p' ∧ p'.e = { p.e with slice := p.sliceNext } ∧
      t.m.ctxs = s.m.ctxs ∧ (0 < p.pending ∨ s.m.savedOf q = true → ∀ k ∈ p.casts,
        (∃ x ∈ s.m.ctxs, x.2.status = .running ∧ x.2.task.q = q ∧ x.2.task.cast = k.id) → { k with sliced := true } ∈ p'.casts)) ∧
    (∀ c, (s.m.ctx c).status = .running →
      let x := s.m.ctx c
      let cs := s.m.preemptSet c
      ((∃ d ∈ cs, (s.m.ctx d).halted = false) → (∀ d ∈ cs, s.m.inFlight d = false) →
        exec (.preemption c) s = .next { s with m := cs.foldl Mach.halt s.m }) ∧
      (x.vq = [] → x.sleep = none → x.copyStop = false → ((s.m.halt c).ctx c) =
        { x with halted := true, pendTrap := none, snapReqs := [], stall := 0, counted := [], half := none, pload := none }) ∧
      (cs = [c] → x.halted = true → x.copyStop = false → s.m.saveReady c = true → ∃ t v, exec (.preemption c) s = .next t ∧
        t.m.saved = s.m.saved ++ [v] ∧ v.ctx = x.live ∧ v.ctx.x = x.x ∧ v.ctx.pc = x.pc ∧ v.ctx.masks = x.masks ∧ t.m.ctx c = .reset ∧
        (∀ r b, x.vdirty.getLsbD r = true → b < x.vhwm.toNat → b < 65536 → cget v.ctx.vrf (Ctx.vkey r b) = cget x.vrf (Ctx.vkey r b)) ∧
        (s.m.mem.wf = true → ∀ k, k < x.spSize → cget v.scratch k = cget s.m.mem (s.m.spLo c + k))) ∧
      (x.halted = true → ∀ code d, ∃ t, runMove (.net (.saveFail c code d)) s = .next t ∧ ⟨x.task.q, code, d⟩ ∈ t.m.pfaults)) ∧
    (∀ k v, s.m.saved[k]? = some v →
      let held := ((s.m.part v.ctx.task.q).map Part.held).getD 1
      (held ≠ 1 → held ≠ 2 → exec (.restore k) s = .next { s with
        m := match (s.m.restoreSets v).foldlM Mach.placeTogether s.m with
          | some m => if m.savedOf v.ctx.task.q then m else m.updPart v.ctx.task.q fun p => { p with held := 0 }
          | none => s.m }) ∧
      (held = 1 ∨ held = 2 → exec (.restore k) s = .next s) ∧
      ∀ code d, runMove (.net (.restoreFail k code d)) s = .next { s with
        m := { s.m with pfaults := s.m.pfaults ++ [⟨v.ctx.task.q, code, d⟩] } }) ∧
    (∀ p v m, s.m.placeSaved p v = some m → v.ctx.savedTrap = none → ∃ c base, pairOf c = p ∧ (s.m.ctx c).status = .idle ∧
      m.ctx c = { v.ctx with spBase := base, halted := false }) ∧
    (∀ ps tier,
      let qs := ps.filter fun q => (s.m.part q).isSome
      let held := qs.foldl (fun m q => m.updPart q fun p => if p.held = 0 then { p with held := 1 } else p) s.m
      let busy := (held.ctxs.filter fun e => e.2.status != .idle && qs.contains e.2.task.q).map Prod.fst
      let waits := ∃ q ∈ qs, ((held.part q).map Part.held) = some 1
      (s.m.memberOk tier = false → exec (.checkpoint ps tier) s = .next { s with m := qs.foldl Mach.ckptEnd s.m }) ∧
      (s.m.memberOk tier = true → waits → busy ≠ [] → exec (.checkpoint ps tier) s = .next { s with m := busy.foldl Mach.preempt held }) ∧
      (s.m.memberOk tier = true → waits → busy = [] → (∀ q ∈ qs, held.graphing q = false) → exec (.checkpoint ps tier) s = .next { s with
        m := qs.foldl (fun m q => m.updPart q fun p => if p.held = 1 then { p with held := 2, ckpt := m.streamOf q } else p) held }) ∧
      (s.m.memberOk tier = true → ¬ waits → s.m.curtained = false → exec (.checkpoint ps tier) s = .next { s with
        m := qs.foldl (fun m q => if ((m.part q).map Part.ckpt) = some [] then m.ckptEnd q else m)
          (qs.foldl (fun m q => m.stream tier q) held) }))

/-- R106, R160, R161, R207, R208, R211 and R212: one clk advances the clock, every timer and every counter; a new arbitration
period puts VSHARE in force; a strip of at most 16 beats of one instruction or copy command goes to the waiting context of lowest spend with a
nonzero share. Each event here completes. -/
def Obligations.ClockAndArbitration : Prop :=
  ∀ (s : State) (p : Nat),
    (∃ t, exec .clk s = .next t ∧ t.m.cycle = s.m.cycle + 1 ∧ t.m.mem = s.m.mem ∧ t.plat = s.plat ∧
      (∀ c, t.m.ctx c = (s.m.ctx c).tick) ∧
      ∀ j, t.m.pair j = (s.m.pair j).tick ((List.range 4).map fun k => s.m.ctx (j * 4 + k))) ∧
    (∀ (u : Pair) xs i, i < 8 → (∃ k, vecAt 0 u.esel k ≠ 0) →
      let sel := vecAt 0 u.esel i
      let n := nthD 0 u.carry i + clkEvents xs sel
      vecAt 0 (u.tick xs).ecnt i = vecAt 0 u.ecnt i + .ofNat 64 (min 16 n) ∧ nthD 0 (u.tick xs).carry i = n - min 16 n ∧
      vecAt 0 (u.tick xs).esel i = if 2 ^ 64 ≤ (vecAt 0 u.ecnt i).toNat + min 16 n then sel ||| 0x1000 else sel) ∧
    ((s.m.pair p).period < s.m.cycle / 1024 → ∃ t, exec (.arbitrationPeriod p) s = .next t ∧ (t.m.pair p).period = s.m.cycle / 1024 ∧
      (t.m.pair p).spill = List.replicate 12 0 ∧
      (t.m.pair p).spend = (if s.m.cycle / 1024 = (s.m.pair p).period + 1 then (s.m.pair p).spill else List.replicate 12 0) ∧
      ∀ k, k < 4 → t.m.ctx (p * 4 + k) = { s.m.ctx (p * 4 + k) with vshare := (s.m.ctx (p * 4 + k)).vshareNext }) ∧
    (∀ res, res < 3 → s.m.cycle / 1024 ≤ (s.m.pair p).period → nthD 0 (s.m.pair p).till res ≤ s.m.cycle →
      (s.m.pair p).till.length = 3 → (s.m.pair p).need.length = 12 →
      let u := s.m.pair p
      let strip := fun k => (nthD [] u.need (4 * res + k)).headD 0
      let due := (List.range 4).filter fun k => strip k != 0
      let w := fun k => (s.m.ctx (p * 4 + k)).vshare.toNat
      (∃ k ∈ due, w k ≠ 0) → ∃ k t, k ∈ due ∧ w k ≠ 0 ∧
        (∀ j ∈ due, w j ≠ 0 → nthD 0 u.spend (4 * res + k) < nthD 0 u.spend (4 * res + j) ∨
          nthD 0 u.spend (4 * res + k) = nthD 0 u.spend (4 * res + j) ∧ k ≤ j) ∧
        exec (.stripGrant p res) s = .next t ∧
        let b := min 16 (strip k)
        nthD [] (t.m.pair p).need (4 * res + k) = (if strip k ≤ b then [] else [strip k - b]) ++ (nthD [] u.need (4 * res + k)).tail ∧
        nthD 0 (t.m.pair p).till res = s.m.cycle + b ∧
        nthD 0 (t.m.pair p).spend (4 * res + k) = (if 4 * res + k < u.spend.length then nthD 0 u.spend (4 * res + k) + b * 256 / w k else 0) ∧
        t.m.ctxs = s.m.ctxs)

/-- R19, R20, R121, R463 to R466: each event here completes. Two flipped bits poison a memory unit, which counts at once; one is corrected by
a scrub, which counts it; a hot die runs its islands one step lower, at 115 °C every island but the always-on control stops, all tasks are
lost and the host nodes get a report (the model's management messages, log 84); a legal frequency up to the
ceiling is set. When an error is counted is log 65, the size of a throttle step log 73. -/
def Obligations.ErrorsAndHeat : Prop :=
  ∀ (s : State) (key die temp i v : Nat) (bits : List Nat),
    let u := unitOf key
    (key / 2 ^ 60 = 0 → u ∈ s.m.poison → exec (.softError key bits) s = .next s) ∧
    (key / 2 ^ 60 = 0 → u ∉ s.m.poison → (∀ e ∈ s.m.soft, e.1 ≠ u) →
      let now := (bits.filter fun b => decide (b < 8 * eccUnit u)).eraseDups
      (now = [] → exec (.softError key bits) s = .next s) ∧
      (∀ b, now = [b] → exec (.softError key bits) s = .next { s with m := { s.m with soft := (u, [b]) :: s.m.soft } }) ∧
      (2 ≤ now.length → exec (.softError key bits) s = .next { s with
        m := ({ s.m with poison := u :: s.m.poison } : Mach).eccCount (dieOfKey u) (stackOfKey u) true })) ∧
    (∀ e, s.m.soft.find? (fun e => e.1 == u) = some e → exec (.scrub key) s = .next { s with
      m := ({ s.m with soft := s.m.soft.filter fun e => e.1 != u } : Mach).eccCount (dieOfKey u) (stackOfKey u) false }) ∧
    ((∀ e ∈ s.m.soft, e.1 ≠ u) → exec (.scrub key) s = .next s) ∧
    (100 < temp → s.plat.tripped = false → exec (.thermalThrottle die temp) s = .next { s with plat := { s.plat with
      temps := s.plat.temps.set die temp,
      islands := s.plat.islands.zipIdx.map fun e =>
        if islandOf die e.2 && decide (400 < e.1.mhz) then { e.1 with mhz := e.1.mhz - 100 } else e.1 } }) ∧
    (temp ≤ 100 → exec (.thermalThrottle die temp) s = .next { s with plat := { s.plat with temps := s.plat.temps.set die temp } }) ∧
    (115 ≤ temp → ∃ t, exec (.thermalTrip die temp) s = .next t ∧ t.plat.tripped = true ∧ t.m.ctxs = [] ∧ t.m.saved = [] ∧
      t.m.windows = [] ∧ t.m.hostRecs = [] ∧ t.m.mem = s.m.mem ∧
      (∀ n, (n ∈ s.m.hostNodes → ⟨n, "THERMAL_TRIP", leBytes 1 die, 0⟩ ∈ t.plat.out)) ∧
      (∀ n, n < s.m.troupe.member.length → (s.m.troupe.mem n).state = 2 → (s.m.troupe.mem n).host = true → n ∈ s.m.hostNodes) ∧
      t.plat.islands = s.plat.islands.zipIdx.map fun e => if e.2 = 287 then e.1 else { e.1 with mhz := 0 }) ∧
    (temp < 115 → exec (.thermalTrip die temp) s = .next s) ∧
    (400 ≤ v → v ≤ 1200 → v % 100 = 0 → s.plat.tripped = false → exec (.changeOfFrequency i v) s = .next { s with plat := { s.plat with
      islands := mapAt s.plat.islands i fun z => if v ≤ z.ceil then { z with mhz := v } else z } }) ∧
    (v < 400 ∨ 1200 < v ∨ v % 100 ≠ 0 → exec (.changeOfFrequency i v) s = .next s)

/-- R195, R274, R287 and R459 to R461: package reset leaves every register and table at its reset value (island frequencies are the model's,
log 40, and so is the 0 of a byte of memory, log 1). Where no stage fails, Ringmaster's and Carousel's firmware verifies and every die has
its 64 sites, the device is up with its measurements, its sites, and sub-links of 4, 8 or 16 lanes without a failed one; a failing
stage leaves the failure responder, or silence after stage 1. The order in which sites are taken is log 72; whether an image verifies is a
free value (log 6). -/
def Obligations.BringUp : Prop :=
  ∀ (s : State) (b : BootInput), ∃ t, exec (.packageReset b) s = .next t ∧
    t.m.ctxs = [] ∧ t.m.pairs = [] ∧ t.m.nmus = [] ∧ t.m.mem = [] ∧ t.m.poison = [] ∧ t.m.parts = [] ∧ t.m.slots = List.replicate 64 .free ∧
    t.m.cycle = 0 ∧ t.plat.islands = List.replicate 288 ⟨1200, 1200⟩ ∧ t.plat.tripped = false ∧
    (∀ i, i < 6 → nthD none t.plat.meas i = none ∨ nthD none t.plat.meas i = some (Config.shake256 64 (
      if i = 4 then repairBytes b else if i = 5 then tableBytes .reset .reset else nthD [] b.images i))) ∧
    (∀ k ∈ t.m.links, k.up = true ∧ (k.quads = 1 ∨ k.quads = 2 ∨ k.quads = 4) ∧ k.id % k.quads = 0 ∧
      ∀ i ∈ b.badQuads, i < k.id ∨ k.id + k.quads ≤ i) ∧
    (t.plat.silent = true ∨ ∀ i ∈ b.badQuads, ⟨b.node % 64, "QUAD_UNAVAILABLE", leBytes 1 i, 0⟩ ∈ t.plat.out) ∧
    (bootFails b = none ↔ (∀ k, 1 ≤ k → k ≤ 7 → b.fails ≠ some k) ∧ (∀ d, d < 4 → 64 ≤ (goodSites b d).length) ∧
      (∀ i, i = 0 ∨ i = 1 → let image := nthD [] b.images (i + 1)
        Config.ed448Verify Config.ouvoftKey image (nthD [] b.sigs i) = true ∧ Config.versionFloor ≤ Config.imageVersion image)) ∧
    match bootFails b with
    | none => t.plat.stage = 7 ∧ t.plat.failed = 0 ∧ t.plat.responder = false ∧
      t.plat.silent = false ∧ t.m.troupe.node = b.node % 64 ∧ (∀ i, i < 6 → nthD none t.plat.meas i ≠ none) ∧
      (∀ d, d < 4 → nthD [] t.plat.sites d = (goodSites b d).take 64) ∧ t.plat.spares = b.spares ∧
      ∀ k ∈ t.m.links, (k.id, k.quads) ∈ b.sublinks
    | some k => 1 ≤ k ∧ k ≤ 7 ∧ (∀ j, 1 ≤ j → b.fails = some j → k ≤ j) ∧ t.plat.stage = k - 1 ∧ t.plat.failed = k ∧
      (k = 1 → t.plat.silent = true ∧ t.m.links = []) ∧ (k ≠ 1 → t.plat.responder = true ∧ t.plat.silent = false)

/-! ### Registers and memory -/

/-- R93, R96 and R101: rows written into a register group stand in its elements, element i of row r where position i holds a
code; every other element, register and field stays. -/
def Obligations.RegisterRows : Prop :=
  ∀ (x : Ctx) (v e : Nat) (rows : List (List (Option Nat))), cellsWf x.vrf = true → (e = 1 ∨ e = 2 ∨ e = 4 ∨ e = 8) →
    (∀ l ∈ rows, l.length * e ≤ 65536) →
    let y := x.putRows v e rows
    y = { x with vrf := y.vrf, vdirty := y.vdirty, vhwm := y.vhwm, vrPoison := y.vrPoison } ∧ cellsWf y.vrf = true ∧
    (∀ r, r < rows.length → ∀ i, i * e + e ≤ 65536 → y.elem v r i e = match nthD none (nthD [] rows r) i with
      | some c => c % 2 ^ (8 * e)
      | none => x.elem v r i e) ∧
    (∀ w, w < v ∨ v + rows.length ≤ w → ∀ b, b < 65536 → cget y.vrf (Ctx.vkey w b) = cget x.vrf (Ctx.vkey w b))

/-- R116 to R120: a write within one granule reads back, its bytes in ascending address, and every other byte of memory stays;
every write keeps the canonical form of memory. -/
def Obligations.MemoryLaws : Prop :=
  ∀ (m : Mach), m.mem.wf = true →
    (∀ l bs, (m.write l bs).mem.wf = true) ∧
    (∀ pa bs k, m.keyOf pa = some k → pa % 256 + bs.length ≤ 256 → m.tbs = [] →
      (m.writePa pa bs).readPa pa bs.length = bs ∧ (∀ j, j < bs.length → cget (m.writePa pa bs).mem (k + j) = nthD 0 bs j) ∧
      ∀ q, q < k ∨ k + bs.length ≤ q → cget (m.writePa pa bs).mem q = cget m.mem q)

/-! ### Reset, words and steps -/

/-- R91, R106, R107, R112, R115 and R459: at reset every general, vector, mask and accumulator register is 0, WDOG is 2^32 and
BANKTO 20,000, every CSR of the handler is 0, NMUs and counters are clear, and no partition exists. The PC of a context without
a task is the model's choice (log 2), and so is the 0 of a byte that nothing has written (log 1). -/
def Obligations.ResetState : Prop :=
  ∀ (c n : Nat),
    let m := State.reset.m
    let x := m.ctx c
    x.status = .idle ∧ x.pc = 0 ∧ x.rx n = 0 ∧ (∀ b k, x.vread n b k = List.replicate k 0) ∧ vecAt 0 x.masks n = 0 ∧ cget x.acc n = 0 ∧
    vecAt 0 x.sreg n = 0 ∧ vecAt 0 x.md n = 0 ∧ vecAt 0 x.fmt n = 0 ∧ x.vl = 0 ∧ x.vstart = 0 ∧ x.sec = 0 ∧ x.wdog = 0x100000000 ∧
    x.banko = 20000 ∧ x.thandler = 0 ∧ x.epc = 0 ∧ x.fcause = 0 ∧ x.faddr = 0 ∧ x.finstr = 0 ∧ x.pdone = 0 ∧ x.pfmask = 0 ∧ x.srstep = 0 ∧
    x.tscr = 0 ∧ vecAt 0 (m.nmu c).b n = 0 ∧ vecAt 0 (m.nmu c).k n = 0 ∧ cget (m.nmu c).store n = 0 ∧ vecAt 0 (m.pair c).ecnt n = 0 ∧
    vecAt 0 (m.pair c).esel n = 0 ∧ m.part n = none ∧ cget m.mem n = 0 ∧ m.mem.wf = true ∧ m.cycle = 0 ∧ (m.slot n).state = 0

/-- R164, R195 and R465: the platform is within its limits at reset. The frequencies at reset are the model's choice (log 40). -/
def Obligations.PlatReset : Prop :=
  State.reset.plat.Ok

/-- R164, R195, R465 and R466: no step of the device takes the platform out of its limits: no island runs at an illegal
frequency or above its ceiling, no budget row is illegal, and every die keeps 64 distinct pair sites. -/
def Obligations.PlatKept : Prop :=
  ∀ (s t : State), s.plat.Ok → step s = .next t → t.plat.Ok

/-- R311 to R319, R327, R328, R335, R348, R411, R417, R430 and R433: words that the manual writes out decode to the instructions
that it names, and the words it calls illegal are refused for its reason. -/
def Obligations.DecodeWords : Prop :=
  decode 0x011461C0 = .ok (.add 5 6 7) ∧ decode 0x02145FFF = .ok (.addi 5 5 0xFFF) ∧ decode 0x21140FFD = .ok (.bne 5 0 0xFFD) ∧
  decode 0x333F0DFF = .ok (.modeField 0 63 1 5 3 7 7) ∧ decode 0xB9000005 = .ok (.qfence 5) ∧ decode 0x980861C1 = .ok (.pldSum 2 6 7 1) ∧
  decode 0x16144010 = .ok (.ldD 5 4 16) ∧ decode 0x41105180 = .ok (.vaddX 4 5 6) ∧ decode 0xA50C620A = .ok (.waitvAll 3 6 8 10) ∧
  decode 0x80044200 = .ok (.accop 1 4 8) ∧ decode 0xC0105180 = .ok (.cpy 4 5 6) ∧ decode 0xE1146000 = .ok (.lwait 5 6) ∧
  decodeB 0xD5003028 = some (.bskip 0 3 40) ∧ decodeB 0xD09051A8 = some (.bfma 2 4 5 6 1) ∧
  decode 0x333F0DBF = .error 2 ∧ decode 0 = .error 1 ∧ decode 0xFFFFFFFF = .error 1

/-- R311 to R319: the word of every well-formed instruction decodes to that instruction, with every operand at every value its
field admits; the requests of `preq` share one word. That the five requests of `preq` decode to one constructor is log 77. -/
def Obligations.EncodeDecode : Prop :=
  ∀ (i : Instr) (w : Nat), i.wf = true → encode i = some w → w < 2 ^ 32 ∧ decodeTableWord 32 w = some i.canon

/-- R132, R322, R338, R429 and R449: a step in which a context moves executes the instruction that stands at its PC, four bytes
little-endian; a word that is none traps; a step in which an NMU moves executes the word of its store; a step of the device
happens as it is named. After each, sleeping `waitv` instructions look at what they watch. After a thermal trip only what the always-on
control, the links and the management traffic do goes on (log 73). The agenda that names the next move, and waiting as a move, are the
model's (log 3, 7 and 77); what a fetch keeps is log 13, FINSTR 0 after a fetch that faults log 14, and Ringmaster's and the links' moves
are log 84. -/
def Obligations.StepRunsInstruction : Prop :=
  ∀ (s : State) (rest : List Move),
    let next := fun (m : Mach) => ({ s with m := m, agenda := rest, tick := s.tick + 1 } : State)
    (∀ mv, s.agenda = mv :: rest → s.plat.tripped = true → mv.goesOn = false → step s = afterMove (.next (next s.m))) ∧
    (s.plat.tripped = false →
    (∀ c m w, s.agenda = .run c false :: rest → c < 1024 → s.m.runnable c = true → s.m.fetch c = .ok (m, w) →
      let t := next (m.issue c false w)
      (∀ i, decode w = .ok i → step s = afterMove (exec (resolve i t.m.me) t)) ∧
      (∀ k, decode w = .error k → step s = afterMove (.next { t with m := t.m.scalarTrap { code := 1, detail := k } }))) ∧
    (∀ c f, s.agenda = .run c false :: rest → c < 1024 → s.m.runnable c = true → s.m.walkWaits c (s.m.ctx c).pc.toNat 4 = false →
      s.m.resolve c kFetch (s.m.ctx c).pc.toNat 4 .no = .error f → step s = afterMove (.next (next ((s.m.issue c false 0).scalarTrap f)))) ∧
    (∀ c a, s.m.walkWaits c (s.m.ctx c).pc.toNat 4 = false →
      s.m.resolve c kFetch (s.m.ctx c).pc.toNat 4 .no = .ok [(.pa a, 4)] → s.m.poisonSegs 0 [(.pa a, 4)] = none →
      (∀ k, s.m.keyOf a = some k → s.m.parkedKey k = false) → (∀ e ∈ (s.m.pair (pairOf c)).icache, e.1 ≠ a) → ∃ m, s.m.fetch c = .ok (m, leVal (s.m.readPa a 4)) ∧ m.ctxs = s.m.ctxs ∧ m.mem = s.m.mem) ∧
    (∀ c a w, s.m.walkWaits c (s.m.ctx c).pc.toNat 4 = false → s.m.resolve c kFetch (s.m.ctx c).pc.toNat 4 .no = .ok [(.pa a, 4)] →
      (s.m.pair (pairOf c)).icache.find? (fun e => e.1 == a) = some (a, w) → s.m.fetch c = .ok (s.m, w.toNat)) ∧
    (∀ n r i, s.agenda = .nmu n :: rest → n < 1024 → (s.m.nmu n).cur = some r → r.at_ < 512 →
      let w := (cget (s.m.nmu n).store r.at_).toNat
      ¬ (0xF0 ≤ w / 2 ^ 24 ∧ w / 2 ^ 24 ≤ 0xF7) → decodeB w = some i → step s = afterMove (exec i (next { s.m with ncur := n }))) ∧
    (∀ i, s.agenda = .ev i :: rest → step s = afterMove (exec i (next s.m))) ∧
    (∀ n key chain meas chal sig h, s.agenda = .join n key chain meas chal sig h :: rest →
      step s = afterMove (.next ((next s.m).join n key chain meas chal sig h))) ∧
    (∀ e, s.agenda = .net e :: rest → step s = afterMove (.next (netMove e (next s.m)))))
end

