-- ==== Sys2Proof/Laws/Exec.lean ====
section
/-!
SUPPORT. Which meaning each instruction has, one equation per constructor.
-/

namespace Sys2Proof.Machine

theorem exec_add {s : State} {x0} {x1} {x2} : exec (.add x0 x1 x2) s = execAdd x0 x1 x2 s := rfl
theorem exec_sub {s : State} {x0} {x1} {x2} : exec (.sub x0 x1 x2) s = execSub x0 x1 x2 s := rfl
theorem exec_mul {s : State} {x0} {x1} {x2} : exec (.mul x0 x1 x2) s = execMul x0 x1 x2 s := rfl
theorem exec_mulh {s : State} {x0} {x1} {x2} : exec (.mulh x0 x1 x2) s = execMulh x0 x1 x2 s := rfl
theorem exec_mulhu {s : State} {x0} {x1} {x2} : exec (.mulhu x0 x1 x2) s = execMulhu x0 x1 x2 s := rfl
theorem exec_div {s : State} {x0} {x1} {x2} : exec (.div x0 x1 x2) s = execDiv x0 x1 x2 s := rfl
theorem exec_divu {s : State} {x0} {x1} {x2} : exec (.divu x0 x1 x2) s = execDivu x0 x1 x2 s := rfl
theorem exec_rem {s : State} {x0} {x1} {x2} : exec (.rem x0 x1 x2) s = execRem x0 x1 x2 s := rfl
theorem exec_remu {s : State} {x0} {x1} {x2} : exec (.remu x0 x1 x2) s = execRemu x0 x1 x2 s := rfl
theorem exec_and {s : State} {x0} {x1} {x2} : exec (.and x0 x1 x2) s = execAnd x0 x1 x2 s := rfl
theorem exec_or {s : State} {x0} {x1} {x2} : exec (.or x0 x1 x2) s = execOr x0 x1 x2 s := rfl
theorem exec_xor {s : State} {x0} {x1} {x2} : exec (.xor x0 x1 x2) s = execXor x0 x1 x2 s := rfl
theorem exec_sll {s : State} {x0} {x1} {x2} : exec (.sll x0 x1 x2) s = execSll x0 x1 x2 s := rfl
theorem exec_srl {s : State} {x0} {x1} {x2} : exec (.srl x0 x1 x2) s = execSrl x0 x1 x2 s := rfl
theorem exec_sra {s : State} {x0} {x1} {x2} : exec (.sra x0 x1 x2) s = execSra x0 x1 x2 s := rfl
theorem exec_slt {s : State} {x0} {x1} {x2} : exec (.slt x0 x1 x2) s = execSlt x0 x1 x2 s := rfl
theorem exec_sltu {s : State} {x0} {x1} {x2} : exec (.sltu x0 x1 x2) s = execSltu x0 x1 x2 s := rfl
theorem exec_min {s : State} {x0} {x1} {x2} : exec (.min x0 x1 x2) s = execMin x0 x1 x2 s := rfl
theorem exec_max {s : State} {x0} {x1} {x2} : exec (.max x0 x1 x2) s = execMax x0 x1 x2 s := rfl
theorem exec_minu {s : State} {x0} {x1} {x2} : exec (.minu x0 x1 x2) s = execMinu x0 x1 x2 s := rfl
theorem exec_maxu {s : State} {x0} {x1} {x2} : exec (.maxu x0 x1 x2) s = execMaxu x0 x1 x2 s := rfl
theorem exec_sel {s : State} {x0} {x1} {x2} : exec (.sel x0 x1 x2) s = execSel x0 x1 x2 s := rfl
theorem exec_clz {s : State} {x0} {x1} : exec (.clz x0 x1) s = execClz x0 x1 s := rfl
theorem exec_popc {s : State} {x0} {x1} : exec (.popc x0 x1) s = execPopc x0 x1 s := rfl
theorem exec_addi {s : State} {x0} {x1} {x2} : exec (.addi x0 x1 x2) s = execAddi x0 x1 x2 s := rfl
theorem exec_andi {s : State} {x0} {x1} {x2} : exec (.andi x0 x1 x2) s = execAndi x0 x1 x2 s := rfl
theorem exec_ori {s : State} {x0} {x1} {x2} : exec (.ori x0 x1 x2) s = execOri x0 x1 x2 s := rfl
theorem exec_xori {s : State} {x0} {x1} {x2} : exec (.xori x0 x1 x2) s = execXori x0 x1 x2 s := rfl
theorem exec_slli {s : State} {x0} {x1} {x2} : exec (.slli x0 x1 x2) s = execSlli x0 x1 x2 s := rfl
theorem exec_srli {s : State} {x0} {x1} {x2} : exec (.srli x0 x1 x2) s = execSrli x0 x1 x2 s := rfl
theorem exec_srai {s : State} {x0} {x1} {x2} : exec (.srai x0 x1 x2) s = execSrai x0 x1 x2 s := rfl
theorem exec_slti {s : State} {x0} {x1} {x2} : exec (.slti x0 x1 x2) s = execSlti x0 x1 x2 s := rfl
theorem exec_sltiu {s : State} {x0} {x1} {x2} : exec (.sltiu x0 x1 x2) s = execSltiu x0 x1 x2 s := rfl
theorem exec_lui {s : State} {x0} {x1} : exec (.lui x0 x1) s = execLui x0 x1 s := rfl
theorem exec_auipc {s : State} {x0} {x1} : exec (.auipc x0 x1) s = execAuipc x0 x1 s := rfl
theorem exec_faddS {s : State} {x0} {x1} {x2} : exec (.faddS x0 x1 x2) s = execFaddS x0 x1 x2 s := rfl
theorem exec_fsubS {s : State} {x0} {x1} {x2} : exec (.fsubS x0 x1 x2) s = execFsubS x0 x1 x2 s := rfl
theorem exec_fmulS {s : State} {x0} {x1} {x2} : exec (.fmulS x0 x1 x2) s = execFmulS x0 x1 x2 s := rfl
theorem exec_fdivS {s : State} {x0} {x1} {x2} : exec (.fdivS x0 x1 x2) s = execFdivS x0 x1 x2 s := rfl
theorem exec_fminS {s : State} {x0} {x1} {x2} : exec (.fminS x0 x1 x2) s = execFminS x0 x1 x2 s := rfl
theorem exec_fmaxS {s : State} {x0} {x1} {x2} : exec (.fmaxS x0 x1 x2) s = execFmaxS x0 x1 x2 s := rfl
theorem exec_fcvtSL {s : State} {x0} {x1} : exec (.fcvtSL x0 x1) s = execFcvtSL x0 x1 s := rfl
theorem exec_fcvtLS {s : State} {x0} {x1} : exec (.fcvtLS x0 x1) s = execFcvtLS x0 x1 s := rfl
theorem exec_fltS {s : State} {x0} {x1} {x2} : exec (.fltS x0 x1 x2) s = execFltS x0 x1 x2 s := rfl
theorem exec_fleS {s : State} {x0} {x1} {x2} : exec (.fleS x0 x1 x2) s = execFleS x0 x1 x2 s := rfl
theorem exec_feqS {s : State} {x0} {x1} {x2} : exec (.feqS x0 x1 x2) s = execFeqS x0 x1 x2 s := rfl
theorem exec_ldB {s : State} {x0} {x1} {x2} : exec (.ldB x0 x1 x2) s = execLdB x0 x1 x2 s := rfl
theorem exec_ldBu {s : State} {x0} {x1} {x2} : exec (.ldBu x0 x1 x2) s = execLdBu x0 x1 x2 s := rfl
theorem exec_ldH {s : State} {x0} {x1} {x2} : exec (.ldH x0 x1 x2) s = execLdH x0 x1 x2 s := rfl
theorem exec_ldHu {s : State} {x0} {x1} {x2} : exec (.ldHu x0 x1 x2) s = execLdHu x0 x1 x2 s := rfl
theorem exec_ldW {s : State} {x0} {x1} {x2} : exec (.ldW x0 x1 x2) s = execLdW x0 x1 x2 s := rfl
theorem exec_ldWu {s : State} {x0} {x1} {x2} : exec (.ldWu x0 x1 x2) s = execLdWu x0 x1 x2 s := rfl
theorem exec_ldD {s : State} {x0} {x1} {x2} : exec (.ldD x0 x1 x2) s = execLdD x0 x1 x2 s := rfl
theorem exec_ldDAq {s : State} {x0} {x1} {x2} : exec (.ldDAq x0 x1 x2) s = execLdDAq x0 x1 x2 s := rfl
theorem exec_stB {s : State} {x0} {x1} {x2} : exec (.stB x0 x1 x2) s = execStB x0 x1 x2 s := rfl
theorem exec_stH {s : State} {x0} {x1} {x2} : exec (.stH x0 x1 x2) s = execStH x0 x1 x2 s := rfl
theorem exec_stW {s : State} {x0} {x1} {x2} : exec (.stW x0 x1 x2) s = execStW x0 x1 x2 s := rfl
theorem exec_stD {s : State} {x0} {x1} {x2} : exec (.stD x0 x1 x2) s = execStD x0 x1 x2 s := rfl
theorem exec_beq {s : State} {x0} {x1} {x2} : exec (.beq x0 x1 x2) s = execBeq x0 x1 x2 s := rfl
theorem exec_bne {s : State} {x0} {x1} {x2} : exec (.bne x0 x1 x2) s = execBne x0 x1 x2 s := rfl
theorem exec_blt {s : State} {x0} {x1} {x2} : exec (.blt x0 x1 x2) s = execBlt x0 x1 x2 s := rfl
theorem exec_bge {s : State} {x0} {x1} {x2} : exec (.bge x0 x1 x2) s = execBge x0 x1 x2 s := rfl
theorem exec_bltu {s : State} {x0} {x1} {x2} : exec (.bltu x0 x1 x2) s = execBltu x0 x1 x2 s := rfl
theorem exec_bgeu {s : State} {x0} {x1} {x2} : exec (.bgeu x0 x1 x2) s = execBgeu x0 x1 x2 s := rfl
theorem exec_j {s : State} {x0} : exec (.j x0) s = execJ x0 s := rfl
theorem exec_call {s : State} {x0} : exec (.call x0) s = execCall x0 s := rfl
theorem exec_jalr {s : State} {x0} {x1} {x2} : exec (.jalr x0 x1 x2) s = execJalr x0 x1 x2 s := rfl
theorem exec_loop {s : State} {x0} {x1} : exec (.loop x0 x1) s = execLoop x0 x1 s := rfl
theorem exec_csrr {s : State} {x0} {x1} : exec (.csrr x0 x1) s = execCsrr x0 x1 s := rfl
theorem exec_csrw {s : State} {x0} {x1} : exec (.csrw x0 x1) s = execCsrw x0 x1 s := rfl
theorem exec_vstartWrite {s : State} {x0} : exec (.vstartWrite x0) s = execVstartWrite x0 s := rfl
theorem exec_vshareWrite {s : State} {x0} : exec (.vshareWrite x0) s = execVshareWrite x0 s := rfl
theorem exec_srstepWrite {s : State} {x0} : exec (.srstepWrite x0) s = execSrstepWrite x0 s := rfl
theorem exec_pdoneWrite {s : State} {x0} : exec (.pdoneWrite x0) s = execPdoneWrite x0 s := rfl
theorem exec_wdogWrite {s : State} {x0} : exec (.wdogWrite x0) s = execWdogWrite x0 s := rfl
theorem exec_banktoWrite {s : State} {x0} : exec (.banktoWrite x0) s = execBanktoWrite x0 s := rfl
theorem exec_ecntWrite {s : State} {x0} {x1} : exec (.ecntWrite x0 x1) s = execEcntWrite x0 x1 s := rfl
theorem exec_eselWrite {s : State} {x0} {x1} : exec (.eselWrite x0 x1) s = execEselWrite x0 x1 s := rfl
theorem exec_modeField {s : State} {x0} {x1} {x2} {x3} {x4} {x5} {x6} : exec (.modeField x0 x1 x2 x3 x4 x5 x6) s = execModeField x0 x1 x2 x3 x4 x5 x6 s := rfl
theorem exec_modeTid {s : State} {x0} {x1} : exec (.modeTid x0 x1) s = execModeTid x0 x1 s := rfl
theorem exec_vcfg {s : State} {x0} {x1} {x2} : exec (.vcfg x0 x1 x2) s = execVcfg x0 x1 x2 s := rfl
theorem exec_vsetvl {s : State} {x0} {x1} : exec (.vsetvl x0 x1) s = execVsetvl x0 x1 s := rfl
theorem exec_mcnt {s : State} {x0} {x1} : exec (.mcnt x0 x1) s = execMcnt x0 x1 s := rfl
theorem exec_many {s : State} {x0} {x1} : exec (.many x0 x1) s = execMany x0 x1 s := rfl
theorem exec_mfirst {s : State} {x0} {x1} : exec (.mfirst x0 x1) s = execMfirst x0 x1 s := rfl
theorem exec_texit {s : State} {x0} : exec (.texit x0) s = execTexit x0 s := rfl
theorem exec_vadd {s : State} {x0} {x1} {x2} : exec (.vadd x0 x1 x2) s = execVadd x0 x1 x2 s := rfl
theorem exec_vsub {s : State} {x0} {x1} {x2} : exec (.vsub x0 x1 x2) s = execVsub x0 x1 x2 s := rfl
theorem exec_vmul {s : State} {x0} {x1} {x2} : exec (.vmul x0 x1 x2) s = execVmul x0 x1 x2 s := rfl
theorem exec_vdiv {s : State} {x0} {x1} {x2} : exec (.vdiv x0 x1 x2) s = execVdiv x0 x1 x2 s := rfl
theorem exec_vmin {s : State} {x0} {x1} {x2} : exec (.vmin x0 x1 x2) s = execVmin x0 x1 x2 s := rfl
theorem exec_vmax {s : State} {x0} {x1} {x2} : exec (.vmax x0 x1 x2) s = execVmax x0 x1 x2 s := rfl
theorem exec_vand {s : State} {x0} {x1} {x2} : exec (.vand x0 x1 x2) s = execVand x0 x1 x2 s := rfl
theorem exec_vor {s : State} {x0} {x1} {x2} : exec (.vor x0 x1 x2) s = execVor x0 x1 x2 s := rfl
theorem exec_vxor {s : State} {x0} {x1} {x2} : exec (.vxor x0 x1 x2) s = execVxor x0 x1 x2 s := rfl
theorem exec_vsll {s : State} {x0} {x1} {x2} : exec (.vsll x0 x1 x2) s = execVsll x0 x1 x2 s := rfl
theorem exec_vsrl {s : State} {x0} {x1} {x2} : exec (.vsrl x0 x1 x2) s = execVsrl x0 x1 x2 s := rfl
theorem exec_vsra {s : State} {x0} {x1} {x2} : exec (.vsra x0 x1 x2) s = execVsra x0 x1 x2 s := rfl
theorem exec_vaddX {s : State} {x0} {x1} {x2} : exec (.vaddX x0 x1 x2) s = execVaddX x0 x1 x2 s := rfl
theorem exec_vsubX {s : State} {x0} {x1} {x2} : exec (.vsubX x0 x1 x2) s = execVsubX x0 x1 x2 s := rfl
theorem exec_vmulX {s : State} {x0} {x1} {x2} : exec (.vmulX x0 x1 x2) s = execVmulX x0 x1 x2 s := rfl
theorem exec_vdivX {s : State} {x0} {x1} {x2} : exec (.vdivX x0 x1 x2) s = execVdivX x0 x1 x2 s := rfl
theorem exec_vminX {s : State} {x0} {x1} {x2} : exec (.vminX x0 x1 x2) s = execVminX x0 x1 x2 s := rfl
theorem exec_vmaxX {s : State} {x0} {x1} {x2} : exec (.vmaxX x0 x1 x2) s = execVmaxX x0 x1 x2 s := rfl
theorem exec_vandX {s : State} {x0} {x1} {x2} : exec (.vandX x0 x1 x2) s = execVandX x0 x1 x2 s := rfl
theorem exec_vorX {s : State} {x0} {x1} {x2} : exec (.vorX x0 x1 x2) s = execVorX x0 x1 x2 s := rfl
theorem exec_vxorX {s : State} {x0} {x1} {x2} : exec (.vxorX x0 x1 x2) s = execVxorX x0 x1 x2 s := rfl
theorem exec_vsllX {s : State} {x0} {x1} {x2} : exec (.vsllX x0 x1 x2) s = execVsllX x0 x1 x2 s := rfl
theorem exec_vsrlX {s : State} {x0} {x1} {x2} : exec (.vsrlX x0 x1 x2) s = execVsrlX x0 x1 x2 s := rfl
theorem exec_vsraX {s : State} {x0} {x1} {x2} : exec (.vsraX x0 x1 x2) s = execVsraX x0 x1 x2 s := rfl
theorem exec_vfma {s : State} {x0} {x1} {x2} : exec (.vfma x0 x1 x2) s = execVfma x0 x1 x2 s := rfl
theorem exec_vfms {s : State} {x0} {x1} {x2} : exec (.vfms x0 x1 x2) s = execVfms x0 x1 x2 s := rfl
theorem exec_vfnma {s : State} {x0} {x1} {x2} : exec (.vfnma x0 x1 x2) s = execVfnma x0 x1 x2 s := rfl
theorem exec_vfnms {s : State} {x0} {x1} {x2} : exec (.vfnms x0 x1 x2) s = execVfnms x0 x1 x2 s := rfl
theorem exec_vneg {s : State} {x0} {x1} : exec (.vneg x0 x1) s = execVneg x0 x1 s := rfl
theorem exec_vabs {s : State} {x0} {x1} : exec (.vabs x0 x1) s = execVabs x0 x1 s := rfl
theorem exec_vmov {s : State} {x0} {x1} : exec (.vmov x0 x1) s = execVmov x0 x1 s := rfl
theorem exec_vsqrt {s : State} {x0} {x1} : exec (.vsqrt x0 x1) s = execVsqrt x0 x1 s := rfl
theorem exec_vrcp {s : State} {x0} {x1} : exec (.vrcp x0 x1) s = execVrcp x0 x1 s := rfl
theorem exec_vrsqrt {s : State} {x0} {x1} : exec (.vrsqrt x0 x1) s = execVrsqrt x0 x1 s := rfl
theorem exec_vexp2 {s : State} {x0} {x1} : exec (.vexp2 x0 x1) s = execVexp2 x0 x1 s := rfl
theorem exec_vlog2 {s : State} {x0} {x1} : exec (.vlog2 x0 x1) s = execVlog2 x0 x1 s := rfl
theorem exec_vcvt {s : State} {x0} {x1} {x2} : exec (.vcvt x0 x1 x2) s = execVcvt x0 x1 x2 s := rfl
theorem exec_vcmpeq {s : State} {x0} {x1} {x2} : exec (.vcmpeq x0 x1 x2) s = execVcmpeq x0 x1 x2 s := rfl
theorem exec_vcmpne {s : State} {x0} {x1} {x2} : exec (.vcmpne x0 x1 x2) s = execVcmpne x0 x1 x2 s := rfl
theorem exec_vcmplt {s : State} {x0} {x1} {x2} : exec (.vcmplt x0 x1 x2) s = execVcmplt x0 x1 x2 s := rfl
theorem exec_vcmple {s : State} {x0} {x1} {x2} : exec (.vcmple x0 x1 x2) s = execVcmple x0 x1 x2 s := rfl
theorem exec_vcmpgt {s : State} {x0} {x1} {x2} : exec (.vcmpgt x0 x1 x2) s = execVcmpgt x0 x1 x2 s := rfl
theorem exec_vcmpge {s : State} {x0} {x1} {x2} : exec (.vcmpge x0 x1 x2) s = execVcmpge x0 x1 x2 s := rfl
theorem exec_vcmpeqX {s : State} {x0} {x1} {x2} : exec (.vcmpeqX x0 x1 x2) s = execVcmpeqX x0 x1 x2 s := rfl
theorem exec_vcmpneX {s : State} {x0} {x1} {x2} : exec (.vcmpneX x0 x1 x2) s = execVcmpneX x0 x1 x2 s := rfl
theorem exec_vcmpltX {s : State} {x0} {x1} {x2} : exec (.vcmpltX x0 x1 x2) s = execVcmpltX x0 x1 x2 s := rfl
theorem exec_vcmpleX {s : State} {x0} {x1} {x2} : exec (.vcmpleX x0 x1 x2) s = execVcmpleX x0 x1 x2 s := rfl
theorem exec_vcmpgtX {s : State} {x0} {x1} {x2} : exec (.vcmpgtX x0 x1 x2) s = execVcmpgtX x0 x1 x2 s := rfl
theorem exec_vcmpgeX {s : State} {x0} {x1} {x2} : exec (.vcmpgeX x0 x1 x2) s = execVcmpgeX x0 x1 x2 s := rfl
theorem exec_vsel {s : State} {x0} {x1} {x2} {x3} : exec (.vsel x0 x1 x2 x3) s = execVsel x0 x1 x2 x3 s := rfl
theorem exec_vsplat {s : State} {x0} {x1} : exec (.vsplat x0 x1) s = execVsplat x0 x1 s := rfl
theorem exec_vextr {s : State} {x0} {x1} {x2} : exec (.vextr x0 x1 x2) s = execVextr x0 x1 x2 s := rfl
theorem exec_vslideup {s : State} {x0} {x1} {x2} : exec (.vslideup x0 x1 x2) s = execVslideup x0 x1 x2 s := rfl
theorem exec_vslidedn {s : State} {x0} {x1} {x2} : exec (.vslidedn x0 x1 x2) s = execVslidedn x0 x1 x2 s := rfl
theorem exec_vperm {s : State} {x0} {x1} {x2} : exec (.vperm x0 x1 x2) s = execVperm x0 x1 x2 s := rfl
theorem exec_vstep {s : State} {x0} : exec (.vstep x0) s = execVstep x0 s := rfl
theorem exec_vredsum {s : State} {x0} {x1} : exec (.vredsum x0 x1) s = execVredsum x0 x1 s := rfl
theorem exec_vredmax {s : State} {x0} {x1} : exec (.vredmax x0 x1) s = execVredmax x0 x1 s := rfl
theorem exec_vredmin {s : State} {x0} {x1} : exec (.vredmin x0 x1) s = execVredmin x0 x1 s := rfl
theorem exec_vredand {s : State} {x0} {x1} : exec (.vredand x0 x1) s = execVredand x0 x1 s := rfl
theorem exec_vredor {s : State} {x0} {x1} : exec (.vredor x0 x1) s = execVredor x0 x1 s := rfl
theorem exec_vredxor {s : State} {x0} {x1} : exec (.vredxor x0 x1) s = execVredxor x0 x1 s := rfl
theorem exec_vdot {s : State} {x0} {x1} {x2} : exec (.vdot x0 x1 x2) s = execVdot x0 x1 x2 s := rfl
theorem exec_vqnt {s : State} {x0} {x1} {x2} : exec (.vqnt x0 x1 x2) s = execVqnt x0 x1 x2 s := rfl
theorem exec_vdqnt {s : State} {x0} {x1} {x2} : exec (.vdqnt x0 x1 x2) s = execVdqnt x0 x1 x2 s := rfl
theorem exec_vsset {s : State} {x0} {x1} : exec (.vsset x0 x1) s = execVsset x0 x1 s := rfl
theorem exec_vsget {s : State} {x0} {x1} : exec (.vsget x0 x1) s = execVsget x0 x1 s := rfl
theorem exec_vcompr24 {s : State} {x0} {x1} {x2} : exec (.vcompr24 x0 x1 x2) s = execVcompr24 x0 x1 x2 s := rfl
theorem exec_vcompr48 {s : State} {x0} {x1} {x2} : exec (.vcompr48 x0 x1 x2) s = execVcompr48 x0 x1 x2 s := rfl
theorem exec_mand {s : State} {x0} {x1} {x2} : exec (.mand x0 x1 x2) s = execMand x0 x1 x2 s := rfl
theorem exec_mor {s : State} {x0} {x1} {x2} : exec (.mor x0 x1 x2) s = execMor x0 x1 x2 s := rfl
theorem exec_mxor {s : State} {x0} {x1} {x2} : exec (.mxor x0 x1 x2) s = execMxor x0 x1 x2 s := rfl
theorem exec_mandn {s : State} {x0} {x1} {x2} : exec (.mandn x0 x1 x2) s = execMandn x0 x1 x2 s := rfl
theorem exec_mnot {s : State} {x0} {x1} : exec (.mnot x0 x1) s = execMnot x0 x1 s := rfl
theorem exec_mmov {s : State} {x0} {x1} : exec (.mmov x0 x1) s = execMmov x0 x1 s := rfl
theorem exec_mset {s : State} {x0} : exec (.mset x0) s = execMset x0 s := rfl
theorem exec_mclr {s : State} {x0} : exec (.mclr x0) s = execMclr x0 s := rfl
theorem exec_accop {s : State} {x0} {x1} {x2} : exec (.accop x0 x1 x2) s = execAccop x0 x1 x2 s := rfl
theorem exec_accopH {s : State} {x0} {x1} {x2} : exec (.accopH x0 x1 x2) s = execAccopH x0 x1 x2 s := rfl
theorem exec_accsp24 {s : State} {x0} {x1} {x2} {x3} : exec (.accsp24 x0 x1 x2 x3) s = execAccsp24 x0 x1 x2 x3 s := rfl
theorem exec_accsp48 {s : State} {x0} {x1} {x2} {x3} : exec (.accsp48 x0 x1 x2 x3) s = execAccsp48 x0 x1 x2 x3 s := rfl
theorem exec_acczero {s : State} {x0} : exec (.acczero x0) s = execAcczero x0 s := rfl
theorem exec_accrd {s : State} {x0} {x1} {x2} : exec (.accrd x0 x1 x2) s = execAccrd x0 x1 x2 s := rfl
theorem exec_accwr {s : State} {x0} {x1} {x2} : exec (.accwr x0 x1 x2) s = execAccwr x0 x1 x2 s := rfl
theorem exec_accld {s : State} {x0} {x1} : exec (.accld x0 x1) s = execAccld x0 x1 s := rfl
theorem exec_accst {s : State} {x0} {x1} : exec (.accst x0 x1) s = execAccst x0 x1 s := rfl
theorem exec_accstQ {s : State} {x0} {x1} {x2} : exec (.accstQ x0 x1 x2) s = execAccstQ x0 x1 x2 s := rfl
theorem exec_vgathr {s : State} {x0} {x1} {x2} : exec (.vgathr x0 x1 x2) s = execVgathr x0 x1 x2 s := rfl
theorem exec_vld {s : State} {x0} {x1} {x2} : exec (.vld x0 x1 x2) s = execVld x0 x1 x2 s := rfl
theorem exec_vst {s : State} {x0} {x1} {x2} : exec (.vst x0 x1 x2) s = execVst x0 x1 x2 s := rfl
theorem exec_vlds {s : State} {x0} {x1} {x2} : exec (.vlds x0 x1 x2) s = execVlds x0 x1 x2 s := rfl
theorem exec_vsts {s : State} {x0} {x1} {x2} : exec (.vsts x0 x1 x2) s = execVsts x0 x1 x2 s := rfl
theorem exec_vldx {s : State} {x0} {x1} {x2} : exec (.vldx x0 x1 x2) s = execVldx x0 x1 x2 s := rfl
theorem exec_vstx {s : State} {x0} {x1} {x2} : exec (.vstx x0 x1 x2) s = execVstx x0 x1 x2 s := rfl
theorem exec_vstn {s : State} {x0} {x1} {x2} : exec (.vstn x0 x1 x2) s = execVstn x0 x1 x2 s := rfl
theorem exec_pldSum {s : State} {x0} {x1} {x2} {x3} : exec (.pldSum x0 x1 x2 x3) s = execPldSum x0 x1 x2 x3 s := rfl
theorem exec_pldMax {s : State} {x0} {x1} {x2} {x3} : exec (.pldMax x0 x1 x2 x3) s = execPldMax x0 x1 x2 x3 s := rfl
theorem exec_pldMin {s : State} {x0} {x1} {x2} {x3} : exec (.pldMin x0 x1 x2 x3) s = execPldMin x0 x1 x2 x3 s := rfl
theorem exec_pldMaxabs {s : State} {x0} {x1} {x2} {x3} : exec (.pldMaxabs x0 x1 x2 x3) s = execPldMaxabs x0 x1 x2 x3 s := rfl
theorem exec_pldAnd {s : State} {x0} {x1} {x2} {x3} : exec (.pldAnd x0 x1 x2 x3) s = execPldAnd x0 x1 x2 x3 s := rfl
theorem exec_pldOr {s : State} {x0} {x1} {x2} {x3} : exec (.pldOr x0 x1 x2 x3) s = execPldOr x0 x1 x2 x3 s := rfl
theorem exec_pldXor {s : State} {x0} {x1} {x2} {x3} : exec (.pldXor x0 x1 x2 x3) s = execPldXor x0 x1 x2 x3 s := rfl
theorem exec_pst {s : State} {x0} {x1} {x2} {x3} : exec (.pst x0 x1 x2 x3) s = execPst x0 x1 x2 x3 s := rfl
theorem exec_prun {s : State} {x0} {x1} {x2} {x3} : exec (.prun x0 x1 x2 x3) s = execPrun x0 x1 x2 x3 s := rfl
theorem exec_amoAdd {s : State} {x0} {x1} {x2} : exec (.amoAdd x0 x1 x2) s = execAmoAdd x0 x1 x2 s := rfl
theorem exec_amoSwap {s : State} {x0} {x1} {x2} : exec (.amoSwap x0 x1 x2) s = execAmoSwap x0 x1 x2 s := rfl
theorem exec_amoMax {s : State} {x0} {x1} {x2} : exec (.amoMax x0 x1 x2) s = execAmoMax x0 x1 x2 s := rfl
theorem exec_amoMin {s : State} {x0} {x1} {x2} : exec (.amoMin x0 x1 x2) s = execAmoMin x0 x1 x2 s := rfl
theorem exec_amoMaxu {s : State} {x0} {x1} {x2} : exec (.amoMaxu x0 x1 x2) s = execAmoMaxu x0 x1 x2 s := rfl
theorem exec_amoMinu {s : State} {x0} {x1} {x2} : exec (.amoMinu x0 x1 x2) s = execAmoMinu x0 x1 x2 s := rfl
theorem exec_amoAnd {s : State} {x0} {x1} {x2} : exec (.amoAnd x0 x1 x2) s = execAmoAnd x0 x1 x2 s := rfl
theorem exec_amoOr {s : State} {x0} {x1} {x2} : exec (.amoOr x0 x1 x2) s = execAmoOr x0 x1 x2 s := rfl
theorem exec_amoXor {s : State} {x0} {x1} {x2} : exec (.amoXor x0 x1 x2) s = execAmoXor x0 x1 x2 s := rfl
theorem exec_amoCas {s : State} {x0} {x1} {x2} : exec (.amoCas x0 x1 x2) s = execAmoCas x0 x1 x2 s := rfl
theorem exec_vamoAdd {s : State} {x0} {x1} {x2} : exec (.vamoAdd x0 x1 x2) s = execVamoAdd x0 x1 x2 s := rfl
theorem exec_vamoSwap {s : State} {x0} {x1} {x2} : exec (.vamoSwap x0 x1 x2) s = execVamoSwap x0 x1 x2 s := rfl
theorem exec_vamoMax {s : State} {x0} {x1} {x2} : exec (.vamoMax x0 x1 x2) s = execVamoMax x0 x1 x2 s := rfl
theorem exec_vamoMin {s : State} {x0} {x1} {x2} : exec (.vamoMin x0 x1 x2) s = execVamoMin x0 x1 x2 s := rfl
theorem exec_vamoMaxu {s : State} {x0} {x1} {x2} : exec (.vamoMaxu x0 x1 x2) s = execVamoMaxu x0 x1 x2 s := rfl
theorem exec_vamoMinu {s : State} {x0} {x1} {x2} : exec (.vamoMinu x0 x1 x2) s = execVamoMinu x0 x1 x2 s := rfl
theorem exec_vamoAnd {s : State} {x0} {x1} {x2} : exec (.vamoAnd x0 x1 x2) s = execVamoAnd x0 x1 x2 s := rfl
theorem exec_vamoOr {s : State} {x0} {x1} {x2} : exec (.vamoOr x0 x1 x2) s = execVamoOr x0 x1 x2 s := rfl
theorem exec_vamoXor {s : State} {x0} {x1} {x2} : exec (.vamoXor x0 x1 x2) s = execVamoXor x0 x1 x2 s := rfl
theorem exec_vlock {s : State} {x0} {x1} {x2} : exec (.vlock x0 x1 x2) s = execVlock x0 x1 x2 s := rfl
theorem exec_waitvAny {s : State} {x0} {x1} {x2} {x3} : exec (.waitvAny x0 x1 x2 x3) s = execWaitvAny x0 x1 x2 x3 s := rfl
theorem exec_waitvAll {s : State} {x0} {x1} {x2} {x3} : exec (.waitvAll x0 x1 x2 x3) s = execWaitvAll x0 x1 x2 x3 s := rfl
theorem exec_waitvSatisfied {s : State} {x0} : exec (.waitvSatisfied x0) s = execWaitvSatisfied x0 s := rfl
theorem exec_bara {s : State} {x0} {x1} : exec (.bara x0 x1) s = execBara x0 x1 s := rfl
theorem exec_baraG {s : State} {x0} {x1} : exec (.baraG x0 x1) s = execBaraG x0 x1 s := rfl
theorem exec_barw {s : State} {x0} {x1} : exec (.barw x0 x1) s = execBarw x0 x1 s := rfl
theorem exec_barwG {s : State} {x0} {x1} : exec (.barwG x0 x1) s = execBarwG x0 x1 s := rfl
theorem exec_baraw {s : State} {x0} {x1} : exec (.baraw x0 x1) s = execBaraw x0 x1 s := rfl
theorem exec_barawG {s : State} {x0} {x1} : exec (.barawG x0 x1) s = execBarawG x0 x1 s := rfl
theorem exec_barrierWake {s : State} {x0} : exec (.barrierWake x0) s = execBarrierWake x0 s := rfl
theorem exec_tbinit {s : State} {x0} {x1} : exec (.tbinit x0 x1) s = execTbinit x0 x1 s := rfl
theorem exec_tbexp {s : State} {x0} {x1} : exec (.tbexp x0 x1) s = execTbexp x0 x1 s := rfl
theorem exec_tbarr {s : State} {x0} : exec (.tbarr x0) s = execTbarr x0 s := rfl
theorem exec_tbwait {s : State} {x0} {x1} : exec (.tbwait x0 x1) s = execTbwait x0 x1 s := rfl
theorem exec_tbwaitWake {s : State} {x0} : exec (.tbwaitWake x0) s = execTbwaitWake x0 s := rfl
theorem exec_vsint {s : State} {x0} {x1} {x2} : exec (.vsint x0 x1 x2) s = execVsint x0 x1 x2 s := rfl
theorem exec_fenceSv {s : State} : exec (.fenceSv) s = execFenceSv s := rfl
theorem exec_fenceVs {s : State} : exec (.fenceVs) s = execFenceVs s := rfl
theorem exec_fenceVv {s : State} : exec (.fenceVv) s = execFenceVv s := rfl
theorem exec_fenceXp {s : State} : exec (.fenceXp) s = execFenceXp s := rfl
theorem exec_fenceSt {s : State} : exec (.fenceSt) s = execFenceSt s := rfl
theorem exec_fenceF {s : State} : exec (.fenceF) s = execFenceF s := rfl
theorem exec_qfence {s : State} {x0} : exec (.qfence x0) s = execQfence x0 s := rfl
theorem exec_cpy {s : State} {x0} {x1} {x2} : exec (.cpy x0 x1 x2) s = execCpy x0 x1 x2 s := rfl
theorem exec_cpyQ {s : State} {x0} {x1} {x2} : exec (.cpyQ x0 x1 x2) s = execCpyQ x0 x1 x2 s := rfl
theorem exec_cpyG {s : State} {x0} {x1} {x2} : exec (.cpyG x0 x1 x2) s = execCpyG x0 x1 x2 s := rfl
theorem exec_lns {s : State} {x0} : exec (.lns x0) s = execLns x0 s := rfl
theorem exec_pmld {s : State} {x0} {x1} : exec (.pmld x0 x1) s = execPmld x0 x1 s := rfl
theorem exec_cgld {s : State} {x0} {x1} : exec (.cgld x0 x1) s = execCgld x0 x1 s := rfl
theorem exec_cgrun {s : State} {x0} {x1} : exec (.cgrun x0 x1) s = execCgrun x0 x1 s := rfl
theorem exec_cgfree {s : State} {x0} : exec (.cgfree x0) s = execCgfree x0 s := rfl
theorem exec_fld {s : State} {x0} {x1} {x2} : exec (.fld x0 x1 x2) s = execFld x0 x1 x2 s := rfl
theorem exec_fst {s : State} {x0} {x1} {x2} : exec (.fst x0 x1 x2) s = execFst x0 x1 x2 s := rfl
theorem exec_fldrSum {s : State} {x0} {x1} {x2} : exec (.fldrSum x0 x1 x2) s = execFldrSum x0 x1 x2 s := rfl
theorem exec_fldrMax {s : State} {x0} {x1} {x2} : exec (.fldrMax x0 x1 x2) s = execFldrMax x0 x1 x2 s := rfl
theorem exec_fldrMin {s : State} {x0} {x1} {x2} : exec (.fldrMin x0 x1 x2) s = execFldrMin x0 x1 x2 s := rfl
theorem exec_fred {s : State} {x0} {x1} {x2} : exec (.fred x0 x1 x2) s = execFred x0 x1 x2 s := rfl
theorem exec_badd {s : State} {x0} {x1} {x2} {x3} {x4} : exec (.badd x0 x1 x2 x3 x4) s = execBadd x0 x1 x2 x3 x4 s := rfl
theorem exec_bsub {s : State} {x0} {x1} {x2} {x3} {x4} : exec (.bsub x0 x1 x2 x3 x4) s = execBsub x0 x1 x2 x3 x4 s := rfl
theorem exec_bmul {s : State} {x0} {x1} {x2} {x3} {x4} : exec (.bmul x0 x1 x2 x3 x4) s = execBmul x0 x1 x2 x3 x4 s := rfl
theorem exec_bmin {s : State} {x0} {x1} {x2} {x3} {x4} : exec (.bmin x0 x1 x2 x3 x4) s = execBmin x0 x1 x2 x3 x4 s := rfl
theorem exec_bmax {s : State} {x0} {x1} {x2} {x3} {x4} : exec (.bmax x0 x1 x2 x3 x4) s = execBmax x0 x1 x2 x3 x4 s := rfl
theorem exec_band {s : State} {x0} {x1} {x2} {x3} : exec (.band x0 x1 x2 x3) s = execBand x0 x1 x2 x3 s := rfl
theorem exec_bor {s : State} {x0} {x1} {x2} {x3} : exec (.bor x0 x1 x2 x3) s = execBor x0 x1 x2 x3 s := rfl
theorem exec_bxor {s : State} {x0} {x1} {x2} {x3} : exec (.bxor x0 x1 x2 x3) s = execBxor x0 x1 x2 x3 s := rfl
theorem exec_bfma {s : State} {x0} {x1} {x2} {x3} {x4} : exec (.bfma x0 x1 x2 x3 x4) s = execBfma x0 x1 x2 x3 x4 s := rfl
theorem exec_bcmpeq {s : State} {x0} {x1} {x2} {x3} {x4} : exec (.bcmpeq x0 x1 x2 x3 x4) s = execBcmpeq x0 x1 x2 x3 x4 s := rfl
theorem exec_bcmplt {s : State} {x0} {x1} {x2} {x3} {x4} : exec (.bcmplt x0 x1 x2 x3 x4) s = execBcmplt x0 x1 x2 x3 x4 s := rfl
theorem exec_bcmple {s : State} {x0} {x1} {x2} {x3} {x4} : exec (.bcmple x0 x1 x2 x3 x4) s = execBcmple x0 x1 x2 x3 x4 s := rfl
theorem exec_bsel {s : State} {x0} {x1} {x2} {x3} : exec (.bsel x0 x1 x2 x3) s = execBsel x0 x1 x2 x3 s := rfl
theorem exec_brld {s : State} {x0} {x1} {x2} : exec (.brld x0 x1 x2) s = execBrld x0 x1 x2 s := rfl
theorem exec_brst {s : State} {x0} {x1} {x2} : exec (.brst x0 x1 x2) s = execBrst x0 x1 x2 s := rfl
theorem exec_bskip {s : State} {x0} {x1} {x2} : exec (.bskip x0 x1 x2) s = execBskip x0 x1 x2 s := rfl
theorem exec_byield {s : State} : exec (.byield) s = execByield s := rfl
theorem exec_bend {s : State} : exec (.bend) s = execBend s := rfl
theorem exec_bjmp {s : State} {x0} : exec (.bjmp x0) s = execBjmp x0 s := rfl
theorem exec_lnch {s : State} {x0} {x1} : exec (.lnch x0 x1) s = execLnch x0 x1 s := rfl
theorem exec_lwait {s : State} {x0} {x1} : exec (.lwait x0 x1) s = execLwait x0 x1 s := rfl
theorem exec_tdef {s : State} {x0} {x1} : exec (.tdef x0 x1) s = execTdef x0 x1 s := rfl
theorem exec_tldf {s : State} {x0} {x1} : exec (.tldf x0 x1) s = execTldf x0 x1 s := rfl
theorem exec_strs {s : State} {x0} : exec (.strs x0) s = execStrs x0 s := rfl
theorem exec_strd {s : State} {x0} {x1} : exec (.strd x0 x1) s = execStrd x0 x1 s := rfl
theorem exec_pdef {s : State} {x0} {x1} : exec (.pdef x0 x1) s = execPdef x0 x1 s := rfl
theorem exec_grpinfo {s : State} {x0} {x1} : exec (.grpinfo x0 x1) s = execGrpinfo x0 x1 s := rfl
theorem exec_grpidx {s : State} {x0} {x1} {x2} : exec (.grpidx x0 x1 x2) s = execGrpidx x0 x1 x2 s := rfl
theorem exec_trap {s : State} {x0} : exec (.trap x0) s = execTrap x0 s := rfl
theorem exec_rett {s : State} : exec (.rett) s = execRett s := rfl
theorem exec_tlbinv {s : State} {x0} : exec (.tlbinv x0) s = execTlbinv x0 s := rfl
theorem exec_preqPowerDown {s : State} {x0} {x1} : exec (.preqPowerDown x0 x1) s = execPreqPowerDown x0 x1 s := rfl
theorem exec_preqSelfRefresh {s : State} {x0} {x1} : exec (.preqSelfRefresh x0 x1) s = execPreqSelfRefresh x0 x1 s := rfl
theorem exec_preqWake {s : State} {x0} {x1} : exec (.preqWake x0 x1) s = execPreqWake x0 x1 s := rfl
theorem exec_preqSetIsland {s : State} {x0} {x1} : exec (.preqSetIsland x0 x1) s = execPreqSetIsland x0 x1 s := rfl
theorem exec_preqEndSlice {s : State} {x0} {x1} : exec (.preqEndSlice x0 x1) s = execPreqEndSlice x0 x1 s := rfl
theorem exec_hint {s : State} {x0} {x1} : exec (.hint x0 x1) s = execHint x0 x1 s := rfl
theorem exec_storePerformed {s : State} {x0} : exec (.storePerformed x0) s = execStorePerformed x0 s := rfl
theorem exec_faultSafePoint {s : State} {x0} : exec (.faultSafePoint x0) s = execFaultSafePoint x0 s := rfl
theorem exec_vectorCompletion {s : State} {x0} : exec (.vectorCompletion x0) s = execVectorCompletion x0 s := rfl
theorem exec_commandRelease {s : State} {x0} : exec (.commandRelease x0) s = execCommandRelease x0 s := rfl
theorem exec_trapEntry {s : State} {x0} : exec (.trapEntry x0) s = execTrapEntry x0 s := rfl
theorem exec_hostLaunch {s : State} {x0} : exec (.hostLaunch x0) s = execHostLaunch x0 s := rfl
theorem exec_taskPlacement {s : State} {x0} : exec (.taskPlacement x0) s = execTaskPlacement x0 s := rfl
theorem exec_coresidentPlacement {s : State} {x0} : exec (.coresidentPlacement x0) s = execCoresidentPlacement x0 s := rfl
theorem exec_completionReport {s : State} {x0} : exec (.completionReport x0) s = execCompletionReport x0 s := rfl
theorem exec_hostCompletionRecord {s : State} {x0} {x1} : exec (.hostCompletionRecord x0 x1) s = execHostCompletionRecord x0 x1 s := rfl
theorem exec_sleepExpiry {s : State} {x0} : exec (.sleepExpiry x0) s = execSleepExpiry x0 s := rfl
theorem exec_lwaitReport {s : State} {x0} : exec (.lwaitReport x0) s = execLwaitReport x0 s := rfl
theorem exec_copyCommandStart {s : State} {x0} : exec (.copyCommandStart x0) s = execCopyCommandStart x0 s := rfl
theorem exec_copyPerformed {s : State} {x0} : exec (.copyPerformed x0) s = execCopyPerformed x0 s := rfl
theorem exec_copyCompletion {s : State} {x0} : exec (.copyCompletion x0) s = execCopyCompletion x0 s := rfl
theorem exec_runToNmu {s : State} {x0} : exec (.runToNmu x0) s = execRunToNmu x0 s := rfl
theorem exec_nmuRunStart {s : State} {x0} : exec (.nmuRunStart x0) s = execNmuRunStart x0 s := rfl
theorem exec_forcedYield {s : State} {x0} : exec (.forcedYield x0) s = execForcedYield x0 s := rfl
theorem exec_memberActivation {s : State} {x0} : exec (.memberActivation x0) s = execMemberActivation x0 s := rfl
theorem exec_bankTimeout {s : State} {x0} : exec (.bankTimeout x0) s = execBankTimeout x0 s := rfl
theorem exec_deltaApplication {s : State} {x0} : exec (.deltaApplication x0) s = execDeltaApplication x0 s := rfl
theorem exec_scatterAddChainApply {s : State} {x0} : exec (.scatterAddChainApply x0) s = execScatterAddChainApply x0 s := rfl
theorem exec_snapshotFetch {s : State} {x0} {x1} : exec (.snapshotFetch x0 x1) s = execSnapshotFetch x0 x1 s := rfl
theorem exec_graphRunStart {s : State} {x0} : exec (.graphRunStart x0) s = execGraphRunStart x0 s := rfl
theorem exec_chunkFire {s : State} {x0} {x1} : exec (.chunkFire x0 x1) s = execChunkFire x0 x1 s := rfl
theorem exec_chunkOpCompletion {s : State} {x0} {x1} : exec (.chunkOpCompletion x0 x1) s = execChunkOpCompletion x0 x1 s := rfl
theorem exec_receiveTimeout {s : State} {x0} {x1} : exec (.receiveTimeout x0 x1) s = execReceiveTimeout x0 x1 s := rfl
theorem exec_graphRunEnd {s : State} {x0} : exec (.graphRunEnd x0) s = execGraphRunEnd x0 s := rfl
theorem exec_flitReceive {s : State} {x0} {x1} : exec (.flitReceive x0 x1) s = execFlitReceive x0 x1 s := rfl
theorem exec_replayRequest {s : State} {x0} {x1} : exec (.replayRequest x0 x1) s = execReplayRequest x0 x1 s := rfl
theorem exec_packetReceive {s : State} {x0} : exec (.packetReceive x0) s = execPacketReceive x0 s := rfl
theorem exec_ackReceive {s : State} {x0} : exec (.ackReceive x0) s = execAckReceive x0 s := rfl
theorem exec_rejectReceive {s : State} {x0} : exec (.rejectReceive x0) s = execRejectReceive x0 s := rfl
theorem exec_ackSend {s : State} {x0} {x1} : exec (.ackSend x0 x1) s = execAckSend x0 x1 s := rfl
theorem exec_retransmitTimeout {s : State} {x0} {x1} {x2} : exec (.retransmitTimeout x0 x1 x2) s = execRetransmitTimeout x0 x1 x2 s := rfl
theorem exec_sequenceExhausted {s : State} {x0} : exec (.sequenceExhausted x0) s = execSequenceExhausted x0 s := rfl
theorem exec_getVersion {s : State} {x0} : exec (.getVersion x0) s = execGetVersion x0 s := rfl
theorem exec_getCapabilities {s : State} {x0} : exec (.getCapabilities x0) s = execGetCapabilities x0 s := rfl
theorem exec_negotiateAlgorithms {s : State} {x0} {x1} : exec (.negotiateAlgorithms x0 x1) s = execNegotiateAlgorithms x0 x1 s := rfl
theorem exec_getDigests {s : State} {x0} : exec (.getDigests x0) s = execGetDigests x0 s := rfl
theorem exec_getCertificate {s : State} {x0} {x1} : exec (.getCertificate x0 x1) s = execGetCertificate x0 x1 s := rfl
theorem exec_challenge {s : State} {x0} {x1} {x2} : exec (.challenge x0 x1 x2) s = execChallenge x0 x1 x2 s := rfl
theorem exec_getMeasurements {s : State} {x0} {x1} {x2} {x3} : exec (.getMeasurements x0 x1 x2 x3) s = execGetMeasurements x0 x1 x2 x3 s := rfl
theorem exec_keyExchange {s : State} {x0} {x1} {x2} : exec (.keyExchange x0 x1 x2) s = execKeyExchange x0 x1 x2 s := rfl
theorem exec_finish {s : State} {x0} {x1} {x2} : exec (.finish x0 x1 x2) s = execFinish x0 x1 x2 s := rfl
theorem exec_heartbeat {s : State} {x0} {x1} : exec (.heartbeat x0 x1) s = execHeartbeat x0 x1 s := rfl
theorem exec_keyUpdate {s : State} {x0} {x1} : exec (.keyUpdate x0 x1) s = execKeyUpdate x0 x1 s := rfl
theorem exec_endSession {s : State} {x0} {x1} : exec (.endSession x0 x1) s = execEndSession x0 x1 s := rfl
theorem exec_chunkSend {s : State} {x0} {x1} {x2} {x3} : exec (.chunkSend x0 x1 x2 x3) s = execChunkSend x0 x1 x2 x3 s := rfl
theorem exec_chunkGet {s : State} {x0} {x1} : exec (.chunkGet x0 x1) s = execChunkGet x0 x1 s := rfl
theorem exec_unsupportedRequest {s : State} {x0} {x1} : exec (.unsupportedRequest x0 x1) s = execUnsupportedRequest x0 x1 s := rfl
theorem exec_sessionTimeout {s : State} {x0} : exec (.sessionTimeout x0) s = execSessionTimeout x0 s := rfl
theorem exec_prepare {s : State} {x0} : exec (.prepare x0) s = execPrepare x0 s := rfl
theorem exec_ready {s : State} {x0} {x1} : exec (.ready x0 x1) s = execReady x0 x1 s := rfl
theorem exec_go {s : State} {x0} : exec (.go x0) s = execGo x0 s := rfl
theorem exec_done {s : State} {x0} {x1} : exec (.done x0 x1) s = execDone x0 x1 s := rfl
theorem exec_leave {s : State} {x0} : exec (.leave x0) s = execLeave x0 s := rfl
theorem exec_failReport {s : State} {x0} {x1} : exec (.failReport x0 x1) s = execFailReport x0 x1 s := rfl
theorem exec_rekeyRequest {s : State} {x0} : exec (.rekeyRequest x0) s = execRekeyRequest x0 s := rfl
theorem exec_readyTimeout {s : State} {x0} : exec (.readyTimeout x0) s = execReadyTimeout x0 s := rfl
theorem exec_partitionCreation {s : State} {x0} {x1} : exec (.partitionCreation x0 x1) s = execPartitionCreation x0 x1 s := rfl
theorem exec_partitionTeardown {s : State} {x0} : exec (.partitionTeardown x0) s = execPartitionTeardown x0 s := rfl
theorem exec_partitionTableWrite {s : State} {x0} {x1} : exec (.partitionTableWrite x0 x1) s = execPartitionTableWrite x0 x1 s := rfl
theorem exec_budgetWrite {s : State} {x0} {x1} : exec (.budgetWrite x0 x1) s = execBudgetWrite x0 x1 s := rfl
theorem exec_ringmasterTlbInvalidation {s : State} {x0} : exec (.ringmasterTlbInvalidation x0) s = execRingmasterTlbInvalidation x0 s := rfl
theorem exec_runtimeRepair {s : State} {x0} {x1} {x2} : exec (.runtimeRepair x0 x1 x2) s = execRuntimeRepair x0 x1 x2 s := rfl
theorem exec_sliceEnd {s : State} {x0} : exec (.sliceEnd x0) s = execSliceEnd x0 s := rfl
theorem exec_preemption {s : State} {x0} : exec (.preemption x0) s = execPreemption x0 s := rfl
theorem exec_restore {s : State} {x0} : exec (.restore x0) s = execRestore x0 s := rfl
theorem exec_stripGrant {s : State} {x0} {x1} : exec (.stripGrant x0 x1) s = execStripGrant x0 x1 s := rfl
theorem exec_arbitrationPeriod {s : State} {x0} : exec (.arbitrationPeriod x0) s = execArbitrationPeriod x0 s := rfl
theorem exec_networkPeriod {s : State} {x0} : exec (.networkPeriod x0) s = execNetworkPeriod x0 s := rfl
theorem exec_parkEntry {s : State} {x0} : exec (.parkEntry x0) s = execParkEntry x0 s := rfl
theorem exec_parkExit {s : State} {x0} : exec (.parkExit x0) s = execParkExit x0 s := rfl
theorem exec_scrub {s : State} {x0} : exec (.scrub x0) s = execScrub x0 s := rfl
theorem exec_thermalThrottle {s : State} {x0} {x1} : exec (.thermalThrottle x0 x1) s = execThermalThrottle x0 x1 s := rfl
theorem exec_thermalTrip {s : State} {x0} {x1} : exec (.thermalTrip x0 x1) s = execThermalTrip x0 x1 s := rfl
theorem exec_packageReset {s : State} {x0} : exec (.packageReset x0) s = execPackageReset x0 s := rfl
theorem exec_checkpoint {s : State} {x0} {x1} : exec (.checkpoint x0 x1) s = execCheckpoint x0 x1 s := rfl
theorem exec_clk {s : State} : exec (.clk) s = execClk s := rfl
theorem exec_sublinkLosesTraining {s : State} {x0} : exec (.sublinkLosesTraining x0) s = execSublinkLosesTraining x0 s := rfl
theorem exec_softError {s : State} {x0} {x1} : exec (.softError x0 x1) s = execSoftError x0 x1 s := rfl
theorem exec_changeOfFrequency {s : State} {x0} {x1} : exec (.changeOfFrequency x0 x1) s = execChangeOfFrequency x0 x1 s := rfl
theorem exec_heartbeatPeriod {s : State} {x0} : exec (.heartbeatPeriod x0) s = execHeartbeatPeriod x0 s := rfl

end Sys2Proof.Machine
end

