-- ==== Sys2Proof/Laws/Tables.lean ====
section
/-!
SUPPORT. What the sparse tables do: a read after a write, and that every write keeps the canonical form.
-/

namespace Sys2Proof.Machine

/-! ### Any table -/

theorem keysFrom_mono {α : Type} {t : Tab α} {a b : Nat} (h : keysFrom b t = true) (hab : a ≤ b) : keysFrom a t = true := by
  cases t with
  | nil => rfl
  | cons e t =>
    simp only [keysFrom, Bool.and_eq_true, decide_eq_true_eq] at h ⊢
    exact ⟨by omega, h.2⟩

theorem tabFind_below {α : Type} {t : Tab α} {lo k : Nat} (h : keysFrom lo t = true) (hk : k < lo) : tabFind t k = none := by
  cases t with
  | nil => rfl
  | cons e t =>
    simp only [keysFrom, Bool.and_eq_true, decide_eq_true_eq] at h
    have h1 : ¬ k = e.1 := by omega
    have h2 : k < e.1 := by omega
    simp [tabFind, h1, h2]

/-- A read of the entry just set. -/
@[simp] theorem tabFind_tabSet_same {α : Type} (t : Tab α) (k : Nat) (v : α) : tabFind (tabSet t k v) k = some v := by
  induction t with
  | nil => simp [tabSet, tabFind]
  | cons e t ih =>
    simp only [tabSet]
    split
    · simp [tabFind]
    · split
      · simp [tabFind]
      · rename_i h1 h2; simp [tabFind, h1, h2, ih]

/-- A read of another entry. -/
theorem tabFind_tabSet_ne {α : Type} (t : Tab α) (k j : Nat) (v : α) (h : j ≠ k) : tabFind (tabSet t k v) j = tabFind t j := by
  induction t with
  | nil =>
    simp only [tabSet, tabFind, h, if_false]
    split <;> rfl
  | cons e t ih =>
    simp only [tabSet]
    split
    · rename_i h1
      subst h1
      simp [tabFind, h]
    · split
      · rename_i h1 h2
        by_cases h3 : j < k
        · have h4 : ¬ j = e.1 := by omega
          have h5 : j < e.1 := by omega
          simp [tabFind, h, h3, h4, h5]
        · simp [tabFind, h, h3]
      · simp only [tabFind, ih]

theorem keysFrom_tabSet {α : Type} {t : Tab α} {lo k : Nat} {v : α} (h : keysFrom lo t = true) (hk : lo ≤ k) :
    keysFrom lo (tabSet t k v) = true := by
  induction t generalizing lo with
  | nil => simp [tabSet, keysFrom, hk]
  | cons e t ih =>
    simp only [keysFrom, Bool.and_eq_true, decide_eq_true_eq] at h
    simp only [tabSet]
    split
    · rename_i h1; simp [keysFrom, h1, h.2, h.1]
    · split
      · rename_i h1 h2; simp [keysFrom, hk, h.2]; omega
      · rename_i h1 h2
        simp only [keysFrom, Bool.and_eq_true, decide_eq_true_eq]
        exact ⟨h.1, ih h.2 (by omega)⟩

theorem keysFrom_tabDrop {α : Type} {t : Tab α} {lo k : Nat} (h : keysFrom lo t = true) : keysFrom lo (tabDrop t k) = true := by
  induction t generalizing lo with
  | nil => rfl
  | cons e t ih =>
    have h' := h
    simp only [keysFrom, Bool.and_eq_true, decide_eq_true_eq] at h
    simp only [tabDrop]
    split
    · exact keysFrom_mono h.2 (by omega)
    · split
      · exact h'
      · simp only [keysFrom, Bool.and_eq_true, decide_eq_true_eq]
        exact ⟨h.1, ih h.2⟩

theorem tabFind_tabDrop_same {α : Type} {t : Tab α} {lo k : Nat} (h : keysFrom lo t = true) : tabFind (tabDrop t k) k = none := by
  induction t generalizing lo with
  | nil => rfl
  | cons e t ih =>
    simp only [keysFrom, Bool.and_eq_true, decide_eq_true_eq] at h
    simp only [tabDrop]
    split
    · rename_i h1; exact tabFind_below h.2 (by omega)
    · split
      · rename_i h1 h2; simp [tabFind, h1, h2]
      · rename_i h1 h2; simp [tabFind, h1, h2, ih h.2]

theorem tabFind_tabDrop_ne {α : Type} {t : Tab α} {lo k j : Nat} (h : keysFrom lo t = true) (hj : j ≠ k) :
    tabFind (tabDrop t k) j = tabFind t j := by
  induction t generalizing lo with
  | nil => rfl
  | cons e t ih =>
    simp only [keysFrom, Bool.and_eq_true, decide_eq_true_eq] at h
    simp only [tabDrop]
    split
    · rename_i h1
      subst h1
      simp only [tabFind, hj, if_false]
      split
      · rename_i h2; exact tabFind_below h.2 (by omega)
      · rfl
    · split
      · rfl
      · simp only [tabFind, ih h.2]

/-! ### Cells -/

/-- Canonical form from a lower bound on. -/
def cellsFrom {w : Nat} (lo : Nat) (t : Cells w) : Bool := keysFrom lo t && t.all fun e => e.2 != 0

theorem cellsWf_eq {w : Nat} (t : Cells w) : cellsWf t = cellsFrom 0 t := rfl

@[simp] theorem cellsFrom_nil {w lo : Nat} : cellsFrom lo ([] : Cells w) = true := rfl

@[simp] theorem cellsFrom_cons {w lo : Nat} (k : Nat) (v : BitVec w) (t : Cells w) :
    cellsFrom lo ((k, v) :: t) = true ↔ lo ≤ k ∧ v ≠ 0 ∧ cellsFrom (k + 1) t = true := by
  simp [cellsFrom, keysFrom, and_assoc, and_left_comm]

theorem cellsFrom_mono {w a b : Nat} {t : Cells w} (h : cellsFrom b t = true) (hab : a ≤ b) : cellsFrom a t = true := by
  simp only [cellsFrom, Bool.and_eq_true] at h ⊢
  exact ⟨keysFrom_mono h.1 hab, h.2⟩

theorem cget_nil {w : Nat} (k : Nat) : cget ([] : Cells w) k = 0 := rfl

/-- A read of the cell just written. -/
theorem cget_cset_same {w : Nat} {t : Cells w} (h : cellsWf t = true) (k : Nat) (v : BitVec w) : cget (cset t k v) k = v := by
  simp only [cellsWf, Bool.and_eq_true] at h
  unfold cset
  split
  · rename_i hv; simp [cget, tabGet, tabFind_tabDrop_same h.1, hv]
  · simp [cget, tabGet]

/-- A read of another cell. -/
theorem cget_cset_ne {w : Nat} {t : Cells w} (h : cellsWf t = true) {k j : Nat} (v : BitVec w) (hj : j ≠ k) :
    cget (cset t k v) j = cget t j := by
  simp only [cellsWf, Bool.and_eq_true] at h
  unfold cset
  split
  · simp [cget, tabGet, tabFind_tabDrop_ne h.1 hj]
  · simp [cget, tabGet, tabFind_tabSet_ne _ _ _ _ hj]

theorem all_tabSet {α : Type} {t : Tab α} {k : Nat} {v : α} {p : Nat × α → Bool} (h : t.all p = true) (hv : p (k, v) = true) :
    (tabSet t k v).all p = true := by
  induction t with
  | nil => simp [tabSet, hv]
  | cons e t ih =>
    simp only [List.all_cons, Bool.and_eq_true] at h
    simp only [tabSet]
    split
    · simp only [List.all_cons, Bool.and_eq_true]; exact ⟨hv, h.2⟩
    · split
      · simp only [List.all_cons, Bool.and_eq_true]; exact ⟨hv, h.1, h.2⟩
      · simp only [List.all_cons, Bool.and_eq_true]; exact ⟨h.1, ih h.2⟩

theorem all_tabDrop {α : Type} {t : Tab α} {k : Nat} {p : Nat × α → Bool} (h : t.all p = true) : (tabDrop t k).all p = true := by
  induction t with
  | nil => rfl
  | cons e t ih =>
    have h' := h
    simp only [List.all_cons, Bool.and_eq_true] at h
    simp only [tabDrop]
    split
    · exact h.2
    · split
      · exact h'
      · simp only [List.all_cons, Bool.and_eq_true]; exact ⟨h.1, ih h.2⟩

/-- A write of one cell keeps the canonical form. -/
theorem cellsWf_cset {w : Nat} {t : Cells w} (h : cellsWf t = true) (k : Nat) (v : BitVec w) : cellsWf (cset t k v) = true := by
  simp only [cellsWf, Bool.and_eq_true] at h ⊢
  unfold cset
  split
  · exact ⟨keysFrom_tabDrop h.1, all_tabDrop h.2⟩
  · rename_i hv
    exact ⟨keysFrom_tabSet h.1 (by omega), all_tabSet h.2 (by simpa using hv)⟩

/-- A merge of a rising batch keeps the canonical form. -/
theorem cellsFrom_cmerge {w : Nat} (n : Nat) (us : List (Nat × BitVec w)) (t : Cells w) (lo : Nat) (hu : keysFrom lo us = true)
    (ht : cellsFrom lo t = true) : cellsFrom lo (cmerge n us t) = true := by
  induction n generalizing us t lo with
  | zero => simpa [cmerge] using ht
  | succ n ih =>
    match us, t with
    | [], t => simpa [cmerge] using ht
    | (k, v) :: us, [] =>
      simp only [keysFrom, Bool.and_eq_true, decide_eq_true_eq] at hu
      simp only [cmerge]
      split
      · exact ih us [] lo (keysFrom_mono hu.2 (by omega)) rfl
      · rename_i hv
        exact (cellsFrom_cons _ _ _).2 ⟨hu.1, hv, ih us [] _ hu.2 rfl⟩
    | (k, v) :: us, (k', v') :: t =>
      have ht0 := ht
      simp only [keysFrom, Bool.and_eq_true, decide_eq_true_eq] at hu
      rw [cellsFrom_cons] at ht
      simp only [cmerge]
      split
      · rename_i hk
        refine (cellsFrom_cons _ _ _).2 ⟨ht.1, ht.2.1, ih _ _ _ ?_ ht.2.2⟩
        simp only [keysFrom, Bool.and_eq_true, decide_eq_true_eq]
        exact ⟨by omega, hu.2⟩
      · rename_i hk
        have hrest : cellsFrom (k + 1) (if k' = k then t else (k', v') :: t) = true := by
          split
          · rename_i he; subst he; exact ht.2.2
          · rename_i he; exact (cellsFrom_cons _ _ _).2 ⟨by omega, ht.2.1, ht.2.2⟩
        split
        · exact cellsFrom_mono (ih _ _ _ hu.2 hrest) (by omega)
        · rename_i hv
          exact (cellsFrom_cons _ _ _).2 ⟨hu.1, hv, ih _ _ _ hu.2 hrest⟩

/-- A batch of writes in rising order keeps the canonical form. -/
theorem cellsWf_csetAll {w : Nat} {us : List (Nat × BitVec w)} {t : Cells w} (hu : keysFrom 0 us = true) (ht : cellsWf t = true) :
    cellsWf (csetAll us t) = true := cellsFrom_cmerge _ us t 0 hu ht

theorem keysFrom_zipIdx {w : Nat} (k : Nat) (vs : List (BitVec w)) (i : Nat) :
    keysFrom (k + i) ((vs.zipIdx i).map fun e => (k + e.2, e.1)) = true := by
  induction vs generalizing i with
  | nil => rfl
  | cons v vs ih =>
    simp only [List.zipIdx_cons, List.map_cons, keysFrom, Bool.and_eq_true, decide_eq_true_eq]
    exact ⟨le_refl _, ih (i + 1)⟩

theorem cellsWf_foldl_cset {w : Nat} (k : Nat) (l : List (BitVec w × Nat)) (t : Cells w) (h : cellsWf t = true) :
    cellsWf (l.foldl (fun t e => cset t (k + e.2) e.1) t) = true :=
  List.foldlRecOn (motive := fun t => cellsWf t = true) l _ h fun _ ht _ _ => cellsWf_cset ht _ _

/-- A write of consecutive cells keeps the canonical form. -/
theorem cellsWf_csetRange {w : Nat} {t : Cells w} (h : cellsWf t = true) (k : Nat) (vs : List (BitVec w)) :
    cellsWf (csetRange t k vs) = true := by
  unfold csetRange
  split
  · exact cellsWf_foldl_cset k _ t h
  · exact cellsWf_csetAll (keysFrom_mono (keysFrom_zipIdx k vs 0) (by omega)) h

theorem keysFrom_filter {α : Type} (p : Nat × α → Bool) (t : Tab α) (lo : Nat) (h : keysFrom lo t = true) :
    keysFrom lo (t.filter p) = true := by
  induction t generalizing lo with
  | nil => rfl
  | cons e t ih =>
    simp only [keysFrom, Bool.and_eq_true, decide_eq_true_eq] at h
    simp only [List.filter_cons]
    split
    · simp only [keysFrom, Bool.and_eq_true, decide_eq_true_eq]; exact ⟨h.1, ih _ h.2⟩
    · exact keysFrom_mono (ih _ h.2) (by omega)

/-- Clearing a range keeps the canonical form. -/
theorem cellsWf_cclear {w : Nat} {t : Cells w} (h : cellsWf t = true) (lo hi : Nat) : cellsWf (cclear t lo hi) = true := by
  simp only [cellsWf, Bool.and_eq_true] at h ⊢
  refine ⟨keysFrom_filter _ _ _ h.1, ?_⟩
  simp only [cclear, List.all_eq_true] at h ⊢
  exact fun e he => h.2 e (List.mem_filter.1 he).1

/-! ### Reads after a batch -/

theorem tabFind_cons_lt {α : Type} {t : Tab α} {k' k : Nat} {v : α} (h : k < k') : tabFind ((k', v) :: t) k = none := by
  have h1 : ¬ k = k' := by omega
  simp [tabFind, h1, h]

theorem tabFind_cons_gt {α : Type} {t : Tab α} {k' k : Nat} {v : α} (h : k' < k) : tabFind ((k', v) :: t) k = tabFind t k := by
  have h1 : ¬ k = k' := by omega
  have h2 : ¬ k < k' := by omega
  simp [tabFind, h1, h2]

theorem cget_below {w lo k : Nat} {t : Cells w} (h : cellsFrom lo t = true) (hk : k < lo) : cget t k = 0 := by
  simp only [cellsFrom, Bool.and_eq_true] at h
  simp [cget, tabGet, tabFind_below h.1 hk]

theorem cget_cons_lt {w : Nat} {t : Cells w} {k' k : Nat} {v : BitVec w} (h : k < k') : cget ((k', v) :: t) k = 0 := by
  simp [cget, tabGet, tabFind_cons_lt h]

theorem cget_cons_gt {w : Nat} {t : Cells w} {k' k : Nat} {v : BitVec w} (h : k' < k) : cget ((k', v) :: t) k = cget t k := by
  simp [cget, tabGet, tabFind_cons_gt h]

theorem cget_cons_eq {w : Nat} {t : Cells w} {k : Nat} {v : BitVec w} : cget ((k, v) :: t) k = v := by
  simp [cget, tabGet, tabFind]

theorem tabFind_cons_eq {α : Type} {t : Tab α} {k : Nat} {v : α} : tabFind ((k, v) :: t) k = some v := by simp [tabFind]

/-- A merge with enough fuel: the update if there is one, else the old cell. -/
theorem cget_cmerge {w : Nat} (n : Nat) (us : List (Nat × BitVec w)) (t : Cells w) (lo k : Nat) (hn : us.length + t.length ≤ n)
    (hu : keysFrom lo us = true) (ht : cellsFrom lo t = true) :
    cget (cmerge n us t) k = (tabFind us k).getD (cget t k) := by
  induction n generalizing us t lo with
  | zero =>
    have : us = [] := by cases us <;> simp_all
    subst this; simp [cmerge, tabFind]
  | succ n ih =>
    match us, t with
    | [], t => simp [cmerge, tabFind]
    | (j, v) :: us, [] =>
      simp only [keysFrom, Bool.and_eq_true, decide_eq_true_eq] at hu
      simp only [List.length_cons, List.length_nil] at hn
      have hr := ih us [] (j + 1) (by simp; omega) hu.2 rfl
      have hb := cellsFrom_cmerge n us [] (j + 1) hu.2 rfl
      simp only [cmerge]
      rcases Nat.lt_trichotomy k j with hk | hk | hk
      · rw [tabFind_cons_lt hk]
        split
        · simp [cget_below hb (by omega : k < j + 1), cget_nil]
        · simp [cget_cons_lt hk, cget_nil]
      · subst hk
        rw [tabFind_cons_eq]
        split
        · rename_i hv; simp [cget_below hb (by omega : k < k + 1), hv]
        · simp [cget_cons_eq]
      · rw [tabFind_cons_gt hk, ← hr]
        split
        · rfl
        · exact cget_cons_gt hk
    | (j, v) :: us, (j', v') :: t =>
      have hu0 := hu
      simp only [keysFrom, Bool.and_eq_true, decide_eq_true_eq] at hu
      rw [cellsFrom_cons] at ht
      simp only [List.length_cons] at hn
      simp only [cmerge]
      split
      · rename_i hj
        have hr := ih ((j, v) :: us) t (j' + 1) (by simp; omega)
          (by simp only [keysFrom, Bool.and_eq_true, decide_eq_true_eq]; exact ⟨by omega, hu.2⟩) ht.2.2
        rcases Nat.lt_trichotomy k j' with hk | hk | hk
        · have hk2 : k < j := by omega
          simp [cget_cons_lt hk, tabFind_cons_lt hk2]
        · subst hk
          simp [cget_cons_eq, tabFind_cons_lt hj]
        · rw [cget_cons_gt hk, cget_cons_gt hk, ← hr]
      · rename_i hj
        have hrest : cellsFrom (j + 1) (if j' = j then t else (j', v') :: t) = true := by
          split
          · rename_i he; subst he; exact ht.2.2
          · rename_i he; exact (cellsFrom_cons _ _ _).2 ⟨by omega, ht.2.1, ht.2.2⟩
        have hr := ih us (if j' = j then t else (j', v') :: t) (j + 1) (by split <;> (try rw [List.length_cons]) <;> omega) hu.2 hrest
        have hb := cellsFrom_cmerge n us _ (j + 1) hu.2 hrest
        have hold : j < k → cget (if j' = j then t else (j', v') :: t) k = cget ((j', v') :: t) k := by
          intro hk
          split
          · rename_i he; subst he; exact (cget_cons_gt hk).symm
          · rfl
        rcases Nat.lt_trichotomy k j with hk | hk | hk
        · rw [tabFind_cons_lt hk]
          have hk2 : k < j' := by omega
          split
          · simp [cget_below hb (by omega : k < j + 1), cget_cons_lt hk2]
          · simp [cget_cons_lt hk, cget_cons_lt hk2]
        · subst hk
          rw [tabFind_cons_eq]
          split
          · rename_i hv; simp [cget_below hb (by omega : k < k + 1), hv]
          · simp [cget_cons_eq]
        · rw [tabFind_cons_gt hk, ← hold hk, ← hr]
          split
          · rfl
          · exact cget_cons_gt hk

/-- A read after a batch of writes. -/
theorem cget_csetAll {w : Nat} {us : List (Nat × BitVec w)} {t : Cells w} (hu : keysFrom 0 us = true) (ht : cellsWf t = true)
    (k : Nat) : cget (csetAll us t) k = (tabFind us k).getD (cget t k) := cget_cmerge _ us t 0 k (le_refl _) hu ht

theorem tabFind_zipIdx {w : Nat} (k : Nat) (vs : List (BitVec w)) (i j : Nat) :
    tabFind ((vs.zipIdx i).map fun e => (k + e.2, e.1)) (k + i + j) = vs[j]? := by
  induction vs generalizing i j with
  | nil => simp [tabFind]
  | cons v vs ih =>
    cases j with
    | zero => simp [tabFind]
    | succ j =>
      simp only [List.zipIdx_cons, List.map_cons, List.getElem?_cons_succ]
      rw [tabFind_cons_gt (by omega), ← ih (i + 1) j]
      congr 1; omega

theorem cget_foldl_cset {w : Nat} (k : Nat) (vs : List (BitVec w)) (i : Nat) (t : Cells w) (h : cellsWf t = true) (j : Nat) :
    cget ((vs.zipIdx i).foldl (fun t e => cset t (k + e.2) e.1) t) j =
      if k + i ≤ j ∧ j < k + i + vs.length then vs.getD (j - (k + i)) 0 else cget t j := by
  induction vs generalizing i t with
  | nil => simp
  | cons v vs ih =>
    simp only [List.zipIdx_cons, List.foldl_cons, List.length_cons]
    rw [ih (i + 1) _ (cellsWf_cset h _ _)]
    by_cases h1 : j = k + i
    · subst h1
      rw [if_neg (by omega), if_pos (by omega), cget_cset_same h]
      simp
    · by_cases h2 : k + (i + 1) ≤ j ∧ j < k + (i + 1) + vs.length
      · rw [if_pos h2, if_pos (by omega)]
        obtain ⟨m, hm⟩ : ∃ m, j = k + i + 1 + m := ⟨j - (k + i + 1), by omega⟩
        subst hm
        rw [show k + i + 1 + m - (k + (i + 1)) = m by omega, show k + i + 1 + m - (k + i) = m + 1 by omega]
        simp
      · rw [if_neg h2, if_neg (by omega), cget_cset_ne h _ h1]

/-- A read after a write of consecutive cells. -/
theorem cget_csetRange {w : Nat} {t : Cells w} (h : cellsWf t = true) (k : Nat) (vs : List (BitVec w)) (j : Nat) :
    cget (csetRange t k vs) j = if k ≤ j ∧ j < k + vs.length then vs.getD (j - k) 0 else cget t j := by
  unfold csetRange
  split
  · simpa using cget_foldl_cset k vs 0 t h j
  · rw [cget_csetAll (keysFrom_mono (keysFrom_zipIdx k vs 0) (by omega)) h]
    split
    · rename_i hj
      obtain ⟨m, rfl⟩ : ∃ m, j = k + m := ⟨j - k, by omega⟩
      have := tabFind_zipIdx k vs 0 m
      simp only [Nat.add_zero] at this
      rw [this, List.getElem?_eq_getElem (by omega)]
      simp [List.getD_eq_getElem?_getD, List.getElem?_eq_getElem (by omega : m < vs.length)]
    · rename_i hj
      have : tabFind ((vs.zipIdx 0).map fun e => (k + e.2, e.1)) j = none := by
        by_cases hlo : j < k
        · exact tabFind_below (keysFrom_zipIdx k vs 0) (by omega)
        · obtain ⟨m, rfl⟩ : ∃ m, j = k + m := ⟨j - k, by omega⟩
          have h3 := tabFind_zipIdx k vs 0 m
          simp only [Nat.add_zero] at h3
          rw [h3, List.getElem?_eq_none (by omega)]
      simp [this]

/-! ### Ranges read in one pass -/

theorem crange_eq {w : Nat} (n k : Nat) (t : Cells w) (h : keysFrom k t = true) :
    crange n k t = (List.range n).map fun i => cget t (k + i) := by
  induction n generalizing k t with
  | zero => rfl
  | succ n ih =>
    rw [List.range_succ_eq_map, List.map_cons, List.map_map]
    match t with
    | [] =>
      simp only [crange, ih (k + 1) [] rfl, Nat.add_zero, cget_nil]
      congr 1
    | (k', v) :: t =>
      have h0 := h
      simp only [keysFrom, Bool.and_eq_true, decide_eq_true_eq] at h
      simp only [crange]
      split
      · rename_i hk
        subst hk
        rw [ih _ t h.2]
        simp only [Nat.add_zero, List.cons.injEq]
        refine ⟨by simp [cget, tabGet, tabFind], List.map_congr_left fun i _ => ?_⟩
        simp only [Function.comp]
        rw [show k' + 1 + i = k' + (i + 1) by omega]
        simp [cget, tabGet, tabFind_cons_gt (by omega : k' < k' + (i + 1))]
      · rename_i hk
        rw [ih _ ((k', v) :: t) (by simp only [keysFrom, Bool.and_eq_true, decide_eq_true_eq]; exact ⟨by omega, h.2⟩)]
        simp only [Nat.add_zero, List.cons.injEq]
        refine ⟨by simp [cget, tabGet, tabFind_cons_lt (by omega : k < k')], List.map_congr_left fun i _ => ?_⟩
        simp only [Function.comp]
        rw [show k + 1 + i = k + (i + 1) by omega]

theorem cdropBelow_keys {α : Type} (k lo : Nat) (t : Tab α) (h : keysFrom lo t = true) : keysFrom k (cdropBelow k t) = true := by
  induction t generalizing lo with
  | nil => rfl
  | cons e t ih =>
    simp only [keysFrom, Bool.and_eq_true, decide_eq_true_eq] at h
    simp only [cdropBelow]
    split
    · exact ih _ h.2
    · simp only [keysFrom, Bool.and_eq_true, decide_eq_true_eq]; exact ⟨by omega, h.2⟩

theorem cget_cdropBelow {w : Nat} (k j : Nat) (t : Cells w) (hj : k ≤ j) : cget (cdropBelow k t) j = cget t j := by
  induction t with
  | nil => rfl
  | cons e t ih =>
    simp only [cdropBelow]
    split
    · rw [ih]; simp [cget, tabGet, tabFind_cons_gt (by omega : e.1 < j)]
    · rfl

/-- Reading consecutive cells reads each of them. -/
theorem cgetRange_eq {w : Nat} {t : Cells w} (h : cellsWf t = true) (k n : Nat) :
    cgetRange t k n = (List.range n).map fun i => cget t (k + i) := by
  simp only [cellsWf, Bool.and_eq_true] at h
  unfold cgetRange
  rw [crange_eq n k _ (cdropBelow_keys k 0 t h.1)]
  exact List.map_congr_left fun i _ => cget_cdropBelow k (k + i) t (by omega)

/-- A cell after its range was cleared. -/
theorem cget_cclear {w : Nat} (t : Cells w) (h : cellsWf t = true) (lo hi k : Nat) :
    cget (cclear t lo hi) k = if lo ≤ k ∧ k < hi then 0 else cget t k := by
  simp only [cellsWf, Bool.and_eq_true] at h
  have key : ∀ (t : Cells w) (a : Nat), keysFrom a t = true → cget (cclear t lo hi) k = if lo ≤ k ∧ k < hi then 0 else cget t k := by
    intro t
    induction t with
    | nil => intro a _; simp [cclear, cget_nil]
    | cons e t ih =>
      intro a ha
      simp only [keysFrom, Bool.and_eq_true, decide_eq_true_eq] at ha
      have ih' := ih _ ha.2
      have hf : keysFrom (e.1 + 1) (cclear t lo hi) = true := keysFrom_filter _ _ _ ha.2
      by_cases hin : lo ≤ e.1 ∧ e.1 < hi
      · have : cclear (e :: t) lo hi = cclear t lo hi := by simp [cclear, hin.1, hin.2]
        rw [this, ih']
        split
        · rfl
        · rename_i hk
          rcases Nat.lt_trichotomy k e.1 with h1 | h1 | h1
          · simp [cget, tabGet, tabFind_below ha.2 (by omega : k < e.1 + 1), tabFind_cons_lt h1]
          · omega
          · simp [cget, tabGet, tabFind_cons_gt h1]
      · have : cclear (e :: t) lo hi = e :: cclear t lo hi := by
          have : ¬ (decide (lo ≤ e.1) && decide (e.1 < hi)) = true := by simpa using hin
          simp only [cclear, List.filter_cons, this]
          simp
        rw [this]
        rcases Nat.lt_trichotomy k e.1 with h1 | h1 | h1
        · simp [cget, tabGet, tabFind_cons_lt h1]
        · subst h1
          simp [cget, tabGet, tabFind, hin]
        · simpa [cget, tabGet, tabFind_cons_gt h1] using ih'
  exact key t 0 h.1

/-! ### Little-endian values -/

@[simp] theorem leBytes_length (n v : Nat) : (leBytes n v).length = n := by
  induction n generalizing v with
  | zero => rfl
  | succ n ih => simp [leBytes, ih]

/-- The value of the n bytes of v (R5). -/
theorem leVal_leBytes (n v : Nat) : leVal (leBytes n v) = v % 256 ^ n := by
  induction n generalizing v with
  | zero => simp [leBytes, leVal, Nat.mod_one]
  | succ n ih =>
    simp only [leBytes, leVal, ih, BitVec.toNat_ofNat]
    rw [show 256 ^ (n + 1) = 256 * 256 ^ n by rw [Nat.pow_succ, Nat.mul_comm], Nat.mod_mul]

end Sys2Proof.Machine
end

