-- ==== Sys2Proof/Laws/State.lean ====
section
/-!
SUPPORT. What each update of the machine leaves: one lemma per field and update.
-/

namespace Sys2Proof.Machine

/-! ### Contexts, pairs and units -/

@[simp] theorem Mach.setCtx_cur (m : Mach) (c : Nat) (x : Ctx) : (m.setCtx c x).cur = m.cur := rfl
@[simp] theorem Mach.setCtx_ncur (m : Mach) (c : Nat) (x : Ctx) : (m.setCtx c x).ncur = m.ncur := rfl
@[simp] theorem Mach.setCtx_lag (m : Mach) (c : Nat) (x : Ctx) : (m.setCtx c x).lag = m.lag := rfl
@[simp] theorem Mach.setCtx_seen (m : Mach) (c : Nat) (x : Ctx) : (m.setCtx c x).seen = m.seen := rfl
@[simp] theorem Mach.setCtx_pairs (m : Mach) (c : Nat) (x : Ctx) : (m.setCtx c x).pairs = m.pairs := rfl
@[simp] theorem Mach.setCtx_nmus (m : Mach) (c : Nat) (x : Ctx) : (m.setCtx c x).nmus = m.nmus := rfl
@[simp] theorem Mach.setCtx_mem (m : Mach) (c : Nat) (x : Ctx) : (m.setCtx c x).mem = m.mem := rfl
@[simp] theorem Mach.setCtx_poison (m : Mach) (c : Nat) (x : Ctx) : (m.setCtx c x).poison = m.poison := rfl
@[simp] theorem Mach.setCtx_soft (m : Mach) (c : Nat) (x : Ctx) : (m.setCtx c x).soft = m.soft := rfl
@[simp] theorem Mach.setCtx_tbs (m : Mach) (c : Nat) (x : Ctx) : (m.setCtx c x).tbs = m.tbs := rfl
@[simp] theorem Mach.setCtx_chains (m : Mach) (c : Nat) (x : Ctx) : (m.setCtx c x).chains = m.chains := rfl
@[simp] theorem Mach.setCtx_parts (m : Mach) (c : Nat) (x : Ctx) : (m.setCtx c x).parts = m.parts := rfl
@[simp] theorem Mach.setCtx_gone (m : Mach) (c : Nat) (x : Ctx) : (m.setCtx c x).gone = m.gone := rfl
@[simp] theorem Mach.setCtx_windows (m : Mach) (c : Nat) (x : Ctx) : (m.setCtx c x).windows = m.windows := rfl
@[simp] theorem Mach.setCtx_hostRecs (m : Mach) (c : Nat) (x : Ctx) : (m.setCtx c x).hostRecs = m.hostRecs := rfl
@[simp] theorem Mach.setCtx_saved (m : Mach) (c : Nat) (x : Ctx) : (m.setCtx c x).saved = m.saved := rfl
@[simp] theorem Mach.setCtx_slots (m : Mach) (c : Nat) (x : Ctx) : (m.setCtx c x).slots = m.slots := rfl
@[simp] theorem Mach.setCtx_ready (m : Mach) (c : Nat) (x : Ctx) : (m.setCtx c x).ready = m.ready := rfl
@[simp] theorem Mach.setCtx_troupe (m : Mach) (c : Nat) (x : Ctx) : (m.setCtx c x).troupe = m.troupe := rfl
@[simp] theorem Mach.setCtx_links (m : Mach) (c : Nat) (x : Ctx) : (m.setCtx c x).links = m.links := rfl
@[simp] theorem Mach.setCtx_cycle (m : Mach) (c : Nat) (x : Ctx) : (m.setCtx c x).cycle = m.cycle := rfl
@[simp] theorem Mach.setCtx_clocks (m : Mach) (c : Nat) (x : Ctx) : (m.setCtx c x).clocks = m.clocks := rfl
@[simp] theorem Mach.setCtx_used (m : Mach) (c : Nat) (x : Ctx) : (m.setCtx c x).used = m.used := rfl
@[simp] theorem Mach.setCtx_iodCnt (m : Mach) (c : Nat) (x : Ctx) : (m.setCtx c x).iodCnt = m.iodCnt := rfl
@[simp] theorem Mach.setCtx_dieCnt (m : Mach) (c : Nat) (x : Ctx) : (m.setCtx c x).dieCnt = m.dieCnt := rfl
@[simp] theorem Mach.setCtx_pfaults (m : Mach) (c : Nat) (x : Ctx) : (m.setCtx c x).pfaults = m.pfaults := rfl
@[simp] theorem Mach.setCtx_acts (m : Mach) (c : Nat) (x : Ctx) : (m.setCtx c x).acts = m.acts := rfl
@[simp] theorem Mach.setCtx_pacts (m : Mach) (c : Nat) (x : Ctx) : (m.setCtx c x).pacts = m.pacts := rfl
@[simp] theorem Mach.setCtx_free (m : Mach) (c : Nat) (x : Ctx) : (m.setCtx c x).free = m.free := rfl

@[simp] theorem Mach.updCtx_cur (m : Mach) (c : Nat) (f : Ctx → Ctx) : (m.updCtx c f).cur = m.cur := rfl
@[simp] theorem Mach.updCtx_ncur (m : Mach) (c : Nat) (f : Ctx → Ctx) : (m.updCtx c f).ncur = m.ncur := rfl
@[simp] theorem Mach.updCtx_lag (m : Mach) (c : Nat) (f : Ctx → Ctx) : (m.updCtx c f).lag = m.lag := rfl
@[simp] theorem Mach.updCtx_seen (m : Mach) (c : Nat) (f : Ctx → Ctx) : (m.updCtx c f).seen = m.seen := rfl
@[simp] theorem Mach.updCtx_pairs (m : Mach) (c : Nat) (f : Ctx → Ctx) : (m.updCtx c f).pairs = m.pairs := rfl
@[simp] theorem Mach.updCtx_nmus (m : Mach) (c : Nat) (f : Ctx → Ctx) : (m.updCtx c f).nmus = m.nmus := rfl
@[simp] theorem Mach.updCtx_mem (m : Mach) (c : Nat) (f : Ctx → Ctx) : (m.updCtx c f).mem = m.mem := rfl
@[simp] theorem Mach.updCtx_poison (m : Mach) (c : Nat) (f : Ctx → Ctx) : (m.updCtx c f).poison = m.poison := rfl
@[simp] theorem Mach.updCtx_soft (m : Mach) (c : Nat) (f : Ctx → Ctx) : (m.updCtx c f).soft = m.soft := rfl
@[simp] theorem Mach.updCtx_tbs (m : Mach) (c : Nat) (f : Ctx → Ctx) : (m.updCtx c f).tbs = m.tbs := rfl
@[simp] theorem Mach.updCtx_chains (m : Mach) (c : Nat) (f : Ctx → Ctx) : (m.updCtx c f).chains = m.chains := rfl
@[simp] theorem Mach.updCtx_parts (m : Mach) (c : Nat) (f : Ctx → Ctx) : (m.updCtx c f).parts = m.parts := rfl
@[simp] theorem Mach.updCtx_gone (m : Mach) (c : Nat) (f : Ctx → Ctx) : (m.updCtx c f).gone = m.gone := rfl
@[simp] theorem Mach.updCtx_windows (m : Mach) (c : Nat) (f : Ctx → Ctx) : (m.updCtx c f).windows = m.windows := rfl
@[simp] theorem Mach.updCtx_hostRecs (m : Mach) (c : Nat) (f : Ctx → Ctx) : (m.updCtx c f).hostRecs = m.hostRecs := rfl
@[simp] theorem Mach.updCtx_saved (m : Mach) (c : Nat) (f : Ctx → Ctx) : (m.updCtx c f).saved = m.saved := rfl
@[simp] theorem Mach.updCtx_slots (m : Mach) (c : Nat) (f : Ctx → Ctx) : (m.updCtx c f).slots = m.slots := rfl
@[simp] theorem Mach.updCtx_ready (m : Mach) (c : Nat) (f : Ctx → Ctx) : (m.updCtx c f).ready = m.ready := rfl
@[simp] theorem Mach.updCtx_troupe (m : Mach) (c : Nat) (f : Ctx → Ctx) : (m.updCtx c f).troupe = m.troupe := rfl
@[simp] theorem Mach.updCtx_links (m : Mach) (c : Nat) (f : Ctx → Ctx) : (m.updCtx c f).links = m.links := rfl
@[simp] theorem Mach.updCtx_cycle (m : Mach) (c : Nat) (f : Ctx → Ctx) : (m.updCtx c f).cycle = m.cycle := rfl
@[simp] theorem Mach.updCtx_clocks (m : Mach) (c : Nat) (f : Ctx → Ctx) : (m.updCtx c f).clocks = m.clocks := rfl
@[simp] theorem Mach.updCtx_used (m : Mach) (c : Nat) (f : Ctx → Ctx) : (m.updCtx c f).used = m.used := rfl
@[simp] theorem Mach.updCtx_iodCnt (m : Mach) (c : Nat) (f : Ctx → Ctx) : (m.updCtx c f).iodCnt = m.iodCnt := rfl
@[simp] theorem Mach.updCtx_dieCnt (m : Mach) (c : Nat) (f : Ctx → Ctx) : (m.updCtx c f).dieCnt = m.dieCnt := rfl
@[simp] theorem Mach.updCtx_pfaults (m : Mach) (c : Nat) (f : Ctx → Ctx) : (m.updCtx c f).pfaults = m.pfaults := rfl
@[simp] theorem Mach.updCtx_acts (m : Mach) (c : Nat) (f : Ctx → Ctx) : (m.updCtx c f).acts = m.acts := rfl
@[simp] theorem Mach.updCtx_pacts (m : Mach) (c : Nat) (f : Ctx → Ctx) : (m.updCtx c f).pacts = m.pacts := rfl
@[simp] theorem Mach.updCtx_free (m : Mach) (c : Nat) (f : Ctx → Ctx) : (m.updCtx c f).free = m.free := rfl

@[simp] theorem Mach.upd_cur (m : Mach) (f : Ctx → Ctx) : (m.upd f).cur = m.cur := rfl
@[simp] theorem Mach.upd_ncur (m : Mach) (f : Ctx → Ctx) : (m.upd f).ncur = m.ncur := rfl
@[simp] theorem Mach.upd_lag (m : Mach) (f : Ctx → Ctx) : (m.upd f).lag = m.lag := rfl
@[simp] theorem Mach.upd_seen (m : Mach) (f : Ctx → Ctx) : (m.upd f).seen = m.seen := rfl
@[simp] theorem Mach.upd_pairs (m : Mach) (f : Ctx → Ctx) : (m.upd f).pairs = m.pairs := rfl
@[simp] theorem Mach.upd_nmus (m : Mach) (f : Ctx → Ctx) : (m.upd f).nmus = m.nmus := rfl
@[simp] theorem Mach.upd_mem (m : Mach) (f : Ctx → Ctx) : (m.upd f).mem = m.mem := rfl
@[simp] theorem Mach.upd_poison (m : Mach) (f : Ctx → Ctx) : (m.upd f).poison = m.poison := rfl
@[simp] theorem Mach.upd_soft (m : Mach) (f : Ctx → Ctx) : (m.upd f).soft = m.soft := rfl
@[simp] theorem Mach.upd_tbs (m : Mach) (f : Ctx → Ctx) : (m.upd f).tbs = m.tbs := rfl
@[simp] theorem Mach.upd_chains (m : Mach) (f : Ctx → Ctx) : (m.upd f).chains = m.chains := rfl
@[simp] theorem Mach.upd_parts (m : Mach) (f : Ctx → Ctx) : (m.upd f).parts = m.parts := rfl
@[simp] theorem Mach.upd_gone (m : Mach) (f : Ctx → Ctx) : (m.upd f).gone = m.gone := rfl
@[simp] theorem Mach.upd_windows (m : Mach) (f : Ctx → Ctx) : (m.upd f).windows = m.windows := rfl
@[simp] theorem Mach.upd_hostRecs (m : Mach) (f : Ctx → Ctx) : (m.upd f).hostRecs = m.hostRecs := rfl
@[simp] theorem Mach.upd_saved (m : Mach) (f : Ctx → Ctx) : (m.upd f).saved = m.saved := rfl
@[simp] theorem Mach.upd_slots (m : Mach) (f : Ctx → Ctx) : (m.upd f).slots = m.slots := rfl
@[simp] theorem Mach.upd_ready (m : Mach) (f : Ctx → Ctx) : (m.upd f).ready = m.ready := rfl
@[simp] theorem Mach.upd_troupe (m : Mach) (f : Ctx → Ctx) : (m.upd f).troupe = m.troupe := rfl
@[simp] theorem Mach.upd_links (m : Mach) (f : Ctx → Ctx) : (m.upd f).links = m.links := rfl
@[simp] theorem Mach.upd_cycle (m : Mach) (f : Ctx → Ctx) : (m.upd f).cycle = m.cycle := rfl
@[simp] theorem Mach.upd_clocks (m : Mach) (f : Ctx → Ctx) : (m.upd f).clocks = m.clocks := rfl
@[simp] theorem Mach.upd_used (m : Mach) (f : Ctx → Ctx) : (m.upd f).used = m.used := rfl
@[simp] theorem Mach.upd_iodCnt (m : Mach) (f : Ctx → Ctx) : (m.upd f).iodCnt = m.iodCnt := rfl
@[simp] theorem Mach.upd_dieCnt (m : Mach) (f : Ctx → Ctx) : (m.upd f).dieCnt = m.dieCnt := rfl
@[simp] theorem Mach.upd_pfaults (m : Mach) (f : Ctx → Ctx) : (m.upd f).pfaults = m.pfaults := rfl
@[simp] theorem Mach.upd_acts (m : Mach) (f : Ctx → Ctx) : (m.upd f).acts = m.acts := rfl
@[simp] theorem Mach.upd_pacts (m : Mach) (f : Ctx → Ctx) : (m.upd f).pacts = m.pacts := rfl
@[simp] theorem Mach.upd_free (m : Mach) (f : Ctx → Ctx) : (m.upd f).free = m.free := rfl

@[simp] theorem Mach.updPair_cur (m : Mach) (p : Nat) (f : Pair → Pair) : (m.updPair p f).cur = m.cur := rfl
@[simp] theorem Mach.updPair_ncur (m : Mach) (p : Nat) (f : Pair → Pair) : (m.updPair p f).ncur = m.ncur := rfl
@[simp] theorem Mach.updPair_lag (m : Mach) (p : Nat) (f : Pair → Pair) : (m.updPair p f).lag = m.lag := rfl
@[simp] theorem Mach.updPair_seen (m : Mach) (p : Nat) (f : Pair → Pair) : (m.updPair p f).seen = m.seen := rfl
@[simp] theorem Mach.updPair_ctxs (m : Mach) (p : Nat) (f : Pair → Pair) : (m.updPair p f).ctxs = m.ctxs := rfl
@[simp] theorem Mach.updPair_nmus (m : Mach) (p : Nat) (f : Pair → Pair) : (m.updPair p f).nmus = m.nmus := rfl
@[simp] theorem Mach.updPair_mem (m : Mach) (p : Nat) (f : Pair → Pair) : (m.updPair p f).mem = m.mem := rfl
@[simp] theorem Mach.updPair_poison (m : Mach) (p : Nat) (f : Pair → Pair) : (m.updPair p f).poison = m.poison := rfl
@[simp] theorem Mach.updPair_soft (m : Mach) (p : Nat) (f : Pair → Pair) : (m.updPair p f).soft = m.soft := rfl
@[simp] theorem Mach.updPair_tbs (m : Mach) (p : Nat) (f : Pair → Pair) : (m.updPair p f).tbs = m.tbs := rfl
@[simp] theorem Mach.updPair_chains (m : Mach) (p : Nat) (f : Pair → Pair) : (m.updPair p f).chains = m.chains := rfl
@[simp] theorem Mach.updPair_parts (m : Mach) (p : Nat) (f : Pair → Pair) : (m.updPair p f).parts = m.parts := rfl
@[simp] theorem Mach.updPair_gone (m : Mach) (p : Nat) (f : Pair → Pair) : (m.updPair p f).gone = m.gone := rfl
@[simp] theorem Mach.updPair_windows (m : Mach) (p : Nat) (f : Pair → Pair) : (m.updPair p f).windows = m.windows := rfl
@[simp] theorem Mach.updPair_hostRecs (m : Mach) (p : Nat) (f : Pair → Pair) : (m.updPair p f).hostRecs = m.hostRecs := rfl
@[simp] theorem Mach.updPair_saved (m : Mach) (p : Nat) (f : Pair → Pair) : (m.updPair p f).saved = m.saved := rfl
@[simp] theorem Mach.updPair_slots (m : Mach) (p : Nat) (f : Pair → Pair) : (m.updPair p f).slots = m.slots := rfl
@[simp] theorem Mach.updPair_ready (m : Mach) (p : Nat) (f : Pair → Pair) : (m.updPair p f).ready = m.ready := rfl
@[simp] theorem Mach.updPair_troupe (m : Mach) (p : Nat) (f : Pair → Pair) : (m.updPair p f).troupe = m.troupe := rfl
@[simp] theorem Mach.updPair_links (m : Mach) (p : Nat) (f : Pair → Pair) : (m.updPair p f).links = m.links := rfl
@[simp] theorem Mach.updPair_cycle (m : Mach) (p : Nat) (f : Pair → Pair) : (m.updPair p f).cycle = m.cycle := rfl
@[simp] theorem Mach.updPair_clocks (m : Mach) (p : Nat) (f : Pair → Pair) : (m.updPair p f).clocks = m.clocks := rfl
@[simp] theorem Mach.updPair_used (m : Mach) (p : Nat) (f : Pair → Pair) : (m.updPair p f).used = m.used := rfl
@[simp] theorem Mach.updPair_iodCnt (m : Mach) (p : Nat) (f : Pair → Pair) : (m.updPair p f).iodCnt = m.iodCnt := rfl
@[simp] theorem Mach.updPair_dieCnt (m : Mach) (p : Nat) (f : Pair → Pair) : (m.updPair p f).dieCnt = m.dieCnt := rfl
@[simp] theorem Mach.updPair_pfaults (m : Mach) (p : Nat) (f : Pair → Pair) : (m.updPair p f).pfaults = m.pfaults := rfl
@[simp] theorem Mach.updPair_acts (m : Mach) (p : Nat) (f : Pair → Pair) : (m.updPair p f).acts = m.acts := rfl
@[simp] theorem Mach.updPair_pacts (m : Mach) (p : Nat) (f : Pair → Pair) : (m.updPair p f).pacts = m.pacts := rfl
@[simp] theorem Mach.updPair_free (m : Mach) (p : Nat) (f : Pair → Pair) : (m.updPair p f).free = m.free := rfl

@[simp] theorem Mach.updNmu_cur (m : Mach) (n : Nat) (f : Nmu → Nmu) : (m.updNmu n f).cur = m.cur := rfl
@[simp] theorem Mach.updNmu_ncur (m : Mach) (n : Nat) (f : Nmu → Nmu) : (m.updNmu n f).ncur = m.ncur := rfl
@[simp] theorem Mach.updNmu_lag (m : Mach) (n : Nat) (f : Nmu → Nmu) : (m.updNmu n f).lag = m.lag := rfl
@[simp] theorem Mach.updNmu_seen (m : Mach) (n : Nat) (f : Nmu → Nmu) : (m.updNmu n f).seen = m.seen := rfl
@[simp] theorem Mach.updNmu_ctxs (m : Mach) (n : Nat) (f : Nmu → Nmu) : (m.updNmu n f).ctxs = m.ctxs := rfl
@[simp] theorem Mach.updNmu_pairs (m : Mach) (n : Nat) (f : Nmu → Nmu) : (m.updNmu n f).pairs = m.pairs := rfl
@[simp] theorem Mach.updNmu_mem (m : Mach) (n : Nat) (f : Nmu → Nmu) : (m.updNmu n f).mem = m.mem := rfl
@[simp] theorem Mach.updNmu_poison (m : Mach) (n : Nat) (f : Nmu → Nmu) : (m.updNmu n f).poison = m.poison := rfl
@[simp] theorem Mach.updNmu_soft (m : Mach) (n : Nat) (f : Nmu → Nmu) : (m.updNmu n f).soft = m.soft := rfl
@[simp] theorem Mach.updNmu_tbs (m : Mach) (n : Nat) (f : Nmu → Nmu) : (m.updNmu n f).tbs = m.tbs := rfl
@[simp] theorem Mach.updNmu_chains (m : Mach) (n : Nat) (f : Nmu → Nmu) : (m.updNmu n f).chains = m.chains := rfl
@[simp] theorem Mach.updNmu_parts (m : Mach) (n : Nat) (f : Nmu → Nmu) : (m.updNmu n f).parts = m.parts := rfl
@[simp] theorem Mach.updNmu_gone (m : Mach) (n : Nat) (f : Nmu → Nmu) : (m.updNmu n f).gone = m.gone := rfl
@[simp] theorem Mach.updNmu_windows (m : Mach) (n : Nat) (f : Nmu → Nmu) : (m.updNmu n f).windows = m.windows := rfl
@[simp] theorem Mach.updNmu_hostRecs (m : Mach) (n : Nat) (f : Nmu → Nmu) : (m.updNmu n f).hostRecs = m.hostRecs := rfl
@[simp] theorem Mach.updNmu_saved (m : Mach) (n : Nat) (f : Nmu → Nmu) : (m.updNmu n f).saved = m.saved := rfl
@[simp] theorem Mach.updNmu_slots (m : Mach) (n : Nat) (f : Nmu → Nmu) : (m.updNmu n f).slots = m.slots := rfl
@[simp] theorem Mach.updNmu_ready (m : Mach) (n : Nat) (f : Nmu → Nmu) : (m.updNmu n f).ready = m.ready := rfl
@[simp] theorem Mach.updNmu_troupe (m : Mach) (n : Nat) (f : Nmu → Nmu) : (m.updNmu n f).troupe = m.troupe := rfl
@[simp] theorem Mach.updNmu_links (m : Mach) (n : Nat) (f : Nmu → Nmu) : (m.updNmu n f).links = m.links := rfl
@[simp] theorem Mach.updNmu_cycle (m : Mach) (n : Nat) (f : Nmu → Nmu) : (m.updNmu n f).cycle = m.cycle := rfl
@[simp] theorem Mach.updNmu_clocks (m : Mach) (n : Nat) (f : Nmu → Nmu) : (m.updNmu n f).clocks = m.clocks := rfl
@[simp] theorem Mach.updNmu_used (m : Mach) (n : Nat) (f : Nmu → Nmu) : (m.updNmu n f).used = m.used := rfl
@[simp] theorem Mach.updNmu_iodCnt (m : Mach) (n : Nat) (f : Nmu → Nmu) : (m.updNmu n f).iodCnt = m.iodCnt := rfl
@[simp] theorem Mach.updNmu_dieCnt (m : Mach) (n : Nat) (f : Nmu → Nmu) : (m.updNmu n f).dieCnt = m.dieCnt := rfl
@[simp] theorem Mach.updNmu_pfaults (m : Mach) (n : Nat) (f : Nmu → Nmu) : (m.updNmu n f).pfaults = m.pfaults := rfl
@[simp] theorem Mach.updNmu_acts (m : Mach) (n : Nat) (f : Nmu → Nmu) : (m.updNmu n f).acts = m.acts := rfl
@[simp] theorem Mach.updNmu_pacts (m : Mach) (n : Nat) (f : Nmu → Nmu) : (m.updNmu n f).pacts = m.pacts := rfl
@[simp] theorem Mach.updNmu_free (m : Mach) (n : Nat) (f : Nmu → Nmu) : (m.updNmu n f).free = m.free := rfl

/-! ### Registers of a context -/

@[simp] theorem Ctx.trapRegs_status (x : Ctx) (f : Flt) (e : Word) (w : BitVec 32) : (x.trapRegs f e w).status = x.status := rfl
@[simp] theorem Ctx.trapRegs_task (x : Ctx) (f : Flt) (e : Word) (w : BitVec 32) : (x.trapRegs f e w).task = x.task := rfl
@[simp] theorem Ctx.trapRegs_pc (x : Ctx) (f : Flt) (e : Word) (w : BitVec 32) : (x.trapRegs f e w).pc = x.pc := rfl
@[simp] theorem Ctx.trapRegs_ir (x : Ctx) (f : Flt) (e : Word) (w : BitVec 32) : (x.trapRegs f e w).ir = x.ir := rfl
@[simp] theorem Ctx.trapRegs_x (x : Ctx) (f : Flt) (e : Word) (w : BitVec 32) : (x.trapRegs f e w).x = x.x := rfl
@[simp] theorem Ctx.trapRegs_sec (x : Ctx) (f : Flt) (e : Word) (w : BitVec 32) : (x.trapRegs f e w).sec = x.sec := rfl
@[simp] theorem Ctx.trapRegs_vregs (x : Ctx) (f : Flt) (e : Word) (w : BitVec 32) : (x.trapRegs f e w).vregs = x.vregs := rfl
@[simp] theorem Ctx.trapRegs_vrf (x : Ctx) (f : Flt) (e : Word) (w : BitVec 32) : (x.trapRegs f e w).vrf = x.vrf := rfl
@[simp] theorem Ctx.trapRegs_masks (x : Ctx) (f : Flt) (e : Word) (w : BitVec 32) : (x.trapRegs f e w).masks = x.masks := rfl
@[simp] theorem Ctx.trapRegs_acc (x : Ctx) (f : Flt) (e : Word) (w : BitVec 32) : (x.trapRegs f e w).acc = x.acc := rfl
@[simp] theorem Ctx.trapRegs_sreg (x : Ctx) (f : Flt) (e : Word) (w : BitVec 32) : (x.trapRegs f e w).sreg = x.sreg := rfl
@[simp] theorem Ctx.trapRegs_md (x : Ctx) (f : Flt) (e : Word) (w : BitVec 32) : (x.trapRegs f e w).md = x.md := rfl
@[simp] theorem Ctx.trapRegs_fmt (x : Ctx) (f : Flt) (e : Word) (w : BitVec 32) : (x.trapRegs f e w).fmt = x.fmt := rfl
@[simp] theorem Ctx.trapRegs_vl (x : Ctx) (f : Flt) (e : Word) (w : BitVec 32) : (x.trapRegs f e w).vl = x.vl := rfl
@[simp] theorem Ctx.trapRegs_vhwm (x : Ctx) (f : Flt) (e : Word) (w : BitVec 32) : (x.trapRegs f e w).vhwm = x.vhwm := rfl
@[simp] theorem Ctx.trapRegs_vdirty (x : Ctx) (f : Flt) (e : Word) (w : BitVec 32) : (x.trapRegs f e w).vdirty = x.vdirty := rfl
@[simp] theorem Ctx.trapRegs_adirty (x : Ctx) (f : Flt) (e : Word) (w : BitVec 32) : (x.trapRegs f e w).adirty = x.adirty := rfl
@[simp] theorem Ctx.trapRegs_score (x : Ctx) (f : Flt) (e : Word) (w : BitVec 32) : (x.trapRegs f e w).score = x.score := rfl
@[simp] theorem Ctx.trapRegs_vshare (x : Ctx) (f : Flt) (e : Word) (w : BitVec 32) : (x.trapRegs f e w).vshare = x.vshare := rfl
@[simp] theorem Ctx.trapRegs_vshareNext (x : Ctx) (f : Flt) (e : Word) (w : BitVec 32) : (x.trapRegs f e w).vshareNext = x.vshareNext := rfl
@[simp] theorem Ctx.trapRegs_srstep (x : Ctx) (f : Flt) (e : Word) (w : BitVec 32) : (x.trapRegs f e w).srstep = x.srstep := rfl
@[simp] theorem Ctx.trapRegs_thandler (x : Ctx) (f : Flt) (e : Word) (w : BitVec 32) : (x.trapRegs f e w).thandler = x.thandler := rfl
@[simp] theorem Ctx.trapRegs_wdog (x : Ctx) (f : Flt) (e : Word) (w : BitVec 32) : (x.trapRegs f e w).wdog = x.wdog := rfl
@[simp] theorem Ctx.trapRegs_banko (x : Ctx) (f : Flt) (e : Word) (w : BitVec 32) : (x.trapRegs f e w).banko = x.banko := rfl
@[simp] theorem Ctx.trapRegs_tscr (x : Ctx) (f : Flt) (e : Word) (w : BitVec 32) : (x.trapRegs f e w).tscr = x.tscr := rfl
@[simp] theorem Ctx.trapRegs_maxSec (x : Ctx) (f : Flt) (e : Word) (w : BitVec 32) : (x.trapRegs f e w).maxSec = x.maxSec := rfl
@[simp] theorem Ctx.trapRegs_maxVregs (x : Ctx) (f : Flt) (e : Word) (w : BitVec 32) : (x.trapRegs f e w).maxVregs = x.maxVregs := rfl
@[simp] theorem Ctx.trapRegs_accs (x : Ctx) (f : Flt) (e : Word) (w : BitVec 32) : (x.trapRegs f e w).accs = x.accs := rfl
@[simp] theorem Ctx.trapRegs_barriers (x : Ctx) (f : Flt) (e : Word) (w : BitVec 32) : (x.trapRegs f e w).barriers = x.barriers := rfl
@[simp] theorem Ctx.trapRegs_spBase (x : Ctx) (f : Flt) (e : Word) (w : BitVec 32) : (x.trapRegs f e w).spBase = x.spBase := rfl
@[simp] theorem Ctx.trapRegs_spSize (x : Ctx) (f : Flt) (e : Word) (w : BitVec 32) : (x.trapRegs f e w).spSize = x.spSize := rfl
@[simp] theorem Ctx.trapRegs_vq (x : Ctx) (f : Flt) (e : Word) (w : BitVec 32) : (x.trapRegs f e w).vq = x.vq := rfl
@[simp] theorem Ctx.trapRegs_stamp (x : Ctx) (f : Flt) (e : Word) (w : BitVec 32) : (x.trapRegs f e w).stamp = x.stamp := rfl
@[simp] theorem Ctx.trapRegs_undo (x : Ctx) (f : Flt) (e : Word) (w : BitVec 32) : (x.trapRegs f e w).undo = x.undo := rfl
@[simp] theorem Ctx.trapRegs_sb (x : Ctx) (f : Flt) (e : Word) (w : BitVec 32) : (x.trapRegs f e w).sb = x.sb := rfl
@[simp] theorem Ctx.trapRegs_sbNext (x : Ctx) (f : Flt) (e : Word) (w : BitVec 32) : (x.trapRegs f e w).sbNext = x.sbNext := rfl
@[simp] theorem Ctx.trapRegs_hold (x : Ctx) (f : Flt) (e : Word) (w : BitVec 32) : (x.trapRegs f e w).hold = x.hold := rfl
@[simp] theorem Ctx.trapRegs_copyq (x : Ctx) (f : Flt) (e : Word) (w : BitVec 32) : (x.trapRegs f e w).copyq = x.copyq := rfl
@[simp] theorem Ctx.trapRegs_copyStop (x : Ctx) (f : Flt) (e : Word) (w : BitVec 32) : (x.trapRegs f e w).copyStop = x.copyStop := rfl
@[simp] theorem Ctx.trapRegs_bankq (x : Ctx) (f : Flt) (e : Word) (w : BitVec 32) : (x.trapRegs f e w).bankq = x.bankq := rfl
@[simp] theorem Ctx.trapRegs_savedTrap (x : Ctx) (f : Flt) (e : Word) (w : BitVec 32) : (x.trapRegs f e w).savedTrap = x.savedTrap := rfl
@[simp] theorem Ctx.trapRegs_engFaults (x : Ctx) (f : Flt) (e : Word) (w : BitVec 32) : (x.trapRegs f e w).engFaults = x.engFaults := rfl
@[simp] theorem Ctx.trapRegs_youngCopies (x : Ctx) (f : Flt) (e : Word) (w : BitVec 32) : (x.trapRegs f e w).youngCopies = x.youngCopies := rfl
@[simp] theorem Ctx.trapRegs_halted (x : Ctx) (f : Flt) (e : Word) (w : BitVec 32) : (x.trapRegs f e w).halted = x.halted := rfl
@[simp] theorem Ctx.trapRegs_vstall (x : Ctx) (f : Flt) (e : Word) (w : BitVec 32) : (x.trapRegs f e w).vstall = x.vstall := rfl
@[simp] theorem Ctx.trapRegs_arrival (x : Ctx) (f : Flt) (e : Word) (w : BitVec 32) : (x.trapRegs f e w).arrival = x.arrival := rfl
@[simp] theorem Ctx.trapRegs_firstH (x : Ctx) (f : Flt) (e : Word) (w : BitVec 32) : (x.trapRegs f e w).firstH = x.firstH := rfl
@[simp] theorem Ctx.trapRegs_inH (x : Ctx) (f : Flt) (e : Word) (w : BitVec 32) : (x.trapRegs f e w).inH = x.inH := rfl
@[simp] theorem Ctx.trapRegs_lastAcq (x : Ctx) (f : Flt) (e : Word) (w : BitVec 32) : (x.trapRegs f e w).lastAcq = x.lastAcq := rfl
@[simp] theorem Ctx.trapRegs_wrote (x : Ctx) (f : Flt) (e : Word) (w : BitVec 32) : (x.trapRegs f e w).wrote = x.wrote := rfl
@[simp] theorem Ctx.trapRegs_snapReqs (x : Ctx) (f : Flt) (e : Word) (w : BitVec 32) : (x.trapRegs f e w).snapReqs = x.snapReqs := rfl
@[simp] theorem Ctx.trapRegs_joinWord (x : Ctx) (f : Flt) (e : Word) (w : BitVec 32) : (x.trapRegs f e w).joinWord = x.joinWord := rfl
@[simp] theorem Ctx.trapRegs_vrPoison (x : Ctx) (f : Flt) (e : Word) (w : BitVec 32) : (x.trapRegs f e w).vrPoison = x.vrPoison := rfl
@[simp] theorem Ctx.trapRegs_accPoison (x : Ctx) (f : Flt) (e : Word) (w : BitVec 32) : (x.trapRegs f e w).accPoison = x.accPoison := rfl

@[simp] theorem Ctx.vdone_status (x : Ctx) (e : VEnt) : (x.vdone e).status = x.status := rfl
@[simp] theorem Ctx.vdone_task (x : Ctx) (e : VEnt) : (x.vdone e).task = x.task := rfl
@[simp] theorem Ctx.vdone_pc (x : Ctx) (e : VEnt) : (x.vdone e).pc = x.pc := rfl
@[simp] theorem Ctx.vdone_ir (x : Ctx) (e : VEnt) : (x.vdone e).ir = x.ir := rfl
@[simp] theorem Ctx.vdone_x (x : Ctx) (e : VEnt) : (x.vdone e).x = x.x := rfl
@[simp] theorem Ctx.vdone_sec (x : Ctx) (e : VEnt) : (x.vdone e).sec = x.sec := rfl
@[simp] theorem Ctx.vdone_vregs (x : Ctx) (e : VEnt) : (x.vdone e).vregs = x.vregs := rfl
@[simp] theorem Ctx.vdone_vrf (x : Ctx) (e : VEnt) : (x.vdone e).vrf = x.vrf := rfl
@[simp] theorem Ctx.vdone_masks (x : Ctx) (e : VEnt) : (x.vdone e).masks = x.masks := rfl
@[simp] theorem Ctx.vdone_acc (x : Ctx) (e : VEnt) : (x.vdone e).acc = x.acc := rfl
@[simp] theorem Ctx.vdone_sreg (x : Ctx) (e : VEnt) : (x.vdone e).sreg = x.sreg := rfl
@[simp] theorem Ctx.vdone_md (x : Ctx) (e : VEnt) : (x.vdone e).md = x.md := rfl
@[simp] theorem Ctx.vdone_fmt (x : Ctx) (e : VEnt) : (x.vdone e).fmt = x.fmt := rfl
@[simp] theorem Ctx.vdone_vl (x : Ctx) (e : VEnt) : (x.vdone e).vl = x.vl := rfl
@[simp] theorem Ctx.vdone_vhwm (x : Ctx) (e : VEnt) : (x.vdone e).vhwm = x.vhwm := rfl
@[simp] theorem Ctx.vdone_vdirty (x : Ctx) (e : VEnt) : (x.vdone e).vdirty = x.vdirty := rfl
@[simp] theorem Ctx.vdone_adirty (x : Ctx) (e : VEnt) : (x.vdone e).adirty = x.adirty := rfl
@[simp] theorem Ctx.vdone_score (x : Ctx) (e : VEnt) : (x.vdone e).score = x.score := rfl
@[simp] theorem Ctx.vdone_vshare (x : Ctx) (e : VEnt) : (x.vdone e).vshare = x.vshare := rfl
@[simp] theorem Ctx.vdone_vshareNext (x : Ctx) (e : VEnt) : (x.vdone e).vshareNext = x.vshareNext := rfl
@[simp] theorem Ctx.vdone_srstep (x : Ctx) (e : VEnt) : (x.vdone e).srstep = x.srstep := rfl
@[simp] theorem Ctx.vdone_pdone (x : Ctx) (e : VEnt) : (x.vdone e).pdone = x.pdone := rfl
@[simp] theorem Ctx.vdone_pfmask (x : Ctx) (e : VEnt) : (x.vdone e).pfmask = x.pfmask := rfl
@[simp] theorem Ctx.vdone_fcause (x : Ctx) (e : VEnt) : (x.vdone e).fcause = x.fcause := rfl
@[simp] theorem Ctx.vdone_faddr (x : Ctx) (e : VEnt) : (x.vdone e).faddr = x.faddr := rfl
@[simp] theorem Ctx.vdone_finstr (x : Ctx) (e : VEnt) : (x.vdone e).finstr = x.finstr := rfl
@[simp] theorem Ctx.vdone_epc (x : Ctx) (e : VEnt) : (x.vdone e).epc = x.epc := rfl
@[simp] theorem Ctx.vdone_thandler (x : Ctx) (e : VEnt) : (x.vdone e).thandler = x.thandler := rfl
@[simp] theorem Ctx.vdone_wdog (x : Ctx) (e : VEnt) : (x.vdone e).wdog = x.wdog := rfl
@[simp] theorem Ctx.vdone_banko (x : Ctx) (e : VEnt) : (x.vdone e).banko = x.banko := rfl
@[simp] theorem Ctx.vdone_tscr (x : Ctx) (e : VEnt) : (x.vdone e).tscr = x.tscr := rfl
@[simp] theorem Ctx.vdone_maxSec (x : Ctx) (e : VEnt) : (x.vdone e).maxSec = x.maxSec := rfl
@[simp] theorem Ctx.vdone_maxVregs (x : Ctx) (e : VEnt) : (x.vdone e).maxVregs = x.maxVregs := rfl
@[simp] theorem Ctx.vdone_accs (x : Ctx) (e : VEnt) : (x.vdone e).accs = x.accs := rfl
@[simp] theorem Ctx.vdone_barriers (x : Ctx) (e : VEnt) : (x.vdone e).barriers = x.barriers := rfl
@[simp] theorem Ctx.vdone_spBase (x : Ctx) (e : VEnt) : (x.vdone e).spBase = x.spBase := rfl
@[simp] theorem Ctx.vdone_spSize (x : Ctx) (e : VEnt) : (x.vdone e).spSize = x.spSize := rfl
@[simp] theorem Ctx.vdone_stamp (x : Ctx) (e : VEnt) : (x.vdone e).stamp = x.stamp := rfl
@[simp] theorem Ctx.vdone_undo (x : Ctx) (e : VEnt) : (x.vdone e).undo = x.undo := rfl
@[simp] theorem Ctx.vdone_sb (x : Ctx) (e : VEnt) : (x.vdone e).sb = x.sb := rfl
@[simp] theorem Ctx.vdone_sbNext (x : Ctx) (e : VEnt) : (x.vdone e).sbNext = x.sbNext := rfl
@[simp] theorem Ctx.vdone_hold (x : Ctx) (e : VEnt) : (x.vdone e).hold = x.hold := rfl
@[simp] theorem Ctx.vdone_copyq (x : Ctx) (e : VEnt) : (x.vdone e).copyq = x.copyq := rfl
@[simp] theorem Ctx.vdone_copyStop (x : Ctx) (e : VEnt) : (x.vdone e).copyStop = x.copyStop := rfl
@[simp] theorem Ctx.vdone_bankq (x : Ctx) (e : VEnt) : (x.vdone e).bankq = x.bankq := rfl
@[simp] theorem Ctx.vdone_pendTrap (x : Ctx) (e : VEnt) : (x.vdone e).pendTrap = x.pendTrap := rfl
@[simp] theorem Ctx.vdone_savedTrap (x : Ctx) (e : VEnt) : (x.vdone e).savedTrap = x.savedTrap := rfl
@[simp] theorem Ctx.vdone_engFaults (x : Ctx) (e : VEnt) : (x.vdone e).engFaults = x.engFaults := rfl
@[simp] theorem Ctx.vdone_youngCopies (x : Ctx) (e : VEnt) : (x.vdone e).youngCopies = x.youngCopies := rfl
@[simp] theorem Ctx.vdone_sleep (x : Ctx) (e : VEnt) : (x.vdone e).sleep = x.sleep := rfl
@[simp] theorem Ctx.vdone_halted (x : Ctx) (e : VEnt) : (x.vdone e).halted = x.halted := rfl
@[simp] theorem Ctx.vdone_stall (x : Ctx) (e : VEnt) : (x.vdone e).stall = x.stall := rfl
@[simp] theorem Ctx.vdone_arrival (x : Ctx) (e : VEnt) : (x.vdone e).arrival = x.arrival := rfl
@[simp] theorem Ctx.vdone_firstH (x : Ctx) (e : VEnt) : (x.vdone e).firstH = x.firstH := rfl
@[simp] theorem Ctx.vdone_inH (x : Ctx) (e : VEnt) : (x.vdone e).inH = x.inH := rfl
@[simp] theorem Ctx.vdone_lastAcq (x : Ctx) (e : VEnt) : (x.vdone e).lastAcq = x.lastAcq := rfl
@[simp] theorem Ctx.vdone_counted (x : Ctx) (e : VEnt) : (x.vdone e).counted = x.counted := rfl
@[simp] theorem Ctx.vdone_half (x : Ctx) (e : VEnt) : (x.vdone e).half = x.half := rfl
@[simp] theorem Ctx.vdone_wrote (x : Ctx) (e : VEnt) : (x.vdone e).wrote = x.wrote := rfl
@[simp] theorem Ctx.vdone_snapReqs (x : Ctx) (e : VEnt) : (x.vdone e).snapReqs = x.snapReqs := rfl
@[simp] theorem Ctx.vdone_joinWord (x : Ctx) (e : VEnt) : (x.vdone e).joinWord = x.joinWord := rfl
@[simp] theorem Ctx.vdone_vrPoison (x : Ctx) (e : VEnt) : (x.vdone e).vrPoison = x.vrPoison := rfl
@[simp] theorem Ctx.vdone_accPoison (x : Ctx) (e : VEnt) : (x.vdone e).accPoison = x.accPoison := rfl

@[simp] theorem Ctx.retireUndo_status (x : Ctx)  : (x.retireUndo).status = x.status := rfl
@[simp] theorem Ctx.retireUndo_task (x : Ctx)  : (x.retireUndo).task = x.task := rfl
@[simp] theorem Ctx.retireUndo_pc (x : Ctx)  : (x.retireUndo).pc = x.pc := rfl
@[simp] theorem Ctx.retireUndo_ir (x : Ctx)  : (x.retireUndo).ir = x.ir := rfl
@[simp] theorem Ctx.retireUndo_x (x : Ctx)  : (x.retireUndo).x = x.x := rfl
@[simp] theorem Ctx.retireUndo_sec (x : Ctx)  : (x.retireUndo).sec = x.sec := rfl
@[simp] theorem Ctx.retireUndo_vregs (x : Ctx)  : (x.retireUndo).vregs = x.vregs := rfl
@[simp] theorem Ctx.retireUndo_vrf (x : Ctx)  : (x.retireUndo).vrf = x.vrf := rfl
@[simp] theorem Ctx.retireUndo_masks (x : Ctx)  : (x.retireUndo).masks = x.masks := rfl
@[simp] theorem Ctx.retireUndo_acc (x : Ctx)  : (x.retireUndo).acc = x.acc := rfl
@[simp] theorem Ctx.retireUndo_sreg (x : Ctx)  : (x.retireUndo).sreg = x.sreg := rfl
@[simp] theorem Ctx.retireUndo_md (x : Ctx)  : (x.retireUndo).md = x.md := rfl
@[simp] theorem Ctx.retireUndo_fmt (x : Ctx)  : (x.retireUndo).fmt = x.fmt := rfl
@[simp] theorem Ctx.retireUndo_vl (x : Ctx)  : (x.retireUndo).vl = x.vl := rfl
@[simp] theorem Ctx.retireUndo_vstart (x : Ctx)  : (x.retireUndo).vstart = x.vstart := rfl
@[simp] theorem Ctx.retireUndo_vcp (x : Ctx)  : (x.retireUndo).vcp = x.vcp := rfl
@[simp] theorem Ctx.retireUndo_vhwm (x : Ctx)  : (x.retireUndo).vhwm = x.vhwm := rfl
@[simp] theorem Ctx.retireUndo_vdirty (x : Ctx)  : (x.retireUndo).vdirty = x.vdirty := rfl
@[simp] theorem Ctx.retireUndo_adirty (x : Ctx)  : (x.retireUndo).adirty = x.adirty := rfl
@[simp] theorem Ctx.retireUndo_score (x : Ctx)  : (x.retireUndo).score = x.score := rfl
@[simp] theorem Ctx.retireUndo_vshare (x : Ctx)  : (x.retireUndo).vshare = x.vshare := rfl
@[simp] theorem Ctx.retireUndo_vshareNext (x : Ctx)  : (x.retireUndo).vshareNext = x.vshareNext := rfl
@[simp] theorem Ctx.retireUndo_srstep (x : Ctx)  : (x.retireUndo).srstep = x.srstep := rfl
@[simp] theorem Ctx.retireUndo_pdone (x : Ctx)  : (x.retireUndo).pdone = x.pdone := rfl
@[simp] theorem Ctx.retireUndo_pfmask (x : Ctx)  : (x.retireUndo).pfmask = x.pfmask := rfl
@[simp] theorem Ctx.retireUndo_fcause (x : Ctx)  : (x.retireUndo).fcause = x.fcause := rfl
@[simp] theorem Ctx.retireUndo_faddr (x : Ctx)  : (x.retireUndo).faddr = x.faddr := rfl
@[simp] theorem Ctx.retireUndo_finstr (x : Ctx)  : (x.retireUndo).finstr = x.finstr := rfl
@[simp] theorem Ctx.retireUndo_epc (x : Ctx)  : (x.retireUndo).epc = x.epc := rfl
@[simp] theorem Ctx.retireUndo_thandler (x : Ctx)  : (x.retireUndo).thandler = x.thandler := rfl
@[simp] theorem Ctx.retireUndo_wdog (x : Ctx)  : (x.retireUndo).wdog = x.wdog := rfl
@[simp] theorem Ctx.retireUndo_banko (x : Ctx)  : (x.retireUndo).banko = x.banko := rfl
@[simp] theorem Ctx.retireUndo_tscr (x : Ctx)  : (x.retireUndo).tscr = x.tscr := rfl
@[simp] theorem Ctx.retireUndo_maxSec (x : Ctx)  : (x.retireUndo).maxSec = x.maxSec := rfl
@[simp] theorem Ctx.retireUndo_maxVregs (x : Ctx)  : (x.retireUndo).maxVregs = x.maxVregs := rfl
@[simp] theorem Ctx.retireUndo_accs (x : Ctx)  : (x.retireUndo).accs = x.accs := rfl
@[simp] theorem Ctx.retireUndo_barriers (x : Ctx)  : (x.retireUndo).barriers = x.barriers := rfl
@[simp] theorem Ctx.retireUndo_spBase (x : Ctx)  : (x.retireUndo).spBase = x.spBase := rfl
@[simp] theorem Ctx.retireUndo_spSize (x : Ctx)  : (x.retireUndo).spSize = x.spSize := rfl
@[simp] theorem Ctx.retireUndo_vq (x : Ctx)  : (x.retireUndo).vq = x.vq := rfl
@[simp] theorem Ctx.retireUndo_stamp (x : Ctx)  : (x.retireUndo).stamp = x.stamp := rfl
@[simp] theorem Ctx.retireUndo_sb (x : Ctx)  : (x.retireUndo).sb = x.sb := rfl
@[simp] theorem Ctx.retireUndo_sbNext (x : Ctx)  : (x.retireUndo).sbNext = x.sbNext := rfl
@[simp] theorem Ctx.retireUndo_hold (x : Ctx)  : (x.retireUndo).hold = x.hold := rfl
@[simp] theorem Ctx.retireUndo_copyq (x : Ctx)  : (x.retireUndo).copyq = x.copyq := rfl
@[simp] theorem Ctx.retireUndo_copyStop (x : Ctx)  : (x.retireUndo).copyStop = x.copyStop := rfl
@[simp] theorem Ctx.retireUndo_bankq (x : Ctx)  : (x.retireUndo).bankq = x.bankq := rfl
@[simp] theorem Ctx.retireUndo_pendTrap (x : Ctx)  : (x.retireUndo).pendTrap = x.pendTrap := rfl
@[simp] theorem Ctx.retireUndo_savedTrap (x : Ctx)  : (x.retireUndo).savedTrap = x.savedTrap := rfl
@[simp] theorem Ctx.retireUndo_engFaults (x : Ctx)  : (x.retireUndo).engFaults = x.engFaults := rfl
@[simp] theorem Ctx.retireUndo_youngCopies (x : Ctx)  : (x.retireUndo).youngCopies = x.youngCopies := rfl
@[simp] theorem Ctx.retireUndo_sleep (x : Ctx)  : (x.retireUndo).sleep = x.sleep := rfl
@[simp] theorem Ctx.retireUndo_kept (x : Ctx)  : (x.retireUndo).kept = x.kept := rfl
@[simp] theorem Ctx.retireUndo_halted (x : Ctx)  : (x.retireUndo).halted = x.halted := rfl
@[simp] theorem Ctx.retireUndo_stall (x : Ctx)  : (x.retireUndo).stall = x.stall := rfl
@[simp] theorem Ctx.retireUndo_vstall (x : Ctx)  : (x.retireUndo).vstall = x.vstall := rfl
@[simp] theorem Ctx.retireUndo_arrival (x : Ctx)  : (x.retireUndo).arrival = x.arrival := rfl
@[simp] theorem Ctx.retireUndo_firstH (x : Ctx)  : (x.retireUndo).firstH = x.firstH := rfl
@[simp] theorem Ctx.retireUndo_inH (x : Ctx)  : (x.retireUndo).inH = x.inH := rfl
@[simp] theorem Ctx.retireUndo_lastAcq (x : Ctx)  : (x.retireUndo).lastAcq = x.lastAcq := rfl
@[simp] theorem Ctx.retireUndo_counted (x : Ctx)  : (x.retireUndo).counted = x.counted := rfl
@[simp] theorem Ctx.retireUndo_half (x : Ctx)  : (x.retireUndo).half = x.half := rfl
@[simp] theorem Ctx.retireUndo_wrote (x : Ctx)  : (x.retireUndo).wrote = x.wrote := rfl
@[simp] theorem Ctx.retireUndo_snapReqs (x : Ctx)  : (x.retireUndo).snapReqs = x.snapReqs := rfl
@[simp] theorem Ctx.retireUndo_joinWord (x : Ctx)  : (x.retireUndo).joinWord = x.joinWord := rfl
@[simp] theorem Ctx.retireUndo_vrPoison (x : Ctx)  : (x.retireUndo).vrPoison = x.vrPoison := rfl
@[simp] theorem Ctx.retireUndo_accPoison (x : Ctx)  : (x.retireUndo).accPoison = x.accPoison := rfl

@[simp] theorem Ctx.markSafe_status (x : Ctx) (e : VEnt) : (x.markSafe e).status = x.status := rfl
@[simp] theorem Ctx.markSafe_task (x : Ctx) (e : VEnt) : (x.markSafe e).task = x.task := rfl
@[simp] theorem Ctx.markSafe_pc (x : Ctx) (e : VEnt) : (x.markSafe e).pc = x.pc := rfl
@[simp] theorem Ctx.markSafe_ir (x : Ctx) (e : VEnt) : (x.markSafe e).ir = x.ir := rfl
@[simp] theorem Ctx.markSafe_x (x : Ctx) (e : VEnt) : (x.markSafe e).x = x.x := rfl
@[simp] theorem Ctx.markSafe_sec (x : Ctx) (e : VEnt) : (x.markSafe e).sec = x.sec := rfl
@[simp] theorem Ctx.markSafe_vregs (x : Ctx) (e : VEnt) : (x.markSafe e).vregs = x.vregs := rfl
@[simp] theorem Ctx.markSafe_vrf (x : Ctx) (e : VEnt) : (x.markSafe e).vrf = x.vrf := rfl
@[simp] theorem Ctx.markSafe_masks (x : Ctx) (e : VEnt) : (x.markSafe e).masks = x.masks := rfl
@[simp] theorem Ctx.markSafe_acc (x : Ctx) (e : VEnt) : (x.markSafe e).acc = x.acc := rfl
@[simp] theorem Ctx.markSafe_sreg (x : Ctx) (e : VEnt) : (x.markSafe e).sreg = x.sreg := rfl
@[simp] theorem Ctx.markSafe_md (x : Ctx) (e : VEnt) : (x.markSafe e).md = x.md := rfl
@[simp] theorem Ctx.markSafe_fmt (x : Ctx) (e : VEnt) : (x.markSafe e).fmt = x.fmt := rfl
@[simp] theorem Ctx.markSafe_vl (x : Ctx) (e : VEnt) : (x.markSafe e).vl = x.vl := rfl
@[simp] theorem Ctx.markSafe_vstart (x : Ctx) (e : VEnt) : (x.markSafe e).vstart = x.vstart := rfl
@[simp] theorem Ctx.markSafe_vcp (x : Ctx) (e : VEnt) : (x.markSafe e).vcp = x.vcp := rfl
@[simp] theorem Ctx.markSafe_vhwm (x : Ctx) (e : VEnt) : (x.markSafe e).vhwm = x.vhwm := rfl
@[simp] theorem Ctx.markSafe_vdirty (x : Ctx) (e : VEnt) : (x.markSafe e).vdirty = x.vdirty := rfl
@[simp] theorem Ctx.markSafe_adirty (x : Ctx) (e : VEnt) : (x.markSafe e).adirty = x.adirty := rfl
@[simp] theorem Ctx.markSafe_score (x : Ctx) (e : VEnt) : (x.markSafe e).score = x.score := rfl
@[simp] theorem Ctx.markSafe_vshare (x : Ctx) (e : VEnt) : (x.markSafe e).vshare = x.vshare := rfl
@[simp] theorem Ctx.markSafe_vshareNext (x : Ctx) (e : VEnt) : (x.markSafe e).vshareNext = x.vshareNext := rfl
@[simp] theorem Ctx.markSafe_srstep (x : Ctx) (e : VEnt) : (x.markSafe e).srstep = x.srstep := rfl
@[simp] theorem Ctx.markSafe_pdone (x : Ctx) (e : VEnt) : (x.markSafe e).pdone = x.pdone := rfl
@[simp] theorem Ctx.markSafe_pfmask (x : Ctx) (e : VEnt) : (x.markSafe e).pfmask = x.pfmask := rfl
@[simp] theorem Ctx.markSafe_fcause (x : Ctx) (e : VEnt) : (x.markSafe e).fcause = x.fcause := rfl
@[simp] theorem Ctx.markSafe_faddr (x : Ctx) (e : VEnt) : (x.markSafe e).faddr = x.faddr := rfl
@[simp] theorem Ctx.markSafe_finstr (x : Ctx) (e : VEnt) : (x.markSafe e).finstr = x.finstr := rfl
@[simp] theorem Ctx.markSafe_epc (x : Ctx) (e : VEnt) : (x.markSafe e).epc = x.epc := rfl
@[simp] theorem Ctx.markSafe_thandler (x : Ctx) (e : VEnt) : (x.markSafe e).thandler = x.thandler := rfl
@[simp] theorem Ctx.markSafe_wdog (x : Ctx) (e : VEnt) : (x.markSafe e).wdog = x.wdog := rfl
@[simp] theorem Ctx.markSafe_banko (x : Ctx) (e : VEnt) : (x.markSafe e).banko = x.banko := rfl
@[simp] theorem Ctx.markSafe_tscr (x : Ctx) (e : VEnt) : (x.markSafe e).tscr = x.tscr := rfl
@[simp] theorem Ctx.markSafe_maxSec (x : Ctx) (e : VEnt) : (x.markSafe e).maxSec = x.maxSec := rfl
@[simp] theorem Ctx.markSafe_maxVregs (x : Ctx) (e : VEnt) : (x.markSafe e).maxVregs = x.maxVregs := rfl
@[simp] theorem Ctx.markSafe_accs (x : Ctx) (e : VEnt) : (x.markSafe e).accs = x.accs := rfl
@[simp] theorem Ctx.markSafe_barriers (x : Ctx) (e : VEnt) : (x.markSafe e).barriers = x.barriers := rfl
@[simp] theorem Ctx.markSafe_spBase (x : Ctx) (e : VEnt) : (x.markSafe e).spBase = x.spBase := rfl
@[simp] theorem Ctx.markSafe_spSize (x : Ctx) (e : VEnt) : (x.markSafe e).spSize = x.spSize := rfl
@[simp] theorem Ctx.markSafe_stamp (x : Ctx) (e : VEnt) : (x.markSafe e).stamp = x.stamp := rfl
@[simp] theorem Ctx.markSafe_sb (x : Ctx) (e : VEnt) : (x.markSafe e).sb = x.sb := rfl
@[simp] theorem Ctx.markSafe_sbNext (x : Ctx) (e : VEnt) : (x.markSafe e).sbNext = x.sbNext := rfl
@[simp] theorem Ctx.markSafe_hold (x : Ctx) (e : VEnt) : (x.markSafe e).hold = x.hold := rfl
@[simp] theorem Ctx.markSafe_copyq (x : Ctx) (e : VEnt) : (x.markSafe e).copyq = x.copyq := rfl
@[simp] theorem Ctx.markSafe_copyStop (x : Ctx) (e : VEnt) : (x.markSafe e).copyStop = x.copyStop := rfl
@[simp] theorem Ctx.markSafe_bankq (x : Ctx) (e : VEnt) : (x.markSafe e).bankq = x.bankq := rfl
@[simp] theorem Ctx.markSafe_pendTrap (x : Ctx) (e : VEnt) : (x.markSafe e).pendTrap = x.pendTrap := rfl
@[simp] theorem Ctx.markSafe_savedTrap (x : Ctx) (e : VEnt) : (x.markSafe e).savedTrap = x.savedTrap := rfl
@[simp] theorem Ctx.markSafe_engFaults (x : Ctx) (e : VEnt) : (x.markSafe e).engFaults = x.engFaults := rfl
@[simp] theorem Ctx.markSafe_youngCopies (x : Ctx) (e : VEnt) : (x.markSafe e).youngCopies = x.youngCopies := rfl
@[simp] theorem Ctx.markSafe_sleep (x : Ctx) (e : VEnt) : (x.markSafe e).sleep = x.sleep := rfl
@[simp] theorem Ctx.markSafe_kept (x : Ctx) (e : VEnt) : (x.markSafe e).kept = x.kept := rfl
@[simp] theorem Ctx.markSafe_halted (x : Ctx) (e : VEnt) : (x.markSafe e).halted = x.halted := rfl
@[simp] theorem Ctx.markSafe_stall (x : Ctx) (e : VEnt) : (x.markSafe e).stall = x.stall := rfl
@[simp] theorem Ctx.markSafe_vstall (x : Ctx) (e : VEnt) : (x.markSafe e).vstall = x.vstall := rfl
@[simp] theorem Ctx.markSafe_arrival (x : Ctx) (e : VEnt) : (x.markSafe e).arrival = x.arrival := rfl
@[simp] theorem Ctx.markSafe_firstH (x : Ctx) (e : VEnt) : (x.markSafe e).firstH = x.firstH := rfl
@[simp] theorem Ctx.markSafe_inH (x : Ctx) (e : VEnt) : (x.markSafe e).inH = x.inH := rfl
@[simp] theorem Ctx.markSafe_lastAcq (x : Ctx) (e : VEnt) : (x.markSafe e).lastAcq = x.lastAcq := rfl
@[simp] theorem Ctx.markSafe_counted (x : Ctx) (e : VEnt) : (x.markSafe e).counted = x.counted := rfl
@[simp] theorem Ctx.markSafe_half (x : Ctx) (e : VEnt) : (x.markSafe e).half = x.half := rfl
@[simp] theorem Ctx.markSafe_wrote (x : Ctx) (e : VEnt) : (x.markSafe e).wrote = x.wrote := rfl
@[simp] theorem Ctx.markSafe_snapReqs (x : Ctx) (e : VEnt) : (x.markSafe e).snapReqs = x.snapReqs := rfl
@[simp] theorem Ctx.markSafe_joinWord (x : Ctx) (e : VEnt) : (x.markSafe e).joinWord = x.joinWord := rfl
@[simp] theorem Ctx.markSafe_vrPoison (x : Ctx) (e : VEnt) : (x.markSafe e).vrPoison = x.vrPoison := rfl
@[simp] theorem Ctx.markSafe_accPoison (x : Ctx) (e : VEnt) : (x.markSafe e).accPoison = x.accPoison := rfl

/-! ### Reading back -/

@[simp] theorem Mach.ctx_setCtx (m : Mach) (c : Nat) (x : Ctx) : (m.setCtx c x).ctx c = x := by
  simp [Mach.ctx, Mach.setCtx, tabGet]

theorem Mach.ctx_setCtx_ne (m : Mach) (c d : Nat) (x : Ctx) (h : d ≠ c) : (m.setCtx c x).ctx d = m.ctx d := by
  simp [Mach.ctx, Mach.setCtx, tabGet, tabFind_tabSet_ne _ _ _ _ h]

@[simp] theorem Mach.ctx_updCtx (m : Mach) (c : Nat) (f : Ctx → Ctx) : (m.updCtx c f).ctx c = f (m.ctx c) := by
  simp [Mach.updCtx]

theorem Mach.ctx_updCtx_ne (m : Mach) (c d : Nat) (f : Ctx → Ctx) (h : d ≠ c) : (m.updCtx c f).ctx d = m.ctx d :=
  m.ctx_setCtx_ne c d _ h

@[simp] theorem Mach.me_upd (m : Mach) (f : Ctx → Ctx) : (m.upd f).me = f m.me := by
  simp [Mach.me, Mach.upd]

theorem Mach.ctx_upd_ne (m : Mach) (d : Nat) (f : Ctx → Ctx) (h : d ≠ m.cur) : (m.upd f).ctx d = m.ctx d :=
  m.ctx_updCtx_ne _ _ _ h

@[simp] theorem Mach.pair_updPair (m : Mach) (p : Nat) (f : Pair → Pair) : (m.updPair p f).pair p = f (m.pair p) := by
  simp [Mach.pair, Mach.updPair, tabGet]

theorem Mach.pair_updPair_ne (m : Mach) (p q : Nat) (f : Pair → Pair) (h : q ≠ p) : (m.updPair p f).pair q = m.pair q := by
  simp [Mach.pair, Mach.updPair, tabGet, tabFind_tabSet_ne _ _ _ _ h]

@[simp] theorem Mach.ctx_updPair (m : Mach) (p c : Nat) (f : Pair → Pair) : (m.updPair p f).ctx c = m.ctx c := rfl

@[simp] theorem Mach.pair_updCtx (m : Mach) (c p : Nat) (f : Ctx → Ctx) : (m.updCtx c f).pair p = m.pair p := rfl

@[simp] theorem Mach.pair_upd (m : Mach) (p : Nat) (f : Ctx → Ctx) : (m.upd f).pair p = m.pair p := rfl

@[simp] theorem Mach.nmu_updNmu (m : Mach) (n : Nat) (f : Nmu → Nmu) : (m.updNmu n f).nmu n = f (m.nmu n) := by
  simp [Mach.nmu, Mach.updNmu, tabGet]

theorem Mach.nmu_updNmu_ne (m : Mach) (n k : Nat) (f : Nmu → Nmu) (h : k ≠ n) : (m.updNmu n f).nmu k = m.nmu k := by
  simp [Mach.nmu, Mach.updNmu, tabGet, tabFind_tabSet_ne _ _ _ _ h]

/-! ### X registers -/

/-- X0 reads zero (R92). -/
@[simp] theorem Ctx.rx_zero (x : Ctx) : x.rx 0 = 0 := rfl

/-- A write to X0 is discarded (R92). -/
@[simp] theorem Ctx.setX_zero (x : Ctx) (v : Word) : x.setX 0 v = x := rfl

/-- The log changes nothing but the log (R109). -/
@[simp] theorem Ctx.log_x (x : Ctx) (r : UReg) : (x.log r).x = x.x := by unfold Ctx.log; split <;> rfl

theorem vecAt_vecSet_same {α : Type} {n : Nat} (d : α) (v : Vector α n) (i : Nat) (a : α) (h : i < n) :
    vecAt d (vecSet v i a) i = a := by
  simp [vecAt, vecSet, List.getD_eq_getElem?_getD, h]

theorem vecAt_vecSet_ne {α : Type} {n : Nat} (d : α) (v : Vector α n) (i j : Nat) (a : α) (h : j ≠ i) :
    vecAt d (vecSet v i a) j = vecAt d v j := by
  simp [vecAt, vecSet, List.getD_eq_getElem?_getD, List.getElem?_set_ne (Ne.symm h)]

/-- A register reads as the value written to it. -/
theorem Ctx.rx_setX_same (x : Ctx) (n : Nat) (v : Word) (h : n ≠ 0) (hn : n < 32) : (x.setX n v).rx n = v := by
  simp [Ctx.rx, Ctx.setX, Ctx.wx, h, vecAt_vecSet_same _ _ _ _ hn]

/-- A write changes no other register. -/
theorem Ctx.rx_setX_ne (x : Ctx) (n k : Nat) (v : Word) (h : k ≠ n) : (x.setX n v).rx k = x.rx k := by
  unfold Ctx.rx Ctx.setX Ctx.wx
  split
  · rfl
  · split
    · rfl
    · simp [vecAt_vecSet_ne _ _ _ _ _ h]

/-! ### Event counters -/

/-- Counting events touches the pair alone (R212). -/
theorem Mach.count_eq (m : Mach) (c src n : Nat) : ∃ ps, m.count c src n = { m with pairs := ps } := by
  simp only [Mach.count]
  split
  · exact ⟨_, rfl⟩
  · exact ⟨m.pairs, rfl⟩

@[simp] theorem Mach.ctx_count (m : Mach) (c src n d : Nat) : (m.count c src n).ctx d = m.ctx d := by
  obtain ⟨ps, h⟩ := m.count_eq c src n
  rw [h]; rfl

@[simp] theorem Mach.count_cur (m : Mach) (c src n : Nat) : (m.count c src n).cur = m.cur := by
  obtain ⟨ps, h⟩ := m.count_eq c src n
  rw [h]

@[simp] theorem Mach.me_count (m : Mach) (c src n : Nat) : (m.count c src n).me = m.me := by
  simp [Mach.me]

@[simp] theorem Mach.count_mem (m : Mach) (c src n : Nat) : (m.count c src n).mem = m.mem := by
  obtain ⟨ps, h⟩ := m.count_eq c src n
  rw [h]

/-! ### Instructions -/

/-- Registers held off are held off in any larger set. -/
theorem Ctx.heldX_mono {x : Ctx} {rs qs : List Nat} (hq : ∀ r ∈ qs, r ∈ rs) (h : x.heldX qs = true) : x.heldX rs = true := by
  simp only [Ctx.heldX, Bool.or_eq_true, List.any_eq_true, Bool.and_eq_true, List.contains_eq_mem, decide_eq_true_eq] at h ⊢
  rcases h with ⟨e, he, r, hr, h0, h1⟩ | ⟨e, he, h0, h1⟩
  · exact .inl ⟨e, he, r, hr, h0, hq r h1⟩
  · exact .inr ⟨e, he, h0, hq _ h1⟩

/-- A context that may execute an instruction may execute one that names fewer registers. -/
theorem Ctx.ready_mono {x : Ctx} {rs qs : List Nat} (h : x.ready rs = true) (hq : ∀ r ∈ qs, r ∈ rs) : x.ready qs = true := by
  simp only [Ctx.ready, Bool.and_eq_true, Bool.not_eq_true'] at h ⊢
  exact ⟨⟨h.1.1, Bool.eq_false_iff.mpr fun k => by simp [heldX_mono hq k] at h⟩, h.2⟩

/-- A scalar-side instruction whose body succeeds completes. -/
theorem scalarStep_ok {rs : List Nat} {body : Body} {s : State} {m' : Mach} (hr : s.m.me.ready rs = true) (hb : body s.m = .ok m') :
    scalarStep rs body s = .next { s with m := m'.retire } := by
  simp [scalarStep, onMach, hr, hb, Mach.finish]

/-- A scalar-side instruction whose body faults takes its trap. -/
theorem scalarStep_trap {rs : List Nat} {body : Body} {s : State} {m' : Mach} {f : Flt} (hr : s.m.me.ready rs = true)
    (hb : body s.m = .error (.trap f m')) : scalarStep rs body s = .next { s with m := m'.scalarTrap f } := by
  simp [scalarStep, onMach, hr, hb, Mach.finish]

/-- A scalar-side instruction whose body waits leaves the machine its body leaves. -/
theorem scalarStep_wait {rs : List Nat} {body : Body} {s : State} {m' : Mach} (hr : s.m.me.ready rs = true)
    (hb : body s.m = .error (.wait m')) : scalarStep rs body s = .next { s with m := m' } := by
  simp [scalarStep, onMach, hr, hb, Mach.finish]

/-- A scalar-side instruction that names its next PC and succeeds. -/
theorem jumpStep_ok {rs : List Nat} {body : Mach → Except Stop (Mach × Word)} {s : State} {p : Mach × Word}
    (hr : s.m.me.ready rs = true) (hb : body s.m = .ok p) : jumpStep rs body s = .next { s with m := p.1.retireTo p.2 } := by
  simp [jumpStep, onMach, hr, hb, Mach.finishTo]

/-- A vector-side instruction that meets an empty queue and a free unit, whose walks wait for no buffered atomic, and whose operation succeeds,
completes at its dispatch. -/
theorem vectorStep_ok {run : VRun} {k : Nat} {rs : List Nat} {mk : Ctx → VOp} {s : State} {m' : Mach}
    (hr : s.m.me.ready rs = true) (hq : s.m.me.vq = []) (hl : s.m.lag = false)
    (hw : (mk s.m.me).walks = true → s.m.amoAhead s.m.cur = false)
    (hb : run (s.m.enqueue (s.m.me.vent k (mk s.m.me))).afterDispatch (s.m.me.vent k (mk s.m.me)) = .ok m') :
    vectorStep run k rs mk s = .next { s with m := m'.vcomplete s.m.cur (s.m.me.vent k (mk s.m.me)) } := by
  simp only [vectorStep, onMach, hr, hq, hl, Mach.dispatchNow, hb]
  have hf : ((s.m.me.vent k (mk s.m.me)).op.walks && s.m.amoAhead s.m.cur) = false := by
    cases h1 : (mk s.m.me).walks
    · exact congrArg (· && _) h1
    · simp [hw h1]
  simp [hf]

end Sys2Proof.Machine
end

