-- ==== Sys2Proof/Laws/Memory.lean ====
section
/-!
SUPPORT. The operations over memory keep its canonical form, and a byte reads as what was written to it.
-/

namespace Sys2Proof.Machine

/-- Reset memory lists nothing. -/
theorem reset_mem_wf : State.reset.m.mem.wf = true := rfl

/-- A property that every step of a fold keeps holds after it. -/
theorem foldl_keep {α β : Type} (p : β → Prop) (f : β → α → β) (l : List α) (b : β) (h : p b) (hf : ∀ b a, p b → p (f b a)) :
    p (l.foldl f b) := List.foldlRecOn l f h fun b hb a _ => hf b a hb

/-- Counting, and the corrections that a write makes, leave the memory as it is. -/
@[simp] theorem eccCount_mem (m : Mach) (d k : Nat) (b : Bool) : (m.eccCount d k b).mem = m.mem := by
  unfold Mach.eccCount
  repeat' split
  all_goals rfl

@[simp] theorem eccUnitRead_mem (m : Mach) (u : Nat) : (m.eccUnitRead u).mem = m.mem := by
  unfold Mach.eccUnitRead
  split <;> simp

@[simp] theorem eccKeys_mem (m : Mach) (k n : Nat) : (m.eccKeys k n).mem = m.mem := by
  unfold Mach.eccKeys
  split
  · rfl
  · exact foldl_keep (fun b : Mach => b.mem = m.mem) _ _ _ rfl fun b u hb => by simpa using hb

@[simp] theorem eccWrite_mem (m : Mach) (k n : Nat) : (m.eccWrite k n).mem = m.mem := by
  unfold Mach.eccWrite
  split <;> simp

@[simp] theorem poke_mem (m : Mach) (k : Nat) (bs : List Byte) : (m.poke k bs).mem = csetRange m.mem k bs := by simp [Mach.poke]

theorem poke_wf (m : Mach) (k : Nat) (bs : List Byte) (h : m.mem.wf = true) : (m.poke k bs).mem.wf = true := by
  rw [poke_mem]
  exact cellsWf_csetRange h k bs

theorem clobberTb_wf (m : Mach) (k n : Nat) (w : Place) (h : m.mem.wf = true) : (m.clobberTb k n w).mem.wf = true := by
  simp only [Mach.clobberTb]
  split
  · exact h
  · refine foldl_keep (fun m : Mach => m.mem.wf = true) _ _ _ h fun m t hm => ?_
    exact cellsWf_csetRange (w := 8) hm t ((List.range 16).map fun i => Config.freeByte (m.free + i))

theorem writePa_wf (m : Mach) (pa : Nat) (bs : List Byte) (w : Place) (h : m.mem.wf = true) : (m.writePa pa bs w).mem.wf = true := by
  unfold Mach.writePa
  refine foldl_keep (fun m : Mach => m.mem.wf = true) _ _ _ h fun m r hm => ?_
  split
  · exact clobberTb_wf _ _ _ _ (poke_wf _ _ _ hm)
  · exact hm

theorem write_wf (m : Mach) (l : Loc) (bs : List Byte) (w : Place) (h : m.mem.wf = true) : (m.write l bs w).mem.wf = true := by
  cases l with
  | pa a => exact writePa_wf m a bs w h
  | vr c off => exact h
  | acc c off => exact h

theorem writeSegs_wf (m : Mach) (ss : List (Loc × List Byte)) (w : Place) (h : m.mem.wf = true) : (m.writeSegs ss w).mem.wf = true :=
  foldl_keep (fun m : Mach => m.mem.wf = true) _ _ _ h fun m _ hm => write_wf m _ _ w hm

/-- A flit to another die carries a clock, and nothing of memory (R209). -/
@[simp] theorem carry_mem (m : Mach) (a b cls n : Nat) : (m.carry a b cls n).mem = m.mem := by
  simp only [Mach.carry, Mach.charge, Mach.hop, Mach.dieNote]
  repeat' split
  all_goals rfl

theorem tbUpd_wf (m : Mach) (c pa : Nat) (f : Tb → Tb) (h : m.mem.wf = true) : (m.tbUpd c pa f).mem.wf = true := by
  simp only [Mach.tbUpd]
  split
  · exact poke_wf _ _ _ (by simpa using h)
  · exact h

theorem tbInit_wf (m : Mach) (c pa n : Nat) (h : m.mem.wf = true) : (m.tbInit c pa n).mem.wf = true :=
  (tbUpd_wf m c pa (fun t => t.init n) h : _)

/-- An exit from power gating reads the parked row and writes none (R310). -/
@[simp] theorem parkOut_mem (m : Mach) (pc : Nat) : (m.parkOut pc).mem = m.mem := by
  simp only [Mach.parkOut]
  split
  · rfl
  · split <;> simp [Mach.updNmu]

@[simp] theorem wake_mem (m : Mach) (ss : List (Loc × Nat)) : (m.wake ss).mem = m.mem := by
  simp only [Mach.wake]
  split
  · rfl
  · refine foldl_keep (fun b : Mach => b.mem = m.mem) _ _ _ rfl fun b s hb => ?_
    split
    · refine foldl_keep (fun b : Mach => b.mem = m.mem) _ _ _ hb fun b r hb => ?_
      split
      · split
        · simpa using hb
        · exact hb
      · exact hb
    · exact hb

theorem pokePa_wf (m : Mach) (pa : Nat) (bs : List Byte) (h : m.mem.wf = true) : (m.pokePa pa bs).mem.wf = true := by
  unfold Mach.pokePa
  refine foldl_keep (fun m : Mach => m.mem.wf = true) _ _ _ (by simpa using h) fun m r hm => ?_
  split
  · exact poke_wf _ _ _ hm
  · exact hm

theorem zeroPa_wf (m : Mach) (pa n : Nat) (h : m.mem.wf = true) : (m.zeroPa pa n).mem.wf = true := by
  unfold Mach.zeroPa
  refine foldl_keep (fun m : Mach => m.mem.wf = true) _ _ _ h fun m r hm => ?_
  split
  · exact cellsWf_cclear hm _ _
  · exact hm

theorem clearScratch_wf (m : Mach) (p lo n : Nat) (h : m.mem.wf = true) : (m.clearScratch p lo n).mem.wf = true :=
  cellsWf_cclear h _ _

/-- A byte of memory after a write at a key (R5). -/
theorem poke_byte (m : Mach) (k : Nat) (bs : List Byte) (h : m.mem.wf = true) (j : Nat) :
    cget (m.poke k bs).mem j = if k ≤ j ∧ j < k + bs.length then bs.getD (j - k) 0 else cget m.mem j := by
  rw [poke_mem]
  exact cget_csetRange h k bs j

/-- A write that meets no transaction barrier in use changes the bytes it names. -/
theorem clobberTb_none (m : Mach) (k n : Nat) (w : Place) (h : m.tbs = []) (hn : ∀ e ∈ m.ctxs, m.tbNamed w e.1 = []) :
    m.clobberTb k n w = m := by
  have : (m.ctxs.flatMap fun e => m.tbNamed w e.1) = [] := List.flatMap_eq_nil_iff.mpr hn
  simp [Mach.clobberTb, h, this]

end Sys2Proof.Machine
end

