-- ==== Sys2Proof/Laws/Scalar.lean ====
section
/-!
SUPPORT. What the shared shapes of the scalar instructions do.
-/

namespace Sys2Proof.Machine

theorem State.ready_iff (s : State) (rs : List (BitVec 5)) : s.ready rs ↔ s.m.me.ready (rs.map BitVec.toNat) = true := Iff.rfl

/-- Two sources, one result. -/
theorem alu2_ok {f : Word → Word → Word} {d a b : BitVec 5} {s : State} (h : s.ready [d, a, b]) :
    alu2 f d a b s = .next (s.wrote d (f (s.x a) (s.x b))) := scalarStep_ok h rfl

/-- One source, one result. -/
theorem alu1_ok {f : Word → Word} {d a : BitVec 5} {s : State} (h : s.ready [d, a]) :
    alu1 f d a s = .next (s.wrote d (f (s.x a))) := scalarStep_ok h rfl

/-- An F32 result. -/
theorem fpu_ok {f : Nat → Word → Word → Nat} {d a b : BitVec 5} {s : State} (h : s.ready [d, a, b]) (hm : s.rm < 5) :
    fpu f d a b s = .next (s.wrote d (.ofNat 64 (f s.rm (s.x a) (s.x b)))) := by
  have hm' : ¬ 5 ≤ s.m.me.mdvRm := by unfold State.rm at hm; omega
  exact scalarStep_ok h (by simp only [hm', if_false]; rfl)

/-- The mode trap of R330. -/
theorem fpu_trap {f : Nat → Word → Word → Nat} {d a b : BitVec 5} {s : State} (h : s.ready [d, a, b]) (hm : 5 ≤ s.rm) :
    fpu f d a b s = .next (s.trapped (fltConfig 0x11 0)) :=
  scalarStep_trap h (by simp only [show 5 ≤ s.m.me.mdvRm from hm, if_true]; rfl)

@[simp] theorem Mach.retireTo_x (m : Mach) (pc : Word) : (m.retireTo pc).me.x = m.me.x := by simp [Mach.retireTo]

@[simp] theorem Mach.retire_x (m : Mach) : m.retire.me.x = m.me.x := by simp [Mach.retire]

/-- The registers after an instruction that writes Xd. -/
theorem State.wrote_x (s : State) (d k : BitVec 5) (v : Word) : (s.wrote d v).x k = (s.m.me.setX d.toNat v).rx k.toNat := by
  simp only [State.x, State.wrote, Ctx.rx, Mach.retire_x, Mach.setX, Mach.me_upd]

end Sys2Proof.Machine
end

