-- ==== Sys2Proof/Laws/Vector.lean ====
section
/-!
SUPPORT. What a vector-side instruction meets when it is dispatched into an empty queue: its checks, its operands, its rows.
-/

namespace Sys2Proof.Machine

/-! ### The dispatched machine -/

theorem State.sent_me (s : State) (k : Nat) (o : VOp) :
    (s.sent k o).me = { s.m.me with
      vq := s.m.me.vq ++ [s.m.me.vent k o], vcp := (match s.m.me.vq with | [] => s.m.me.pc | _ => s.m.me.vcp),
      pc := s.m.me.pc + 4, firstH := false, stall := 0, stamp := s.m.me.stamp + 1,
      arrival := if s.m.me.inH = 0 then none else s.m.me.arrival } := by
  simp only [State.sent, Mach.enqueue, Mach.afterDispatch, Mach.me_upd, Ctx.vent, Ctx.capture]
  all_goals rfl

@[simp] theorem State.sent_vrf (s : State) (k : Nat) (o : VOp) : (s.sent k o).me.vrf = s.m.me.vrf := by simp [State.sent_me]
@[simp] theorem State.sent_masks (s : State) (k : Nat) (o : VOp) : (s.sent k o).me.masks = s.m.me.masks := by simp [State.sent_me]
@[simp] theorem State.sent_mem (s : State) (k : Nat) (o : VOp) : (s.sent k o).mem = s.m.mem := rfl
@[simp] theorem State.sent_cur (s : State) (k : Nat) (o : VOp) : (s.sent k o).cur = s.m.cur := rfl

theorem State.sent_row (s : State) (k : Nat) (o : VOp) (v n e : Nat) : (s.sent k o).me.row v n e = s.m.me.row v n e := by
  simp [Ctx.row, Ctx.vread]

theorem State.sent_active (s : State) (k : Nat) (o : VOp) (c : Cap) (i : Nat) :
    (s.sent k o).me.active c i = s.m.me.active c i := by
  simp [Ctx.active, Ctx.guard, State.sent_me]

theorem State.sent_actives (s : State) (k : Nat) (o : VOp) (c : Cap) :
    (s.sent k o).me.actives c = (List.range c.vl).map fun i => s.m.me.active c i := by
  simp [Ctx.actives, State.sent_active]

/-! ### The checks -/

theorem Ctx.checkRegs_ok {x : Ctx} {rs : List (Nat × Nat)} (h : ∀ r ∈ rs, x.regOk r.1 r.2 = true) : x.checkRegs rs = .ok () := by
  have : rs.find? (fun r => !x.regOk r.1 r.2) = none := by
    simp only [List.find?_eq_none, Bool.not_eq_true', Bool.not_eq_false]
    exact h
  simp [Ctx.checkRegs, this]

theorem State.sent_regOk (s : State) (k : Nat) (o : VOp) (v g : Nat) : (s.sent k o).me.regOk v g = s.m.me.regOk v g := by
  simp only [Ctx.regOk, Ctx.nregs, State.sent_me]
  rfl

theorem State.sent_maxvlOf (s : State) (k : Nat) (o : VOp) (e : Nat) : (s.sent k o).me.maxvlOf e = s.m.me.maxvlOf e := by
  simp [Ctx.maxvlOf, State.sent_me]

/-- The checks of an instruction of MDV pass. -/
theorem State.vPre_ok {s : State} {o : VOp} {k : Cap} {regs : List (Nat × Nat)} {sizes : List Nat} {bad : Bool}
    {fmts : List (Nat × Nat)} (hr : ∀ r ∈ regs, s.m.me.regOk r.1 r.2 = true) (hm : s.Modes k sizes) (hb : bad = false)
    (hf : ∀ f ∈ fmts, fmtValid f.1 = true) : vPre (s.sent mdv o).me k regs sizes bad fmts = .ok () := by
  have h1 : sizes.any (fun e => decide (s.m.me.maxvlOf e < k.vl)) = false := by
    simp only [List.any_eq_false, decide_eq_true_eq, Nat.not_lt]; exact hm.fits
  have h2 : fmts.find? (fun f => !fmtValid f.1) = none := by
    simp only [List.find?_eq_none, Bool.not_eq_true', Bool.not_eq_false]; exact hf
  have h3 : ¬ 6 ≤ k.rm := by have := hm.round; omega
  have h0 := Ctx.checkRegs_ok (x := (s.sent mdv o).me) (rs := regs) (by simpa [State.sent_regOk] using hr)
  simp only [vPre, vPreAt, h0, hm.type, State.sent_maxvlOf, h1, hb, h3, h2]
  simp

/-- No wait: no outstanding copy, no buffered window store. -/
theorem State.vWait_ok {s : State} {rs : List (BitVec 5)} (h : s.Vector rs) (k : Nat) (o : VOp) (e : VEnt) (regs : List (Nat × Nat)) :
    vWait (s.sent k o) e regs = .ok () := by
  have h1 : (s.sent k o).me.scored regs = false := by
    simp only [Ctx.scored, List.any_eq_false]
    intro r _ 
    simp [State.sent_me, h.score]
  have h2 : (s.sent k o).me.windowStores e.stamp = false := by
    simp [Ctx.windowStores, State.sent_me, h.stores]
  simp [vWait, h1, h2]

theorem State.srcPoison_ok {s : State} {rs : List (BitVec 5)} (h : s.Vector rs) (k : Nat) (o : VOp) (c : Cap)
    (srcs : List (Nat × Nat × Nat)) : srcPoison (s.sent k o).me c srcs = .ok () := by
  have hv : (s.sent k o).me.vrPoison = [] := by simp [State.sent_me, h.clean]
  have : (srcs.findSome? fun t => ((s.sent k o).me.poisonRow t.1 t.2.1 c.vl t.2.2).map fun i => fltRegPoison (s.sent k o).me t.1 i t.2.2) = none := by
    simp [List.findSome?_eq_none_iff, Ctx.poisonRow, hv]
  simp [srcPoison, this]

/-- All that comes before the elements of an instruction of MDV. -/
theorem State.vStart_ok {s : State} {rs : List (BitVec 5)} (h : s.Vector rs) {o : VOp} {e : VEnt} {k : Cap} (he : e.cap = k)
    {regs : List (Nat × Nat)} {sizes : List Nat} {bad : Bool} {fmts : List (Nat × Nat)} {srcs : List (Nat × Nat × Nat)}
    (hr : ∀ r ∈ regs, s.m.me.regOk r.1 r.2 = true) (hm : s.Modes k sizes) (hb : bad = false)
    (hf : ∀ f ∈ fmts, fmtValid f.1 = true) : vStart (s.sent mdv o) e regs sizes bad fmts srcs = .ok () := by
  subst he
  simp only [vStart, State.vPre_ok hr hm hb hf, orRaise, State.vWait_ok h, State.srcPoison_ok h, bind, Except.bind]

theorem Cap.fmts_ok {s : State} {k : Cap} {sizes : List Nat} (h : s.Modes k sizes) : ∀ f ∈ k.fmts, fmtValid f.1 = true := by
  intro f hf
  unfold Cap.fmts at hf
  split at hf
  · rename_i ht; simp only [List.mem_singleton] at hf; subst hf; exact h.fmt ht
  · simp at hf

/-! ### Rows -/

@[simp] theorem chunks_length (e n : Nat) (bs : List Byte) : (chunks e n bs).length = n := by
  induction n generalizing bs with
  | zero => rfl
  | succ n ih => simp [chunks, ih]

@[simp] theorem Ctx.row_length (x : Ctx) (v n e : Nat) : (x.row v n e).length = n := by simp [Ctx.row]

/-- A masked row, by position. -/
theorem maskRow_eq (n : Nat) (act : Nat → Bool) (bits : Nat) (row : List Nat) (h : row.length = n) :
    maskRow ((List.range n).map act) bits row = (List.range n).map fun i => if act i then some (nthD 0 row i % 2 ^ bits) else none := by
  subst h
  refine List.ext_getElem (by simp [maskRow]) fun i h1 h2 => ?_
  simp only [List.length_map, List.length_range] at h2
  simp [maskRow, nthD, List.getD_eq_getElem?_getD, h2]

theorem zipRows_range (n : Nat) (f : Nat → Nat → Nat) (p q : Nat → Option Nat) :
    zipRows f ((List.range n).map p) ((List.range n).map q) = (List.range n).map fun i => match p i, q i with
      | some u, some v => some (f u v)
      | _, _ => none := by
  refine List.ext_getElem (by simp [zipRows]) fun i h1 h2 => ?_
  simp only [zipRows, List.getElem_map, List.getElem_zip, List.getElem_range]
  all_goals rfl

theorem zipVals_range (n : Nat) (f : XV → XV → XV) (p q : Nat → Option XV) :
    zipVals f ((List.range n).map p) ((List.range n).map q) = (List.range n).map fun i => match p i, q i with
      | some u, some v => some (f u v)
      | _, _ => none := by
  refine List.ext_getElem (by simp [zipVals]) fun i h1 h2 => ?_
  simp only [zipVals, List.getElem_map, List.getElem_zip, List.getElem_range]
  all_goals rfl

/-- A vector-side instruction that runs at its dispatch. -/
theorem State.vector_ok {s : State} {run : VRun} {k : Nat} {rs : List (BitVec 5)} {qs : List Nat} {mk : Ctx → VOp} {m' : Mach}
    (h : s.Vector rs) (hq : ∀ r ∈ qs, r ∈ rs.map BitVec.toNat) (hb : run (s.sent k (mk s.m.me)) (s.m.me.vent k (mk s.m.me)) = .ok m') :
    vectorStep run k qs mk s = .next (s.vdid k (mk s.m.me) m') :=
  vectorStep_ok (Ctx.ready_mono h.ready hq) h.empty h.unit_ (fun _ => by
    have hs : (s.m.ctx s.m.cur).sb = [] := h.stores
    simp [Mach.amoAhead, hs]) hb

end Sys2Proof.Machine
end

