-- ==== Sys2Proof/Tests/Slice0.lean ====
section
/-!
SUPPORT. Tests of the model: terms that the well-formedness checks refuse, words written out from the manual's encodings, small
steps with results taken from the manual, and for every statement of Certificates/Slice0/Obligations.lean states and operands that
meet its hypotheses.
-/

namespace Sys2Proof.Tests

open Sys2Proof Sys2Proof.Machine

noncomputable section

set_option Elab.async false

/-! ### Well-formedness: one ill-formed term for each check -/

/-- R105: 0x3FF names no CSR. -/
theorem test_wf_csrr : (Instr.csrr 5 0x3FF).wf = false := by decide +kernel

/-- R105: ARCHID is read-only. -/
theorem test_wf_csrw : (Instr.csrw 6 0x000).wf = false := by decide +kernel

/-- R318: a guard code between keep and the masks is reserved, here 0x30. -/
theorem test_wf_mode : (Instr.modeField 0 0x30 1 5 3 7 7).wf = false := by decide +kernel

/-- R361: source type code 14 is reserved. -/
theorem test_wf_vcvt : (Instr.vcvt 1 2 14).wf = false := by decide +kernel

/-- R411: the two register pairs of `vsint` are distinct. -/
theorem test_wf_vsint : (Instr.vsint 9 3 3).wf = false := by decide +kernel

/-- R419: a queue set of 0 is reserved. -/
theorem test_wf_qfence : (Instr.qfence 0).wf = false := by decide +kernel

/-- The checks accept well-formed terms. -/
theorem test_wf_accepts : (Instr.csrr 5 0x003).wf = true ∧ (Instr.modeField 0 63 1 5 3 7 7).wf = true ∧ (Instr.vsint 9 2 3).wf = true ∧
    (Instr.qfence 5).wf = true := by decide +kernel

/-! ### Decoding: words that the manual writes out (the assembly line stands in the comment) -/

/-- R327 to R330: sub x5,x6,x7; sel; clz x3,x4; slli x5,x6,3; lui x5,0x12345; fadd.s; fcvt.l.s. -/
theorem test_decode_scalar : decode 0x011461C1 = .ok (.sub 5 6 7) ∧
    decode 0x011461D5 = .ok (.sel 5 6 7) ∧
    decode 0x010C4016 = .ok (.clz 3 4) ∧
    decode 0x06146003 = .ok (.slli 5 6 3) ∧
    decode 0x0B152345 = .ok (.lui 5 0x12345) ∧
    decode 0x0D1461C0 = .ok (.faddS 5 6 7) ∧
    decode 0x0D146007 = .ok (.fcvtLS 5 6) := by decide +kernel

/-- R331: ld.d x5,[x4+16]; st.w x7,[x2-4]. -/
theorem test_decode_memory : decode 0x16144010 = .ok (.ldD 5 4 16) ∧
    decode 0x1A1C2FFC = .ok (.stW 7 2 0xFFC) := by decide +kernel

/-- R336, R337, R348: jalr x0,x31,0; a call over 0x200 bytes; loop x9 over 5 words; j back 4 words; texit x10. -/
theorem test_decode_control : decode 0x2801F000 = .ok (.jalr 0 31 0) ∧
    decode 0x27000080 = .ok (.call 0x80) ∧
    decode 0x29240005 = .ok (.loop 9 5) ∧
    decode 0x26FFFFFC = .ok (.j 0xFFFFFC) ∧
    decode 0x3E00A000 = .ok (.texit 10) := by decide +kernel

/-- R339 to R346: csrr x5,vl; csrw wdog,x6; mode mdm,tid=9; vcfg x5,6,32; vsetvl x5,x6; mcnt x5,m3; mfirst x5,m3. -/
theorem test_decode_csr : decode 0x30140003 = .ok (.csrr 5 3) ∧
    decode 0x31006011 = .ok (.wdogWrite 6) ∧
    decode 0x34400009 = .ok (.modeTid 1 9) ∧
    decode 0x35140026 = .ok (.vcfg 5 2 6) ∧
    decode 0x36146000 = .ok (.vsetvl 5 6) ∧
    decode 0x37143000 = .ok (.mcnt 5 3) ∧
    decode 0x37143002 = .ok (.mfirst 5 3) := by decide +kernel

/-- R355 to R373: vadd v4,v5,v6; vadd.x v4,v5,x6; vfma v8,v2,v3; vexp2 v3,v4; vcvt v2,v1,bf16; vcmplt m2,v1,v3; vsel
v7,v1,v2,m3; vsplat v3,x7; vextr x9,v4,x5; vslideup v3,v2,x5; vstep v1; vredsum v9,v4; vdot v12,v1,v2; vsset s2,x7; vsget x9,s2;
vcompr.24 v6,v7,v5; mand m1,m2,m3; mset m4. -/
theorem test_decode_vector : decode 0x40105180 = .ok (.vadd 4 5 6) ∧
    decode 0x41105180 = .ok (.vaddX 4 5 6) ∧
    decode 0x422020C0 = .ok (.vfma 8 2 3) ∧
    decode 0x430C4006 = .ok (.vexp2 3 4) ∧
    decode 0x44081040 = .ok (.vcvt 2 1 1) ∧
    decode 0x450810C2 = .ok (.vcmplt 2 1 3) ∧
    decode 0x471C1083 = .ok (.vsel 7 1 2 3) ∧
    decode 0x480C7000 = .ok (.vsplat 3 7) ∧
    decode 0x48244141 = .ok (.vextr 9 4 5) ∧
    decode 0x480C2142 = .ok (.vslideup 3 2 5) ∧
    decode 0x48040005 = .ok (.vstep 1) ∧
    decode 0x49244000 = .ok (.vredsum 9 4) ∧
    decode 0x4A301080 = .ok (.vdot 12 1 2) ∧
    decode 0x4D087000 = .ok (.vsset 2 7) ∧
    decode 0x4D242001 = .ok (.vsget 9 2) ∧
    decode 0x4E1851C0 = .ok (.vcompr24 6 5 7) ∧
    decode 0x500420C0 = .ok (.mand 1 2 3) ∧
    decode 0x50100006 = .ok (.mset 4) := by decide +kernel

/-- R377 to R389: accop a1,v4,v8; accop.h a0,x10,x11; accsp.24 a0,v2,v3,v6; acczero a2; accrd v16,a1,x5; accwr a3,v20,x0; accst
[x7],a1; accst.q [x7],a1,s2; vgathr v8,x12,v3. -/
theorem test_decode_matrix : decode 0x80044200 = .ok (.accop 1 4 8) ∧
    decode 0x8100A2C0 = .ok (.accopH 0 10 11) ∧
    decode 0x820020C6 = .ok (.accsp24 0 2 3 6) ∧
    decode 0x84080000 = .ok (.acczero 2) ∧
    decode 0x85401140 = .ok (.accrd 16 1 5) ∧
    decode 0x860D4000 = .ok (.accwr 3 20 0) ∧
    decode 0x881C1000 = .ok (.accst 7 1) ∧
    decode 0x881C1081 = .ok (.accstQ 7 1 2) ∧
    decode 0x8920C0C0 = .ok (.vgathr 8 12 3) := by decide +kernel

/-- R397 to R403: vld v4,[x6+32]; vst v4,[x6-64]; vlds v2,[x5],x7; vsts; vldx v3,[x4+v9]; vstx; vstn v3,[x8],x9; pld.max
v2,p[x6:x7]; pst v5,p[x6:x7+128]; prun x9,p[x6:x7+64]. -/
theorem test_decode_vecmem : decode 0x90106020 = .ok (.vld 4 6 32) ∧
    decode 0x91106FC0 = .ok (.vst 4 6 0xFC0) ∧
    decode 0x920851C0 = .ok (.vlds 2 5 7) ∧
    decode 0x930851C0 = .ok (.vsts 2 5 7) ∧
    decode 0x940C4240 = .ok (.vldx 3 4 9) ∧
    decode 0x950C4240 = .ok (.vstx 3 4 9) ∧
    decode 0x960C8240 = .ok (.vstn 3 8 9) ∧
    decode 0x980861C8 = .ok (.pldMax 2 6 7 0) ∧
    decode 0x991461C2 = .ok (.pst 5 6 7 2) ∧
    decode 0x9A2461C1 = .ok (.prun 9 6 7 1) := by decide +kernel

/-- R404 to R415: amo.add x5,[x6],x7; amo.cas; vamo.add v4,[x6+v8]; vamo.swap; vlock m3,[x6+v8]; waitv.any m1,[x6+v8],v9;
waitv.all; bara x5,3; bara.g x5,2; barw x5,3; baraw x5,3; vsint x9,x4,x6. -/
theorem test_decode_atomic : decode 0xA01461C0 = .ok (.amoAdd 5 6 7) ∧
    decode 0xA01461C9 = .ok (.amoCas 5 6 7) ∧
    decode 0xA1106200 = .ok (.vamoAdd 4 6 8) ∧
    decode 0xA1106201 = .ok (.vamoSwap 4 6 8) ∧
    decode 0xA20C6200 = .ok (.vlock 3 6 8) ∧
    decode 0xA4046209 = .ok (.waitvAny 1 6 8 9) ∧
    decode 0xA5046209 = .ok (.waitvAll 1 6 8 9) ∧
    decode 0xA8140003 = .ok (.bara 5 3) ∧
    decode 0xA8140402 = .ok (.baraG 5 2) ∧
    decode 0xA9005003 = .ok (.barw 5 3) ∧
    decode 0xAA140003 = .ok (.baraw 5 3) ∧
    decode 0xB0244180 = .ok (.vsint 9 2 3) := by decide +kernel

/-- R417, R419: the six fences and qfence v, c. -/
theorem test_decode_fence : decode 0xB8000000 = .ok .fenceSv ∧
    decode 0xB8000001 = .ok .fenceVs ∧
    decode 0xB8000002 = .ok .fenceVv ∧
    decode 0xB8000003 = .ok .fenceXp ∧
    decode 0xB8000004 = .ok .fenceSt ∧
    decode 0xB8000005 = .ok .fenceF ∧
    decode 0xB9000005 = .ok (.qfence 5) := by decide +kernel

/-- R420 to R442: cpy x4,x5,x6; cpy.q; cpy.g; lns x7; pmld x5,x6; cgld x5,x6; cgrun x6,x7; cgfree x6; fld x5,[x6+16]; fst; fldr
v4,x6,x7; fred [x8],v4,s1. -/
theorem test_decode_engine : decode 0xC0105180 = .ok (.cpy 4 5 6) ∧
    decode 0xC0105181 = .ok (.cpyQ 4 5 6) ∧
    decode 0xC0105182 = .ok (.cpyG 4 5 6) ∧
    decode 0xC1007000 = .ok (.lns 7) ∧
    decode 0xC4005180 = .ok (.pmld 5 6) ∧
    decode 0xC8146000 = .ok (.cgld 5 6) ∧
    decode 0xC90061C0 = .ok (.cgrun 6 7) ∧
    decode 0xCA006000 = .ok (.cgfree 6) ∧
    decode 0xCC146010 = .ok (.fld 5 6 16) ∧
    decode 0xCD146010 = .ok (.fst 5 6 16) ∧
    decode 0xCE1061C0 = .ok (.fldrSum 4 6 7) ∧
    decode 0xCF204040 = .ok (.fred 8 4 1) := by decide +kernel

/-- R443 to R449: lnch x5,x6; lwait x5,x6; grpinfo x5,x6; grpidx x5,x6,x7; trap 5; rett; tlbinv x5; preq x5,x6; the padding hint
of R48. -/
theorem test_decode_system : decode 0xE0146000 = .ok (.lnch 5 6) ∧
    decode 0xE1146000 = .ok (.lwait 5 6) ∧
    decode 0xE7146000 = .ok (.grpinfo 5 6) ∧
    decode 0xE71461C1 = .ok (.grpidx 5 6 7) ∧
    decode 0xE8000005 = .ok (.trap 5) ∧
    decode 0xE9000000 = .ok .rett ∧
    decode 0xEA005000 = .ok (.tlbinv 5) ∧
    decode 0xEB005180 = .ok (.preqPowerDown 5 6) ∧
    decode 0xF0000000 = .ok (.hint 0 0) := by decide +kernel

/-- R429 to R433: bmul b0,b0,b1; bfma.i b4,b5,b6,k2; bcmplt k1,b2,b3; brld b1,1; brst b0,0; bskip b3,40; bend; bjmp 5. -/
theorem test_decode_nmu : decodeB 0xD0000042 = some (.bmul 0 0 0 1 0) ∧
    decodeB 0xD09051A8 = some (.bfma 2 4 5 6 1) ∧
    decodeB 0xD10420C1 = some (.bcmplt 0 1 2 3 0) ∧
    decodeB 0xD3040001 = some (.brld 0 1 1) ∧
    decodeB 0xD4000000 = some (.brst 0 0 0) ∧
    decodeB 0xD5003028 = some (.bskip 0 3 40) ∧
    decodeB 0xD6000001 = some (.bend) ∧
    decodeB 0xD7000005 = some (.bjmp 5) := by decide +kernel

/-- R322: a word of zeros and a word of ones are no instruction (reason 1), F code 24 of major 0x01 is reason 2, a nonzero B of `clz`
reason 3, an unnamed CSR reason 4, `csrw` of a read-only CSR reason 5. -/
theorem test_decode_refused : decode 0 = .error 1 ∧ decode 0xFFFFFFFF = .error 1 ∧ decode 0x01000018 = .error 2 ∧ decode 0x010C4056 = .error 3 ∧
    decode 0x301403FF = .error 4 ∧ decode 0x31006000 = .error 5 := by decide +kernel

/-- The encoder writes the manual's words. -/
theorem test_encode : encode (.vcompr24 6 5 7) = some 0x4E1851C0 ∧ encode (.vsint 9 2 3) = some 0xB0244180 ∧ encode (.stW 7 2 0xFFC) = some 0x1A1C2FFC ∧
    encode (.bfma 2 4 5 6 1) = some 0xD09051A8 ∧ encode (.modeTid 1 9) = some 0x34400009 := by decide +kernel

/-! ### States for the tests -/

/-- Partition 0 with one running task on context 0 and the first interleaved gigabyte mapped from address 0; the word stands at its PC. -/
def at_ (w : Nat) : State := State.reset.withFetchWord 32 w

/-- The same with context 0 changed. -/
def ctx (w : Nat) (f : Ctx → Ctx) : State := { at_ w with m := (at_ w).m.updCtx 0 f }

/-- The state after one step from there. -/
def after (w : Nat) (f : Ctx → Ctx) : Option State :=
  match step (ctx w f) with
  | .next t => some t
  | _ => none

/-- Registers 6 and 7 set. -/
def x67 (v w : Word) (x : Ctx) : Ctx := (x.wx 6 v).wx 7 w

/-! ### Single steps -/

/-- R327: the sum wraps at 2^64. -/
theorem test_add_wraps : (after 0x011461C0 (x67 (.allOnes 64) 2)).map (·.x 5) = some 1 := by decide +kernel

/-- R92: add x0, x6, x7 leaves X0 zero and goes on. -/
theorem test_add_x0 : (after 0x010061C0 (x67 3 4)).map (fun s => (s.x 0, s.m.me.pc)) = some (0, 0x1004) := by decide +kernel

/-- R327: div by zero is all ones, rem by zero the dividend. -/
theorem test_div_zero : (after 0x011461C5 (x67 9 0)).map (·.x 5) = some (.allOnes 64) ∧ (after 0x011461C7 (x67 9 0)).map (·.x 5) = some 9 := by
  decide +kernel

/-- R327: the most negative number divided by −1 is itself, the remainder 0. -/
theorem test_div_overflow : (after 0x011461C5 (x67 0x8000000000000000 (.allOnes 64))).map (·.x 5) = some 0x8000000000000000 ∧
    (after 0x011461C7 (x67 0x8000000000000000 (.allOnes 64))).map (·.x 5) = some 0 := by decide +kernel

/-- R327: the high half of (−1) × 2, signed and unsigned. -/
theorem test_mulh : (after 0x011461C3 (x67 (.allOnes 64) 2)).map (·.x 5) = some (.allOnes 64) ∧
    (after 0x011461C4 (x67 (.allOnes 64) 2)).map (·.x 5) = some 1 := by decide +kernel

/-- R327: a shift count is b[5:0]: 65 shifts by 1, and `sra` copies the sign. -/
theorem test_shift : (after 0x011461CC (x67 1 65)).map (·.x 5) = some 2 ∧
    (after 0x011461CE (x67 0x8000000000000000 63)).map (·.x 5) = some (.allOnes 64) := by decide +kernel

/-- R327: `sel` reads the old Xd. -/
theorem test_sel : (after 0x011461D5 fun x => (x67 3 4 x).wx 5 1).map (·.x 5) = some 3 ∧ (after 0x011461D5 (x67 3 4)).map (·.x 5) = some 4 := by
  decide +kernel

/-- R329: lui x5, 0x12345 leaves 0x12345000. -/
theorem test_lui : (after 0x0B152345 id).map (·.x 5) = some 0x12345000 := by decide +kernel

/-- R330: fcvt.l.s of −7.5 gives −8 under RNE and −7 under RTZ. -/
theorem test_fcvt : (after 0x0D146007 (x67 0xC0F00000 0)).map (·.x 5) = some 0xFFFFFFFFFFFFFFF8 ∧
    (after 0x0D146007 fun x => (x67 0xC0F00000 0 x).setMd 0 0x800).map (·.x 5) = some 0xFFFFFFFFFFFFFFF9 := by decide +kernel

/-- R330 and R215: 1.5 + 2.25 = 3.75 in F32, and a denormal plus zero stays a denormal. -/
theorem test_fadd : (after 0x0D1461C0 (x67 0x3FC00000 0x40100000)).map (·.x 5) = some 0x40700000 ∧
    (after 0x0D1461C0 (x67 1 0)).map (·.x 5) = some 1 := by decide +kernel

/-- R331: ld.b sign-extends: it reads the byte 0x80 of the instruction word that stands at 0x1000. -/
theorem test_ldb : (after 0x10146080 (x67 0xF80 0)).map (·.x 5) = some 0xFFFFFFFFFFFFFF80 := by decide +kernel

/-- R331 and R150: st.w puts four little-endian bytes into the store buffer and changes no memory. -/
theorem test_stw : (after 0x1A1C6000 (x67 0x2000 0x11223344)).map (fun s => (s.m.me.sb.map (·.segs), s.m.mem)) =
    some ([[(.pa 0x400000002000, [0x44, 0x33, 0x22, 0x11])]], (at_ 0x1A1C6000).m.mem) := by decide +kernel

/-- R335: bne x6, x0, −3 words from 0x1000 goes back to 0xFF4, and falls through on equality. -/
theorem test_bne : (after 0x21180FFD (x67 1 0)).map (·.m.me.pc) = some 0xFF4 ∧ (after 0x21180FFD id).map (·.m.me.pc) = some 0x1004 := by
  decide +kernel

/-- R336: jalr x5, x6, 0 clears the two low bits of the target and links the next address. -/
theorem test_jalr : (after 0x28146000 (x67 0x2007 0)).map (fun s => (s.m.me.pc, s.x 5)) = some (0x2004, 0x1004) := by decide +kernel

/-- R337: loop x6 counts down, and leaves at zero. -/
theorem test_loop : (after 0x29180005 (x67 3 0)).map (fun s => (s.m.me.pc, s.x 6)) = some (0x1004, 2) ∧
    (after 0x29180005 id).map (fun s => (s.m.me.pc, s.x 6)) = some (0x1014, 0) := by decide +kernel

/-- R106: a write of VL drops its reserved bits; a write of 0 to WDOG traps with ILLEGAL_CONFIG 0x13 and the CSR's number. -/
theorem test_csrw : (after 0x31006003 (x67 0x30002 0)).map (·.m.me.vl) = some 0x10002 ∧
    (after 0x31006011 fun x => { x with thandler := 0x4000 }).map (fun s => (s.m.me.pc, s.m.me.fcause, s.m.me.wdog)) =
      some (0x4000, 0x111303, 0x100000000) := by decide +kernel

/-- R298 and R447: trap 5 at 0x1000 enters the handler with SOFT_TRAP, detail 5 and EPC 0x1004. -/
theorem test_trap : (after 0xE8000005 fun x => { x with thandler := 0x4000 }).map (fun s => (s.m.me.pc, s.m.me.epc, s.m.me.fcause, s.m.me.finstr)) =
    some (0x4000, 0x1004, 0x511, 0xE8000005) := by decide +kernel

/-- R298: with THANDLER 0 the task ends with the fault. -/
theorem test_trap_no_handler : (after 0xE8000005 id).map (fun s => s.m.me.status) = some .idle := by decide +kernel

/-- R322: a word of zeros is ILLEGAL_INSTR with reason 1. -/
theorem test_illegal : (after 0 fun x => { x with thandler := 0x4000 }).map (fun s => (s.m.me.pc, s.m.me.epc, s.m.me.fcause)) =
    some (0x4000, 0x1000, 0x101) := by decide +kernel

/-- R299: the same in the first instruction of a handler is a DOUBLE_FAULT, which ends the task. -/
theorem test_double_fault : (after 0 fun x => { x with thandler := 0x4000, firstH := true }).map (fun s => (s.m.pfaults, s.m.me.status)) =
    some ([⟨0, 0x12, 1⟩], .idle) := by decide +kernel

/-- R300: rett goes to EPC. -/
theorem test_rett : (after 0xE9000000 fun x => { x with epc := 0x2000 }).map (·.m.me.pc) = some 0x2000 := by decide +kernel

/-- R404: amo.add x5, [x6], x7 leaves the old value in X5 and the sum in memory, on the doubleword at X6 with its low bits cleared. -/
theorem test_amo : (after 0xA01461C0 (x67 0x1007 1)).map (fun s => (s.x 5, s.m.readPa 0x400000001000 4)) =
    some (0xA01461C0, [0xC1, 0x61, 0x14, 0xA0]) := by decide +kernel

/-- R348 and R70: texit frees the context. -/
theorem test_texit : (after 0x3E00A000 id).map (fun s => (s.m.ctx 0).status) = some .idle := by decide +kernel

/-! ### Hypotheses that can be met -/

/-- The result exists. -/
def okB {ε α : Type} (r : Except ε α) : Bool :=
  match r with
  | .ok _ => true
  | .error _ => false

theorem ok_of {ε α : Type} {r : Except ε α} (h : okB r = true) : ∃ v, r = .ok v := by
  cases r with
  | ok v => exact ⟨v, rfl⟩
  | error e => simp [okB] at h

/-- The result, or d. -/
def getOk {ε α : Type} (d : α) (r : Except ε α) : α :=
  match r with
  | .ok v => v
  | .error _ => d

theorem ok_get {ε α : Type} {r : Except ε α} (d : α) (h : okB r = true) : r = .ok (getOk d r) := by
  cases r with
  | ok v => rfl
  | error e => simp [okB] at h

theorem ok_pair {ε α β : Type} {r : Except ε (α × β)} (d : α × β) (h : okB r = true) : r = .ok ((getOk d r).1, (getOk d r).2) := ok_get d h

theorem nthD_zero {l : List Nat} (h : l.all (· == 0) = true) (n : Nat) : nthD 0 l n = 0 := by
  induction l generalizing n with
  | nil => rfl
  | cons a l ih =>
    simp only [List.all_cons, Bool.and_eq_true, beq_iff_eq] at h
    cases n with
    | zero => exact h.1
    | succ n => exact ih h.2 n

/-- A context with eight sections, eight registers, four arrays and VL 2. -/
def vec (w : Nat) (f : Ctx → Ctx) : State := ctx w fun x => f { x with
  sec := 8, vl := 2, accs := 4, maxSec := 8, maxVregs := 3, spSize := 0x1000, barriers := 1, thandler := 0x4000 }

/-- What a vector-side instruction needs, as one computation. -/
def vecB (s : State) (rs : List (BitVec 5)) : Bool :=
  s.m.me.ready (rs.map BitVec.toNat) && s.m.me.vq.isEmpty && !s.m.lag && s.m.me.sb.isEmpty && s.m.me.score.all (· == 0) &&
    s.m.me.vrPoison.isEmpty && s.m.seen.isNone

theorem vector_of {s : State} {rs : List (BitVec 5)} (h : vecB s rs = true) : s.Vector rs := by
  simp only [vecB, Bool.and_eq_true, List.isEmpty_iff, Bool.not_eq_true', Option.isNone_iff_eq_none] at h
  obtain ⟨⟨⟨⟨⟨⟨ready, empty⟩, unit_⟩, stores⟩, score⟩, clean⟩, seen⟩ := h
  exact { ready, empty, unit_, stores, score := nthD_zero score, clean, seen }

/-- The checks of the mode register, as one computation. -/
def modesB (s : State) (k : Cap) (sizes : List Nat) : Bool :=
  tyCodeOk k.ty && decide (k.rm < 6) && sizes.all (fun e => decide (k.vl ≤ s.m.me.maxvlOf e)) && (k.ty != 3 || fmtValid k.fmt.toNat)

theorem modes_of {s : State} {k : Cap} {sizes : List Nat} (h : modesB s k sizes = true) : s.Modes k sizes := by
  simp only [modesB, Bool.and_eq_true, decide_eq_true_eq, List.all_eq_true, Bool.or_eq_true, bne_iff_ne] at h
  obtain ⟨⟨⟨type, round⟩, fits⟩, fmt⟩ := h
  exact { type, round, fits, fmt := fun e => fmt.resolve_left fun n => n e }

theorem groups_of {s : State} {g : Nat} {vs : List (BitVec 6)} (h : vs.all (fun v => s.m.me.regOk v.toNat g) = true) : s.Groups g vs := by
  simpa [State.Groups, List.all_eq_true] using h

theorem starts_of {s : State} {k : Cap} {rs : List (BitVec 5)} {sizes : List Nat} {g : Nat} {vs : List (BitVec 6)}
    (h : (vecB s rs && modesB s k sizes && vs.all fun v => s.m.me.regOk v.toNat g) = true) : s.Vector rs ∧ s.Modes k sizes ∧ s.Groups g vs := by
  rw [Bool.and_eq_true, Bool.and_eq_true] at h
  exact ⟨vector_of h.1.1, modes_of h.1.2, groups_of h.2⟩

/-- RegisterWrite: X0, and two registers. -/
theorem test_meets_RegisterWrite : (31 : BitVec 5) ≠ 0 ∧ (1 : BitVec 5) ≠ 31 := by decide

/-- RegisterOperations, ImmediateOperations, Branches, Jumps, with the registers at the ends of their range; the illegal words. -/
theorem test_meets_RegisterOperations : (at_ 0).ready [0, 31, 31] ∧ (at_ 0).ready [0, 31] ∧ 24 ≤ (24 : BitVec 6).toNat ∧ 24 ≤ (63 : BitVec 6).toNat ∧
    (22 : BitVec 6) = 22 ∧ (31 : BitVec 5) ≠ 0 := by unfold State.ready; decide +kernel
theorem test_meets_ImmediateOperations : (at_ 0).ready [31, 0] := by unfold State.ready; decide +kernel
theorem test_meets_Branches : (at_ 0).ready [31, 0] ∧ (at_ 0).ready [31] := by unfold State.ready; decide +kernel
theorem test_meets_Jumps : (at_ 0).ready [31, 0] ∧ (at_ 0).ready [31] ∧ (at_ 0).ready [] := by unfold State.ready; decide +kernel

/-- FloatResults: RM at its highest legal code, SR, and the highest reserved one. -/
theorem test_meets_FloatResults : (∀ s ∈ [ctx 0 (·.setMd 0 0x2000), ctx 0 (·.setMd 0 0x2800), ctx 0 (·.setMd 0 0x3800)],
    s.ready [5, 6, 7] ∧ s.ready [5, 6, 0]) ∧ (ctx 0 (·.setMd 0 0x2000)).rm = 4 ∧ (ctx 0 (·.setMd 0 0x2800)).rm = 5 ∧
    (ctx 0 (·.setMd 0 0x3800)).rm = 7 := by unfold State.ready; decide +kernel
theorem test_meets_ScalarFrame : (Instr.fcvtLS 5 6).computes = some (5, [5, 6, 0]) ∧ (ctx 0 (·.setMd 0 0x2000)).ready [5, 6, 0] ∧
    (ctx 0 (·.setMd 0 0x2000)).rm < 5 := by unfold State.ready; decide +kernel

/-- What a scalar load needs, and what a scalar store needs, each as one computation. -/
def readB (s : State) (va n : Nat) (ss : List (Loc × Nat)) : Bool :=
  let m := s.reach 0 va n
  decide (m.resolve s.m.cur kRead va n .all = .ok ss) && (ss.findSome? fun l => apertureOf l.1).isNone && s.loadFree va n ss &&
    (m.poisonBuf s.m.cur 0 ss).isNone && (decide ((inParts va n ss).length < 2) || (!s.m.lag && s.m.me.half.isNone))
def writeB (s : State) (va n : Nat) (ss : List (Loc × Nat)) : Bool :=
  decide ((s.reach 0 va n).resolve s.m.cur kWrite va n .all = .ok ss) && (s.reach 0 va n).ownWindowReady s.m.cur ss &&
    !s.m.walkWaits s.m.cur va n && !s.m.curtained && decide (s.m.me.sb.length < 32)

theorem readable_of {s : State} {va n : Nat} {ss : List (Loc × Nat)} (h : readB s va n ss = true) : s.Readable va n ss := by
  simp only [readB, Bool.and_eq_true, Bool.or_eq_true, decide_eq_true_eq, Option.isNone_iff_eq_none, Bool.not_eq_true'] at h
  obtain ⟨⟨⟨⟨here, local_⟩, free⟩, clean⟩, whole⟩ := h
  exact { here, local_, free, clean, whole }

theorem writable_of {s : State} {va n : Nat} {ss : List (Loc × Nat)} (h : writeB s va n ss = true) : s.Writable va n ss := by
  simp only [writeB, Bool.and_eq_true, decide_eq_true_eq, Bool.not_eq_true'] at h
  obtain ⟨⟨⟨⟨here, free⟩, walks⟩, issue⟩, room⟩ := h
  exact { here, free, walks, issue := .inl issue, room }

/-- LoadsAndStores: every width, the eight-byte one across a doubleword boundary, where it has two parts. -/
theorem test_meets_LoadsAndStores : (at_ 0).ready [5, 6] ∧ ∀ e ∈ [(0x1000, 1), (0x1000, 2), (0x1000, 4), (0x1004, 8)],
    (at_ 0).Readable e.1 e.2 [(.pa (0x400000000000 + e.1), e.2)] ∧ (at_ 0).Writable e.1 e.2 [(.pa (0x400000000000 + e.1), e.2)] := by
  refine ⟨by unfold State.ready; decide +kernel, fun e h => ⟨readable_of ?_, writable_of ?_⟩⟩ <;> revert e <;> decide +kernel
theorem test_meets_LoadsAndStores_parts : (∀ e ∈ [(none, true), (some (0x1004, [1, 2, 3, 4]), true), (some (0x1004, [1, 2, 3, 4]), false)],
    let s := ctx 0 fun x => { x with half := e.1 }
    let t : State := { s with m := { s.m with lag := e.2 } }
    let ss := [(Loc.pa 0x400000001004, 8)]
    (t.reach 0 0x1004 8).resolve t.m.cur kRead 0x1004 8 .all = .ok ss ∧ t.m.me.half = e.1 ∧ t.m.lag = e.2 ∧ t.loadFree 0x1004 8 ss = true ∧
      (t.reach 0 0x1004 8).poisonBuf t.m.cur 0 ss = none) ∧
    inParts 0x1004 8 [(.pa 0x400000001004, 8)] = [(.pa 0x400000001004, 4), (.pa 0x400000001008, 4)] ∧
    apertureOf (.pa 0x400000001004) = none ∧ apertureOf (.pa 0x400000001008) = none := by decide +kernel
/-- The first gigabyte is mapped and no more: PAGE_FAULT; and a poisoned doubleword. -/
theorem test_meets_LoadsAndStores_fault : (∀ n ∈ [1, 2, 4, 8], ∀ k ∈ [kRead, kWrite], (at_ 0).m.walkWaits (at_ 0).m.cur 0x40000000 n = false ∧
    ((at_ 0).reach 0 0x40000000 n).resolve (at_ 0).m.cur k 0x40000000 n .all = .error (fltPage 1 k 0x40000000)) := by decide +kernel
theorem test_meets_LoadsAndStores_poison :
    let s := at_ 0
    let t : State := { s with m := { s.m with poison := [(s.m.keyOf 0x400000002000).getD 0] } }
    let ss := [(Loc.pa 0x400000002000, 8)]
    (t.reach 0 0x2000 8).resolve t.m.cur kRead 0x2000 8 .all = .ok ss ∧ t.loadFree 0x2000 8 ss = true ∧
    (t.reach 0 0x2000 8).poisonBuf t.m.cur 0 ss = some (0, 1) := by decide +kernel

/-- Csrs: the last CSR number that exists and one that waits; a writable CSR; a zero and a nonzero timeout; the last counter. -/
theorem test_meets_Csrs : (at_ 0).ready [31] ∧ (csrWaits (0x10F : BitVec 12).toNat = true → (at_ 0).m.me.vq = []) ∧ csrWaits 0x004 = true ∧
    (at_ 0).m.me.vq = [] ∧ csrWritable (0x27 : BitVec 12).toNat = true ∧ csrWait (at_ 0).m.me (0x27 : BitVec 12).toNat = false ∧
    (at_ 0).x 6 = 0 ∧ (ctx 0 (x67 (.allOnes 64) 0)).ready [6] ∧ (at_ 0).m.me.anyUnsafe = false ∧ (at_ 0).m.pairTurn = true ∧
    (ctx 0 (x67 (.allOnes 64) 0)).x 6 ≠ 0 ∧ ((ctx 0 (x67 (.allOnes 64) 0)).x 6).truncate 32 ≠ (0 : BitVec 32) ∧
    ((ctx 0 (x67 0xFFFFFFFF00000000 0)).x 6).truncate 32 = (0 : BitVec 32) := by unfold State.ready; decide +kernel

/-- ModesAndGrants: codes that keep and codes that set; the guard's codes at their ends; `vcfg` at and above the ceilings, and behind a
context of a higher number; an undo log with room for two entries and one without. -/
theorem test_meets_ModesAndGrants : (vec 0 id).ready [] ∧ (31 : BitVec 5) = 31 ∧ (30 : BitVec 5) ≠ 31 ∧ (6 : BitVec 3) ≠ 7 ∧
    0x10 ≤ (0x10 : BitVec 6).toNat ∧ (0x2F : BitVec 6).toNat ≤ 0x2F ∧ (vec 0 id).ready [5, 6] ∧ (vec 0 id).m.me.vq = [] ∧
    (vec 0 id).m.me.score.all (· == 0) = true ∧ (8 : BitVec 4).toNat ≤ (vec 0 id).m.me.maxSec ∧ (3 : BitVec 2).toNat ≤ (vec 0 id).m.me.maxVregs ∧
    (vec 0 id).m.me.maxSec < (9 : BitVec 4).toNat ∧ (vec 0 fun x => { x with maxVregs := 2 }).m.me.maxVregs < (3 : BitVec 2).toNat ∧
    (vec 0 id).m.pairTurn = true ∧ ((vec 0 id).m.updPair 0 fun p => { p with wrAt := (0, 1) }).pairTurn = false ∧
    (vec 0 id).m.me.anyUnsafe = false ∧ (vec 0 id).m.me.undo.length ≤ 62 := by
  unfold State.ready; decide +kernel

theorem idle_of {s : State} (h : (s.m.me.copyq.isEmpty && s.m.me.hold.isEmpty) = true) : s.NoCopies := by
  simp only [Bool.and_eq_true, List.isEmpty_iff] at h
  exact { queue := h.1, held := by simp [h.2] }

theorem test_meets_ModesAndGrants_zero : let s := vec 0 fun x => { x with vl := 0 }
    s.Vector [6, 7] ∧ (s.cap mdv).vl = 0 ∧ (s.cap mdm).vl = 0 ∧ (s.cap mdl).vl = 0 ∧ s.Groups (s.cap mdv).g [7, 1, 2] ∧
    s.Groups (s.cap mdm).g [1, 2] ∧ s.Groups 1 [2] ∧ (3 : BitVec 2).toNat < s.m.me.accs ∧ s.NoCopies :=
  ⟨vector_of (by decide +kernel), by decide +kernel, by decide +kernel, by decide +kernel, groups_of (by decide +kernel),
   groups_of (by decide +kernel), groups_of (by decide +kernel), by decide +kernel, idle_of (by decide +kernel)⟩

/-- A vector-side instruction in the queue of context 0 that has not reached its fault-safe point, with operation o. -/
def queued (o : VOp) (md : Nat) (f : VEnt → VEnt) : State :=
  vec 0 fun x => { x with vq := [f { x.vent md o with stamp := 1 }], stamp := 1 }

/-- ModesAndGrants: an undo log of 63 entries behind an instruction that is not yet fault-safe. -/
theorem test_meets_ModesAndGrants_full : let s := queued (.un 0 1 2) mdv id
    let x := { s.m.me with undo := (List.range 63).map fun i => ⟨i, .x 31 0⟩ }
    x.ready [5, 6] = true ∧ x.anyUnsafe = true ∧ 62 < x.undo.length := by decide +kernel

/-- TrapEntry: with a handler; behind a queued instruction; in the first instruction of a handler. -/
theorem test_meets_TrapEntry : (vec 0 id).m.me.anyUnsafe = false ∧ (vec 0 id).m.me.firstH = false ∧ (vec 0 id).m.me.thandler ≠ 0 ∧
    (queued (.un 0 1 2) mdv id).m.me.anyUnsafe = true ∧ (vec 0 fun x => { x with firstH := true }).m.me.anyUnsafe = false ∧
    (vec 0 fun x => { x with firstH := true }).m.me.firstH = true ∧ (fltConfig 0x13 0).code ≠ 0x11 := by decide +kernel

/-- TrapReturnAndExit: a handler, and a context with nothing outstanding whose cast exists, with an open window of its launcher. -/
theorem test_meets_TrapReturnAndExit : (vec 0 id).ready [] ∧ (vec 0 id).m.me.anyUnsafe = false ∧ (vec 0 id).m.me.thandler ≠ 0 ∧
    (vec 0 id).ready [31] ∧ (vec 0 id).Drained ∧ (∃ w ∈ (vec 0 id).m.windows, ((vec 0 id).m.cast 0 0).map (·.launcher) = some w.l ∧
      w.base ≠ w.next) := by
  unfold State.ready State.Drained; decide +kernel

/-- FencesAndJoins: nothing outstanding; and faults pending of the fabric queue and, older and younger, of others. -/
theorem test_meets_FencesAndJoins : (vec 0 id).ready [] ∧ (vec 0 id).m.me.vq = [] ∧ (vec 0 id).m.lag = false ∧ (vec 0 id).m.me.sb = [] ∧
    (vec 0 id).Drained ∧ (15 : BitVec 8) ≠ 0 ∧ (vec 0 id).m.sqRoom 0 5 = true ∧ (vec 0 id).m.sentTids (vec 0 id).m.cur = false := by unfold State.ready State.Drained; decide +kernel

theorem test_meets_FencesAndJoins_fault : let f : EngFault := ⟨0, 2, 3, fltAbsent 5 0 0x2000, 0xCD146010, 0⟩
    let fs : List EngFault := [{ f with ord := 3 }, f, { f with ord := 1, queue := 2 }]
    let s := vec 0 fun x => { x with engFaults := fs }
    s.ready [] ∧ s.m.me.anyUnsafe = false ∧ s.m.me.firstH = false ∧ s.m.me.thandler ≠ 0 ∧ s.m.me.engFaults = fs ∧ f ∈ fs ∧ f.queue ∈ [3] ∧
    (∀ g ∈ fs, g.queue ∈ [3] → g = f ∨ f.older g = true) ∧ f.flt.detail < 2 ^ 34 ∧ f.flt.code < 256 := by unfold State.ready; decide +kernel
/-- FencesAndJoins: `qfence c, b, f` with a copy fault the oldest, a command queued and one held. -/
theorem test_meets_FencesAndJoins_copy : let f : EngFault := ⟨0, 1, 1, fltConfig 0x0F 0, 0xC0146180, 0⟩
    let fs : List EngFault := [{ f with ord := 3, queue := 3 }, f]
    let k : CopyCmd := ⟨0, 0x2000, 0x3000, 64, 0, none, 0, [], 0xC0146180⟩
    let s := vec 0 fun x => { x with engFaults := fs, copyStop := true, hold := [⟨0, 0, 0, .copy k⟩],
                                     copyq := [⟨k, 0, 0, false, 0, 0, [], [], none, false, 0, []⟩] }
    s.ready [] ∧ s.m.me.firstH = false ∧ s.m.me.thandler ≠ 0 ∧ s.m.me.engFaults = fs ∧ s.m.me.vq = [] ∧ s.m.lag = false ∧
    f.queue ∈ (bitList (0x54 : BitVec 8).toNat 8).flatMap letterQueue ∧
    (∀ g ∈ fs, g.queue ∈ (bitList (0x54 : BitVec 8).toNat 8).flatMap letterQueue → g = f ∨ f.older g = true) ∧
    f.flt.detail < 2 ^ 34 ∧ f.flt.code < 256 ∧ f.queue = 1 ∧ s.m.me.copyStop = true := by unfold State.ready; decide +kernel

/-- ScalarAtomics: the doubleword at the highest address of an aligned eight-byte block, with an empty store buffer and behind a store. -/
theorem test_meets_ScalarAtomics : let ss := [(Loc.pa 0x400000002000, 8)]
    (∀ sb ∈ [[], [⟨0, 0, .store, 0x3000, 0, [(.pa 0x400000003000, [1])]⟩]], let s := ctx 0 fun x => { x67 0x2007 1 x with sb := sb }
      s.ready [5, 6, 7] ∧ (s.x 6).toNat / 8 * 8 = 0x2000 ∧ s.Atomic 0x2000 ss ∧ s.first 0x2000 ss = sb.isEmpty ∧ s.m.me.sb.length < 32) := by
  intro ss sb h
  refine ⟨?_, ?_, ⟨?_, ?_, ?_, ?_⟩, ?_, ?_⟩ <;> (try unfold State.ready) <;> revert sb <;> decide +kernel

/-- A context whose task has two named barriers on its pair, of one and of two arrivals, and whose cast has one group barrier. -/
def bars (f : Ctx → Ctx) : State :=
  let s := vec 0 fun x => f { x with barriers := 2 }
  { s with m := { s.m with
      parts := s.m.parts.map fun p => (p.1, { p.2 with casts := p.2.casts.map fun k => { k with
        groups := [⟨1, [0], 0, 0⟩], gbars := [⟨1, 0, false, 0⟩] } }),
      pairs := s.m.pairs.map fun p => (p.1, { p.2 with bars := [⟨0, 0, [⟨1, 0, false, 0⟩, ⟨2, 0, false, 0⟩], 0⟩] }) } }

/-- NamedBarriers: arrival, a wait whose phase has passed, and `baraw` as the last arrival, at the last barrier of each kind. -/
theorem test_meets_NamedBarriers : let s := bars id
    s.ready [5] ∧ s.StoresDone ∧ s.BarOk false 1 ∧ s.BarOk true 0 ∧ s.m.me.arrival = none ∧
    (bars (x67 1 0)).ready [6] ∧ (s.m.bar false 1).phase ≠ ((bars (x67 1 0)).x 6).getLsbD 0 ∧
    (s.m.bar true 0).phase ≠ ((bars (x67 1 0)).x 6).getLsbD 0 ∧
    (((s.m.updBar false 0 Bar.arrive).setX 5 0).bar false 0).phase ≠ (s.m.bar false 0).phase ∧
    (((s.m.updBar true 0 Bar.arrive).setX 5 0).bar true 0).phase ≠ (s.m.bar true 0).phase := by
  unfold State.ready State.StoresDone State.BarOk; decide +kernel
theorem test_meets_NamedBarriers_wake : let z : Sleep := ⟨.bar false 1 true 0, 0, 100⟩
    let s := bars fun x => { x with sleep := some z }
    let t := bars fun x => { x with sleep := some ⟨.tb (.pa 0x400000002000) 0x2000 1, 0, 100⟩ }
    (s.m.ctx 0).status = .running ∧ (s.m.ctx 0).sleep = some z ∧ z.on = .bar false 1 true 0 ∧ ((s.m.as 0).bar false 1).phase ≠ true ∧
    ((s.m.as 0).bar false 1).gen ≠ 1 ∧
    (t.m.ctx 0).status = .running ∧ (t.m.ctx 0).sleep = some ⟨.tb (.pa 0x400000002000) 0x2000 1, 0, 100⟩ ∧
    ((t.m.as 0).tbAt (.pa 0x400000002000)).pcount ≠ 1 := by decide +kernel

/-- A transaction barrier at offset 0 of the task's scratchpad window, with one arrival pending. -/
def tbar (n : Word) : State :=
  let s := vec 0 (x67 0xFF80000000000000 n)
  { s with m := s.m.tbUpd 0 Config.pairBase fun t => { t with arrp := 1, arrl := 1 } }

/-- TransactionBarriers: counts at the ends of their ranges, at a barrier of which ARRP is 1. -/
theorem test_meets_TransactionBarriers : (∀ s ∈ [tbar 1, tbar 65535, tbar 0x7FFFFFFF], s.ready [6, 7] ∧ s.m.me.sb.length < 32 ∧
    s.TbOk 6 (.pa Config.pairBase) ∧ s.ready [6] ∧ s.StoresDone ∧
    ((s.tbTouched 6).tbAt (.pa Config.pairBase)).arrp ≠ 0 ∧ s.m.me.sleep = none ∧
    ((s.tbTouched 6).tbAt (.pa Config.pairBase)).pcount ≠ (s.x 7).toNat % 2 ^ 32) := by
  unfold State.ready State.StoresDone State.TbOk; decide +kernel
theorem test_meets_TransactionBarriers_phase : (tbOf 0).arrp = 0 ∧ (tbOf 0).secp = 0 ∧ ({ tbOf 0 with arrp := 1 } : Tb).arrp ≠ 0 ∧
    -2 ^ 31 ≤ (tbOf 0).secp + (2 ^ 31 - 1) ∧ (tbOf 0).secp + (2 ^ 31 - 1) < 2 ^ 31 ∧ 2 ^ 31 ≤ (tbOf 0).secp + 2 ^ 31 ∧
    (tbOf 0).secp + (-2 ^ 31 - 1) < -2 ^ 31 := by decide +kernel

/-- Mode register k of context 0 set. -/
def mode (k : Nat) (v : BitVec 32) (x : Ctx) : Ctx := { x with md := vecSet x.md k v }

/-- The entry of tensor 5: I8, a statistics record, one extent of 256. -/
def image5 : Nat := 1 + 7 * 2 + 2 ^ 54 + 256 * 2 ^ 128

/-- A vector state in which tensor 5 is defined. -/
def tensor (f : Ctx → Ctx) : State := let s := vec 0 f; { s with m := s.m.titWrite 0 5 image5 }

/-- ElementwiseFloat on F32, the highest register and the highest legal mode. -/
theorem test_meets_ElementwiseFloat : let s := vec 0 (mode 0 0x2800); let k := s.cap mdv
    (s.Vector [31] ∧ s.Modes k [k.size] ∧ s.Groups k.g [7, 0, 1]) ∧ k.tyv = .flt f32 ∧ k.blocked = false :=
  ⟨starts_of (by decide +kernel), by decide +kernel⟩

/-- ElementwiseInteger on I32 with SAT and on U4. -/
theorem test_meets_ElementwiseInteger : (let s := vec 0 (mode 0 0x4140); let k := s.cap mdv
      (s.Vector [31] ∧ s.Modes k [k.size] ∧ s.Groups k.g [7, 0, 1]) ∧ k.tyv = .int true 32 ∧ k.rm < 5) ∧
    (let s := vec 0 (mode 0 0x2340); let k := s.cap mdv
      (s.Vector [31] ∧ s.Modes k [k.size] ∧ s.Groups k.g [7, 0, 1]) ∧ k.tyv = .int false 4 ∧ k.rm < 5) :=
  ⟨⟨starts_of (by decide +kernel), by decide +kernel⟩, starts_of (by decide +kernel), by decide +kernel⟩

theorem test_meets_FusedAndUnary : let s := vec 0 (mode 0 0x80); let k := s.cap mdv
    (s.Vector [] ∧ s.Modes k [k.size] ∧ s.Groups k.g [7, 0, 1]) ∧ k.tyv = .flt f16 ∧ tyIsFlt k.ty = true ∧ k.blocked = false :=
  ⟨starts_of (by decide +kernel), by decide +kernel⟩

/-- ConvertCompareSelect: U4 to I32 and to F32, F16 and a narrow float with and without blocks to F32, one-row groups; and a NaN. -/
theorem test_meets_ConvertCompareSelect : (let s := vec 0 (mode 0 0x140); let k := s.cap mdv
      (s.Vector [31] ∧ s.Modes k [k.size] ∧ s.Groups k.g [7, 0, 1]) ∧ k.blocked = false ∧ k.g = 1 ∧
      tyOf (13 : BitVec 5).toNat k.fmt2.toNat = .int false 4 ∧ k.tyv = .int true 32 ∧ (13 : BitVec 5).toNat ≠ 3 ∧ k.rm < 5 ∧
      k.vl ≤ s.m.me.maxvlOf (tySize 13)) ∧
    (let s := vec 0 id; let k := s.cap mdv
      (s.Vector [31] ∧ s.Modes k [k.size] ∧ s.Groups k.g [7, 0, 1]) ∧ k.blocked = false ∧ k.tyv = .flt f32 ∧
      tyOf (13 : BitVec 5).toNat k.fmt2.toNat = .int false 4 ∧
      tyOf (2 : BitVec 5).toNat k.fmt2.toNat = .flt f16 ∧ k.srInt = false ∧ k.vl ≤ s.m.me.maxvlOf (tySize 2) ∧ k.vl ≤ s.m.me.maxvlOf (tySize 13)) ∧
    f32.val 0x7FC00000 = .nan :=
  ⟨⟨starts_of (by decide +kernel), by decide +kernel⟩, ⟨starts_of (by decide +kernel), by decide +kernel⟩, by decide +kernel⟩
theorem test_meets_ConvertCompareSelect_narrow : ∀ w ∈ [1897, 1897 + 2 ^ 19], let s := vec 0 fun x => { x with fmt := Vector.replicate 4 (.ofNat 32 w) }; let k := s.cap mdv
    (s.Vector [31] ∧ s.Modes k [k.size] ∧ s.Groups k.g [7, 0, 1]) ∧ k.blocked = false ∧ k.fmt2.toNat = w ∧ fmtValid w = true ∧
    (fmtBlk w = 0 ↔ w = 1897) ∧ k.srInt = false ∧ k.vl ≤ s.m.me.maxvlOf (tySize 3) ∧ s.m.me.regOk (0 + k.g) 1 = true := by
  intro w h
  refine ⟨starts_of ?_, ?_⟩ <;> revert w <;> decide +kernel

theorem test_meets_Rearrangement : (let s := vec 0 id; let k := s.cap mdv
      (s.Vector [31, 0] ∧ s.Modes k [k.size] ∧ s.Groups k.g [7, 0, 1]) ∧ k.tyv = .flt f32 ∧ k.blocked = false) ∧
    (let s := vec 0 (mode 0 0x140); let k := s.cap mdv
      (s.Vector [31, 0] ∧ s.Modes k [k.size] ∧ s.Groups k.g [7, 0, 1]) ∧ k.tyv = .int true 32 ∧ k.rm < 5) :=
  ⟨⟨starts_of (by decide +kernel), by decide +kernel⟩, starts_of (by decide +kernel), by decide +kernel⟩

/-- ReductionsAndDot: I8, four products an element; and BF16. -/
theorem test_meets_ReductionsAndDot : ∀ v ∈ [0x1C0, 0x40], let s := vec 0 (mode 0 (.ofNat 32 v)); let k := s.cap mdv
    (s.Vector [] ∧ s.Modes k [k.size] ∧ s.Groups k.g [7, 0, 1]) ∧ k.vl ≠ 0 ∧ k.rm < 5 ∧ k.blocked = false ∧
    (v = 0x1C0 → tyIsInt k.ty = true) ∧ k.ty ≠ 3 ∧ dotD k.ty ≠ 0 ∧ k.vl ≤ s.m.me.maxvlOf 4 ∧ k.vl * dotD k.ty ≤ s.m.me.maxvlOf k.size := by
  intro v h
  refine ⟨starts_of ?_, ?_⟩ <;> revert v <;> decide +kernel

theorem test_meets_MaskOperations : let s := vec 0 id; let k := s.cap mdv
    (s.Vector [31] ∧ s.Modes k [k.size] ∧ s.Groups k.g []) ∧ k.vl ≤ s.m.me.sec * 8192 :=
  ⟨starts_of (by decide +kernel), by decide +kernel⟩

/-- Quantisers: F32 to tensor 5 and back, from a record that fits and under one that overflows; compression into another register than its
metadata. -/
theorem test_meets_Quantisers : let s := tensor (mode 0 (5 * 2 ^ 19)); let k := s.cap mdv; let t := s.m.tit s.m.cur k.tid
    let sn := s.m.snapNow (s.m.qOf s.m.cur) k.tid
    (s.Vector [31] ∧ s.Modes k [k.size] ∧ s.Groups k.g [7, 0, 1]) ∧ k.vl ≠ 0 ∧ k.ty ≤ 2 ∧ tensorCheck s.m.me k t true (7 + k.g) = .ok () ∧
    t.tyv.noFinite = false ∧ s.m.sqRoom s.m.cur 1 = true ∧ s.QuantFree k.tid ∧ s.MaySnap k.tid t sn ∧ t.rescale = 0 ∧ t.over sn = false ∧
    t.over { sn with maxabs := 0x7F000000 } = true ∧ sValid (vecAt 0 s.m.me.sreg 7) = false ∧ s.m.recReady (s.m.qOf s.m.cur) k.tid = true ∧
    tensorCheck s.m.me k t (!sValid (vecAt 0 s.m.me.sreg 7)) (0 + k.g) = .ok () ∧
    s.m.poisonAt (.pa (s.m.recAddr (s.m.qOf s.m.cur) k.tid)) 128 = none ∧
    ({ s.m with poison := [unitOf ((s.m.keyOf (s.m.recAddr (s.m.qOf s.m.cur) k.tid)).getD 0)] } : Mach).poisonAt
      (.pa (s.m.recAddr (s.m.qOf s.m.cur) k.tid)) 128 ≠ none ∧ k.g = 1 ∧ (7 : BitVec 6) ≠ 1 :=
  ⟨starts_of (by decide +kernel), by unfold State.QuantFree State.MaySnap Mach.MaySnap; decide +kernel⟩

/-- What an outer product or a move needs of its array, as one computation. -/
def tileB (s : State) (k : Cap) (n : BitVec 2) : Bool :=
  decide (n.toNat < s.m.me.accs) && (s.m.me.copyq.isEmpty && s.m.me.hold.isEmpty) && s.m.me.accPoison.isEmpty && decide (k.vl ≤ Config.tlen) && k.vl != 0

theorem tile_of {s : State} {k : Cap} {n : BitVec 2} (h : tileB s k n = true) : s.Tile k n := by
  rw [tileB, Bool.and_eq_true, Bool.and_eq_true, Bool.and_eq_true, Bool.and_eq_true] at h
  obtain ⟨⟨⟨⟨here, idle⟩, clean⟩, fits⟩, some_⟩ := h
  exact { here := of_decide_eq_true here, idle := idle_of idle, clean := List.isEmpty_iff.mp clean, fits := of_decide_eq_true fits,
          some_ := bne_iff_ne.mp some_ }

/-- What the elements of an access need, as one computation. -/
def elsB (m : Mach) (k n : Nat) (w : Win) (els : List VEl) (loc : VEl → List (Loc × Nat)) : Bool :=
  els.all fun e => decide (m.resolve m.cur k e.va n w = .ok (loc e)) && (loc e).all (fun l => apertureOf l.1 == none) && !m.chainBusy (loc e) &&
    (storeParts n [(e, loc e)]).all fun p => !m.chainBusy p.ss

theorem els_of {m : Mach} {k n : Nat} {w : Win} {els : List VEl} {loc : VEl → List (Loc × Nat)} (h : elsB m k n w els loc = true) :
    m.Els k n w els loc := by
  simp only [elsB, List.all_eq_true, Bool.and_eq_true, decide_eq_true_eq, beq_iff_eq, Bool.not_eq_true'] at h
  exact ⟨fun e he => (h e he).1.1.1, fun e he => (h e he).1.1.2, fun e he => ⟨(h e he).1.2, (h e he).2⟩⟩

/-- Whether every location of the elements is one of memory. -/
def paB (els : List VEl) (loc : VEl → List (Loc × Nat)) : Bool :=
  els.all fun e => (loc e).all fun l => match l.1 with | .pa _ => true | _ => false

theorem pa_of {els : List VEl} {loc : VEl → List (Loc × Nat)} (h : paB els loc = true) : ∀ e ∈ els, ∀ l ∈ loc e, ∃ p, l.1 = .pa p := by
  intro e he l hl
  simp only [paB, List.all_eq_true] at h
  have := h e he l hl
  cases hp : l.1 with
  | pa p => exact ⟨p, rfl⟩
  | _ => simp [hp] at this

/-- Elements that lie at the physical addresses that the one-word program maps. -/
def here (n : Nat) (e : VEl) : List (Loc × Nat) := [(.pa (0x400000000000 + e.va), n)]

/-- OuterProducts: BF16, and I8 for the sparse forms; the last array. -/
theorem test_meets_OuterProducts : (let s := vec 0 (mode 1 0x40); let k := s.cap mdm
      (s.Vector [6, 7] ∧ s.Modes k [4] ∧ s.Groups k.g [7, 0, 1]) ∧ s.Tile k 3 ∧ k.blocked = false ∧ dotD k.ty ≠ 0) ∧
    (let s := vec 0 (mode 1 0x1C0); let k := s.cap mdm
      (s.Vector [6, 7] ∧ s.Modes k [4] ∧ s.Groups k.g [7, 0, 1]) ∧ s.Tile k 3 ∧ k.blocked = false ∧ dotD k.ty = 4) ∧
    cellsWf (vec 0 id).m.me.acc = true :=
  ⟨⟨starts_of (by decide +kernel), tile_of (by decide +kernel), by decide +kernel⟩,
   ⟨starts_of (by decide +kernel), tile_of (by decide +kernel), by decide +kernel⟩, by decide +kernel⟩

/-- OuterProducts: `accop.h` with two headers of tensor 0 in the task's own scratchpad. -/
theorem test_meets_OuterProducts_header : let s := vec 0 (fun x => mode 1 0x40 x); let k := s.cap mdm
    let o := VOp.accopH 3 (s.x 6) (s.x 7)
    (s.Vector [6, 7] ∧ s.Modes k [] ∧ s.Groups k.g []) ∧ s.Tile k 3 ∧ dotD k.ty ≠ 0 ∧ k.blocked = false ∧ (opHdr (s.x 6)).tid = 0 ∧
    (opHdr (s.x 7)).tid = 0 ∧ (s.sent mdm o).hdrTypes k (opHdr (s.x 6)) (opHdr (s.x 7)) = .ok () :=
  ⟨starts_of (by decide +kernel), tile_of (by decide +kernel), by decide +kernel⟩
theorem test_meets_OuterProducts_words : let s := vec 0 (fun x => mode 1 0x40 x); let k := s.cap mdm
    let o := VOp.accopH 3 (s.x 6) (s.x 7)
    let l := fun (_ r : Nat) => [(Loc.pa (Config.pairBase + 4 * r), 4)]
    (∀ i ∈ List.range k.g, ∀ r ∈ List.range Config.tlen, (s.sent mdm o).opWord (opHdr (s.x 6)) 0 ((opHdr (s.x 6)).off i r) = .ok (l i r)) ∧
    (∀ i ∈ List.range k.g, ∀ j ∈ List.range k.vl, s.colOn k j = true ∧
      (s.sent mdm o).opWord (opHdr (s.x 7)) 0 ((opHdr (s.x 7)).off i j) = .ok (l i j)) := by decide +kernel
theorem test_meets_OuterProducts_update : let x := (vec 0 id).m.me; let k := (vec 0 id).cap mdm
    cellsWf x.acc = true ∧ k.rm < 5 ∧ (List.replicate 2 true).length = k.vl ∧ k.vl ≤ Config.tlen := by decide +kernel

/-- AccumulatorMoves: `accrd` and `accwr` on F32; `accld` of the last row. -/
theorem test_meets_AccumulatorMoves : let s := vec 0 fun x => { x67 0x2000 0 x with vstart := 127 }; let k := s.cap mdm
    let els := s.m.me.accFrom.flatMap fun r => accEls (s.x 6) k.size r ((List.range k.vl).map fun j => s.colOn k j)
    (s.Vector [6] ∧ s.Modes k [k.size] ∧ s.Groups k.g [7]) ∧ s.Tile k 3 ∧
    ((s.sent mdm (.accld 3 (s.x 6))).Els kRead k.size .all els (here k.size) ∧ s.m.Clean els (here k.size)) ∧
    (∀ e ∈ els, ∀ l ∈ here k.size e, ∀ p q, l.1 ≠ .acc p q) ∧ els ≠ [] ∧ k.ty ≤ 2 ∧ cellsWf s.m.me.acc = true :=
  ⟨starts_of (by decide +kernel), tile_of (by decide +kernel), ⟨els_of (by decide +kernel), by unfold Mach.Clean; decide +kernel⟩,
   fun e _ l hl p q => by simp only [here, List.mem_singleton] at hl; simp [hl], by decide +kernel⟩

/-- A vector state whose scratchpad reservation holds a whole array, at its last row. -/
def spad (f : Ctx → Ctx) : State := vec 0 fun x => f { x67 0xFF80000000000000 0 x with spSize := 0x10000, vstart := 127 }

/-- Elements in the task's own scratchpad window. -/
def hereSp (n : Nat) (e : VEl) : List (Loc × Nat) := [(.pa (Config.pairBase + (e.va - 0xFF80000000000000)), n)]

/-- AccumulatorMoves: `accst` of the last row under TID 0. -/
theorem test_meets_AccumulatorMoves_store : let s := spad id; let k := s.cap mdm
    let els := s.m.me.accFrom.flatMap fun r => accEls (s.x 6) k.size r ((List.range k.vl).map fun j => s.colOn k j)
    (s.Vector [6] ∧ s.Modes k [k.size] ∧ s.Groups k.g []) ∧ s.Tile k 3 ∧
    (s.sent mdm (.accst (s.x 6) 3)).Els kWrite k.size .all els (hereSp k.size) ∧
    (∀ e ∈ els, ∀ l ∈ hereSp k.size e, ∃ p, l.1 = .pa p) ∧ k.tid = 0 ∧ tidCheck (s.m.tit s.m.cur k.tid) k.tid = .ok () ∧
    s.m.sqRoom s.m.cur 5 = true ∧ els ≠ [] :=
  ⟨starts_of (by decide +kernel), tile_of (by decide +kernel), els_of (by decide +kernel), pa_of (by decide +kernel), by decide +kernel⟩

/-- The last row of a scratchpad array under tensor 5. -/
def quantised (v : BitVec 17) : State :=
  let s := spad fun x => { mode 1 (5 * 2 ^ 19) x with vstart := v }
  { s with m := s.m.titWrite 0 5 image5 }

theorem qrow_no_blocks {x : Ctx} {k : Cap} {t : Tit} {q : Quant} {a : Word} {n r : Nat} {on : List Bool} (h : t.blk = 0) :
    (x.qrow k t q a n r on).blocks = [] := by simp [Ctx.qrow, h]

/-- AccumulatorMoves: `accst.q` under tensor 5, which has no blocks, at the array's first row and at its last. -/
theorem test_meets_AccumulatorMoves_quant : ∀ v ∈ [0, 127], let s := quantised v
    let k := s.cap mdm
    let t := s.m.tit s.m.cur k.tid
    let on := (List.range k.vl).map fun j => s.colOn k j
    let els := s.m.me.accFrom.flatMap fun r => accEls (s.x 6) (tySize t.ty) r on
    (s.Vector [6] ∧ s.Modes k [] ∧ s.Groups k.g []) ∧ s.Tile k 3 ∧
    (s.sent mdm (.accstq (s.x 6) 3 7)).Els kWrite (tySize t.ty) .all els (hereSp (tySize t.ty)) ∧
    (∀ e ∈ els, ∀ l ∈ hereSp (tySize t.ty) e, ∃ p, l.1 = .pa p) ∧
    (∀ q, (s.m.me.accFrom.flatMap fun r => (s.m.me.qrow k t q (s.x 6) 3 r on).blocks) = []) ∧ s.QuantFree k.tid ∧ s.m.me.vstart = v ∧ k.tid ≠ 0 ∧ t.v = true ∧
    t.stats = true ∧ quantTy t.ty = true ∧ t.blk = 0 ∧ t.tyv.noFinite = false ∧ s.m.sqRoom s.m.cur 6 = true := by
  intro v h
  fin_cases h <;> exact ⟨starts_of (by decide +kernel), tile_of (by decide +kernel), els_of (by decide +kernel), pa_of (by decide +kernel),
    fun q => List.flatMap_eq_nil_iff.mpr fun r _ => qrow_no_blocks (by decide +kernel), by unfold State.QuantFree; decide +kernel⟩

/-- AccumulatorMoves: `vgathr` of two words of the task's scratchpad. -/
theorem test_meets_AccumulatorMoves_gather : let s := vec 0 id; let k := s.cap mdm; let h := opHdr (s.x 6)
    let o := VOp.gath 7 (s.x 6) 1
    (s.Vector [6] ∧ s.Modes k [] ∧ s.Groups k.g [7]) ∧ s.Groups 1 [1] ∧ k.rm < 6 ∧ k.vl ≠ 0 ∧ k.vl ≤ Config.tlen ∧ k.vl ≤ s.m.me.maxvlOf 4 ∧
    h.tid = 0 ∧ (∀ r ∈ List.range k.g, ∀ i ∈ List.range k.vl, s.m.me.active k i = true ∧
      (s.sent mdm o).opWord h i (h.off r (nthD 0 (s.m.me.row 1 k.vl 4) i)) = .ok [(.pa Config.pairBase, 4)]) :=
  ⟨starts_of (by decide +kernel), groups_of (by decide +kernel), by decide +kernel⟩

/-- VectorLoads and VectorStores in one: F32 elements at unit stride, a stride of 8 and an index of 0; the progress word at 0x3000. -/
def vmem : State := vec 0 (x67 0x2000 0x3000)

/-- Whether no element is poisoned, and whether every probe bank has room for the pages that the elements touch. -/
def cleanB (m : Mach) (els : List VEl) (loc : VEl → List (Loc × Nat)) : Bool := els.all fun e => m.poisonSegs 0 (loc e) == none
def fewB (m : Mach) (els : List VEl) (n : Nat) : Bool := (List.range 16).all fun i => decide ((m.bankPages els n i).length ≤ 64)

theorem clean_of {m : Mach} {els : List VEl} {loc : VEl → List (Loc × Nat)} (h : cleanB m els loc = true) : m.Clean els loc := by
  simpa [cleanB, Mach.Clean] using h

theorem few_of {m : Mach} {els : List VEl} {n : Nat} (h : fewB m els n = true) : ∀ i, i < 16 → (m.bankPages els n i).length ≤ 64 := by
  simpa [fewB] using h

/-- An access whose elements lie where the one-word program maps them, unpoisoned. -/
theorem lies_of {m p : Mach} {k n : Nat} {w : Win} {els : List VEl} {loc : VEl → List (Loc × Nat)}
    (h : (elsB m k n w els loc && cleanB p els loc) = true) : m.Els k n w els loc ∧ p.Clean els loc := by
  rw [Bool.and_eq_true] at h
  exact ⟨els_of h.1, clean_of h.2⟩

theorem test_meets_VectorLoads : let s := vmem; let k := s.cap mdl
    let els := idxElems s.m.me k (s.x 6) 1
    let ld := vElems s.m.me k k.g fun j => (s.x 6 + 0).toNat + j * k.size
    let lds := vElems s.m.me k k.g fun j => (s.x 6 + .ofNat 64 j * s.x 7).toNat
    let o := VOp.ldx 7 (s.x 6) 1
    (s.Vector [6, 7] ∧ s.Modes k [k.size, 4] ∧ s.Groups k.g [7]) ∧ s.Modes k [k.size] ∧ s.Groups 1 [1] ∧
    ((s.sent mdl (.ld 7 (s.x 6 + 0))).Els kRead k.size .all ld (here k.size) ∧ s.m.Clean ld (here k.size)) ∧
    ((s.sent mdl (.lds 7 (s.x 6) (s.x 7))).Els kRead k.size .all lds (here k.size) ∧ s.m.Clean lds (here k.size)) ∧
    (((s.sent mdl o).touchProbes k.size els).Els kRead k.size .all els (here k.size) ∧ s.m.Clean els (here k.size)) ∧
    (∀ n, n < 16 → ((s.sent mdl o).bankPages els k.size n).length ≤ 64) ∧ k.g = 1 ∧ els ≠ [] :=
  ⟨starts_of (by decide +kernel), modes_of (by decide +kernel), groups_of (by decide +kernel), lies_of (by decide +kernel),
   lies_of (by decide +kernel), lies_of (by decide +kernel), few_of (by decide +kernel), by decide +kernel⟩

theorem test_meets_VectorStores : let s := vmem; let k := s.cap mdl
    let els := idxElems s.m.me k (s.x 6) 1
    let o := VOp.stn 7 (s.x 6) (s.x 7)
    let x := VOp.stx 7 (s.x 6) 1
    (s.Vector [6, 7] ∧ s.Modes k [k.size, 4] ∧ s.Groups k.g [7]) ∧ s.Modes k [k.size] ∧ s.Groups 1 [1] ∧
    (s.sent mdl (.st 7 (s.x 6 + 0))).Els kWrite k.size .all (vElems s.m.me k k.g fun j => (s.x 6 + 0).toNat + j * k.size) (here k.size) ∧
    (s.sent mdl (.sts 7 (s.x 6) (s.x 7))).Els kWrite k.size .all (vElems s.m.me k k.g fun j => (s.x 6 + .ofNat 64 j * s.x 7).toNat) (here k.size) ∧
    (s.sent mdl o).Els kWrite k.size .all (vElems s.m.me k 1 fun j => (s.x 6).toNat + j * k.size) (here k.size) ∧
    ((s.sent mdl x).touchProbes k.size els).Els kWrite k.size .all els (here k.size) ∧
    (∀ n, n < 16 → ((s.sent mdl x).bankPages els k.size n).length ≤ 64) ∧ tidCheck (s.m.tit s.m.cur k.tid) k.tid = .ok () ∧
    s.m.sqRoom s.m.cur 5 = true ∧ s.m.mem.wf = true ∧ k.vl ≠ 0 ∧ k.tid = 0 ∧ k.g = 1 ∧
    (s.sent mdl o).progressWord ((s.x 7).toNat / 8 * 8) = .ok [(.pa 0x400000003000, 8)] ∧
    (s.sent mdl o).chainBusy [(.pa 0x400000003000, 8)] = false ∧ (s.sent mdl o).postsDue (s.m.me.vent mdl o) = false :=
  ⟨starts_of (by decide +kernel), modes_of (by decide +kernel), groups_of (by decide +kernel), els_of (by decide +kernel),
   els_of (by decide +kernel), els_of (by decide +kernel), els_of (by decide +kernel), few_of (by decide +kernel), by decide +kernel⟩

/-- VectorAtomics on I32: atomics, locks, and waits on words that hold what the register holds. -/
theorem test_meets_VectorAtomics : let s := vec 0 fun x => mode 2 0x140 (x67 0x2000 0 x); let k := s.cap mdl; let x := s.m.me
    let els := alignEls k.size (idxElems x k (s.x 6) 1)
    let els8 := alignEls 8 (idxElems x k (s.x 6) 1)
    let m := s.sent mdl (.vamo 8 7 (s.x 6) 1)
    let l := s.sent mdl (.vlock 15 (s.x 6) 1)
    (s.Vector [6] ∧ s.Modes k [k.size, 4] ∧ s.Groups 1 [7, 1]) ∧ s.Groups 1 [1, 2] ∧
    ((m.touchProbes k.size els).Els kAtomic k.size .no els (here k.size) ∧ m.Clean els (here k.size)) ∧
    ((l.touchProbes 8 els8).Els kAtomic 8 .no els8 (here 8) ∧ l.Clean els8 (here 8)) ∧
    (∀ i, i < 16 → (m.bankPages els k.size i).length ≤ 64) ∧ (∀ i, i < 16 → (l.bankPages els8 8 i).length ≤ 64) ∧
    k.vl ≠ 0 ∧ k.g = 1 ∧ (∀ i ∈ List.range 9, vamoBad i k = false) ∧ tidCheck (s.m.tit s.m.cur k.tid) k.tid = .ok () ∧
    m.recRoom (s.m.qOf s.m.cur) k.tid 5 = true ∧ els ≠ [] ∧ k.vl ≤ x.maxvlOf 4 ∧ waitvBad k = false :=
  ⟨starts_of (by decide +kernel), groups_of (by decide +kernel), lies_of (by decide +kernel), lies_of (by decide +kernel),
   few_of (by decide +kernel), few_of (by decide +kernel), by decide +kernel⟩
theorem test_meets_VectorAtomics_wait : ∀ w ∈ [false, true], let s := vec 0 fun x => mode 2 0x140 (x67 0x2000 0 x); let k := s.cap mdl; let x := s.m.me
    let els := alignEls k.size (idxElems x k (s.x 6) 1)
    let m := s.sent mdl (.waitv w 15 (s.x 6) x.wdog 1 2)
    ((m.touchProbes k.size els).Els kRead k.size .all els (here k.size) ∧ m.Clean els (here k.size)) ∧
    (∀ i, i < 16 → (m.bankPages els k.size i).length ≤ 64) ∧ ∀ el ∈ els, leVal (m.readSegs (here k.size el)) = x.elem 2 0 el.i k.size := by
  intro w h
  fin_cases h <;> exact ⟨lies_of (by decide +kernel), few_of (by decide +kernel), by decide +kernel⟩

/-- VectorAtomics: `vsint` of two lists of one word. -/
theorem test_meets_VectorAtomics_intersect : let s := vec 0 fun x => mode 2 0x140 ((x67 0x2000 1 x).wx 4 0x2000 |>.wx 5 1); let k := s.cap mdl
    let m := s.sent mdl (.vsint 9 (4 + 64 * 6) (s.x 4) (s.x 5) (s.x 6) (s.x 7))
    let p : SList := ⟨0x2000, 1, 0, m.pageOf 0 0x2000, false⟩
    let r := m.sintWalk k.tyv k.size k.vl (2 * k.vl + 1) p p 0 []
    s.Vector [9, 4, 5, 6, 7] ∧ tyCodeOk k.ty = true ∧ k.vl ≤ s.m.me.maxvlOf k.size ∧ vamoInt k.ty = true ∧ p.n ≠ 0 ∧
    okB ((m.touch 0 p.p).sintElem k.size p) = true ∧ okB (((m.touch 0 p.p).touch 0 p.p).sintElem k.size p) = true ∧
    m.resolve 0 kRead p.p (r.1.seen * k.size) .all = .ok [(.pa 0x400000002000, 4)] ∧ r.1.seen = 1 ∧ r.2.1.seen = 1 ∧
    m.chainBusy [(.pa 0x400000002000, 4)] = false :=
  ⟨vector_of (by decide +kernel), by decide +kernel⟩

/-- A partition with a banked part: pages of banks 0 and 1 stand at 1 GiB and 2 MiB above it, and bank set 9 names them. -/
def banked (f : Ctx → Ctx) : State :=
  let s := vec 0 fun x => f (x67 9 128 x)
  let parts := s.m.parts.map fun p => (p.1, { p.2 with e := { p.2.e with bklim := 1 } })
  let il := 0x400000000000
  let m := ({ s.m with parts := parts, mem := [] } : Mach).mapWord 0
  let m := (m.pokePa (il + 0x12008) (leBytes 8 (il + 0x13001))).pokePa (il + 0x13000) (leBytes 16 (0x2F + (Config.bankBytes + 0x2F) * 2 ^ 64))
  { s with m := m.bstWrite 0 9 (1 + 1 * 2 + 0x40000000 * 2 ^ 64 + 0x200000 * 2 ^ 128 + 3 * 2 ^ 192) }

/-- PluralAccess on F32: loads of the last operation and stores of both members, and one run to each. -/
theorem test_meets_PluralAccess : let s := banked id; let k := s.cap mdp
    let b : Bst := getOk ⟨false, 0, 0, 0, 0, 0⟩ (s.m.bankset 0 (s.x 6))
    let on := membersOn s.m.me k b
    let m := s.sent mdp (.pld 0 7 (s.x 6) (pluralOff (s.x 7) (7 : BitVec 3)))
    let ps := m.members 0 kPlural b (pluralOff (s.x 7) (7 : BitVec 3)).toNat k.g (fun _ => false) [] on
    let w := s.sent mdp (.pst 7 (s.x 6) (pluralOff (s.x 7) (63 : BitVec 6)))
    let qs := w.members 0 kPst b (pluralOff (s.x 7) (63 : BitVec 6)).toNat k.g (fun i => s.m.me.pdone.getLsbD i) [] on
    let o := VOp.prun 0 (s.x 6) (pluralOff (s.x 7) (63 : BitVec 6))
    let r := ((s.sent mdp o).banksetStart (s.m.me.vent mdp o) 0 (s.x 6).toNat).titStart (s.m.me.vent mdp o) 0 k.tid
    let rs := r.members 0 kPrun b (pluralOff (s.x 7) (63 : BitVec 6)).toNat 1 (fun i => s.m.me.pdone.getLsbD i) [] on
    (s.Vector [0, 6, 7] ∧ s.Groups k.g [7]) ∧ tyCodeOk k.ty = true ∧ k.rm < 6 ∧ k.ty ≠ 3 ∧ s.m.bankset s.m.cur (s.x 6) = .ok b ∧
    (∀ i ∈ List.range 4, pldBad i k = false) ∧ 64 ≤ s.m.me.maxvlOf k.size * k.size ∧ ps.length = 2 ∧
    (∀ p ∈ ps, p.bad = none ∧ (p.ss.flatMap fun w => m.readSegs w).length = 64 * k.g ∧ m.memberPoison p = none ∧
      ∀ w ∈ p.ss, m.chainBusy w = false) ∧
    tidCheck (s.m.tit 0 k.tid) k.tid = .ok () ∧ s.m.sqRoom 0 5 = true ∧ s.m.mem.wf = true ∧ qs.length = 2 ∧
    (∀ p ∈ qs, p.bad = none ∧ ∀ v ∈ p.ss, w.chainBusy v = false ∧ ∀ l ∈ v, apertureOf l.1 = none) ∧
    (∀ p ∈ rs, p.bad = none) ∧ rs.length + s.m.me.bankq.length + s.m.runsOf 0 ≤ 16 :=
  ⟨⟨vector_of (by decide +kernel), groups_of (by decide +kernel)⟩, by decide +kernel⟩

/-- A state whose cast has one group with the task in it, of kind k and parameter p; member 5 of the Troupe, and this chip, are members. -/
def grp (k p : Nat) (f : Ctx → Ctx) : State :=
  let s := vec 0 f
  let parts := s.m.parts.map fun x => (x.1, { x.2 with casts := x.2.casts.map fun y => { y with groups := [⟨k, [0], 2, p⟩] } })
  let mem := (s.m.troupe.member.set 0 { Member.absent with state := 2 }).set 5 { Member.absent with state := 2 }
  { s with m := { s.m with parts := parts, troupe := { s.m.troupe with member := mem } } }

/-- What an image of words needs, and what membership of a group needs, each as one computation. -/
def imageB (m : Mach) (win : Win) (key va w n : Nat) (loc : Nat → Loc) : Bool :=
  decide (va % w = 0 ∧ (w = 4 ∨ w = 8)) && (List.range n).all fun i =>
    decide ((m.fetched key va w (i + 1)).resolve m.cur kRead ((va + w * i) % 2 ^ 64) w win = .ok [(loc i, w)]) && apertureOf (loc i) == none &&
      (m.ownWindowReady m.cur [(loc i, w)] && !m.chainBusy [(loc i, w)] && !m.me.pluralAhead m.me.stamp [(loc i, w)] && m.me.loadMayGo [(loc i, w)]) &&
      m.poisonBuf m.cur 0 [(loc i, w)] == none
def memberB (s : State) (i kind : Nat) (g : Group) : Bool :=
  ((s.m.cast s.m.me.task.q s.m.me.task.cast).bind fun z => z.groups[i]?) == some g && g.kind == kind && kind != 0 &&
    g.mem.contains s.m.me.task.idx

theorem image_of {m : Mach} {win : Win} {key va w n : Nat} {loc : Nat → Loc} (h : imageB m win key va w n loc = true) :
    m.Image win key va w n loc := by
  rw [imageB, Bool.and_eq_true, decide_eq_true_eq] at h
  have each : ∀ i, i < n → _ := fun i hi => List.all_eq_true.mp h.2 i (List.mem_range.mpr hi)
  simp only [Bool.and_eq_true, decide_eq_true_eq, beq_iff_eq] at each
  exact { whole := h.1, here := fun i hi => (each i hi).1.1.1, local_ := fun i hi => (each i hi).1.1.2,
          clean := fun i hi => (each i hi).2, free := fun i hi => by simpa using (each i hi).1.2 }

theorem member_of {s : State} {i kind : Nat} {g : Group} (h : memberB s i kind g = true) : s.Member i kind g := by
  simp only [memberB, Bool.and_eq_true, beq_iff_eq, bne_iff_ne] at h
  obtain ⟨⟨⟨cast, kind_⟩, nonzero⟩, member⟩ := h
  exact ⟨Option.bind_eq_some_iff.mp cast, kind_, nonzero, member⟩

/-- Copies: the last TID, the highest source type, a barrier at the last word of the reservation; a gang multicast to a register
window; and a descriptor of zeros. -/
theorem test_meets_Copies_issue : let w := 64 + 4095 * 2 ^ 24 + 2 ^ 36 + 0xFF * 2 ^ 37
    (let s := grp 2 0 (x67 0x2000 (.ofNat 64 (w + 2 * 2 ^ 54)))
     s.m.me.hold.length < 16 ∧ s.ready [5, 6, 7] ∧ (s.x 7).toNat.testBit 36 = true ∧ bitsOf (s.x 7).toNat 53 37 * 16 < s.m.me.spSize ∧
       bitsOf (s.x 7).toNat 58 54 ≤ 2 ∧ bitsOf (s.x 7).toNat 35 24 ≠ 0) ∧
    (let s := grp 2 0 fun x => (x67 0x2000 (.ofNat 64 w) x).wx 5 0xFF5FFFFFFFFFFFFF
     s.m.me.hold.length < 16 ∧ s.ready [5, 6, 7] ∧ memberB s (bitsOf (s.x 7).toNat 61 54) 2 ⟨2, [0], 2, 0⟩ = true ∧
       0xFF40000000000000 ≤ (s.x 5).toNat ∧ (s.x 5).toNat < 0xFF60000000000000) := by unfold State.ready; decide +kernel
set_option maxRecDepth 100000 in
theorem test_meets_Copies_descriptor : let s := vec 0 (x67 0x2000 0); let loc := fun i => Loc.pa (0x400000002000 + 8 * i)
    s.m.Image .all 0 (s.x 6).toNat 8 16 loc ∧ s.ready [6] ∧ (s.x 6).toNat % 128 = 0 ∧ (leVal (s.m.image 8 16 loc)).testBit 36 = false :=
  ⟨image_of (by decide +kernel), by unfold State.ready; decide +kernel⟩

/-- A copy command. -/
def kopy (kind src dst len tid : Nat) : CopyCmd := ⟨kind, src, dst, len, tid, none, 0, [], 0xC0146180⟩

theorem test_meets_Copies_release :
    (let s := vec 0 fun x => { x with hold := [⟨0, 0, 0, .copy (kopy 0 0x2000 0x3000 64 0)⟩] }
     (s.m.ctx 0).hold = [⟨0, 0, 0, .copy (kopy 0 0x2000 0x3000 64 0)⟩] ∧ (s.m.ctx 0).unsafeUpTo 0 = false ∧ (s.m.ctx 0).copyq.length < 32) ∧
    (let s := vec 0 fun x => { x with hold := [⟨0, 0, 0, .cgrun 63 0x2000⟩] }
     (s.m.ctx 0).hold = [⟨0, 0, 0, .cgrun 63 0x2000⟩] ∧ (s.m.ctx 0).unsafeUpTo 0 = false ∧ (s.m.ctx 0).sb = []) := by decide +kernel

/-- A copy at the head of its queue, and a state in which context 0 has started, or is about to start, it. -/
def copyEnt (k : CopyCmd) : CopyEnt := ⟨k, 0, 0, true, 0, 0, [], [], none, false, 0, []⟩
def copying (e : CopyEnt) (f : Ctx → Ctx) : State :=
  let s := grp 2 0 fun x => f { x with copyq := [e] }
  { s with m := s.m.titWrite 0 5 image5 }

/-- Copies: a plain and a quantising one that start. -/
theorem test_meets_Copies_start : ∀ k ∈ [kopy 0 0x2000 0x3000 64 0, kopy 1 0x2000 0x3000 64 5],
    let e := { copyEnt k with started := false }
    let s := copying e id
    let t := titOf (s.m.titRaw (pairOf 0) (s.m.qOf 0) k.tid)
    (s.m.ctx 0).copyq = [e] ∧ (s.m.ctx 0).copyStop = false ∧ s.m.copyMayStart 0 e = true ∧ (k.kind = 1 → k.tid ≠ 0 ∧ t.v = true ∧
      t.stats = true ∧ quantTy t.ty = true ∧ t.tyv.noFinite = false ∧ t.over (s.m.snapNow 0 5) = false) ∧ s.m.sqRoom 0 1 = true ∧
    (s.m.ctx 0).snapReqs = [] ∧ (k.tid = 0 ∨ t.v = true) ∧ s.m.recReady (s.m.qOf 0) k.tid = true := by decide +kernel
theorem test_meets_Copies_snap : let s := copying (copyEnt (kopy 1 0x2000 0x3000 64 5)) id
    s.m.MaySnap 0 5 (titOf image5) (s.m.snapNow 0 5) := .inl (by decide +kernel)

/-- Copies: the reading and the writing of a quantising copy. -/
theorem test_meets_Copies_quantise : let e := { copyEnt (kopy 1 0x2000 0x3000 64 5) with quant := some (0, 0, false, false), tit := image5 }
    let s := copying e id
    (s.m.ctx 0).copyq = [e] ∧ s.m.portsPaid 0 = true ∧ s.m.sqRoom 0 5 = true ∧ s.m.mem.wf = true ∧
    s.m.walks.resolve 0 kRead 0x2000 64 .all true = .ok [(.pa 0x400000002000, 64)] ∧ s.m.chainBusy [(.pa 0x400000002000, 64)] = false ∧
    s.m.poisonSegs 0 [(.pa 0x400000002000, 64)] = none ∧ apertureOf (.pa 0x400000002000) = none := by decide +kernel
theorem test_meets_Copies_write : let e := { copyEnt (kopy 1 0x2000 0x3000 64 5) with pos := 16, tail := List.replicate 17 1 }
    let s := copying e id
    (s.m.ctx 0).copyq = [e] ∧ e.tail ≠ [] ∧ e.pos < e.tail.length ∧
    s.m.walks.resolve 0 kWrite 0x3010 1 .all true = .ok [(.pa 0x400000003010, 1)] ∧ s.m.chainBusy [(.pa 0x400000003010, 1)] = false := by
  decide +kernel

theorem test_meets_Copies_gang : let e := copyEnt (kopy 2 0x2000 0xFF40000000000000 64 0)
    let s := copying e id
    let off := e.cmd.dst % 2 ^ 24
    (s.m.ctx 0).copyq = [e] ∧ bitsOf e.cmd.dst 36 24 = 0 ∧ off < (s.m.ctx 0).sec * 65536 ∧ s.m.gangCtxs 0 e.cmd = [(0, some 0)] ∧
    off % (s.m.ctx 0).regBytes + e.cmd.len ≤ (s.m.ctx 0).regBytes ∧ off / (s.m.ctx 0).regBytes < (s.m.ctx 0).nregs ∧ 2 ≤ (s.m.ctx 0).maxvl ∧
    (((s.m.cast 0 0).bind fun z => z.groups[e.cmd.xf]?).map Group.gvl).getD 0 = 2 := by decide +kernel

/-- Copies: the first and the last piece of a copy of 300 bytes. -/
theorem test_meets_Copies_piece : ∀ n ∈ [0, 256], let e := { copyEnt (kopy 0 0x2000 0x3000 300 0) with pos := n }
    let s := copying e id
    let z := min (300 - n) (256 - (0x2000 + n) % 256)
    let ss := [(Loc.pa (0x400000002000 + n), z)]
    let ds := [(Loc.pa (0x400000003000 + n), z)]
    (s.m.ctx 0).copyq = [e] ∧ s.m.portsPaid 0 = true ∧ s.m.sqRoom 0 5 = true ∧ s.m.mem.wf = true ∧
    s.m.walks.resolve 0 kRead (0x2000 + n) z .all true = .ok ss ∧ s.m.chainBusy (ss ++ ds) = false ∧ s.m.poisonSegs 0 ss = none ∧
    (s.m.readSegs ss).length = z ∧ (s.m.walks.touchN 0 (0x2000 + n) z).resolve 0 kWrite (0x3000 + n) z .all true = .ok ds := by decide +kernel
theorem test_meets_Copies_done : let e := { copyEnt (kopy 0 0x2000 0x3000 300 0) with iter := 1, held := [(0, 9)], done := true }
    let s := copying e id
    (s.m.ctx 0).copyq = [e] ∧ s.m.copyPosted 0 e = false ∧ s.m.sqRoom 0 e.sums.length = true ∧ (s.m.ctx 0).status = .running ∧
    (0, 8) ∉ e.held := by decide +kernel

/-- A state with a page of member 5's aperture at 1 GiB, whose cast has one reduction group of the members p. -/
def aptG (p : Nat) (f : Ctx → Ctx) : State :=
  let s := grp 4 p fun x => f (x67 0x40000008 0 x)
  { s with m := s.m.pokePa 0x400000012008 (leBytes 8 (0xC50000000000 + 0x8F)) }

/-- The same with members 0, which is this chip, and 5. -/
def apt (f : Ctx → Ctx) : State := aptG 0x21 f

/-- LoadsAndStores: a load from member 5's aperture whose request is to go, whose reply is there, and whose member is absent; a store to it
in the curtain. -/
theorem test_meets_LoadsAndStores_aperture : let s := apt id; let m := s.reach 0 0x40000008 8; let l := Loc.pa 0xC50000000008
    s.ready [5, 6] ∧ s.ea 6 0 = 0x40000008 ∧ m.resolve s.m.cur kRead 0x40000008 8 .all = .ok [(l, 8)] ∧ apertureOf l = some (5, 8) ∧
    firstPart 0x40000008 8 = 0 ∧ s.loadFree 0x40000008 8 [(l, 8)] = true ∧ m.poisonBuf s.m.cur 0 [(l, 8)] = none ∧
    (m.me.buffered l 8).length ≠ 8 ∧ m.findReq s.m.cur m.me.pc 0 = none ∧ m.fabStalled 5 clsReq = false ∧ m.memberOk 5 = true := by
  unfold State.ready; decide +kernel
theorem test_meets_LoadsAndStores_absent : let s := apt id
    let t : State := { s with m := s.m.updTroupe fun t => { t with member := t.member.set 5 .absent } }
    let m := t.reach 0 0x40000008 8; let l := Loc.pa 0xC50000000008
    t.ready [5, 6] ∧ t.ea 6 0 = 0x40000008 ∧ m.resolve t.m.cur kRead 0x40000008 8 .all = .ok [(l, 8)] ∧ t.loadFree 0x40000008 8 [(l, 8)] = true ∧
    m.poisonBuf t.m.cur 0 [(l, 8)] = none ∧ (m.me.buffered l 8).length ≠ 8 ∧ m.findReq t.m.cur m.me.pc 0 = none ∧
    m.fabStalled 5 clsReq = false ∧ m.memberOk 5 = false := by unfold State.ready; decide +kernel
theorem test_meets_LoadsAndStores_reply : let s := apt id
    let r : FabReq := ⟨0, 0x1000, 0, 5, 0, 0, [(7, 3)], [], some [1, 2, 3, 4, 5, 6, 7, 8], none⟩
    let t : State := { s with m := s.m.updTroupe fun t => { t with reqs := [r] } }
    let m := t.reach 0 0x40000008 8; let l := Loc.pa 0xC50000000008
    t.ready [5, 6] ∧ t.ea 6 0 = 0x40000008 ∧ m.resolve t.m.cur kRead 0x40000008 8 .all = .ok [(l, 8)] ∧ t.loadFree 0x40000008 8 [(l, 8)] = true ∧
    m.poisonBuf t.m.cur 0 [(l, 8)] = none ∧ (m.me.buffered l 8).length ≠ 8 ∧ m.findReq t.m.cur m.me.pc 0 = some r ∧ r.err = none ∧
    r.data = some [1, 2, 3, 4, 5, 6, 7, 8] := by unfold State.ready; decide +kernel
theorem test_meets_LoadsAndStores_curtain : let s := apt id
    let t : State := { s with m := s.m.updTroupe fun t => { t with curtain := some ⟨1, [], [], true, false, [], [], 0⟩ } }
    let l := Loc.pa 0xC50000000008
    t.ready [5, 6] ∧ t.m.walkWaits t.m.cur 0x40000008 8 = false ∧
    (t.reach 0 0x40000008 8).resolve t.m.cur kWrite 0x40000008 8 .all = .ok [(l, 8)] ∧ (t.reach 0 0x40000008 8).curtained = true ∧
    (apertureOf l).isSome = true := by unfold State.ready; decide +kernel

/-- Fabric: a load whose request is to go, whose reply is there, and whose member is absent; a store, and its release. -/
theorem test_meets_Fabric_load : let s := apt id; let m := s.reach 0 0x40000008 8
    s.ready [5, 6] ∧ s.ea 6 0 / 8 * 8 = 0x40000008 ∧ m.apertureWord kRead 0x40000008 = .ok (5, 8) ∧ s.m.me.engineReady = true ∧
    s.m.findReq s.m.cur s.m.me.pc 0 = none ∧ s.m.fabStalled 5 clsReq = false ∧ s.m.memberOk 5 = true ∧
    s.m.walkWaits s.m.cur 0x40000008 8 = false ∧
    (let r : FabReq := ⟨0, 0x1000, 0, 5, 0, 0, [], [], some [1, 2, 3, 4, 5, 6, 7, 8], none⟩
     let t := { s with m := s.m.updTroupe fun t => { t with reqs := [r] } }
     t.m.findReq t.m.cur t.m.me.pc 0 = some r ∧ r.err = none ∧ t.m.me.engineReady = true) ∧
    (s.m.updTroupe fun t => { t with member := t.member.set 5 .absent }).memberOk 5 = false ∧ m.apertureWord kWrite 0x40000008 = .ok (5, 8) ∧
    s.m.me.hold.length < 16 ∧ s.m.curtained = false := by unfold State.ready; decide +kernel
theorem test_meets_Fabric_release : let h : HoldEnt := ⟨0, 0, 0, .fst 5 8 7 0x40000008⟩; let s := apt fun x => { x with hold := [h] }
    (s.m.ctx 0).hold = [h] ∧ (s.m.ctx 0).unsafeUpTo h.after = false ∧ (s.m.ctx 0).sb = [] ∧ (s.m.ctx 0).status = .running ∧
    s.m.fabStalled 5 clsReq = false ∧ s.m.memberOk 5 = true ∧ s.m.memberOk 63 = false := by decide +kernel

/-- Fabric: a gather from this chip and member 5, from member 5, from this chip alone, and from none; one with both replies there; a
reduction into the aperture. -/
theorem test_meets_Fabric_gather : ∀ p ∈ [0x21, 0x20, 1, 2], let s := aptG p fun x => (x.wx 6 0).wx 7 0x2000; let k := s.cap mdl
    let o := VOp.fldr 2 7 (s.x 6) (s.x 7) 6
    let here := (bitList p 64).filter fun j => j != s.m.troupe.node && s.m.memberOk j
    (s.Vector [6, 7] ∧ s.Modes k [k.size] ∧ s.Groups 1 [7]) ∧ s.Member (s.x 6).toNat 4 ⟨4, [0], 2, p⟩ ∧ k.ty ≤ 2 ∧ k.g = 1 ∧ k.rm ≠ 5 ∧ k.vl ≠ 0 ∧
    s.m.troupe.reqs = [] ∧ s.m.me.olderOut (s.m.me.vent mdl o) = false ∧ here = (if p = 0x21 ∨ p = 0x20 then [5] else []) ∧
    (s.m.troupe.node ∈ bitList p 64 ↔ p = 0x21 ∨ p = 1) ∧ (∀ j ∈ here, s.m.fabStalled j clsColl = false) ∧ k.tyv = .flt f32 ∧
    okB ((s.sent mdl o).gatherOwn (s.m.me.vent mdl o) (s.x 7).toNat (k.vl * k.size)) = true ∧
    (s.sent mdl o).inboundFrom none kRead (s.x 7).toNat (k.vl * k.size) = .ok [(.pa 0x400000002000, 8)] ∧
    s.m.chainBusy [(.pa 0x400000002000, 8)] = false ∧ s.m.poisonSegs 0 [(.pa 0x400000002000, 8)] = none := by
  intro p h
  refine ⟨starts_of ?_, member_of ?_, ?_⟩ <;> revert p <;> decide +kernel

/-- A `fldr` that waits, with the reply of member 0 there and member 5 gone. -/
def gathering : State :=
  let s := apt fun x => { x with vq := [{ x.vent mdl (.fldr 0 7 0 0 31) with stamp := 1, timer := some 9 }], stamp := 1 }
  { s with m := s.m.updTroupe fun t => { t with reqs := [⟨0, 0x1000, 0, 0, clsColl, 0, [], [], some [0, 0, 0, 0, 0, 0, 0, 0], none⟩,
      ⟨0, 0x1000, 5, 5, clsColl, 0, [], [], none, some (0x0F, 0)⟩] } }
def gatherer : VEnt := { (apt id).m.me.vent mdl (.fldr 0 7 0 0 31) with stamp := 1, timer := some 9 }

theorem test_meets_Fabric_replies : let x := gathering.m.ctx 0; let w := gatherer; let m := gathering.m.as 0
    (x.vq = [w] ∧ w.op = .fldr 0 7 0 0 31 ∧ w.timer = some 9 ∧ w.done = false ∧ w.cap.vl ≠ 0 ∧ w.cap.tyv = .flt f32 ∧ w.cap.ty ≤ 2 ∧
      w.cap.g = 1 ∧ w.cap.rm < 5 ∧ x.regOk 7 1 = true ∧ w.cap.vl ≤ x.maxvlOf w.cap.size ∧ memberB gathering 0 4 ⟨4, [0], 2, 0x21⟩ = true ∧
      x.scored [(7, 1)] = false ∧ x.windowStores w.stamp = false) ∧ m.answer w 0 0 = .data [0, 0, 0, 0, 0, 0, 0, 0] ∧ m.answer w 0 5 = .out :=
  ⟨by decide +kernel, rfl, rfl⟩
theorem test_meets_Fabric_reduce : let s := apt fun x => { x.wx 6 0x40000000 with sreg := vecSet x.sreg 7 1 }; let k := s.cap mdl
    let m := (s.sent mdl (.fred (s.x 6) 7 7)).touch s.m.cur 0x40000000
    (s.Vector [6] ∧ s.Modes k [k.size] ∧ s.Groups k.g [7]) ∧ k.vl ≠ 0 ∧ k.vl ≤ s.m.me.maxvlOf k.size ∧ k.vl * k.g * k.size ≤ 3968 ∧ k.ty ≤ 2 ∧ k.rm < 6 ∧
    s.m.me.hold = [] ∧ k.tid = 0 ∧
    (s.x 6).toNat = 0x40000000 ∧ isWindow 0x40000000 = false ∧ m.resolve s.m.cur kWrite 0x40000000 k.size .no = .ok [(.pa 0xC50000000000, 4)] ∧
    apertureOf (.pa 0xC50000000000) = some (5, 0) ∧ s.m.fabStalled 5 clsColl = false ∧ s.m.memberOk 5 = true ∧ s.m.memberOk 63 = false :=
  ⟨starts_of (by decide +kernel), by decide +kernel⟩

/-- The run of the PluralAccess state on member 0, at word 0. -/
def brun : Run := ⟨0, 0, 0, 0, 0, 0x40000000, 0, 0, 0, 2, 0, 0, 0, 0⟩

/-- A state in which NMU 0 executes that run, `bend` standing at word 511 of its store. -/
def nmuAt (f : Nmu → Nmu) : State :=
  let s := banked id
  { s with m := { s.m with nmus := [(0, f { Nmu.reset with cur := some ⟨brun, 511, 4095, true⟩ })] } }

/-- NmuInstructions: the last step before a forced yield; a row access of the first row, under one lane; an empty and a nonempty queue. -/
theorem test_meets_NmuInstructions : let s := nmuAt id; let r : NRun := ⟨brun, 511, 4095, true⟩
    let one := nmuAt fun u => { u with k := vecSet u.k 0 1, b := vecSet u.b 0 1 }
    s.Running r ∧ (0 : BitVec 1) ≠ 1 ∧ rowVa r.run 0 = 0x40000000 ∧
    s.m.chainBusy [(.pa 0, 64)] = false ∧ s.m.poisonAt (.pa 0) 64 = none ∧ s.m.sqRoom r.run.c 1 = true ∧ s.m.mem.wf = true ∧
    (let m : Mach := { s.m with seen := some r.run.age }
     m.amoAhead r.run.c = false ∧ m.rowLoc r.run kRead 0x40000000 = .ok 0 ∧ m.rowLoc r.run kWrite 0x40000000 = .ok 0) ∧
    (∀ l ∈ List.range 16, (((s.m.nmu s.m.ncur).k_ 3).getLsbD l) = true → lane ((s.m.nmu s.m.ncur).b_ 7) l = 0) ∧
    ((one.m.nmu one.m.ncur).k_ 0).getLsbD 0 = true ∧ lane ((one.m.nmu one.m.ncur).b_ 0) 0 ≠ 0 ∧
    (s.m.nmu s.m.ncur).queue = [] ∧ (s.m.nmu s.m.ncur).pend = none ∧
    (let t := nmuAt fun u => { u with queue := [r] }; (t.m.nmu t.m.ncur).queue = [r]) ∧
    (let t := nmuAt fun u => { u with queue := List.replicate 8 r }; (t.m.nmu t.m.ncur).queue = r :: List.replicate 7 r) ∧
    (let t := nmuAt fun u => { u with pend := some .down }; (t.m.nmu t.m.ncur).pend ≠ none) ∧ (s.m.ctx r.run.c).status = .running := by
  unfold State.Running; decide +kernel

/-- NmuSteps: `pmld` of the last word of a store into every NMU of the partition, and into those of bank set 9. -/
theorem test_meets_NmuSteps_pmld : ∀ e ∈ [(vec 0 id, 511 + 512, 1), (banked id, 1 * 512 + 2 ^ 19 + 9 * 2 ^ 20, 1)],
    let s := { e.1 with m := e.1.m.upd (x67 0x2000 (.ofNat 64 e.2.1)) }
    let w := (s.x 7).toNat
    imageB s.m .all 0 (s.x 6).toNat 4 e.2.2 (fun _ => .pa 0x400000002000) = true ∧ s.m.me.ready [6, 7] = true ∧ (s.x 6).toNat % 4 = 0 ∧
    bitsOf w 63 30 = 0 ∧ bitsOf w 18 9 = e.2.2 ∧ bitsOf w 8 0 + bitsOf w 18 9 ≤ 512 ∧ s.m.me.pload = none ∧ s.m.me.anyUnsafe = false ∧ s.m.runsDue 0 = false ∧
    (w.testBit 19 = true → okB (s.m.bankset 0 (.ofNat 64 (bitsOf w 29 20))) = true ∧ okB ((s.m.fetched 0 0x2000 4 1).pmldTargets 0
      (some (getOk (Bst.mk false 0 0 0 0 0) (s.m.bankset 0 (.ofNat 64 (bitsOf w 29 20)))))) = true) ∧
    (∀ u ∈ s.m.partNmus 0, (s.m.nmu u).cur = none) := by decide +kernel

/-- NmuSteps: queueing, starting, yielding, parking and unparking; the seventh activation in a window has passed. -/
theorem test_meets_NmuSteps : let r : NRun := ⟨brun, 0, 4096, true⟩
    (let s := banked fun x => { x with bankq := [brun] }
     (s.m.ctx 0).bankq = [brun] ∧ (s.m.nmu 0).queue.length < 8 ∧ (s.m.nmu 0).power = .awake ∧ (s.m.nmu 0).pend = none) ∧
    (let s := nmuAt fun u => { u with cur := none, queue := [r] }
     (s.m.nmu 0).cur = none ∧ (s.m.nmu 0).queue = [r] ∧ (s.m.nmu 0).power = .awake ∧ (s.m.nmu 0).pend = none) ∧
    (let s := nmuAt fun u => { u with cur := some r }; (s.m.nmu 0).cur = some r ∧ 4096 ≤ r.steps ∧ (s.m.nmu 0).queue.length < 8) ∧
    (let s := nmuAt fun u => { u with cur := some r, queue := List.replicate 8 r }
     (s.m.nmu 0).cur = some r ∧ (s.m.nmu 0).queue = r :: List.replicate 7 r ∧ 8 ≤ (s.m.nmu 0).queue.length) ∧
    ((nmuAt id).m.nmu 0).cur = some ⟨brun, 511, 4095, true⟩ ∧
    (let s := nmuAt fun u => { u with cur := none, pend := some .refresh }
     (s.m.nmu 0).pend = some .refresh ∧ (s.m.nmu 0).cur = none ∧ (s.m.nmu 0).power = .awake ∧ s.m.chains = [] ∧ s.m.mem.wf = true) ∧
    (let s := nmuAt fun u => { u with power := .down }; (s.m.nmu 0).power ≠ .awake ∧ s.m.poison = [] ∧ s.m.mem.wf = true) ∧
    (let s := banked id
     let m := { s.m with cycle := 100, acts := s.m.acts.set 15 (116 :: List.replicate 7 117), pacts := [⟨15, 100, false⟩] }
     m.pacts.find? (fun a => a.stack == 15 && decide (a.earliest ≤ m.cycle)) = some ⟨15, 100, false⟩ ∧
       ((nthD [] m.acts 15).filter fun (u : Nat) => decide (5 * m.cycle < u + 384)).length < 8) := by decide +kernel

/-- An operation of the kind that copies 64 bytes from base 0 to base 1, with no successor. -/
def gcopy : GOp := gopOf (64 * 2 ^ 96 + 2 ^ (128 + 48 * 7))

/-- A run of slot 63 of one operation for context 0, which waits as w says. -/
def grun (w : List (Nat × GWait)) : GRun := ⟨0, ⟨0, 0, 0, 1⟩, 0xC6006000, 0, 0, 0x2000, [0x2000, 0x3000], [0], [], w, [], 0, 0, none⟩

/-- A state whose slot 63 holds a graph of one operation o. -/
def graph (o : GOp) (f : Slot → Slot) : State :=
  let s := grp 1 0 (x67 63 0x2000)
  let k : Slot := f { Slot.free with state := 1, part := 0, ops := [o], nbase := 1, status := 0x400000004000 }
  { s with m := { s.m with slots := s.m.slots.set 63 k } }

/-- An image of one copy with two base addresses, whose record is at 0x4000, in memory. -/
def graphImage : State :=
  let img := leBytes 8 (2 * 2 ^ 12) ++ leBytes 8 0x4000 ++ leBytes 48 0 ++ leBytes 64 (2 * 2 ^ 8 + 64 * 2 ^ 96 + 1 * 2 ^ (128 + 48 * 7))
  let s := vec 0 (x67 0x2000 0)
  { s with m := s.m.pokePa 0x400000002000 img }

set_option maxRecDepth 100000 in
/-- Carousel: `cgld` of that image. -/
theorem test_meets_Carousel_load : let s := graphImage; let loc := fun i => Loc.pa (0x400000002000 + 8 * i)
    s.m.Image .no 0 (s.x 6).toNat 8 16 loc ∧
    (let v := leVal (s.m.image 8 8 loc)
     let ops := (blocksOf 64 1 ((s.m.image 8 16 loc).drop 64)).map fun b => gopOf (leVal b)
     s.m.me.ready [5, 6] = true ∧ (s.x 6).toNat % 64 = 0 ∧ s.m.me.engineReady = true ∧ bitsOf v 11 0 = 0 ∧
     bitsOf v 15 12 = 2 ∧ bitsOf v 63 16 = 0 ∧ bitsOf v 511 128 = 0 ∧ bitsOf v 127 64 = 0x4000 ∧
     ((s.m.fetched 0 0x2000 8 16).touchN 0 0x4000 64).resolve 0 kWrite 0x4000 64 .no = .ok [(.pa 0x400000004000, 64)] ∧
     (s.m.keyOf 0x400000004000).isSome = true ∧ ops.length = 1 ∧ ops.all (fun o => o.legal 0 2) = true ∧ graphOk ops = true ∧
     s.m.findSlot 0 = some 0) := ⟨image_of (by decide +kernel), by decide +kernel⟩

/-- Carousel: running and freeing the last slot; the start of a run; an operation that is ready. -/
theorem test_meets_Carousel : let s := graph gcopy id
    s.m.me.ready [6, 7] = true ∧ (s.x 6).toNat = 63 ∧ (s.m.slot 63).state = 1 ∧ (s.m.slot 63).part = s.m.qOf 0 ∧ isWindow (s.x 7).toNat = false ∧
    s.m.me.hold.length < 16 ∧ s.m.me.ready [6] = true ∧ s.m.me.engineReady = true ∧ (s.m.slot 63).run = none ∧ (s.m.slot 63).wait = [] ∧
    (let t := graph gcopy fun k => { k with wait := [grun []] }
     let k := t.m.slot 63
     k.wait = [grun []] ∧ k.run = none ∧ k.state = 1 ∧ k.part = t.m.qOf 0 ∧
     t.m.walks.resolve 0 kRead 0x2000 16 .no = .ok [(.pa 0x400000002000, 16)] ∧ t.m.chainBusy [(.pa 0x400000002000, 16)] = false) ∧
    (let t := graph gcopy fun k => { k with run := some (grun []) }
     (t.m.slot 63).run = some (grun []) ∧ (t.m.slot 63).ops[0]? = some gcopy ∧ ((t.m.slot 63).waiting gcopy.unit).head? = some 0 ∧
       (∀ i ∈ List.range 63, (t.m.slot i).waiting gcopy.unit = []) ∧ (t.m.ready.filter fun r => r.1 == gcopy.unit).length < 256) := by
  decide +kernel

/-- A state in which operation 0 of slot 63 waits as w says, at the head of its unit's ready queue. -/
def firing (o : GOp) (w : GWait) (f : Slot → Slot) : State :=
  let s := graph o fun k => f { k with run := some (grun [(0, w)]) }
  { s with m := { s.m with ready := [(o.unit, 63, 0)], cycle := 1200000 } }

/-- What an engine needs to read, or to write, n bytes at va, which the one-word program maps. -/
def seesB (m : Mach) (kd va n : Nat) : Bool :=
  decide (m.walks.resolve 0 kd va n .no = .ok [(.pa (0x400000000000 + va), n)]) && !m.chainBusy [(.pa (0x400000000000 + va), n)] &&
    m.poisonSegs 0 [(.pa (0x400000000000 + va), n)] == none

/-- Carousel: a copy, a combine of two gates and a multicast that act, a receive that begins to wait, and one whose peer was absent. -/
theorem test_meets_Carousel_acts : ∀ p ∈ [(gcopy, none, []), ({ gcopy with kind := 5, nin := 2 }, none, []), ({ gcopy with kind := 2 }, some 32, [5]),
      ({ gcopy with kind := 4, peer := 5 }, none, [5]), ({ gcopy with kind := 4, peer := 5 }, none, [])],
    let o := p.1; let w := GWait.ready 7 p.2.1 p.2.2; let s := firing o w id; let g := grun [(0, w)]
    (s.m.slot 63).run = some g ∧ (s.m.slot 63).ops[0]? = some o ∧ (g.waits.find? fun w => w.1 == 0).map Prod.snd = some w ∧
    s.m.readyFirst o.unit 63 0 = true ∧ s.m.sqRoom g.c 5 = true ∧
    (∀ j ∈ List.range 7, g.addr o j = 0x2000 ∧ seesB s.m kRead (g.addr o j) o.len = true ∧ seesB s.m kRead (g.addr o j) 8 = true) ∧
    seesB s.m kWrite (g.addr o 7) 64 = true ∧ o.len = 64 ∧ o.tid = 0 ∧ takeHeld 0 (s.m.slot 63).held = none := by
  decide +kernel

/-- Carousel: the last packet of a send, its acknowledgement, and a receive that is too late and whose arrival is there; the end of a run. -/
theorem test_meets_Carousel_send : let o := { gcopy with kind := 3, peer := 5 }; let s := firing o (.sends none [(5, 0)] []) id
    s.m.memberOk 5 = true ∧ s.m.fabStalled 5 clsColl = false ∧ o.len - 0 ≤ packetMax ∧ seesB s.m kRead 0x2000 (o.len - 0) = true ∧
    (firing { gcopy with kind := 3 } (.acks [(5, 0)]) id).m.troupe.txq.isEmpty = true := by decide +kernel
theorem test_meets_Carousel_late : ∀ w ∈ [GWait.arrival 0, .ready 0 none [5]], let s := firing { gcopy with kind := 4 } w id
    0 + 1200000 ≤ s.m.cycle ∧ takeHeld 0 (s.m.slot 63).held = none := by decide +kernel
theorem test_meets_Carousel_arrived : ∀ w ∈ [GWait.arrival 0, .ready 0 none [5]], let o := { gcopy with kind := 4 }
    let h : Arrived := ⟨5, 0, List.replicate 64 (7 : Byte), true, false⟩
    let s := firing o w fun k => { k with held := [h] }
    (s.m.slot 63).held = [h] ∧ takeHeld 0 [h] = some (h, []) ∧ h.psn = false ∧ o.tid = 0 ∧ s.m.sqRoom 0 5 = true ∧
    s.m.readyFirst o.unit 63 0 = true ∧ seesB s.m kWrite ((grun []).addr o 7) (h.bytes.take o.len).length = true := by decide +kernel
theorem test_meets_Carousel_end : let g := { grun [] with done := [0] }; let s := graph gcopy fun k => { k with run := some g }
    (s.m.slot 63).run = some g ∧ (s.m.slot 63).ops.length ≤ g.done.length ∧ (s.m.ctx g.c).status = .running := by decide +kernel

/-- The bytes of a legal header of one task whose entry is 0x1000, with the groups' image at address g (co-resident then). -/
def hdrBytes (g : Nat) : List Byte :=
  leBytes 8 0x1000 ++ leBytes 8 0x2000 ++ leBytes 8 (2 ^ 32) ++ leBytes 8 g ++ leBytes 8 7 ++ leBytes 11 (if g = 0 then 0 else 2 ^ 16) ++
  leBytes 1 1 ++ leBytes 204 0

/-- A group image of one gang of task 0 alone. -/
def groupBytes : List Byte := leBytes 64 1 ++ leBytes 64 (2 + 4 * 2 ^ 16)

/-- A state with those images at 0x2000 and 0x2800. -/
def launching (g : Nat) : State :=
  let s := grp 1 0 (x67 0x2000 0)
  { s with m := (s.m.pokePa 0x400000002000 (hdrBytes g)).pokePa 0x400000002800 groupBytes }

/-- Where the image at 0x2000 and the groups' image at 0x2800 lie. -/
def at2000 (i : Nat) : Loc := .pa (0x400000002000 + 8 * i)
def at2800 (i : Nat) : Loc := .pa (0x400000002800 + 8 * i)

/-- The partition of the tests. -/
def thePart (s : State) : Part := (s.m.part 0).getD ⟨wordPart, [], 0, 0, 0, [], []⟩

theorem some_get {α : Type} {o : Option α} (d : α) (h : o.isSome = true) : o = some (o.getD d) := by
  cases o with
  | none => simp at h
  | some v => rfl

/-- LaunchAndPlacement: `lnch` of a header without groups, and of one with a group image. -/
def lnchB (g : Nat) : Bool :=
  let s := launching g
  let h := leVal (s.m.image 8 32 at2000)
  let k := taskHdr h
  s.m.me.ready [5, 6] && s.m.me.engineReady && s.m.me.vq.isEmpty && (s.m.part 0).isSome && s.m.qOf s.m.cur == 0 && (s.x 6).toNat == 0x2000 &&
    decide ((thePart s).pending < 128) && imageB s.m .no 0 0x2000 8 32 at2000 &&
    (hdrCheck h (pePairs (thePart s).e).length).isNone && !s.m.noFit 0 k && k.groups == g
theorem test_meets_LaunchAndPlacement_lnch : lnchB 0 = true ∧ lnchB 0x2800 = true := by decide +kernel
theorem test_meets_LaunchAndPlacement_groups : let s := launching 0x2800
    (taskHdr (leVal (s.m.image 8 32 at2000))).cor = true ∧ groupCount (leVal (s.m.image 8 8 at2800)) = some 1 ∧
    imageB (s.m.fetched 0 0x2000 8 32) .no 64 0x2800 8 16 at2800 = true ∧
    groupsOf 1 ((blocksOf 64 1 ((s.m.image 8 16 at2800).drop 64)).map leVal) = some [⟨2, [0], 4, 0⟩] := by decide +kernel

/-- LaunchAndPlacement: a host launch that is accepted, with and without groups, and one whose header does not translate. -/
def hosted (g : Nat) : State := { launching g with plat := { State.reset.plat with stage := 7 } }
def marked (s : State) (g : LaunchMsg) : State := { s with m := s.m.launchMarks g }
def sawB (s : State) (va n : Nat) : Bool :=
  let iod := s.m.setCtx iodCtx { Ctx.reset with task := ⟨0, 0, 0, 0⟩ }
  decide (iod.resolve iodCtx kRead va n .no = .ok [(.pa (0x400000000000 + va), n)]) && s.m.poisonSegs 0 [(.pa (0x400000000000 + va), n)] == none
theorem test_meets_LaunchAndPlacement_host : (∀ g ∈ [0, 0x2800], let s := marked (hosted g) ⟨0, 63, 0x2000, 0xC50000000010⟩
      let k := taskHdr (leVal (s.m.readSegs [(at2000 0, 256)]))
      s.plat.stage = 7 ∧ s.plat.responder = false ∧ (thePart s).pending < 128 ∧ s.m.streamRoom (complMember 0xC50000000010) clsLaunch 1 = true ∧
      sawB s 0x2000 256 = true ∧ hdrCheck (leVal (s.m.readSegs [(at2000 0, 256)])) (pePairs (thePart s).e).length = none ∧
      s.m.noFit 0 k = false ∧ k.groups = g ∧ k.cor = (g != 0)) ∧
    (let s := marked (hosted 0x2800) ⟨0, 63, 0x2000, 0xC50000000010⟩
     sawB s 0x2800 64 = true ∧ sawB s 0x2800 128 = true ∧ groupCount (leVal (s.m.readSegs [(at2800 0, 64)])) = some 1 ∧
       groupsOf 1 ((blocksOf 64 1 ((s.m.readSegs [(at2800 0, 128)]).drop 64)).map leVal) = some [⟨2, [0], 4, 0⟩]) ∧
    (marked (hosted 0) ⟨0, 63, 0x40000000, 0xC50000000010⟩).m.hostCheck ⟨0, 63, 0x40000000, 0xC50000000010⟩ = .error 6 := by decide +kernel

/-- A header of the last task count of a pair's four contexts, streaming or co-resident, and a state with a cast of it pending. -/
def pending (cor : Bool) : State :=
  let h : Hdr := ⟨0x1000, 0x2000, 2 ^ 32, 0, 7, 2, cor, true, 0, 0, 0, 0, 2, 0x1000, 1⟩
  let s := vec 0 id
  let parts := s.m.parts.map fun x => (x.1, { x.2 with casts := x.2.casts ++ [⟨1, h, .host 0 1, 0, 0, 0, 0, [], [], false⟩], nextCast := 2 })
  { s with m := { s.m with parts := parts, windows := s.m.windows ++ [⟨.host 0 1, 2, 0, [], [], false⟩] } }

/-- LaunchAndPlacement: a streaming cast, and a co-resident one, that can be placed. -/
theorem test_meets_LaunchAndPlacement_place :
    (let s := pending false
     ∃ p, s.m.part 0 = some p ∧ p.held = 0 ∧ s.m.mem.wf = true ∧ ∃ k c base, (unblocked p.waiting).findSome? (fun k => (s.m.nextPlace 0 k).map fun c => (k, c)) =
       some (k, c, base) ∧ c = 1) ∧
    (let s := pending true
     ∃ p, s.m.part 0 = some p ∧ p.held = 0 ∧ (unblocked p.waiting).all (fun k => (s.m.nextPlace 0 k).isNone) = true ∧
       ∃ k, p.waiting.find? (fun k => k.hdr.cor) = some k ∧ s.m.inWindow k (k.hdr.ntasks - 1) = true ∧
         ∃ m, s.m.placeAll 0 k.id k.hdr k.hdr.ntasks 0 = some m) := by
  refine ⟨⟨thePart (pending false), by decide +kernel, by decide +kernel, by decide +kernel,
    ((pending false).m.cast 0 1).getD ⟨0, wordHdr, .host 0 0, 0, 0, 0, 0, [], [], false⟩, 1, 0x1000, by decide +kernel, rfl⟩,
    ⟨thePart (pending true), by decide +kernel, by decide +kernel, by decide +kernel,
     ((pending true).m.cast 0 1).getD ⟨0, wordHdr, .host 0 0, 0, 0, 0, 0, [], [], false⟩, by decide +kernel, by decide +kernel,
     Option.isSome_iff_exists.mp (by decide +kernel)⟩⟩

/-- Completion: the next report of a task's window and of a host's; a record to be rewritten; `lwait` with a report and without one; a
sleeping `lwait` whose report has come, and one whose time is up. -/
theorem test_meets_Completion : let r : Report := ⟨2, 5, 65535, true, 0xFF⟩; let l := Launcher.task 0 0 0
    let s := vec 0 (x67 0 0)
    let win := fun (w : Window) (x : Ctx → Ctx) => let s := vec 0 x; ({ s with m := { s.m with windows := [w] } } : State)
    let w : Window := ⟨l, 4, 2, [r], [], false⟩
    ((win w id).m.windows.find? (fun w => w.l == l) = some w ∧ w.ended.find? (fun r => r.seq == w.base) = some r ∧ w.dead = false) ∧
    (let h : HostRec := ⟨0, 63, 5, 0xC50000000010, 1, 0, 0, 0xFFFFFFFF, true⟩
     ([h].find? fun h => h.q == 0 && h.slot == 63 && h.dirty) = some h ∧ s.m.streamRoom (complMember h.addr) clsLaunch 1 = true) ∧
    s.m.me.ready [5, 6] = true ∧ s.m.takeReport.isNone = true ∧ s.m.me.sleep = none ∧ s.m.me.anyUnsafe = false ∧
    (let u : Window := ⟨l, 4, 3, [], [r], false⟩
     (win u id).m.windows.find? (fun w => w.l == .task 0 0 0) = some u ∧ u.unread = r :: []) ∧
    (let u : Window := ⟨l, 4, 3, [], [r], false⟩
     let z : Sleep := ⟨.report 5 6, 100, 100⟩
     let t := win u fun x => { x with sleep := some z }
     (t.m.ctx 0).status = .running ∧ (t.m.ctx 0).sleep = some z ∧ ((t.m.as 0).takeReport).isSome = true ∧
       (let e := win ⟨l, 4, 3, [], [], false⟩ fun x => { x with sleep := some z }
        (e.m.ctx 0).sleep = some z ∧ z.timeout ≤ z.timer ∧ (e.m.as 0).woken z.on = false)) := by decide +kernel

/-- A state with bytes at 0x2000, and X6 and X7 set. -/
def img (bs : List Byte) (v w : Word) : State := let s := vec 0 (x67 v w); { s with m := s.m.pokePa 0x400000002000 bs }

/-- Tables: the last tensor and bank set, from images of a scalar tensor and of sixty-four members. -/
theorem test_meets_Tables_define :
    (let s := img (leBytes 64 image5) 4095 0x2000
     s.m.me.ready [6, 7] = true ∧ s.m.me.tableReady = true ∧ (s.x 7).toNat % 64 = 0 ∧ (s.x 6).toNat % 4096 ≠ 0 ∧ s.m.me.status = .running ∧
       imageB s.m .all 0 0x2000 8 8 at2000 = true ∧ titImageBad (leVal (s.m.image 8 8 at2000)) = false) ∧
    (let s := img (leBytes 32 (1 + 63 * 2 + 0x40000000 * 2 ^ 64 + 0x200000 * 2 ^ 128 + (2 ^ 64 - 1) * 2 ^ 192)) 1023 0x2000
     (s.x 7).toNat % 32 = 0 ∧ (s.x 6).toNat < 1024 ∧ imageB s.m .all 0 0x2000 8 4 at2000 = true ∧
       bstImageBad (leVal (s.m.image 8 4 at2000)) = false) := by decide +kernel

/-- Tables: `strs` and `strd` of tensor 5, and `tldf` of a tensor of the narrow float. -/
theorem test_meets_Tables_records : let s := tensor (x67 5 0x2000)
    let mark := fun (m : Mach) i => m.countKey (15 - i) fun m => m.touchN 0 (0x2000 + 8 * i) 8
    s.m.me.ready [6, 7] = true ∧ s.m.me.ready [6] = true ∧ (s.m.tit 0 5).v = true ∧ (s.m.tit 0 5).stats = true ∧ s.m.me.tableReady = true ∧
    s.m.deltasTo (s.m.qOf s.m.cur) 5 = false ∧ (s.x 7).toNat % 128 = 0 ∧ (s.x 6).toNat = 5 ∧ s.m.recReady 0 5 = true ∧ s.m.me.sb.length ≤ 16 ∧
    s.m.poisonAt (.pa (s.m.recAddr 0 5)) 128 = none ∧
    s.m.sqRoom 0 5 = true ∧ s.m.sentTids 0 = false ∧
    s.m.windowCheck 0 0x2000 = .ok () ∧ s.m.curtained = false ∧
    (∀ i ∈ List.range 16, let m := (List.range i).foldl (fun m j => (mark m j).buffer .store (0x2000 + 8 * j)
        (segBytes [(at2000 j, 8)] (leBytes 8 (s.m.record 0 5 / 2 ^ (64 * j) % 2 ^ 64)))) ((s.m.titFill 0 5).ownRead (s.m.recAddr 0 5) 128)
      m.walkWaits 0 (0x2000 + 8 * i) 8 = false ∧ (mark m i).resolve 0 kWrite (0x2000 + 8 * i) 8 .all = .ok [(at2000 i, 8)] ∧ s.m.ownWindowReady 0 [(at2000 i, 8)] = true) ∧
    (let t := vec 0 (x67 5 0)
     ((t.m.titWrite 0 5 (1 + 3 * 2 + (4 + 3 * 8) * 2 ^ 8 + 2 ^ 128)).tit 0 5).v = true ∧
       ((t.m.titWrite 0 5 (1 + 3 * 2 + (4 + 3 * 8) * 2 ^ 8 + 2 ^ 128)).tit 0 5).ty = 3) := by decide +kernel

/-- Groups, TlbInvalidation: a group that holds the task; addresses at the end of the canonical range and one above it. -/
theorem test_meets_Groups : let s := grp 1 0 (x67 0x100 0)
    s.Member ((s.x 6).toNat % 256) 1 ⟨1, [0], 2, 0⟩ ∧ s.m.me.ready [5, 6] = true ∧ s.m.me.ready [5, 6, 7] = true :=
  ⟨member_of (by decide +kernel), by decide +kernel⟩

theorem test_meets_TlbInvalidation : (let s := vec 0 (x67 0x00FFFFFFFFFFFFFF 0); s.m.me.ready [6] = true ∧ isCanonical (s.x 6).toNat = true) ∧
    (let s := vec 0 (x67 0x0100000000000000 0); s.m.me.ready [6] = true ∧ isCanonical (s.x 6).toNat = false) := by decide +kernel

/-- Requests: every code with its operand at an end of its range; a PC that is not the partition's; codes that are none. -/
theorem test_meets_Requests : (∀ e ∈ ([(1, 0), (2, 255), (3, 0), (4, 400), (5, 0)] : List (Nat × Nat)),
      let s := vec 0 (x67 (.ofNat 64 e.1) (.ofNat 64 e.2))
      s.m.me.ready [6, 7] = true ∧ s.m.me.anyUnsafe = false ∧ (s.x 6).toNat = e.1) ∧
    (vec 0 id).m.ownsPc 0 0 = true ∧ (vec 0 id).m.ownsPc 0 1023 = false ∧ (vec 0 id).plat.tripped = false ∧ (1200 : Nat) % 100 = 0 ∧
    (let s := vec 0 (x67 6 0); 5 < (s.x 6).toNat) ∧ (let s := vec 0 id; 0 = (s.x 6).toNat) := by decide +kernel

/-- The entry at the head of the queue of such a state, and with a waiting time of t and a plan that is counted. -/
def ent (md : Nat) (o : VOp) (f : VEnt → VEnt) : VEnt := f { (vec 0 id).m.me.vent md o with stamp := 1 }
def timed (t : Nat) (raw : Option Nat) (v : VEnt) : VEnt := { v with timer := some t, prog := { v.prog with counted := true, bst := raw } }

/-- QueueSteps: an instruction at its fault-safe point, one that traps, one that is done, a fence, a pending trap, a snapshot that is asked
for. -/
theorem test_meets_QueueSteps :
    (let s := queued (.un 0 1 2) mdv id; let e := ent mdv (.un 0 1 2) id
     (s.m.ctx 0).vq = e :: [] ∧ (s.m.ctx 0).status = .running ∧ e.done = false ∧ (e.op.walks && (s.m.trying 0 e).amoAhead 0) = false ∧
       (match vrun ((s.m.trying 0 e).updCtx 0 fun x => { x with vstall := 0 }) e with
        | .ok m => (m.ctx 0).vq.head?.any fun v => v.stamp == e.stamp
        | _ => false) = true) ∧
    (let e := ent mdl (.ld 7 0x2000) id
     let s := vec 0 fun x => { x with vq := [e], stamp := 1, sb := [⟨0, 0, .amo 0 5 1 0 0x1000, 0x3000, 0, [(.pa 0x400000003000, [])]⟩] }
     (e.op.walks && (s.m.trying 0 e).amoAhead 0) = true) ∧
    (let e := ent mdv (.un 0 1 2) fun v => { v with done := true }
     ((queued (.un 0 1 2) mdv fun v => { v with done := true }).m.ctx 0).vq = e :: [] ∧ e.done = true) ∧
    (let e := { (vec 0 (mode 0 0x3C0)).m.me.vent mdv (.un 0 1 2) with stamp := 1 }
     (match vrun (((vec 0 fun x => { x with vq := [e], stamp := 1 }).m.trying 0 e).updCtx 0 fun x => { x with vstall := 0 }) e with
      | .error (.trap f m) => !(((m.vectorTrap 0 e f).settle 0).ctx 0).vq.head?.any VEnt.waits
      | _ => false) = true) ∧
    (let e := ent mdv (.qfence 4) id
     let s := vec 0 fun x => { x with vq := [e], stamp := 1, copyq := [⟨⟨0, 0x2000, 0x3000, 64, 0, none, 0, [], 0⟩, 0, 0, true, 0, 0, [], [], none, false, 0, []⟩] }
     (match vrun ((s.m.trying 0 e).updCtx 0 fun x => { x with vstall := 0 }) e with
      | .error (.wait m) => !(m.ctx 0).vq.head?.any VEnt.waits
      | _ => false) = true) ∧
    (let e := ent mdv (.fence 3) fun v => { v with safe := true }
     let a := { ent mdv (.un 0 1 2) id with stamp := 2 }
     let s := vec 0 fun x => { x with vq := [e, a], stamp := 2, bankq := [⟨0, 0, 0, 0, 0, 0x40000000, 0, 0, 0, 2, 0, 0, 0, 0⟩] }
     e.waits = true ∧ a.op.arith = true ∧ a.done = false ∧
     (match vrun ((s.m.trying 0 e).updCtx 0 fun x => { x with vstall := 0 }) e with
      | .error (.wait m) => decide ((m.ctx 0).vq = [e, a]) && okB (vrun (m.trying 0 a) a)
      | _ => false) = true) ∧
    ((queued (.fence 2) mdv id).m.ctx 0).vq = ent mdv (.fence 2) id :: [] ∧
    (let s := vec 0 fun x => { x with pendTrap := some (fltConfig 0x13 0, 0x1000, 0) }
     (s.m.ctx 0).pendTrap = some (fltConfig 0x13 0, 0x1000, 0) ∧ (s.m.ctx 0).anyUnsafe = false ∧ (s.m.ctx 0).status = .running) ∧
    (let r : SnapReq := ⟨false, 1, 4095, none⟩; let s := vec 0 fun x => { x with snapReqs := [r] }
     r ∈ (s.m.ctx 0).snapReqs ∧ s.m.recReady (s.m.qOf 0) 4095 = true) := by decide +kernel

/-- QueueSteps: a `waitv` whose words have landed and whose time is up. -/
theorem test_meets_QueueSteps_waitv : let o := VOp.waitv true 15 0x2000 9 1 2
    let s := queued o 2 (timed 9 none); let e := ent 2 o (timed 9 none)
    let M := s.m.trying 0 e; let els := alignEls e.cap.size (idxElems (s.m.ctx 0) e.cap 0x2000 1)
    s.m.MayGoOn 0 e [1, 2] [e.cap.size, 4] ∧ (M.Els kRead e.cap.size .all els (here e.cap.size) ∧ M.Clean els (here e.cap.size)) ∧
    (∀ i, i < 16 → (M.bankPages els e.cap.size i).length ≤ 64) ∧ (s.m.ctx 0).vq = [e] ∧ waitvBad e.cap = false ∧ e.prog.counted = true ∧
    (s.m.ctx 0).sleep = none ∧ (9 : Word).toNat ≤ 9 ∧ M.amoAhead 0 = false ∧
    (∀ el ∈ els, (e.sat.testBit el.i || decide (leVal (M.readSegs (here e.cap.size el)) = (s.m.ctx 0).elem 2 0 el.i e.cap.size)) = true) := by
  refine ⟨⟨?_, ?_, ?_, ?_, ?_, ?_, ?_, ?_⟩, lies_of (by decide +kernel), few_of (by decide +kernel), by decide +kernel⟩ <;> decide +kernel

/-- QueueSteps: a plural load at BANKTO. -/
theorem test_meets_QueueSteps_pld : let raw := 1 + 1 * 2 + 0x40000000 * 2 ^ 64 + 0x200000 * 2 ^ 128 + 3 * 2 ^ 192
    let o := VOp.pld 0 7 9 128
    let e := { (banked id).m.me.vent mdp o with stamp := 1, timer := some 20000, prog := ⟨true, none, 0, 0, none, some raw, []⟩ }
    let s := banked fun x => { x with vq := [e], stamp := 1 }; let x := s.m.ctx 0; let k := e.cap; let M := s.m.trying 0 e
    let ps := M.members 0 kPlural (bstOf raw) 128 k.g (fun _ => false) [] (membersOn x k (bstOf raw))
    x.vq = [e] ∧ x.banko.toNat ≤ 20000 ∧ e.prog.got = [] ∧ M.amoAhead 0 = false ∧ x.regOk 7 k.g = true ∧ tyCodeOk k.ty = true ∧ 64 ≤ x.maxvlOf k.size * k.size ∧ pldBad 0 k = false ∧
    k.rm < 6 ∧ k.ty ≠ 3 ∧ x.scored [(7, k.g)] = false ∧ x.windowStores e.stamp = false ∧ M.storeAhead e ps = false ∧ ps.length = 2 ∧
    (∀ p ∈ ps, p.bad = none) ∧ x.thandler ≠ 0 ∧ e.first = false ∧ x.halted = false := by decide +kernel

/-- HomeSteps: a store of two parts that is performed, a `tbinit`, a `tbexp` and an atomic; deltas to a record and to none; a chain. -/
theorem test_meets_HomeSteps : (∀ o ∈ [SbOp.store, .tbinit 1, .tbexp 1, .amo 0 5 1 0 0x1000],
      let e : SbEnt := ⟨0, 0, o, 0x2000, 0, [(.pa 0x400000002000, [1, 2, 3, 4]), (.pa 0x400000002008, [5])]⟩
      let s := vec 0 fun x => { x with sb := [e] }
      (s.m.ctx 0).status = .running ∧ (s.m.ctx 0).sb = e :: [] ∧ (s.m.ctx 0).unsafeUpTo e.after = false ∧ s.m.chainBusy e.touches = false ∧
        (s.m.ctx 0).pluralAhead e.after e.touches = false ∧ (s.m.ctx 0).xpAhead e.after = false ∧ s.m.poisonSegs 0 [(.pa 0x400000002000, 8)] = none ∧ ∀ g ∈ e.segs, apertureOf g.1 = none) ∧
    (∀ q ∈ [0, 63], let d : Delta := ⟨q, 5, 0, 0, 0, [], false, false, false, none, 0⟩
      let s := tensor id; let m := s.m.updPair 0 fun p => { p with sq := [d] }
      (m.pair 0).sq = d :: [] ∧ (m.ctx d.c).status = .running ∧ (m.recWord q 5).isSome = (q == 0) ∧ m.chainRoom ((m.recWord q 5).getD 0) = true ∧
        (q = 0 → let w := (m.recWord 0 5).getD 0
          ({ m with chains := [⟨portOf w, w, List.replicate 32 (.delta d none)⟩] } : Mach).recWord 0 5 = some w ∧
          ({ m with chains := [⟨portOf w, w, List.replicate 32 (.delta d none)⟩] } : Mach).chainRoom w = false)) ∧
    (let ch : Chain := ⟨7, 0, [.delta ⟨0, 5, 0, 0, 0, [], false, false, false, none, 0⟩ (some 0), .add 0 2 0 0 1 0 0]⟩
     let s := tensor id; let m := { s.m with chains := [ch] }
     m.chains.find? (fun ch => ch.port == 7 && m.chainFits ch) = some ch ∧ (m.ctx 0).status = .running) := by decide +kernel

/-- A sub-link that is up, with one flit in its replay buffer sent n times, and another. -/
def linked (n : Nat) (f : Sublink → Sublink) : State :=
  { State.reset with m := { Mach.reset with links := [f { freshLink 0 1 with replay := [(4095, 0, n)] }, freshLink 4 4] } }

set_option maxRecDepth 100000 in
/-- LinksAndPackets: flits that are good and next, good and not next, idle, and bad; replays that do and do not exhaust a flit. -/
theorem test_meets_LinksAndPackets_flits : let k := freshLink 0 1
    (linked 0 id).m.link 0 = some { k with replay := [(4095, 0, 0)] } ∧ k.up = true ∧ k.discard = false ∧
    flitBad (k.flitOf 255 1 0 7) = false ∧ bitsOf (k.flitOf 255 1 0 7).toNat 15 12 = 1 ∧ bitsOf (k.flitOf 255 1 0 7).toNat 11 0 = k.rxl.toNat ∧
    bitsOf (k.flitOf 0 1 4095 0).toNat 11 0 ≠ k.rxl.toNat ∧ flitBad (k.flitOf 0 0 0 0) = false ∧ bitsOf (k.flitOf 0 0 0 0).toNat 15 12 = 0 ∧
    flitBad 0x8000 = true ∧ (linked 0 fun k => { k with discard := true }).m.link 0 = some { k with replay := [(4095, 0, 0)], discard := true } ∧
    ((4095 : BitVec 12) - 2048).toNat = 2047 ∧ ((0 : BitVec 12) - 2048).toNat = 2048 ∧ 14 + 1 < 16 ∧ 16 ≤ 15 + 1 := by decide +kernel

/-- A packet of member 5 for class cls with sequence number q, of this generation, with a right tag in machine m. -/
def pkt5 (m : Mach) (cls q len : Nat) (o : FabOp) : Packet := let h := hdrOf cls 5 0 0 q len none false; ⟨h, o, m.troupe.tagOf h o, 0⟩

/-- LinksAndPackets: packets that are late, early, tampered with, and next; a write that lands; acknowledgements and rejects. -/
theorem test_meets_LinksAndPackets_packets : let s := grp 1 0 id
    let parts := s.m.parts.map fun x => (x.1, { x.2 with e := { x.2.e with subl := 1 } })
    let m := { s.m with parts := parts, troupe := s.m.troupe.updMem 5 fun e => { e with rx := [7, 7, 7, 7, 7, 7] } }
    let o := FabOp.write 0x2000 [1, 2, 3, 4] 0 .none
    (∀ q ∈ [6, 7, 8], let p : Packet := ⟨hdrOf clsReq 5 0 0 q (opLen o) none false, o, 0, 0⟩
      p.dst = m.troupe.node ∧ p.bad = false ∧ m.screen p = none ∧ p.uns = false ∧ p.cls = clsReq ∧ p.src = 5 ∧ p.seq = q) ∧
    nthD 0 (m.troupe.mem 5).rx clsReq = 7 ∧ (⟨0, o, 0, 0⟩ : Packet).bad = true ∧ (⟨hdrOf clsReq 5 63 0 0 4 none false, o, 0, 0⟩ : Packet).dst ≠ m.troupe.node ∧
    m.troupe.curtain = none ∧ m.chains = [] ∧ m.mem.wf = true ∧ m.inbound 0 kWrite 0x2000 4 = .ok [(.pa 0x400000002000, 4)] ∧
    m.chainBusy [(.pa 0x400000002000, 4)] = false ∧
    (let p : Packet := ⟨hdrOf 7 5 0 0 0 16 none false, .ack 5 0 0 true, 0, 0⟩; p.cls = 7 ∧ m.screen p = none ∧ p.len = 16 ∧ p.dst = 0) ∧
    m.troupe.txq = [] := by decide +kernel
theorem test_meets_LinksAndPackets_tag : (pkt5 Mach.reset 0 7 4 (.read 0 8)).tag = Mach.reset.troupe.tagOf (pkt5 Mach.reset 0 7 4 (.read 0 8)).hdr (.read 0 8) :=
  rfl

/-- LinksAndPackets: a packet kept for its acknowledgement, rejected for the third time, and due again for the last time; links that carry it
and that do not; an acknowledgement that is due; a counter at its end. -/
theorem test_meets_LinksAndPackets_kept : let p : TxPkt := ⟨5, 0, 7, ⟨0, .read 0 8, 0, 0⟩, .other, none, true, 0, 7, 2⟩
    let t := { (grp 1 0 id).m.troupe with txq := [p], ackDue := [(5, 0)] }
    t.txq.find? (fun x => x.dst == 5 && x.cls == 0 && x.seq == 7 && t.present x) = some p ∧
    t.txq.find? (fun p => p.dst == 5 && p.cls == 0 && p.seq == 7 && p.sent && decide (p.last + 2400 ≤ 2400)) = some p ∧ p.rejects < 3 ∧
    3 ≤ ({ p with rejects := 3 } : TxPkt).rejects ∧ p.sends < 8 ∧ 8 ≤ ({ p with sends := 8 } : TxPkt).sends ∧ 5 < t.member.length ∧
    (5, 0) ∈ t.ackDue ∧ 0 ≠ clsMgmt ∧ (linked 0 id).m.carries p.part 0 = true ∧
    (let n := linked 0 fun k => { k with pauseRx := 255 }
     n.m.carries none 0 = true ∧ (n.m.updLink 4 fun k => { k with pauseRx := 255 }).carries none 0 = false ∧
       (∃ k ∈ (n.m.updLink 4 fun k => { k with pauseRx := 255 }).links, k.up = true ∧ n.m.serves none k.id = true)) ∧ State.reset.m.links = [] ∧
    ({ (grp 1 0 id).m with troupe := t.updMem 5 fun e => { e with rx := [9, 0, 0, 0, 0, 0] } } : Mach).firstOpen 5 0 ≠ 0 ∧
    ({ t with leader := 5, ackCtr := 2 ^ 47 } : Troupe).leader ≠ t.node ∧ t.rekey = false := by decide +kernel

/-- A chip, member 0, in the curtain k under leader n. -/
def curtained (n : Nat) (k : Option Curtain) : State :=
  let s := grp 1 0 id
  { s with plat := { s.plat with stage := 7 }, m := { s.m with troupe := { s.m.troupe with leader := n, curtain := k, gen := 3 }, cycle := 1200000 } }

/-- Curtains: PREPARE of the next generation and of the present one, GO, READY before and as the last, DONE, a late member, and the
leader's three reasons to start one. -/
theorem test_meets_Curtains : let k : Curtain := ⟨4, [], [(0, 0, false), (5, 0, false)], true, true, [0], [0], 0⟩
    (let s := curtained 5 (some k); s.plat.stage = 7 ∧ s.plat.tripped = false ∧ State.reset.plat.stage ≠ 7 ∧ (s.m.troupe.mem 0).state = 2 ∧
      s.m.troupe.curtain = some k ∧ s.m.troupe.leader ≠ s.m.troupe.node ∧ k.stalled = true ∧ k.sent = true ∧
      s.m.troupe.gen < 4 ∧ 3 ≤ s.m.troupe.gen ∧ 5 ≠ s.m.troupe.node ∧ s.m.troupe.txq = [] ∧ s.m.troupe.reqs = []) ∧
    (let s := curtained 0 (some k); s.m.troupe.leader = s.m.troupe.node ∧ (∃ e ∈ k.members, e.1 = 5) ∧
      (∀ e ∈ k.members, e.1 = 5 ∨ e.1 ∈ k.got) ∧ (∃ e ∈ k.members, e.1 ≠ 0 ∧ e.1 ∉ k.got) ∧ (∀ e ∈ k.members, e.1 = 0 ∨ s.m.ctlWaits e.1 3 = false) ∧
      (let p : TxPkt := ⟨5, clsMgmt, 0, ⟨0, .read 0 8, 0, 0⟩, .other, none, false, 0, 0, 0⟩
       (s.m.updTroupe fun t => { t with txq := List.replicate 256 p }).ctlWaits 5 3 = true) ∧ 5 ∉ k.got ∧ k.since + 1200000 ≤ s.m.cycle ∧
      (∀ e ∈ k.members, e.1 = 5 ∨ e.1 ∈ k.done) ∧ (∃ e ∈ k.members, e.1 ≠ 0 ∧ e.1 ∉ k.done) ∧ { k with stalled := false }.stalled = false) ∧
    (let s := curtained 0 none; s.m.troupe.leader = s.m.troupe.node ∧ s.m.troupe.curtain = none ∧ (s.m.troupe.mem 5).state = 2 ∧
      5 ≠ s.m.troupe.node ∧ (s.m.troupe.mem 63).state = 0 ∧ (s.m.troupe.mem 5).state ≠ 0 ∧ s.plat.sessionOf 63 = 0 ∧
      (let p := s.plat.updConn 63 fun c => { c with asked := joinAsks.map fun a => (a, [0xFF]) }
       joinAsks.isSublist ((p.conn 63).asked.map Prod.fst) = true ∧ (p.askedWith 63 "GET_MEASUREMENTS").take 1 = [0xFF])) := by decide +kernel

/-- A platform whose agent answers, with a negotiated requester 9 and a session of it. -/
def agent (opened : Bool) : State :=
  { State.reset with plat := { Plat.reset with stage := 7, conns := [⟨9, 3, [], [1], []⟩, ⟨8, 2, [], [], []⟩], sessions := [⟨1, 9, opened, 0, 0, 0, false⟩] },
                     m := { Mach.reset with cycle := 2400000000 } }

/-- ManagementAgent: requesters at each stage; a session before and after FINISH, with a long response to fetch, and at both periods. -/
theorem test_meets_ManagementAgent : (∀ o ∈ [false, true], let s := agent o; let e : Session := ⟨1, 9, o, 0, 0, 0, false⟩
      s.plat.answers = true ∧ s.plat.responder = false ∧ s.plat.session 1 = some e ∧ e.node = 9 ∧ e.opened = o ∧
      (s.plat.conn 9).stage = 3 ∧ (s.plat.conn 8).stage = 2 ∧ (s.plat.conn 7).stage = 0 ∧ s.plat.blocks 7 ≠ [] ∧ s.plat.blocks 0xFF ≠ [] ∧
      ((s.plat.updSession 1 fun e => { e with last := s.m.cycle }).conn 9).outb = 1 :: [] ∧ e.last + 2400000000 ≤ s.m.cycle ∧
      e.beat + 1200000000 ≤ s.m.cycle ∧ s.plat.sessionOf 9 = if o then 1 else 0) ∧
    (let e : Session := ⟨1, 9, true, 1, 0, 0, false⟩; (agent true).m.cycle < e.last + 2400000000) ∧
    (let e : Session := ⟨2, 9, false, 0, 0, 0, true⟩; ({ (agent true).plat with sessions := [e] } : Plat).session 2 = some e ∧ e.mine = true) := by
  decide +kernel

/-- A legal entry of partition 1 beside the partition of the one-word program. -/
def entry1 : PartEntry :=
  { wordPart with pgrp := 2, pairs := 2, xbar := 2, bklim := 23, ptroot := 0x410000010000, titbase := 0x410000040000, recbase := 0x410000080000,
                  bstbase := 0x410000020000 }

/-- Partitions: creation of a legal and an illegal entry, teardown, a table write, and a repair at the last site. -/
theorem test_meets_Partitions : let s := { vec 0 id with plat := { State.reset.plat with stage := 7 } }
    let t := { s with m := { s.m with ctxs := [] } }
    s.plat.stage = 7 ∧ s.m.part 1 = none ∧ s.m.entryOk 1 entry1 = true ∧ s.m.entryOk 1 { entry1 with bklim := 25 } = false ∧
    (s.m.part 0).isSome = true ∧ ((s.m.part 0).isNone || s.m.resident 0 || s.m.savedOf 0 || s.m.graphing 0) = true ∧
    ((t.m.part 0).isNone || t.m.resident 0 || t.m.savedOf 0 || t.m.graphing 0) = false ∧
    s.m.part 0 = (wordParts.map Prod.snd).head? ∧ s.m.entryOk 0 { wordPart with slice := 7, xbar := 3 } = true ∧
    s.m.partOfPair 255 = none ∧ s.plat.siteFree 3 67 = true ∧ s.m.spareFree 0 255 = true ∧ s.m.spareFree 2 1023 = true ∧ s.plat.tripped = false ∧ State.reset.plat.stage ≠ 7 ∧
    (let l := { freshLink 0 1 with up := false }; let m := { s.m with links := [l, freshLink 4 4] }
     m.entryOk 1 { entry1 with subl := 0xF0 } = true ∧ l ∈ m.links ∧ l.up = false ∧ m.part 1 = none ∧ l.id < 64 ∧
       (∀ k ∈ m.links, k.has l.id = true → k = l) ∧ l.has l.id = true) := by decide +kernel

/-- Budgets: rows at the sum's limit, above it, and with a zero; the first clk of a period. -/
theorem test_meets_Budgets : let row := fun (l : List Nat) => BitVec.ofNat 66 (l.zipIdx.foldl (fun a e => a + e.1 * 2 ^ (11 * e.2)) 0)
    (budgetRow (row [1019, 1, 1, 1, 1, 1]) = [1019, 1, 1, 1, 1, 1] ∧ [1019, 1, 1, 1, 1, 1].sum ≤ 1024) ∧
    1024 < (budgetRow (row [1020, 1, 1, 1, 1, 1])).sum ∧ (∃ b ∈ budgetRow (row [5, 0, 1, 1, 1, 1]), b = 0) ∧
    State.reset.m.cycle % 1024 = 0 ∧ State.reset.plat.budgets.length = 4 ∧ State.reset.plat.budNext.length = 4 ∧ State.reset.m.used.length = 4 := by
  decide +kernel

/-- Preemption: a running context to be halted and, halted, to be saved; a saved task that can be restored; a checkpoint that finds tasks
running and one that finds none. -/
theorem test_meets_Preemption : (let s := grp 1 0 id
      s.plat.tripped = false ∧ (s.m.part 0).isSome = true ∧ ((pending false).m.part 0).any (fun p => decide (0 < p.pending)) = true ∧
      (s.m.ctx 0).status = .running ∧ s.m.preemptSet 0 = [0] ∧ (s.m.ctx 0).halted = false ∧ s.m.inFlight 0 = false ∧
      (s.m.ctx 0).vq = [] ∧ (s.m.ctx 0).sleep = none ∧ (s.m.ctx 0).copyStop = false ∧ s.m.memberOk 5 = true ∧ s.m.fabStalled 5 clsCkpt = false ∧
      (s.m.ctxs.filter fun e => e.2.status != .idle && [0].contains e.2.task.q) ≠ []) ∧
    (let s := grp 1 0 fun x => { x with halted := true };
      (s.m.ctx 0).halted = true ∧ (s.m.ctx 0).copyStop = false ∧ s.m.preemptSet 0 = [0] ∧ s.m.saveReady 0 = true ∧ s.m.mem.wf = true ∧ s.m.curtained = false ∧
      (let m := (s.m.preempt 0); m.saved.length = 1 ∧ ((m.part 0).map Part.held).getD 1 ≠ 1 ∧
        (∀ v ∈ m.saved, v.ctx.savedTrap = none ∧ ((m.restoreSets v).foldlM Mach.placeTogether m).isSome = true ∧ (m.placeSaved 0 v).isSome = true) ∧
        (m.ctxs.filter fun e => e.2.status != .idle && [0].contains e.2.task.q) = [] ∧ m.graphing 0 = false)) := by decide +kernel

/-- ClockAndArbitration: a period that has begun, a strip for a waiting context with a share, an event that is counted. -/
theorem test_meets_ClockAndArbitration : let s := vec 0 fun x => { x with vshare := 255 }
    let u := { Pair.reset with need := Pair.reset.need.set 8 [17, 3], esel := vecSet Pair.reset.esel 7 1 }
    let m := { s.m with pairs := [(0, u)], cycle := 1024 }
    (m.pair 0).period < m.cycle / 1024 ∧ ({ m with cycle := 1023 } : Mach).cycle / 1024 ≤ (m.pair 0).period ∧
    nthD 0 (m.pair 0).till 2 ≤ 1023 ∧ (m.pair 0).till.length = 3 ∧ (m.pair 0).need.length = 12 ∧
    0 ∈ ((List.range 4).filter fun k => (nthD [] (m.pair 0).need (4 * 2 + k)).headD 0 != 0) ∧ (m.ctx 0).vshare.toNat ≠ 0 ∧ vecAt 0 u.esel 7 ≠ 0 := by
  decide +kernel

/-- ErrorsAndHeat: keys of memory, one with a flipped bit, and one with two; temperatures and frequencies at their limits. -/
theorem test_meets_ErrorsAndHeat : (0x2007 : Nat) / 2 ^ 60 = 0 ∧ State.reset.m.soft = [] ∧
    (([(unitOf 0x2007, [3])] : List (Nat × List Nat)).find? fun e => e.1 == unitOf 0x2007) = some (unitOf 0x2007, [3]) ∧ [3].length ≤ 1 ∧ 2 ≤ ([3, 4].filter fun b => decide (b < 8 * eccUnit (unitOf 0x2007))).eraseDups.length ∧
    5 ∈ ((grp 1 0 id).m.updTroupe fun t => t.updMem 5 fun e => { e with host := true }).hostNodes ∧ 100 < 101 ∧ 100 ≤ 100 ∧ State.reset.plat.tripped = false ∧ 115 ≤ 115 ∧ 114 < 115 ∧ (1200 : Nat) % 100 = 0 ∧ (450 : Nat) % 100 ≠ 0 := by decide +kernel

/-- BringUp: inputs that fail at stage 1, at stage 2, and at stage 5 for a die with 63 sites where the firmware verifies; one whose sites are
enough. -/
theorem test_meets_BringUp : let b : BootInput := ⟨none, [[1]], [], List.replicate 4 (List.range 64), [(3, 1, 7)], [1], 63, [(0, 4), (60, 1)]⟩
    b.fails = none ∧ (∀ d, d < 4 → 64 ≤ (goodSites b d).length) ∧ bootFails { b with fails := some 1 } = some 1 ∧
    bootFails { b with fails := some 2 } = some 2 ∧ (goodSites { b with sites := [List.range 63] } 0).length < 64 := by decide +kernel

/-- RegisterRows, MemoryLaws: a row that fills a register to its last byte; a write that ends at its granule's end. -/
theorem test_meets_RegisterRows : cellsWf (vec 0 id).m.me.vrf = true ∧ ∀ l ∈ [List.replicate 4 (some 255), [none]], l.length * 8 ≤ 65536 := by
  decide +kernel
theorem test_meets_MemoryLaws : (at_ 0).m.mem.wf = true ∧ (at_ 0).m.keyOf 0x4000000020F8 = some ((at_ 0).m.keyOf 0x4000000020F8 |>.getD 0) ∧
    0x4000000020F8 % 256 + [1, 2, 3, 4, 5, 6, 7, (8 : Byte)].length ≤ 256 ∧ (at_ 0).m.tbs = [] := by decide +kernel

/-- PlatKept, PlatReset: the platform at reset is within its limits. -/
theorem test_meets_PlatKept : (∀ i ∈ State.reset.plat.islands, mhzOk i.ceil = true ∧ mhzOk i.mhz = true ∧ i.mhz ≤ i.ceil) ∧
    (∀ r ∈ State.reset.plat.budgets, r.length = 6 ∧ (∀ b ∈ r, 1 ≤ b) ∧ r.sum ≤ 1024) ∧
    (∀ r ∈ State.reset.plat.budNext, r.length = 6 ∧ (∀ b ∈ r, 1 ≤ b) ∧ r.sum ≤ 1024) ∧
    (∀ l ∈ State.reset.plat.sites, l.length = 64 ∧ l.Nodup ∧ ∀ x ∈ l, x < 68) := by
  refine ⟨by decide +kernel, by decide +kernel, by decide +kernel, fun l h => ?_⟩
  rw [show l = List.range 64 from List.eq_of_mem_replicate h]
  exact ⟨List.length_range, List.nodup_range, fun x hx => Nat.lt_trans (List.mem_range.mp hx) (by decide)⟩
theorem test_meets_PlatKept_step : ∃ t, step (ctx 0x011461C0 id) = .next t := by
  have h : (after 0x011461C0 id).isSome = true := by decide +kernel
  revert h
  show (match step (ctx 0x011461C0 id) with | .next t => some t | _ => none).isSome = true → _
  cases h : step (ctx 0x011461C0 id) with
  | next t => intro _; exact ⟨t, rfl⟩
  | _ => simp

/-- EncodeDecode: an instruction of each side. -/
theorem test_meets_EncodeDecode : (Instr.add 31 31 31).wf = true ∧ encode (.add 31 31 31) = some 0x017DF7C0 ∧
    (Instr.bskip 3 7 511).wf = true ∧ encode (.bskip 3 7 511) = some 0xD5C071FF := by decide +kernel

/-- StepRunsInstruction: a context that is about to move, a word that is fetched, a word that is none, a page that is not mapped; an NMU
about to move. -/
theorem test_meets_StepRunsInstruction : let s := at_ 0x011461C0
    s.plat.tripped = false ∧ s.agenda = .run 0 false :: [] ∧ s.m.runnable 0 = true ∧ decode 0x011461C0 = .ok (.add 5 6 7) ∧ decode 0 = .error 1 ∧
    s.m.walkWaits 0 (s.m.ctx 0).pc.toNat 4 = false ∧ ({ s.plat with tripped := true } : Plat).tripped = true ∧ (Move.run 0 false).goesOn = false ∧
    (ctx 0 fun x => { x with pc := 0x40000000 }).m.walkWaits 0 0x40000000 4 = false ∧ okB (s.m.fetch 0) = true ∧ okB ((ctx 0 fun x => { x with pc := 0x40000000 }).m.fetch 0) = false ∧
    s.m.resolve 0 kFetch (s.m.ctx 0).pc.toNat 4 .no = .ok [(.pa 0x400000001000, 4)] ∧ s.m.poisonSegs 0 [(.pa 0x400000001000, 4)] = none ∧
    (∀ e ∈ (s.m.pair (pairOf 0)).icache, e.1 ≠ 0x400000001000) ∧ ((s.m.keyOf 0x400000001000).map s.m.parkedKey) = some false ∧
    (let m := s.m.updPair 0 fun p => { p with icache := [(0x400000001000, 0x011461C0)] }
     (m.pair 0).icache.find? (fun e => e.1 == 0x400000001000) = some (0x400000001000, 0x011461C0)) ∧
    (let t := State.reset.withFetchWord 32 0xD09051A8
     t.agenda = .nmu 0 :: [] ∧ ((t.m.nmu 0).cur).isSome = true ∧ decodeB 0xD09051A8 = some (.bfma 2 4 5 6 1)) := by decide +kernel

/-! ### Single steps of the vector side and of NMUs -/

/-- The state after one step of a vector context whose V1 and V2 begin with the given bytes. -/
def afterV (w : Nat) (f : Ctx → Ctx) (v1 v2 : List Byte) : Option State :=
  match step (vec w fun x => ((f x).vwrite 1 0 v1).vwrite 2 0 v2) with
  | .next t => some t
  | _ => none

/-- R355: vadd v4,v1,v2 on F32: 1.5 + 2.25 = 3.75, and elements past VL stay. -/
theorem test_vadd : (afterV 0x40101080 id (leBytes 12 0x3FC000003FC000003FC00000) (leBytes 12 0x401000004010000040100000)).map
    (fun s => (List.range 3).map fun i => s.m.me.elem 4 0 i 4) = some [0x40700000, 0x40700000, 0] := by decide +kernel

/-- R350: vadd on I8 wraps, and with SAT keeps to 127. -/
theorem test_vadd_int : (afterV 0x40101080 (mode 0 0x1C0) [100] [100]).map (fun s => s.m.me.elem 4 0 0 1) = some 200 ∧
    (afterV 0x40101080 (mode 0 0x41C0) [100] [100]).map (fun s => s.m.me.elem 4 0 0 1) = some 127 := by decide +kernel

/-- R398: vld v4,[x6+32] loads VL elements. -/
theorem test_vld : (match step (let s := vec 0x90106020 (x67 0x1FE0 0); { s with m := s.m.pokePa 0x400000002000 (leBytes 8 0x4444333322221111) }) with
    | .next t => (List.range 3).map fun i => t.m.me.elem 4 0 i 4
    | _ => []) = [0x22221111, 0x44443333, 0] := by decide +kernel

/-- R378: accop a1,v1,v2 on BF16: 1 × 2 + 3 × 4 in row 0 and column 0, the only ones whose words are not zero. -/
theorem test_accop : (afterV 0x80041080 (mode 1 0x40) (leBytes 4 0x40403F80) (leBytes 4 0x40804000)).map
    (fun s => (s.m.me.acc.length, (s.m.me.acc.map Prod.snd).head?)) = some (1, some 0x41600000) := by decide +kernel

/-- R430: badd.f32 b2, b1, b1 under K0: 1.5 + 1.5 = 3 in the lane that holds 1.5. -/
theorem test_badd : (match step (let s := State.reset.withFetchWord 32 0xD0081040
      { s with m := s.m.updNmu 0 fun u => { u with b := vecSet u.b 1 0x3FC00000 } }) with
    | .next t => ((t.m.nmu 0).cur.map NRun.at_, lane ((t.m.nmu 0).b_ 2) 0, lane ((t.m.nmu 0).b_ 2) 1)
    | _ => (none, 0, 0)) = (some 1, 0x40400000, 0) := by decide +kernel

end

end Sys2Proof.Tests
end

section
/-!
PROOFS. Soft errors, scrubbing, heat and frequencies (R19, R20, R121, R463 to R466).
-/

namespace Sys2Proof.Machine

/-! ### The error lists of memory units -/

/-- Filtering out a unit that holds no error leaves the list as it is. -/
theorem filter_fst_ne_eq_self {l : List (Nat × List Nat)} {u : Nat} (h : ∀ e ∈ l, e.1 ≠ u) : (l.filter fun e => e.1 != u) = l :=
  List.filter_eq_self.mpr fun e he => bne_iff_ne.mpr (h e he)

/-- A unit that holds no error is not found. -/
theorem find_fst_eq_none {l : List (Nat × List Nat)} {u : Nat} (h : ∀ e ∈ l, e.1 ≠ u) : (l.find? fun e => e.1 == u) = none :=
  List.find?_eq_none.mpr fun e he => by simpa using h e he

@[simp] theorem symDiff_nil_left (b : List Nat) : symDiff [] b = b := by simp [symDiff]

/-- The distinct bits within a unit among those of a soft error. -/
def unitBits (u : Nat) (bits : List Nat) : List Nat := (bits.filter fun b => decide (b < 8 * eccUnit u)).eraseDups

/-! ### Soft errors of memory -/

/-- A soft error whose key begins with 0 hits the memory unit that holds its key. -/
theorem softError_of_memory (m : Mach) {key : Nat} (bits : List Nat) (hk : key / 2 ^ 60 = 0) :
    m.softError key bits = m.flipUnit (unitOf key) bits := by
  simp only [Mach.softError, hk]

/-- A poisoned unit stays as it is (R121). -/
theorem flipUnit_of_poisoned {m : Mach} {u : Nat} (bits : List Nat) (hu : u ∈ m.poison) : m.flipUnit u bits = m := by
  simp [Mach.flipUnit, hu]

/-- What flipped bits make of a unit that is right: nothing, a correctable error, or poison that counts at once (R121, R463). -/
theorem flipUnit_of_clean {m : Mach} {u : Nat} (bits : List Nat) (hp : u ∉ m.poison) (hs : ∀ e ∈ m.soft, e.1 ≠ u) :
    m.flipUnit u bits =
      if (unitBits u bits).length < 2 then
        { m with soft := if (unitBits u bits).isEmpty then m.soft else (u, unitBits u bits) :: m.soft }
      else ({ m with poison := u :: m.poison } : Mach).eccCount (dieOfKey u) (stackOfKey u) true := by
  simp only [Mach.flipUnit, find_fst_eq_none hs, filter_fst_ne_eq_self hs]
  simp [hp, unitBits]

theorem flipUnit_of_no_bit {m : Mach} {u : Nat} {bits : List Nat} (hp : u ∉ m.poison) (hs : ∀ e ∈ m.soft, e.1 ≠ u)
    (hb : unitBits u bits = []) : m.flipUnit u bits = m := by
  simp [flipUnit_of_clean bits hp hs, hb]

theorem flipUnit_of_one_bit {m : Mach} {u b : Nat} {bits : List Nat} (hp : u ∉ m.poison) (hs : ∀ e ∈ m.soft, e.1 ≠ u)
    (hb : unitBits u bits = [b]) : m.flipUnit u bits = { m with soft := (u, [b]) :: m.soft } := by
  simp [flipUnit_of_clean bits hp hs, hb]

theorem flipUnit_of_two_bits {m : Mach} {u : Nat} {bits : List Nat} (hp : u ∉ m.poison) (hs : ∀ e ∈ m.soft, e.1 ≠ u)
    (hb : 2 ≤ (unitBits u bits).length) :
    m.flipUnit u bits = ({ m with poison := u :: m.poison } : Mach).eccCount (dieOfKey u) (stackOfKey u) true := by
  rw [flipUnit_of_clean bits hp hs, if_neg (Nat.not_lt.mpr hb)]

/-! ### Scrubbing -/

/-- A scrub of a unit with a correctable error corrects and counts it (R463, R464). -/
theorem eccUnitRead_of_error {m : Mach} {u : Nat} {e : Nat × List Nat} (h : (m.soft.find? fun e => e.1 == u) = some e) :
    m.eccUnitRead u =
      ({ m with soft := m.soft.filter fun e => e.1 != u } : Mach).eccCount (dieOfKey u) (stackOfKey u) false := by
  have hany : (m.soft.any fun e => e.1 == u) = true := List.any_eq_true.mpr 
    ⟨e, List.mem_of_find?_eq_some h, List.find?_some (p := fun e : Nat × List Nat => e.1 == u) h⟩
  rw [Mach.eccUnitRead, if_pos hany]

theorem eccUnitRead_of_clean {m : Mach} {u : Nat} (h : ∀ e ∈ m.soft, e.1 ≠ u) : m.eccUnitRead u = m := by
  have hany : ¬ (m.soft.any fun e => e.1 == u) = true := fun hu => by
    obtain ⟨e, he, heq⟩ := List.any_eq_true.mp hu
    exact h e he (beq_iff_eq.mp heq)
  rw [Mach.eccUnitRead, if_neg hany]

/-! ### Heat -/

/-- One step down, written from the side of an island that still has one (R465). -/
theorem Island.lower_eq (i : Island) : i.lower = if 400 < i.mhz then { i with mhz := i.mhz - 100 } else i := by
  simp only [Island.lower, ← Nat.not_le, ite_not]

/-- Above 100 °C the die's islands run one step lower (R466). -/
theorem thermalThrottle_hot {s : State} (die : Nat) {temp : Nat} (ht : 100 < temp) (htr : s.plat.tripped = false) :
    execThermalThrottle die temp s = .next { s with plat := { s.plat with
      temps := s.plat.temps.set die temp,
      islands := s.plat.islands.zipIdx.map fun e => if islandOf die e.2 then e.1.lower else e.1 } } := by
  simp [execThermalThrottle, Plat.mapIslands, ht, htr]

/-- At 100 °C and below only the temperature is noted. -/
theorem thermalThrottle_cool (s : State) (die : Nat) {temp : Nat} (ht : temp ≤ 100) :
    execThermalThrottle die temp s = .next { s with plat := { s.plat with temps := s.plat.temps.set die temp } } := by
  simp [execThermalThrottle, Nat.not_lt.mpr ht]

/-- Telling nodes the same message adds one message for each to what the chip sends, and nothing else. -/
theorem foldl_say_eq (p : Plat) (ns : List Nat) (what : String) (body : List Byte) :
    ns.foldl (fun p n => p.say n what body) p = { p with out := p.out ++ ns.map fun n => ⟨n, what, body, 0⟩ } := by
  induction ns generalizing p with
  | nil => simp
  | cons n ns ih =>
    rw [List.foldl_cons, ih]
    simp [Plat.say]

/-- The platform after a trip: the always-on control alone runs, and each host node has its message (R466). -/
def tripPlat (p : Plat) (hosts : List Nat) (die temp : Nat) : Plat :=
  { p with
    temps := p.temps.set die temp, tripped := true,
    islands := p.islands.zipIdx.map fun e => if e.2 = alwaysOn then e.1 else { e.1 with mhz := 0 },
    out := p.out ++ hosts.map fun n => ⟨n, "THERMAL_TRIP", leBytes 1 die, 0⟩ }

theorem thermalTrip_hot (s : State) (die : Nat) {temp : Nat} (ht : 115 ≤ temp) :
    execThermalTrip die temp s = .next { s with m := s.m.loseTasks, plat := tripPlat s.plat s.m.hostNodes die temp } := by
  simp only [execThermalTrip, Nat.not_lt.mpr ht, if_false, foldl_say_eq]
  rfl

theorem thermalTrip_cool (s : State) (die : Nat) {temp : Nat} (ht : temp < 115) : execThermalTrip die temp s = .next s :=
  if_pos ht

theorem mem_tripPlat_out (p : Plat) {hosts : List Nat} {n : Nat} (die temp : Nat) (hn : n ∈ hosts) :
    ⟨n, "THERMAL_TRIP", leBytes 1 die, 0⟩ ∈ (tripPlat p hosts die temp).out :=
  List.mem_append_right _ (List.mem_map_of_mem hn)

/-- Every member of the Troupe that is a host node gets reports. -/
theorem mem_hostNodes {m : Mach} {n : Nat} (hn : n < m.troupe.member.length) (hst : (m.troupe.mem n).state = 2)
    (hh : (m.troupe.mem n).host = true) : n ∈ m.hostNodes := by
  have hmem : n ∈ (m.troupe.member.zipIdx.filter fun e => e.1.state == 2 && e.1.host).map Prod.snd := by
    have hget : m.troupe.mem n = m.troupe.member[n] := by simp [Troupe.mem, nthD, hn]
    rw [hget] at hst hh
    exact List.mem_map.mpr ⟨(m.troupe.member[n], n),
      List.mem_filter.mpr ⟨List.mem_zipIdx_iff_getElem?.mpr (List.getElem?_eq_getElem hn), by simp [hst, hh]⟩, rfl⟩
  unfold Mach.hostNodes
  split
  case h_1 hnil => simp [hnil] at hmem
  case h_2 => exact hmem

/-! ### Frequencies -/

theorem mhzOk_iff (v : Nat) : mhzOk v = true ↔ 400 ≤ v ∧ v ≤ 1200 ∧ v % 100 = 0 := by
  simp [mhzOk, and_assoc]

/-- A legal frequency is set where it is no higher than the island's ceiling (R20, R465). -/
theorem changeOfFrequency_legal {s : State} (i : Nat) {v : Nat} (hv : mhzOk v = true) (ht : s.plat.tripped = false) :
    execChangeOfFrequency i v s = .next { s with plat := { s.plat with
      islands := mapAt s.plat.islands i fun z => if v ≤ z.ceil then { z with mhz := v } else z } } := by
  simp [execChangeOfFrequency, hv, ht]

theorem changeOfFrequency_illegal (s : State) (i : Nat) {v : Nat} (hv : mhzOk v = false) :
    execChangeOfFrequency i v s = .next s := by
  simp [execChangeOfFrequency, hv]

/-! ### The statement -/

/-- Settles O51: each event through the lemma of its case above. -/
theorem errorsAndHeat : Obligations.ErrorsAndHeat := by
  intro s key die temp i v bits u
  simp only [exec_softError, exec_scrub, exec_thermalThrottle, exec_thermalTrip, exec_changeOfFrequency]
  refine ⟨?poisoned, ?flipped, ?corrected, ?clean, ?hot, ?cool, ?trip, ?noTrip, ?legal, ?illegal⟩
  case poisoned =>
    intro hk hu
    rw [execSoftError, onMach, softError_of_memory s.m bits hk, flipUnit_of_poisoned bits hu]
  case flipped =>
    intro hk hp hs
    rw [execSoftError, onMach, softError_of_memory s.m bits hk]
    exact ⟨fun hb => by rw [flipUnit_of_no_bit hp hs hb], fun b hb => by rw [flipUnit_of_one_bit hp hs hb],
      fun hb => by rw [flipUnit_of_two_bits hp hs hb]⟩
  case corrected =>
    intro e he
    rw [execScrub, onMach, Mach.scrub, eccUnitRead_of_error he]
  case clean =>
    intro hs
    rw [execScrub, onMach, Mach.scrub, eccUnitRead_of_clean hs]
  case hot =>
    intro ht htr
    rw [thermalThrottle_hot die ht htr]
    simp [Island.lower_eq, ite_and]
  case cool => exact thermalThrottle_cool s die
  case trip =>
    intro ht
    exact ⟨_, thermalTrip_hot s die ht, rfl, rfl, rfl, rfl, rfl, rfl, fun n => mem_tripPlat_out s.plat die temp,
      fun n => mem_hostNodes, rfl⟩
  case noTrip => exact thermalTrip_cool s die
  case legal =>
    intro h400 h1200 h100 ht
    exact changeOfFrequency_legal i ((mhzOk_iff v).mpr ⟨h400, h1200, h100⟩) ht
  case illegal =>
    intro hv
    have hbad : mhzOk v = false := by rw [← Bool.not_eq_true, mhzOk_iff]; omega
    exact changeOfFrequency_illegal s i hbad

end Sys2Proof.Machine
end

section
/-!
PROOFS. Mode registers, grants and vector length, and what vector-side instructions do when VL is 0 (R78, R79, R94, R318, R342 to R345).
-/

namespace Sys2Proof.Machine

/-! ### What stays when only the acting context changes -/

/-- From m to n only the acting context has changed, and of pairs only event counts and when a shared CSR or a grant last changed: the
relation of `State.onlyMe`, between machines. -/
def Mach.onlyMe (m n : Mach) : Prop :=
  n = { m with ctxs := n.ctxs, pairs := n.pairs } ∧ (∀ c, c ≠ m.cur → n.ctx c = m.ctx c) ∧
  ∀ p, n.pair p = { m.pair p with carry := (n.pair p).carry, wrAt := (n.pair p).wrAt }

theorem State.onlyMe_of_mach {s : State} {n : Mach} (h : s.m.onlyMe n) : s.onlyMe { s with m := n } :=
  ⟨congrArg (fun n => { s with m := n }) h.1, h.2⟩

theorem Mach.onlyMe.trans {m n o : Mach} (h : m.onlyMe n) (k : n.onlyMe o) : m.onlyMe o := by
  obtain ⟨hn, hctx, hpair⟩ := h
  obtain ⟨ho, kctx, kpair⟩ := k
  have hcur : n.cur = m.cur := by rw [hn]
  refine ⟨?_, fun c hc => ?_, fun p => ?_⟩
  · rw [hn] at ho
    exact ho
  · rw [kctx c (hcur ▸ hc), hctx c hc]
  · rw [kpair p, hpair p]

theorem Mach.onlyMe_upd (m : Mach) (f : Ctx → Ctx) : m.onlyMe (m.upd f) :=
  ⟨rfl, fun c hc => m.ctx_upd_ne c f hc, fun _ => rfl⟩

/-- A change of one pair's event counts or of when it last changed. -/
theorem Mach.onlyMe_updPair (m : Mach) (p : Nat) (f : Pair → Pair)
    (hf : ∀ u, f u = { u with carry := (f u).carry, wrAt := (f u).wrAt }) : m.onlyMe (m.updPair p f) := by
  refine ⟨rfl, fun _ _ => rfl, fun q => ?_⟩
  by_cases hq : q = p
  · subst hq
    rw [pair_updPair]
    exact hf _
  · rw [m.pair_updPair_ne p q f hq]

theorem Mach.onlyMe_refl (m : Mach) : m.onlyMe m := ⟨rfl, fun _ _ => rfl, fun _ => rfl⟩

theorem Mach.onlyMe_count (m : Mach) (c src n : Nat) : m.onlyMe (m.count c src n) := by
  simp only [Mach.count]
  split
  · exact m.onlyMe_updPair _ _ fun _ => rfl
  · exact m.onlyMe_refl

theorem Mach.onlyMe_retireTo (m : Mach) (pc : Word) : m.onlyMe (m.retireTo pc) :=
  (m.onlyMe_upd _).trans (Mach.onlyMe_count _ _ _ _)

theorem Mach.onlyMe_retire (m : Mach) : m.onlyMe m.retire := m.onlyMe_retireTo _

/-! ### Bit fields -/

theorem testBit_bitsOf (v hi lo i : Nat) : (bitsOf v hi lo).testBit i = (decide (i < hi + 1 - lo) && v.testBit (lo + i)) := by
  simp [bitsOf, Nat.testBit_mod_two_pow, Nat.testBit_div_two_pow, Nat.add_comm]

/-- A number as the bits from lo + n on, the n bits from lo on, and the bits below. -/
theorem putBits_eq (v lo n f : Nat) :
    putBits v lo n f = 2 ^ lo * (2 ^ n * (v / 2 ^ lo / 2 ^ n) + f % 2 ^ n) + v % 2 ^ lo := by
  have hlow := Nat.div_add_mod v (2 ^ lo)
  have hmid : 2 ^ lo * (v / 2 ^ lo) = 2 ^ lo * (2 ^ n * (v / 2 ^ lo / 2 ^ n)) + v / 2 ^ lo % 2 ^ n * 2 ^ lo := by
    rw [Nat.mul_comm (_ % _), ← Nat.mul_add, Nat.div_add_mod]
  rw [putBits, Nat.mul_add, Nat.mul_comm (f % _)]
  omega

/-- `putBits` puts its value in its n bits and leaves the others. -/
theorem testBit_putBits (v lo n f i : Nat) :
    (putBits v lo n f).testBit i = if lo ≤ i ∧ i < lo + n then f.testBit (i - lo) else v.testBit i := by
  have hlow : v % 2 ^ lo < 2 ^ lo := Nat.mod_lt _ (by positivity)
  have hf : f % 2 ^ n < 2 ^ n := Nat.mod_lt _ (by positivity)
  rw [putBits_eq, Nat.testBit_two_pow_mul_add _ hlow, Nat.testBit_two_pow_mul_add _ hf]
  simp only [Nat.testBit_mod_two_pow, Nat.testBit_div_two_pow]
  by_cases h1 : i < lo
  · simp [h1, Nat.not_le.mpr h1]
  · by_cases h2 : i < lo + n
    · simp [h1, h2, Nat.not_lt.mp h1, show i - lo < n by omega]
    · simp [h1, h2, show ¬ i - lo < n by omega, show i - lo - n + n + lo = i by omega]

/-- Bits that lie outside the field that was put. -/
theorem bitsOf_putBits_of_disjoint {v lo n f hi lo' : Nat} (h : hi < lo ∨ lo + n ≤ lo') :
    bitsOf (putBits v lo n f) hi lo' = bitsOf v hi lo' := by
  refine Nat.eq_of_testBit_eq fun i => ?_
  rw [testBit_bitsOf, testBit_bitsOf, testBit_putBits]
  by_cases hi' : i < hi + 1 - lo'
  · rw [if_neg (by omega)]
  · simp [hi']

/-- The field that was put. -/
theorem bitsOf_putBits_same {v lo n f hi : Nat} (h : hi + 1 = lo + n) : bitsOf (putBits v lo n f) hi lo = f % 2 ^ n := by
  refine Nat.eq_of_testBit_eq fun i => ?_
  rw [testBit_bitsOf, testBit_putBits, Nat.testBit_mod_two_pow, h, Nat.add_sub_cancel_left, Nat.add_sub_cancel_left]
  by_cases hi' : i < n
  · rw [if_pos (by omega)]
  · simp [hi']

theorem bitsOf_ofNat {n v hi lo : Nat} (h : hi < n) : bitsOf (BitVec.ofNat n v).toNat hi lo = bitsOf v hi lo := by
  refine Nat.eq_of_testBit_eq fun i => ?_
  rw [testBit_bitsOf, testBit_bitsOf, BitVec.toNat_ofNat, Nat.testBit_mod_two_pow]
  by_cases hi' : i < hi + 1 - lo
  · simp [show lo + i < n by omega]
  · simp [hi']

/-- A field that is put only where c fails, read outside it. -/
theorem bitsOf_keepOrPut_of_disjoint {c : Prop} [Decidable c] {v lo n f hi lo' : Nat} (h : hi < lo ∨ lo + n ≤ lo') :
    bitsOf (if c then v else putBits v lo n f) hi lo' = bitsOf v hi lo' := by
  split
  · rfl
  · exact bitsOf_putBits_of_disjoint h

/-- The same field, read itself. -/
theorem bitsOf_keepOrPut_same {c : Prop} [Decidable c] {v lo n f hi : Nat} (h : hi + 1 = lo + n) :
    bitsOf (if c then v else putBits v lo n f) hi lo = if c then bitsOf v hi lo else f % 2 ^ n := by
  split
  · rfl
  · exact bitsOf_putBits_same h

/-- The guard bits after the group field g of `mode` (R318). -/
def modeGuard (v g : Nat) : Nat :=
  if g = 0x3F then v else if g = 0 then putBits v 4 1 0 else putBits (putBits (putBits v 4 1 1) 0 4 g) 5 1 (g / 32)

theorem bitsOf_modeGuard_above {v g hi lo : Nat} (h : 6 ≤ lo) : bitsOf (modeGuard v g) hi lo = bitsOf v hi lo := by
  unfold modeGuard
  split
  · rfl
  · split
    · exact bitsOf_putBits_of_disjoint (.inr (by omega))
    · iterate 3 rw [bitsOf_putBits_of_disjoint (.inr (by omega))]

theorem modeGuard_off (v : Nat) : bitsOf (modeGuard v 0) 4 4 = 0 := bitsOf_putBits_same (f := 0) rfl

theorem modeGuard_on (v : Nat) {g : Nat} (h0 : 0x10 ≤ g) (h1 : g ≤ 0x2F) :
    bitsOf (modeGuard v g) 4 4 = 1 ∧ bitsOf (modeGuard v g) 3 0 = g % 16 ∧ bitsOf (modeGuard v g) 5 5 = g / 32 := by
  rw [modeGuard, if_neg (by omega), if_neg (by omega)]
  refine ⟨?_, ?_, ?_⟩
  · rw [bitsOf_putBits_of_disjoint (.inl (by omega)), bitsOf_putBits_of_disjoint (.inr (by omega)), bitsOf_putBits_same (by omega)]
    rfl
  · rw [bitsOf_putBits_of_disjoint (.inl (by omega)), bitsOf_putBits_same (by omega)]
    rfl
  · rw [bitsOf_putBits_same (by omega)]
    omega

theorem modeFields_eq (old : BitVec 32) (g : BitVec 6) (t : BitVec 5) (rm : BitVec 3) (q : BitVec 2) (p f : BitVec 3) :
    modeFields old g t rm q p f =
      let v := modeGuard old.toNat g.toNat
      let v := if t.toNat = 31 then v else putBits v 6 5 t.toNat
      let v := if rm.toNat = 7 then v else putBits v 11 3 rm.toNat
      let v := if q.toNat = 3 then v else putBits v 14 1 q.toNat
      let v := if p.toNat = 7 then v else putBits v 15 2 p.toNat
      .ofNat 32 (if f.toNat = 7 then v else putBits v 17 2 f.toNat) := rfl

/-- The fields of a mode register after the field form of `mode`: each code puts its field, and a keep code leaves it (R318). -/
theorem bitsOf_modeFields (old : BitVec 32) (g : BitVec 6) (t : BitVec 5) (rm : BitVec 3) (q : BitVec 2) (p f : BitVec 3) :
    let v := (modeFields old g t rm q p f).toNat
    bitsOf v 10 6 = (if t.toNat = 31 then bitsOf old.toNat 10 6 else t.toNat) ∧
    bitsOf v 13 11 = (if rm.toNat = 7 then bitsOf old.toNat 13 11 else rm.toNat) ∧
    bitsOf v 14 14 = (if q.toNat = 3 then bitsOf old.toNat 14 14 else q.toNat % 2 ^ 1) ∧
    bitsOf v 16 15 = (if p.toNat = 7 then bitsOf old.toNat 16 15 else p.toNat % 2 ^ 2) ∧
    bitsOf v 18 17 = (if f.toNat = 7 then bitsOf old.toNat 18 17 else f.toNat % 2 ^ 2) ∧
    (∀ hi lo, hi < 6 → bitsOf v hi lo = bitsOf (modeGuard old.toNat g.toNat) hi lo) ∧
    bitsOf v 31 19 = bitsOf old.toNat 31 19 := by
  have ht : t.toNat % 2 ^ 5 = t.toNat := Nat.mod_eq_of_lt t.isLt
  have hr : rm.toNat % 2 ^ 3 = rm.toNat := Nat.mod_eq_of_lt rm.isLt
  rw [modeFields_eq]
  refine ⟨?_, ?_, ?_, ?_, ?_, fun hi lo h => ?_, ?_⟩ <;> rw [bitsOf_ofNat (by omega)] <;>
    simp (disch := omega) only [bitsOf_keepOrPut_of_disjoint, bitsOf_keepOrPut_same, bitsOf_modeGuard_above, ht, hr]

theorem bitsOf_putTid (old : BitVec 32) (e : BitVec 12) :
    let v := (BitVec.ofNat 32 (putBits old.toNat 19 12 e.toNat)).toNat
    bitsOf v 30 19 = e.toNat ∧ bitsOf v 18 0 = bitsOf old.toNat 18 0 ∧ bitsOf v 31 31 = bitsOf old.toNat 31 31 := by
  refine ⟨?_, ?_, ?_⟩ <;> rw [bitsOf_ofNat (by omega)]
  · rw [bitsOf_putBits_same (by omega)]
    exact Nat.mod_eq_of_lt e.isLt
  · exact bitsOf_putBits_of_disjoint (.inl (by omega))
  · exact bitsOf_putBits_of_disjoint (.inr (by omega))

/-- What the codes of the field form of `mode` say of the fields, keep codes and guard codes included (R318, R342). -/
theorem modeFields_spec (old : BitVec 32) (g : BitVec 6) (t : BitVec 5) (rm : BitVec 3) (q : BitVec 2) (p f : BitVec 3) :
    let v := (modeFields old g t rm q p f).toNat
    let o := old.toNat
    (t ≠ 31 → bitsOf v 10 6 = t.toNat) ∧ (t = 31 → bitsOf v 10 6 = bitsOf o 10 6) ∧
    (rm ≠ 7 → bitsOf v 13 11 = rm.toNat) ∧ (rm = 7 → bitsOf v 13 11 = bitsOf o 13 11) ∧
    (q.toNat < 2 → bitsOf v 14 14 = q.toNat) ∧ (q = 3 → bitsOf v 14 14 = bitsOf o 14 14) ∧
    (p.toNat < 4 → bitsOf v 16 15 = p.toNat) ∧ (p = 7 → bitsOf v 16 15 = bitsOf o 16 15) ∧
    (f.toNat < 4 → bitsOf v 18 17 = f.toNat) ∧ (f = 7 → bitsOf v 18 17 = bitsOf o 18 17) ∧
    (g = 0x3F → bitsOf v 5 0 = bitsOf o 5 0) ∧ (g = 0 → bitsOf v 4 4 = 0) ∧
    (0x10 ≤ g.toNat → g.toNat ≤ 0x2F → bitsOf v 4 4 = 1 ∧ bitsOf v 3 0 = g.toNat % 16 ∧ bitsOf v 5 5 = g.toNat / 32) ∧
    bitsOf v 31 19 = bitsOf o 31 19 := by
  obtain ⟨ht, hrm, hq, hp, hf, hg, hup⟩ := bitsOf_modeFields old g t rm q p f
  refine ⟨fun h => ht.trans (if_neg fun k => h (BitVec.eq_of_toNat_eq k)), fun h => ht.trans (if_pos (congrArg BitVec.toNat h)),
    fun h => hrm.trans (if_neg fun k => h (BitVec.eq_of_toNat_eq k)), fun h => hrm.trans (if_pos (congrArg BitVec.toNat h)),
    fun h => (hq.trans (if_neg (by omega))).trans (Nat.mod_eq_of_lt h), fun h => hq.trans (if_pos (congrArg BitVec.toNat h)),
    fun h => (hp.trans (if_neg (by omega))).trans (Nat.mod_eq_of_lt h), fun h => hp.trans (if_pos (congrArg BitVec.toNat h)),
    fun h => (hf.trans (if_neg (by omega))).trans (Nat.mod_eq_of_lt h), fun h => hf.trans (if_pos (congrArg BitVec.toNat h)),
    ?keep, ?off, fun h0 h1 => ?on, hup⟩
  case keep =>
    rintro rfl
    exact hg 5 0 (by omega)
  case off =>
    rintro rfl
    exact (hg 4 4 (by omega)).trans (modeGuard_off _)
  case on =>
    rw [hg 4 4 (by omega), hg 3 0 (by omega), hg 5 5 (by omega)]
    exact modeGuard_on _ h0 h1

/-! ### Grants and vector length -/

theorem Mach.upd_congr {m : Mach} {f g : Ctx → Ctx} (h : f m.me = g m.me) : m.upd f = m.upd g :=
  congrArg (m.setCtx m.cur) h

/-- An instruction that writes n registers goes on where no entry is to be logged, or the log has room (R109). -/
theorem Mach.undoRoom_ok {m : Mach} {n : Nat} (h : m.me.anyUnsafe = false ∨ m.me.undo.length + n ≤ 64) : m.undoRoom n = .ok () := by
  have hb : ¬ (m.me.anyUnsafe && decide (64 < m.me.undo.length + n)) = true := by
    rcases h with h | h
    · simp [h]
    · simp; omega
  rw [Mach.undoRoom, if_neg hb]

theorem Mach.undoRoom_full {m : Mach} {n : Nat} (hu : m.me.anyUnsafe = true) (hn : 64 < m.me.undo.length + n) :
    m.undoRoom n = stallOn evUndoStall m := by
  rw [Mach.undoRoom, if_pos (by simp [hu, hn])]

theorem vsetvl_ok {s : State} {d a : BitVec 5} (hr : s.ready [d, a]) (hroom : s.m.me.anyUnsafe = false ∨ s.m.me.undo.length ≤ 62) :
    execVsetvl d a s = .next (s.did (s.m.upd fun x =>
      (x.setVl (min (s.x a).toNat s.m.me.maxvl)).setX d.toNat (.ofNat 64 (min (s.x a).toNat s.m.me.maxvl)))) := by
  refine (scalarStep_ok hr (m' := s.m.upd fun x =>
    (x.setVl (min (x.rx a.toNat).toNat x.maxvl)).setX d.toNat (.ofNat 64 (min (x.rx a.toNat).toNat x.maxvl))) ?_).trans ?_
  · rw [Mach.undoRoom_ok (hroom.imp_right fun h => by omega)]
    rfl
  · rw [State.did, Mach.upd_congr]
    rfl

theorem vsetvl_full {s : State} {d a : BitVec 5} (hr : s.ready [d, a]) (hu : s.m.me.anyUnsafe = true) (hn : 62 < s.m.me.undo.length) :
    execVsetvl d a s = .next { s with m := s.m.upd fun x => { x with stall := evUndoStall } } := by
  refine scalarStep_wait hr ?_
  rw [Mach.undoRoom_full hu (by omega)]
  rfl

/-- A strip boundary, as `vcfg` asks for it: the vector queue is empty and no copy into a register is outstanding (R343). -/
def State.AtStrip (s : State) : Prop := s.m.me.vq = [] ∧ s.m.me.score.all (· == 0) = true

/-- What `vcfg` comes to at a strip boundary (R343, R344). -/
theorem vcfgBody_eq {s : State} (hs : s.AtStrip) (d : BitVec 5) (c : BitVec 2) (n : BitVec 4) :
    vcfgBody d c n s.m =
      if s.m.pairTurn = false then hold s.m
      else if s.m.me.maxSec < n.toNat ∨ s.m.me.maxVregs < c.toNat then raise s.m (fltConfig 0x1A 0)
      else
        let g := min n.toNat (s.m.me.sec + s.m.freeSections (pairOf s.m.cur))
        .ok ((s.m.pairWrite id).upd fun x =>
          let y := x.regrant g c.toNat
          (y.setVl (min y.vl.toNat y.maxvl)).setX d.toNat (.ofNat 64 g)) := by
  obtain ⟨hq, hc⟩ := hs
  have h0 : ¬ (!s.m.me.vq.isEmpty || !s.m.me.score.all (· == 0)) = true := by rw [hq, hc]; decide
  rw [vcfgBody, if_neg h0]
  simp only [Bool.not_eq_true', Bool.or_eq_true, decide_eq_true_eq]

theorem vcfg_outOfTurn {s : State} {d : BitVec 5} {c : BitVec 2} {n : BitVec 4} (hr : s.ready [d]) (hs : s.AtStrip)
    (ht : s.m.pairTurn = false) : execVcfg d c n s = .next s :=
  scalarStep_wait hr (by rw [vcfgBody_eq hs, if_pos ht]; rfl)

theorem vcfg_aboveCeiling {s : State} {d : BitVec 5} {c : BitVec 2} {n : BitVec 4} (hr : s.ready [d]) (hs : s.AtStrip)
    (ht : s.m.pairTurn = true) (hc : s.m.me.maxSec < n.toNat ∨ s.m.me.maxVregs < c.toNat) :
    execVcfg d c n s = .next (s.trapped (fltConfig 0x1A 0)) :=
  scalarStep_trap hr (by rw [vcfgBody_eq hs, if_neg (by simp [ht]), if_pos hc]; rfl)

/-- The registers of a context after `vcfg` has granted g sections. -/
def Ctx.granted (x : Ctx) (g c d : Nat) : Ctx :=
  let y := x.regrant g c
  (y.setVl (min y.vl.toNat y.maxvl)).setX d (.ofNat 64 g)

theorem vcfg_ok {s : State} {d : BitVec 5} {c : BitVec 2} {n : BitVec 4} (hr : s.ready [d]) (hs : s.AtStrip)
    (ht : s.m.pairTurn = true) (hn : n.toNat ≤ s.m.me.maxSec) (hc : c.toNat ≤ s.m.me.maxVregs) :
    execVcfg d c n s = .next (s.did ((s.m.pairWrite id).upd fun x =>
      x.granted (min n.toNat (s.m.me.sec + s.m.freeSections (pairOf s.m.cur))) c.toNat d.toNat)) :=
  scalarStep_ok hr (by rw [vcfgBody_eq hs, if_neg (by simp [ht]), if_neg (by omega)]; rfl)

/-- The undo log alone changes when a register is logged (R109). -/
theorem Ctx.log_eq_undo (x : Ctx) (r : UReg) : ∃ u, x.log r = { x with undo := u } := by
  unfold Ctx.log
  split
  · exact ⟨_, rfl⟩
  · exact ⟨x.undo, rfl⟩

/-- A write of an X register changes X and the undo log alone. -/
theorem Ctx.setX_eq (x : Ctx) (n : Nat) (v : Word) : ∃ r u, x.setX n v = { x with x := r, undo := u } := by
  obtain ⟨u, hu⟩ := x.log_eq_undo (.x n (x.rx n))
  unfold Ctx.setX
  split
  · exact ⟨x.x, x.undo, rfl⟩
  · rename_i hn
    exact ⟨vecSet x.x n v, u, by rw [hu]; simp [Ctx.wx, hn]⟩

theorem Ctx.setVl_eq (x : Ctx) (v : Nat) : ∃ u, x.setVl v = { x with vl := .ofNat 17 v, undo := u } := by
  obtain ⟨u, hu⟩ := x.log_eq_undo (.vl x.vl)
  exact ⟨u, by rw [Ctx.setVl, hu]⟩

/-- A new grant leaves the vector length and the mode registers, and sets the grant (R79). -/
theorem Ctx.regrant_keeps (x : Ctx) (g c : Nat) :
    (x.regrant g c).vl = x.vl ∧ (x.regrant g c).md = x.md ∧ (x.regrant g c).sec = g ∧ (x.regrant g c).vregs = c := by
  simp only [Ctx.regrant]
  split
  · exact ⟨rfl, rfl, rfl, rfl⟩
  · rename_i h
    have hc : x.vregs = c := (not_not.mp h).symm
    split <;> exact ⟨rfl, rfl, rfl, hc⟩

@[simp] theorem Ctx.setX_maxvl (x : Ctx) (n : Nat) (v : Word) : (x.setX n v).maxvl = x.maxvl := by
  obtain ⟨r, u, h⟩ := x.setX_eq n v
  rw [h]
  rfl

@[simp] theorem Ctx.setVl_maxvl (x : Ctx) (v : Nat) : (x.setVl v).maxvl = x.maxvl := by
  obtain ⟨u, h⟩ := x.setVl_eq v
  rw [h]
  rfl

@[simp] theorem Ctx.setX_sec (x : Ctx) (n : Nat) (v : Word) : (x.setX n v).sec = x.sec := by
  obtain ⟨r, u, h⟩ := x.setX_eq n v
  rw [h]

@[simp] theorem Ctx.setX_vregs (x : Ctx) (n : Nat) (v : Word) : (x.setX n v).vregs = x.vregs := by
  obtain ⟨r, u, h⟩ := x.setX_eq n v
  rw [h]

@[simp] theorem Ctx.setX_vl (x : Ctx) (n : Nat) (v : Word) : (x.setX n v).vl = x.vl := by
  obtain ⟨r, u, h⟩ := x.setX_eq n v
  rw [h]

@[simp] theorem Ctx.setVl_vl (x : Ctx) (v : Nat) : (x.setVl v).vl = .ofNat 17 v := rfl

@[simp] theorem Ctx.setVl_sec (x : Ctx) (v : Nat) : (x.setVl v).sec = x.sec := by
  obtain ⟨u, h⟩ := x.setVl_eq v
  rw [h]

@[simp] theorem Ctx.setVl_vregs (x : Ctx) (v : Nat) : (x.setVl v).vregs = x.vregs := by
  obtain ⟨u, h⟩ := x.setVl_eq v
  rw [h]

/-- The vector length after `vcfg` is the old one, or MAXVL where that is lower (R79, R94). -/
theorem Ctx.granted_vl (x : Ctx) (g c d : Nat) : (x.granted g c d).vl.toNat = min x.vl.toNat (x.granted g c d).maxvl := by
  have hvl : (x.regrant g c).vl = x.vl := (x.regrant_keeps g c).1
  have hlt : x.vl.toNat < 2 ^ 17 := x.vl.isLt
  simp only [Ctx.granted, Ctx.setX_vl, Ctx.setX_maxvl, Ctx.setVl_maxvl, Ctx.setVl_vl, hvl, BitVec.toNat_ofNat]
  exact Nat.mod_eq_of_lt (by omega)

theorem Ctx.granted_sec (x : Ctx) (g c d : Nat) : (x.granted g c d).sec = g := by
  simp [Ctx.granted, (x.regrant_keeps g c).2.2.1]

theorem Ctx.granted_vregs (x : Ctx) (g c d : Nat) : (x.granted g c d).vregs = c := by
  simp [Ctx.granted, (x.regrant_keeps g c).2.2.2]

theorem Ctx.granted_rx (x : Ctx) (g c : Nat) {d : Nat} (h : d ≠ 0) (hd : d < 32) : (x.granted g c d).rx d = .ofNat 64 g :=
  Ctx.rx_setX_same _ d _ h hd

/-! ### Completion -/

/-- The context that acts, after an instruction has completed: the PC moves on, and what completion itself clears is cleared. -/
theorem Mach.me_retireTo (m : Mach) (pc : Word) :
    (m.retireTo pc).me = { m.me with
      pc := pc, firstH := false, sleep := none, stall := 0, kept := m.me.kept.filter (fun t => t.1 != m.me.pc),
      counted := [], half := none, pload := none, arrival := if m.me.inH = 0 then none else m.me.arrival } := by
  simp [Mach.retireTo]

theorem vcfg_spec {s : State} {d : BitVec 5} {c : BitVec 2} {n : BitVec 4} (hr : s.ready [d]) (hs : s.AtStrip)
    (ht : s.m.pairTurn = true) (hn : n.toNat ≤ s.m.me.maxSec) (hc : c.toNat ≤ s.m.me.maxVregs) :
    let g := min n.toNat (s.m.me.sec + s.m.freeSections (pairOf s.m.cur))
    ∃ t, execVcfg d c n s = .next t ∧ t.m.me.sec = g ∧ t.m.me.vregs = c.toNat ∧ (d ≠ 0 → t.x d = .ofNat 64 g) ∧
      t.m.me.vl.toNat = min s.m.me.vl.toNat t.m.me.maxvl ∧ s.onlyMe t := by
  intro g
  have hme : (((s.m.pairWrite id).upd fun x => x.granted g c.toNat d.toNat).retire).me =
      _ := Mach.me_retireTo _ _
  rw [Mach.me_upd] at hme
  refine ⟨_, vcfg_ok hr hs ht hn hc, ?_, ?_, fun hd => ?_, ?_, State.onlyMe_of_mach ?_⟩
  · exact (congrArg Ctx.sec hme).trans (Ctx.granted_sec _ _ _ _)
  · exact (congrArg Ctx.vregs hme).trans (Ctx.granted_vregs _ _ _ _)
  · have hd0 : d.toNat ≠ 0 := fun h => hd (BitVec.eq_of_toNat_eq h)
    exact (congrArg (Ctx.rx · d.toNat) hme).trans (Ctx.granted_rx s.m.me g c.toNat hd0 d.isLt)
  · exact (congrArg (fun x => x.vl.toNat) hme).trans ((Ctx.granted_vl _ _ _ _).trans (congrArg (fun x => min s.m.me.vl.toNat x.maxvl) hme.symm))
  · exact ((s.m.onlyMe_updPair _ _ fun _ => rfl).trans (Mach.onlyMe_upd _ _)).trans (Mach.onlyMe_retire _)

/-! ### VL = 0 -/

theorem vPreAt_of_vl_zero {r : Nat} {x : Ctx} {k : Cap} {regs : List (Nat × Nat)} (hr : ∀ v ∈ regs, x.regOk v.1 v.2 = true)
    (hk : k.vl = 0) (sizes : List Nat) (bad : Bool) (fmts : List (Nat × Nat)) : vPreAt r x k regs sizes bad fmts = .ok () := by
  simp only [vPreAt, Ctx.checkRegs_ok hr, hk, if_true]

theorem mPre_of_vl_zero {x : Ctx} {k : Cap} {os : List MOp} (ho : x.checkOps os = .ok ()) (hk : k.vl = 0) (sizes : List Nat)
    (readTy bad : Bool) (fmts : List (Nat × Nat)) : mPre x k os sizes readTy bad fmts = .ok () := by
  simp only [mPre, ho, hk, if_true]

/-- The groups of a dispatched instruction exist as they did before the dispatch. -/
theorem State.Groups.sent {s : State} {g : Nat} {vs us : List (BitVec 6)} (h : s.Groups g vs) (hu : ∀ u ∈ us, u ∈ vs) (k : Nat) (o : VOp) :
    ∀ r ∈ us.map (fun v => (v.toNat, g)), (s.sent k o).me.regOk r.1 r.2 = true := by
  intro r hr
  obtain ⟨v, hv, rfl⟩ := List.mem_map.mp hr
  rw [State.sent_regOk]
  exact h v (hu v hv)

theorem State.Groups.mono {s : State} {g : Nat} {us vs : List (BitVec 6)} (h : s.Groups g vs) (hu : ∀ u ∈ us, u ∈ vs) :
    s.Groups g us := fun u hu' => h u (hu u hu')

/-- The entry just dispatched has not begun. -/
theorem State.sent_progOf {s : State} {rs : List (BitVec 5)} (h : s.Vector rs) (k : Nat) (o : VOp) :
    (s.sent k o).me.progOf (s.m.me.vent k o) = .none := by
  simp [Ctx.progOf, State.sent_me, h.empty, Ctx.vent]

/-- The waits before a matrix instruction starts are over: no copy of the context is outstanding (R390). -/
theorem State.mWait_ok {s : State} {rs : List (BitVec 5)} (h : s.Vector rs) (hc : s.NoCopies) (k : Nat) (o : VOp) (e : VEnt) (os : List MOp) :
    mWait (s.sent k o) e os = .ok () := by
  have hcopy : (s.sent k o).me.copyq = [] := by simp [State.sent_me, hc.queue]
  have hhold : ∀ a ∈ (s.sent k o).me.hold, ∀ c, a.cmd ≠ .copy c := by simpa [State.sent_me] using hc.held
  have hbusy : (s.sent k o).accBusy e os = false := by
    simp only [Mach.accBusy, List.any_eq_false]
    intro op _
    cases op with
    | grp v g => simp
    | arr n =>
      simp only [hcopy, List.any_nil, Bool.false_or, List.any_eq_true, not_exists, not_and]
      intro a ha
      cases hcmd : a.cmd with
      | copy c => exact absurd hcmd (hhold a ha c)
      | cgrun => simp
      | fst => simp
  simp [mWait, State.vWait_ok h, waitFor, hbusy]
  rfl

theorem State.vent_cap (s : State) (k : Nat) (o : VOp) : (s.m.me.vent k o).cap = s.cap k := rfl

section
variable {s : State} {rs : List (BitVec 5)} (h : s.Vector rs) (o : VOp)

theorem runQnt_nop {d a : BitVec 6} (w : Nat) (hk : (s.cap mdv).vl = 0) (hg : s.Groups (s.cap mdv).g [d, a]) :
    runQnt d.toNat a.toNat w (s.sent mdv o) (s.m.me.vent mdv o) = .ok (s.sent mdv o) := by
  have hr : ∀ r ∈ [(d.toNat, (s.cap mdv).g), (a.toNat, (s.cap mdv).g)], _ := hg.sent (us := [d, a]) (by simp) mdv o
  simp only [runQnt, State.vent_cap, vPre, vPreAt_of_vl_zero hr hk, orRaise, hk, if_true]
  rfl

theorem runDqnt_nop {d a : BitVec 6} (w : Nat) (hk : (s.cap mdv).vl = 0) (hg : s.Groups (s.cap mdv).g [d, a]) :
    runDqnt d.toNat a.toNat w (s.sent mdv o) (s.m.me.vent mdv o) = .ok (s.sent mdv o) := by
  have hr : ∀ r ∈ [(d.toNat, (s.cap mdv).g), (a.toNat, (s.cap mdv).g)], _ := hg.sent (us := [d, a]) (by simp) mdv o
  simp only [runDqnt, State.vent_cap, vPre, vPreAt_of_vl_zero hr hk, orRaise, hk, if_true]
  rfl

theorem checkOps_arr_ok {x : Ctx} {n : Nat} (hn : n < x.accs) : x.checkOps [.arr n] = .ok () := by
  simp [Ctx.checkOps, Nat.not_le.mpr hn]

theorem checkOps_outer_ok {x : Ctx} {n u v g : Nat} (hn : n < x.accs) (hu : x.regOk u g = true) (hv : x.regOk v g = true) :
    x.checkOps [.arr n, .grp u g, .grp v g] = .ok () := by
  simp [Ctx.checkOps, Nat.not_le.mpr hn, hu, hv]

theorem State.sent_accs (k : Nat) : (s.sent k o).me.accs = s.m.me.accs := by simp [State.sent_me]

theorem runAccopH_nop {n : BitVec 2} (a b : Word) (hk : (s.cap mdm).vl = 0) (hn : n.toNat < s.m.me.accs) :
    runAccopH n.toNat a b (s.sent mdm o) (s.m.me.vent mdm o) = .ok (s.sent mdm o) := by
  have ho := checkOps_arr_ok (x := (s.sent mdm o).me) (by rwa [State.sent_accs])
  simp only [runAccopH, State.vent_cap, mPre_of_vl_zero ho hk, orRaise, hk, if_true]
  rfl

theorem runAccst_nop {n : BitVec 2} (a : Word) (hk : (s.cap mdm).vl = 0) (hn : n.toNat < s.m.me.accs) :
    runAccst a n.toNat (s.sent mdm o) (s.m.me.vent mdm o) = .ok (s.sent mdm o) := by
  have ho := checkOps_arr_ok (x := (s.sent mdm o).me) (by rwa [State.sent_accs])
  simp only [runAccst, State.vent_cap, mPre_of_vl_zero ho hk, orRaise, hk, if_true]
  rfl

theorem runAccstq_nop {n : BitVec 2} (a : Word) (w : Nat) (hk : (s.cap mdm).vl = 0) (hn : n.toNat < s.m.me.accs) :
    runAccstq a n.toNat w (s.sent mdm o) (s.m.me.vent mdm o) = .ok (s.sent mdm o) := by
  have ho := checkOps_arr_ok (x := (s.sent mdm o).me) (by rwa [State.sent_accs])
  simp only [runAccstq, State.vent_cap, mPre_of_vl_zero ho hk, orRaise, hk, if_true]
  rfl

include h

theorem runRed_nop {d a : BitVec 6} (op : Nat) (hk : (s.cap mdv).vl = 0) (hg : s.Groups (s.cap mdv).g [d, a]) :
    runRed op d.toNat a.toNat (s.sent mdv o) (s.m.me.vent mdv o) = .ok (s.sent mdv o) := by
  have hr : ∀ r ∈ [(d.toNat, (s.cap mdv).g), (a.toNat, (s.cap mdv).g)], _ := hg.sent (us := [d, a]) (by simp) mdv o
  simp only [runRed, vStart, State.vent_cap, vPre, vPreAt_of_vl_zero hr hk, State.vWait_ok h, State.srcPoison_ok h, orRaise, hk, if_true]
  rfl

theorem runAccop_nop {n : BitVec 2} {a b : BitVec 6} (hc : s.NoCopies) (hk : (s.cap mdm).vl = 0) (hg : s.Groups (s.cap mdm).g [a, b])
    (hn : n.toNat < s.m.me.accs) : runAccop n.toNat a.toNat b.toNat (s.sent mdm o) (s.m.me.vent mdm o) = .ok (s.sent mdm o) := by
  have hr : ∀ r ∈ [(a.toNat, (s.cap mdm).g), (b.toNat, (s.cap mdm).g)], _ := hg.sent (us := [a, b]) (by simp) mdm o
  have ho := checkOps_outer_ok (x := (s.sent mdm o).me) (n := n.toNat) (by rwa [State.sent_accs])
    (hr (a.toNat, (s.cap mdm).g) (by simp)) (hr (b.toNat, (s.cap mdm).g) (by simp))
  simp only [runAccop, State.vent_cap, mPre_of_vl_zero ho hk, State.mWait_ok h hc, orRaise, hk, if_true]
  rfl

theorem runAccld_nop {n : BitVec 2} (a : Word) (hc : s.NoCopies) (hk : (s.cap mdm).vl = 0) (hn : n.toNat < s.m.me.accs) :
    runAccld n.toNat a (s.sent mdm o) (s.m.me.vent mdm o) = .ok (s.sent mdm o) := by
  have ho := checkOps_arr_ok (x := (s.sent mdm o).me) (by rwa [State.sent_accs])
  simp only [runAccld, State.vent_cap, mPre_of_vl_zero ho hk, State.mWait_ok h hc, orRaise, hk, if_true]
  rfl

/-- What comes before the elements of an instruction of MDL is over at once where VL is 0. -/
theorem State.mdlPre_ok {us : List (BitVec 6)} (hk : (s.cap mdl).vl = 0) (hg : s.Groups (s.cap mdl).g us) (sizes : List Nat)
    (bad readFmt : Bool) :
    mdlPre (s.sent mdl o) (s.m.me.vent mdl o) (us.map fun v => (v.toNat, (s.cap mdl).g)) sizes bad readFmt = .ok () := by
  simp only [mdlPre, State.vent_cap, vPreAt_of_vl_zero (hg.sent (fun _ h => h) mdl o) hk, State.vWait_ok h, orRaise]
  rfl

theorem storeRun_nop {d : BitVec 6} (addr : Nat → Nat) (hk : (s.cap mdl).vl = 0) (hg : s.Groups (s.cap mdl).g [d]) :
    storeRun d.toNat addr (s.sent mdl o) (s.m.me.vent mdl o) = .ok (s.sent mdl o) := by
  have hp := State.mdlPre_ok h o hk hg
  simp only [List.map_cons, List.map_nil] at hp
  simp only [storeRun, State.sent_progOf h, Prog.none, State.vent_cap, hp, hk, if_true]
  rfl

theorem runStx_nop {d b : BitVec 6} (a : Word) (hk : (s.cap mdl).vl = 0) (hg : s.Groups (s.cap mdl).g [d, b]) :
    runStx d.toNat a b.toNat (s.sent mdl o) (s.m.me.vent mdl o) = .ok (s.sent mdl o) := by
  have hp := State.mdlPre_ok h o hk hg
  simp only [List.map_cons, List.map_nil] at hp
  simp only [runStx, State.sent_progOf h, Prog.none, State.vent_cap, hp, hk, if_true]
  rfl

theorem runStn_nop {d : BitVec 6} (a p : Word) (hk : (s.cap mdl).vl = 0) (hg : s.Groups (s.cap mdl).g [d]) :
    runStn d.toNat a p (s.sent mdl o) (s.m.me.vent mdl o) = .ok (s.sent mdl o) := by
  have hp := State.mdlPre_ok h o hk hg
  simp only [List.map_cons, List.map_nil] at hp
  simp only [runStn, State.sent_progOf h, Prog.none, State.vent_cap, hp, hk, if_true]
  rfl

theorem runVamo_nop {d b : BitVec 6} (f : Nat) (a : Word) (hk : (s.cap mdl).vl = 0) (hg : s.Groups (s.cap mdl).g [d, b]) :
    runVamo f d.toNat a b.toNat (s.sent mdl o) (s.m.me.vent mdl o) = .ok (s.sent mdl o) := by
  have hp := State.mdlPre_ok h o hk hg
  simp only [List.map_cons, List.map_nil] at hp
  simp only [runVamo, State.vent_cap, hp, hk, if_true]
  rfl

omit h in
theorem runVlock_nop {b : BitVec 6} (l : Nat) (a : Word) (hk : (s.cap mdl).vl = 0) (hg : s.Groups (s.cap mdl).g [b]) :
    runVlock l a b.toNat (s.sent mdl o) (s.m.me.vent mdl o) = .ok (s.sent mdl o) := by
  have hr : ∀ r ∈ [(b.toNat, (s.cap mdl).g)], _ := hg.sent (us := [b]) (by simp) mdl o
  simp only [runVlock, State.vent_cap, Ctx.checkRegs_ok hr, orRaise, hk, if_true]
  rfl
end

/-- A mode register takes what the instruction makes of its old value. -/
theorem scalarStep_setMd {s : State} (hr : s.ready []) (r : BitVec 2) (f : BitVec 32 → BitVec 32) :
    scalarStep [] (fun m => .ok (m.upd fun x => x.setMd r.toNat (f (vecAt 0 x.md r.toNat)))) s =
      .next (s.did (s.m.upd fun x => x.setMd r.toNat (f (vecAt 0 s.m.me.md r.toNat)))) := by
  have hset : (s.m.upd fun x => x.setMd r.toNat (f (vecAt 0 x.md r.toNat))) =
      s.m.upd fun x => x.setMd r.toNat (f (vecAt 0 s.m.me.md r.toNat)) := Mach.upd_congr rfl
  rw [← hset]
  exact scalarStep_ok hr rfl

/-- Settles O10: the fields of `mode` by their bits, `vsetvl` and `vcfg` by what their bodies come to, and the rest because each run ends
before its first element. -/
theorem modesAndGrants : Obligations.ModesAndGrants := by
  refine ⟨fun s r g t rm q p f e hr => ?mode, fun s d a c n hr => ?grants, fun s d a b n w l x y i hv => ?nops⟩
  case mode =>
    refine ⟨⟨_, scalarStep_setMd hr r fun old => modeFields old g t rm q p f, modeFields_spec _ g t rm q p f⟩,
      ⟨_, scalarStep_setMd hr r fun old => .ofNat 32 (putBits old.toNat 19 12 e.toNat), bitsOf_putTid _ e⟩⟩
  case grants =>
    have hd : s.ready [d] := Ctx.ready_mono hr (by simp)
    exact ⟨⟨vsetvl_ok hr, vsetvl_full hr⟩, fun ht hq hc => vcfg_outOfTurn hd ⟨hq, hc⟩ ht,
      fun ht hq hc hn hv => vcfg_spec hd ⟨hq, hc⟩ ht hn hv, fun ht hq hc hl => vcfg_aboveCeiling hd ⟨hq, hc⟩ ht hl⟩
  case nops =>
    have h0 : ∀ r ∈ ([] : List Nat), r ∈ [x, y].map BitVec.toNat := by simp
    have hx : ∀ r ∈ [x.toNat], r ∈ [x, y].map BitVec.toNat := by simp
    have hxy : ∀ r ∈ [x.toNat, y.toNat], r ∈ [x, y].map BitVec.toNat := by simp
    simp only [exec_vqnt, exec_vdqnt, exec_vredsum, exec_accop, exec_accopH, exec_accld, exec_accst, exec_accstQ, exec_vst, exec_vsts,
      exec_vstx, exec_vstn, exec_vamoAdd, exec_vlock]
    refine ⟨fun hk hg => ?_, fun hk hg hn hc => ?_, fun hk hg => ?_⟩
    · have hda := hg.mono (us := [d, a]) (by simp)
      exact ⟨State.vector_ok hv h0 (runQnt_nop _ _ hk hda), State.vector_ok hv h0 (runDqnt_nop _ _ hk hda),
        State.vector_ok hv h0 (runRed_nop hv _ _ hk hda)⟩
    · exact ⟨State.vector_ok hv h0 (runAccop_nop hv _ hc hk hg hn), State.vector_ok hv hxy (runAccopH_nop _ _ _ hk hn),
        State.vector_ok hv hx (runAccld_nop hv _ _ hc hk hn), State.vector_ok hv hx (runAccst_nop _ _ hk hn),
        State.vector_ok hv hx (runAccstq_nop _ _ _ hk hn)⟩
    · have hgd := hg.mono (us := [d]) (by simp)
      have hgb := hg.mono (us := [b]) (by simp)
      exact ⟨State.vector_ok hv hx (storeRun_nop hv _ _ hk hgd), State.vector_ok hv hxy (storeRun_nop hv _ _ hk hgd),
        State.vector_ok hv hx (runStx_nop hv _ _ hk hg), State.vector_ok hv hxy (runStn_nop hv _ _ _ hk hgd),
        State.vector_ok hv hx (runVamo_nop hv _ _ _ hk hg), State.vector_ok hv hx (runVlock_nop _ _ _ hk hgb)⟩

end Sys2Proof.Machine
end

section
/-!
PROOFS. `trap`, `rett`, `hint`, and the end of a task (R70, R267, R299, R300, R348, R447).
-/

namespace Sys2Proof.Machine

/-! ### Entering a handler, and returning from one -/

/-- The context that acts, once an exception that ends nothing has been taken (R298). -/
theorem enterTrap_handler {m : Mach} {f : Flt} (epc : Word) (word : BitVec 32) (hf : (m.me.firstH && f.code != 0x11) = false)
    (ht : m.me.thandler ≠ 0) :
    m.enterTrap m.cur f epc word =
      ((m.count m.cur evTrap 1).upd fun x => x.trapRegs f epc word).upd fun x =>
        { x with pc := x.thandler, firstH := true, inH := x.inH + 1 } := by
  have hme : (m.count m.cur evTrap 1).ctx m.cur = m.me := m.ctx_count ..
  simp only [Mach.enterTrap, hme, hf, Bool.false_eq_true, if_false, if_neg ht, Mach.upd, Mach.count_cur,
    Mach.updCtx_cur]

theorem enterTrap_handler_onlyMe {m : Mach} {f : Flt} (epc : Word) (word : BitVec 32) (hf : (m.me.firstH && f.code != 0x11) = false)
    (ht : m.me.thandler ≠ 0) : m.onlyMe (m.enterTrap m.cur f epc word) := by
  rw [enterTrap_handler epc word hf ht]
  exact ((m.onlyMe_count _ _ _).trans (Mach.onlyMe_upd _ _)).trans (Mach.onlyMe_upd _ _)

/-- A scalar-side instruction that waits for every older vector-side instruction may go on. -/
theorem State.ready_and_safe {s : State} (hr : s.ready []) (hu : s.m.me.anyUnsafe = false) :
    ¬ (!s.m.me.ready [] || s.m.me.anyUnsafe) = true := by
  have hr' : s.m.me.ready [] = true := hr
  simp [hr', hu]

theorem trap_eq {s : State} (i : BitVec 24) (hr : s.ready []) (hu : s.m.me.anyUnsafe = false) :
    execTrap i s = .next { s with m := s.m.retire.enterTrap s.m.retire.cur ⟨0x11, i.toNat, 0, none, none, none⟩ (s.m.me.pc + 4) s.m.me.ir } := by
  rw [execTrap, onMach, if_neg (State.ready_and_safe hr hu)]
  simp [Mach.retire, Mach.retireTo]

theorem trap_spec {s : State} (i : BitVec 24) (hr : s.ready []) (hu : s.m.me.anyUnsafe = false) (ht : s.m.me.thandler ≠ 0) :
    ∃ t, execTrap i s = .next t ∧ t.m.me.pc = s.m.me.thandler ∧ t.m.me.epc = s.m.me.pc + 4 ∧
      t.m.me.fcause = .ofNat 64 (0x11 + i.toNat * 256) ∧ t.m.me.finstr = s.m.me.ir ∧ t.m.me.faddr = 0 ∧ t.m.me.x = s.m.me.x ∧
      s.onlyMe t := by
  have hth : s.m.retire.me.thandler ≠ 0 := by rwa [Mach.retire, Mach.me_retireTo]
  have hf : (s.m.retire.me.firstH && (⟨0x11, i.toNat, 0, none, none, none⟩ : Flt).code != 0x11) = false := by simp
  refine ⟨_, trap_eq i hr hu, ?_, ?_, ?_, ?_, ?_, ?_, State.onlyMe_of_mach ((Mach.onlyMe_retire _).trans (enterTrap_handler_onlyMe _ _ hf hth))⟩ <;>
    rw [enterTrap_handler _ _ hf hth] <;> simp [Mach.retire, Mach.me_retireTo, Ctx.trapRegs, Flt.cause]

theorem rett_spec {s : State} (hr : s.ready []) (hu : s.m.me.anyUnsafe = false) :
    ∃ t, execRett s = .next t ∧ t.m.me.pc = s.m.me.epc ∧ t.m.me.epc = s.m.me.epc ∧ t.m.me.fcause = s.m.me.fcause ∧
      t.m.me.x = s.m.me.x ∧ t.m.me.vstart = s.m.me.vstart ∧ s.onlyMe t := by
  have hexec : execRett s = .next { s with
      m := ((s.m.returnTo.1).retireTo s.m.me.epc).upd fun x => { x with arrival := s.m.me.arrival.filter fun a => a.pc == s.m.me.epc } } := by
    rw [execRett, onMach, if_neg (State.ready_and_safe hr hu)]
    rfl
  refine ⟨_, hexec, ?_, ?_, ?_, ?_, ?_, State.onlyMe_of_mach ?_⟩
  iterate 5 simp [Mach.me_retireTo, Mach.returnTo]
  exact ((s.m.onlyMe_upd _).trans (Mach.onlyMe_retireTo _ _)).trans (Mach.onlyMe_upd _ _)

/-! ### What a drained context leaves -/

/-- A context's own queues are empty (R172). -/
def Ctx.emptyQueues (x : Ctx) : Bool :=
  x.vq.isEmpty && x.sb.isEmpty && x.hold.isEmpty && x.copyq.isEmpty && x.bankq.isEmpty && x.score.all (· == 0)

/-- Nothing outside context c's own queues is left to do for it. -/
def Mach.nothingOf (m : Mach) (c : Nat) : Bool :=
  !(m.nmus.any fun e => (e.2.queue.any fun r => r.run.c == c) || match e.2.cur with
    | some r => r.run.c == c
    | none => false) &&
  !((m.pair (pairOf c)).sq.any fun d => d.c == c) &&
  !(m.chains.any fun ch => ch.ops.any fun o => match o with
    | .delta d _ => d.c == c
    | .vamo _ _ _ _ _ _ d _ => d == c
    | .add _ _ _ _ _ _ _ => false) &&
  !m.fabOpen c &&
  !(m.slots.any fun s => (s.wait.any fun r => r.c == c) || match s.run with
    | some r => r.c == c
    | none => false)

theorem Mach.drained_eq (m : Mach) (c : Nat) : m.drained c = ((m.ctx c).emptyQueues && m.nothingOf c) := by
  simp only [Mach.drained, Ctx.emptyQueues, Mach.nothingOf, Bool.and_assoc] <;> rfl

/-- What is left of a context elsewhere does not rest on contexts and event counts. -/
theorem Mach.onlyMe.nothingOf_eq {m n : Mach} (h : m.onlyMe n) (c : Nat) : n.nothingOf c = m.nothingOf c := by
  obtain ⟨hn, -, hp⟩ := h
  have hsq : (n.pair (pairOf c)).sq = (m.pair (pairOf c)).sq := by rw [hp]
  rw [hn] at hsq ⊢
  simp only [Mach.nothingOf, hsq]
  rfl

/-- With no copy command left to discard, discarding changes one context, and of it neither task nor queues. -/
theorem discardCopies_of_none {m : Mach} {limit : Nat} (hq : m.me.emptyQueues = true) (hy : m.me.youngCopies = []) :
    m.onlyMe (m.discardCopies m.cur limit).1 ∧ (m.discardCopies m.cur limit).1.me.emptyQueues = true ∧
      (m.discardCopies m.cur limit).1.me.task = m.me.task ∧ (m.discardCopies m.cur limit).1.cur = m.cur := by
  simp only [Ctx.emptyQueues, Bool.and_eq_true, List.isEmpty_iff] at hq
  obtain ⟨⟨⟨⟨⟨hvq, hsb⟩, hhold⟩, hcopy⟩, hbank⟩, hscore⟩ := hq
  have hx : m.ctx m.cur = m.me := rfl
  by_cases hs : m.me.copyStop = true
  · have hd : (m.discardCopies m.cur limit).1 = m.upd fun x =>
        { x with copyq := [], youngCopies := [], copyStop := false, hold := [] } := by
      simp [Mach.discardCopies, hx, hs, hy, hcopy, hhold, Ctx.heldCopies, Mach.unscore]
      exact Mach.upd_congr (by simp [hhold])
    rw [hd, Mach.me_upd]
    exact ⟨m.onlyMe_upd _, by simp [Ctx.emptyQueues, hvq, hsb, hbank, hscore], rfl, rfl⟩
  · have hd : (m.discardCopies m.cur limit).1 = m := by simp [Mach.discardCopies, hx, hs]
    rw [hd]
    exact ⟨m.onlyMe_refl, by simp [Ctx.emptyQueues, hvq, hsb, hhold, hcopy, hbank, hscore], rfl, rfl⟩

/-! ### The end of a task -/

/-- A task that ends in a drained context is finished at once (R267, R348): up to contexts and event counts, in the machine it ended in. -/
theorem endTask_of_drained {m : Mach} (hd : m.drained m.cur = true) (hy : m.me.youngCopies = []) (faulted : Bool) (v : Word) :
    ∃ n : Mach, m.endTask m.cur faulted v = n.finishTask n.cur faulted v ∧ m.onlyMe n ∧ n.me.task = m.me.task ∧ n.cur = m.cur := by
  rw [Mach.drained_eq, Bool.and_eq_true] at hd
  obtain ⟨hq, hn⟩ := hd
  obtain ⟨honly, hq', htask, hcur⟩ := discardCopies_of_none (limit := m.me.stamp + 1) hq hy
  have hstamp : (m.discardCopies m.cur ((m.ctx m.cur).stamp + 1)).1 = (m.discardCopies m.cur (m.me.stamp + 1)).1 := rfl
  simp only [Mach.endTask, hstamp]
  generalize (m.discardCopies m.cur (m.me.stamp + 1)).1 = k at *
  rw [← hcur]
  let n := (k.upd fun x => { x with engFaults := [] }).upd fun x =>
    { x with status := .ending faulted v, sleep := none, stall := 0, pendTrap := none }
  have hk : k.onlyMe n := (k.onlyMe_upd _).trans (Mach.onlyMe_upd _ _)
  have hme : n.me = { k.me with engFaults := [], status := .ending faulted v, sleep := none, stall := 0, pendTrap := none } := by
    simp [n]
  have hdr : n.drained n.cur = true := by
    rw [Mach.drained_eq, (honly.trans hk).nothingOf_eq, show n.cur = m.cur from hcur, hn, Bool.and_true]
    have : n.ctx m.cur = n.me := by rw [← hcur]; rfl
    rw [this, hme]
    exact hq'
  have hst : (n.ctx n.cur).status = .ending faulted v := by rw [show n.ctx n.cur = n.me from rfl, hme]
  have hsettle : n.settle n.cur = n.finishTask n.cur faulted v := by
    simp only [Mach.settle, hst, hdr, if_true]
  exact ⟨n, hsettle, honly.trans hk, by rw [hme]; exact htask, rfl⟩

/-- Traffic between dies is counted, and nothing else (R163, R213). -/
theorem Mach.hop_eq (m : Mach) (a b cls n : Nat) : ∃ u c, m.hop a b cls n = { m with used := u, dieCnt := c } := ⟨_, _, rfl⟩

theorem Mach.charge_eq (m : Mach) (a b cls n : Nat) : ∃ u c, m.charge a b cls n = { m with used := u, dieCnt := c } := by
  simp only [Mach.charge]
  split
  · exact ⟨m.used, m.dieCnt, rfl⟩
  · split
    · exact m.hop_eq a b cls n
    · rename_i mid _
      obtain ⟨u, c, h⟩ := m.hop_eq a mid cls n
      obtain ⟨u', c', h'⟩ := (m.hop a mid cls n).hop_eq mid b cls n
      exact ⟨u', c', by rw [h', h]⟩

/-- Freeing a context resets it, and touches tables of contexts, requests, saved tasks and pairs alone (R65). -/
theorem Mach.freeCtx_eq (m : Mach) (c : Nat) : (m.freeCtx c).ctx c = .reset ∧
    ∃ tr sv ps, m.freeCtx c = { m.setCtx c .reset with troupe := tr, saved := sv, pairs := ps } := by
  simp only [Mach.freeCtx]
  split
  · exact ⟨m.ctx_setCtx c _, _, m.saved, m.pairs, rfl⟩
  · exact ⟨m.ctx_setCtx c _, _, _, _, rfl⟩

/-- The windows after a task's report has entered window l and its own window has died (R70, R72). -/
def windowsAfter (ws : List Window) (l self : Launcher) (r : Report) : List Window :=
  ((ws.map fun w => if w.l = l then { w with ended := w.ended ++ [r] } else w).map fun w =>
    if w.l = self then { w with dead := true, unread := [] } else w).filter fun w => !(w.dead && w.base == w.next)

/-- A change of a partition touches the partitions alone. -/
theorem Mach.updPart_eq (m : Mach) (q : Nat) (f : Part → Part) : ∃ ps, m.updPart q f = { m with parts := ps } := by
  simp only [Mach.updPart]
  split
  · exact ⟨_, rfl⟩
  · exact ⟨m.parts, rfl⟩

/-- The partition itself after a change. -/
theorem Mach.part_updPart {m : Mach} {q : Nat} {p : Part} (f : Part → Part) (hp : m.part q = some p) :
    (m.updPart q f).part q = some (f p) := by
  rw [Mach.updPart, hp]
  exact tabFind_tabSet_same m.parts q (f p)

/-- A cast reads as what an update makes of it. -/
theorem Mach.cast_updCast {m : Mach} {q id : Nat} {k : Cast} (f : Cast → Cast) (hk : m.cast q id = some k) (hf : ∀ k, (f k).id = k.id) :
    (m.updCast q id f).cast q id = some (f k) := by
  cases hp : m.part q with
  | none => simp [Mach.cast, hp] at hk
  | some p =>
    simp only [Mach.cast, hp] at hk
    have hid : k.id = id := by simpa using List.find?_some hk
    simp only [Mach.cast, Mach.updCast, Mach.part_updPart _ hp, List.find?_map]
    have hsame : ((fun k : Cast => k.id == id) ∘ fun k => if k.id == id then f k else k) = fun k => k.id == id := by
      funext k
      simp only [Function.comp]
      split <;> simp [hf]
    rw [hsame, hk]
    simp [hid]

/-- The last part of a task's end: its own window is no longer read, dead windows that hold nothing go, and the context is freed. -/
def Mach.closeTask (m : Mach) (c : Nat) (self : Launcher) : Mach :=
  let m := (m.charge (dieOf c) 4 5 64).updWindow self fun w => { w with dead := true, unread := [] }
  ({ m with windows := m.windows.filter fun w => !(w.dead && w.base == w.next) } : Mach).freeCtx c

theorem closeTask_eq (m : Mach) (c : Nat) (self : Launcher) :
    (m.closeTask c self).ctx c = .reset ∧ (m.closeTask c self).mem = m.mem ∧ (m.closeTask c self).parts = m.parts ∧
    (m.closeTask c self).windows = (m.windows.map fun w => if w.l = self then { w with dead := true, unread := [] } else w).filter
      fun w => !(w.dead && w.base == w.next) := by
  obtain ⟨u, d, hcharge⟩ := m.charge_eq (dieOf c) 4 5 64
  obtain ⟨hreset, tr, sv, ps, hfree⟩ := Mach.freeCtx_eq
    { (m.charge (dieOf c) 4 5 64).updWindow self (fun w => { w with dead := true, unread := [] }) with
      windows := ((m.charge (dieOf c) 4 5 64).updWindow self fun w => { w with dead := true, unread := [] }).windows.filter
        fun w => !(w.dead && w.base == w.next) } c
  refine ⟨hreset, ?_, ?_, ?_⟩ <;> rw [Mach.closeTask, hfree, hcharge] <;> rfl

/-- What the end of a task leaves: the context is free, the cast counts one more ended task, and the launcher's window has its report
(R70, R72). -/
theorem finishTask_eq (m : Mach) (c : Nat) (faulted : Bool) (v : Word) :
    (m.finishTask c faulted v).ctx c = .reset ∧ (m.finishTask c faulted v).mem = m.mem ∧
    (∀ k, m.cast (m.ctx c).task.q (m.ctx c).task.cast = some k →
      let t := (m.ctx c).task
      (m.finishTask c faulted v).windows =
        windowsAfter m.windows k.launcher (.task t.q t.cast t.idx) ⟨k.seq0 + t.idx, t.cast, t.idx, faulted, v⟩ ∧
      (m.finishTask c faulted v).cast t.q t.cast = some { k with ended := k.ended + 1 }) := by
  cases hk : m.cast (m.ctx c).task.q (m.ctx c).task.cast with
  | none => 
    have hf : m.finishTask c faulted v = m.closeTask c (.task (m.ctx c).task.q (m.ctx c).task.cast (m.ctx c).task.idx) := by
      simp only [Mach.finishTask, hk]
      rfl
    obtain ⟨hctx, hmem, -, -⟩ := closeTask_eq m c (.task (m.ctx c).task.q (m.ctx c).task.cast (m.ctx c).task.idx)
    rw [hf]
    exact ⟨hctx, hmem, fun k h => nomatch h⟩
  | some k =>
    let n := (m.updWindow k.launcher fun w => 
      { w with ended := w.ended ++ [Report.mk (k.seq0 + (m.ctx c).task.idx) (m.ctx c).task.cast (m.ctx c).task.idx faulted v] }).updCast
        (m.ctx c).task.q (m.ctx c).task.cast fun k => { k with ended := k.ended + 1 }
    have hf : m.finishTask c faulted v = n.closeTask c (.task (m.ctx c).task.q (m.ctx c).task.cast (m.ctx c).task.idx) := by
      simp only [Mach.finishTask, hk]
      rfl
    obtain ⟨ps, hn⟩ : ∃ ps, n = { m with windows := _, parts := ps } := Mach.updPart_eq _ _ _
    obtain ⟨hctx, hmem, hparts, hwin⟩ := closeTask_eq n c (.task (m.ctx c).task.q (m.ctx c).task.cast (m.ctx c).task.idx)
    rw [hf]
    refine ⟨hctx, by rw [hmem, hn], fun k' h => ?_⟩
    obtain rfl : k = k' := Option.some.inj h
    refine ⟨by rw [hwin, hn]; rfl, ?_⟩
    have hcast : n.cast (m.ctx c).task.q (m.ctx c).task.cast = some { k with ended := k.ended + 1 } :=
      Mach.cast_updCast (m := m.updWindow k.launcher _) _ hk fun _ => rfl
    rw [← hcast]
    simp only [Mach.cast, Mach.part, hparts]

/-- An open window of the launcher gains the report. -/
theorem mem_windowsAfter {ws : List Window} {l : Launcher} (self : Launcher) (r : Report) {w : Window} (hw : w ∈ ws) (hl : w.l = l)
    (ho : w.base ≠ w.next) :
    ∃ v ∈ windowsAfter ws l self r, v.l = w.l ∧ v.base = w.base ∧ v.next = w.next ∧ v.ended = w.ended ++ [r] := by
  let w1 : Window := { w with ended := w.ended ++ [r] }
  let w2 : Window := if w.l = self then { w1 with dead := true, unread := [] } else w1
  have h2 : w2.l = w.l ∧ w2.base = w.base ∧ w2.next = w.next ∧ w2.ended = w.ended ++ [r] := by
    simp only [w2]
    split <;> exact ⟨rfl, rfl, rfl, rfl⟩
  obtain ⟨hl2, hb2, hn2, he2⟩ := h2
  refine ⟨w2, List.mem_filter.mpr ⟨List.mem_map.mpr ⟨w1, List.mem_map.mpr ⟨w, hw, by simp [hl, w1]⟩, rfl⟩, ?_⟩, hl2, hb2, hn2, he2⟩
  simp [hb2, hn2, ho]

/-- `texit` of a context with nothing outstanding ends its task with X[A] (R348). -/
theorem texit_eq {s : State} {a : BitVec 5} (hr : s.ready [a]) (hd : s.Drained) :
    execTexit a s = .next { s with m := s.m.retire.endTask s.m.retire.cur false (s.x a) } := by
  obtain ⟨hdr, hfab, heng, -⟩ := hd
  have hr' : s.m.me.ready [a.toNat] = true := hr
  have heng' : (s.m.ctx s.m.cur).engFaults = [] := heng
  have hnone : s.m.takeFault s.m.cur (s.m.me.stamp + 1) [1, 2, 3, 4] = none := by
    simp [Mach.takeFault, Ctx.oldestFault, heng']
  simp [execTexit, joinStep, onMach, hr', hnone, hdr, hfab, State.x, Mach.retire, Mach.retireTo]

theorem texit_spec {s : State} {a : BitVec 5} (hr : s.ready [a]) (hd : s.Drained) :
    ∃ t, execTexit a s = .next t ∧ t.m.ctx s.m.cur = .reset ∧ t.m.mem = s.m.mem ∧
      ∀ k, s.m.cast s.m.me.task.q s.m.me.task.cast = some k →
        t.m.cast s.m.me.task.q s.m.me.task.cast = some { k with ended := k.ended + 1 } ∧
        ∀ w ∈ s.m.windows, w.l = k.launcher → w.base ≠ w.next → ∃ v ∈ t.m.windows, v.l = w.l ∧ v.base = w.base ∧ v.next = w.next ∧
          v.ended = w.ended ++ [⟨k.seq0 + s.m.me.task.idx, s.m.me.task.cast, s.m.me.task.idx, false, s.x a⟩] := by
  have hdr : s.m.retire.drained s.m.retire.cur = true := by
    have hq : s.m.retire.me.emptyQueues = s.m.me.emptyQueues := by rw [Mach.retire, Mach.me_retireTo]; rfl
    have hcur : s.m.retire.cur = s.m.cur := by rw [(Mach.onlyMe_retire s.m).1]
    have hd' := hd.1
    rw [Mach.drained_eq] at hd' ⊢
    rw [(Mach.onlyMe_retire s.m).nothingOf_eq, hcur]
    rw [Mach.me, hcur] at hq
    rwa [hq]
  have hy : s.m.retire.me.youngCopies = [] := by rw [Mach.retire, Mach.me_retireTo]; exact hd.2.2.2
  obtain ⟨n, hend, honly, htask, hcur⟩ := endTask_of_drained hdr hy false (s.x a)
  obtain ⟨hn, -, -⟩ := (Mach.onlyMe_retire s.m).trans honly
  have htask' : (n.ctx n.cur).task = s.m.me.task := by
    rw [Mach.retire, Mach.me_retireTo] at htask
    exact htask
  have hcur' : n.cur = s.m.cur := by rw [hn]
  obtain ⟨hctx, hmem, hcast⟩ := finishTask_eq n n.cur false (s.x a)
  refine ⟨_, texit_eq hr hd, ?_, ?_, fun k hk => ?_⟩
  · rw [hend, ← hcur']
    exact hctx
  · rw [hend, hmem, hn]
  · have hk' : n.cast s.m.me.task.q s.m.me.task.cast = some k := by rw [hn]; exact hk
    rw [htask'] at hcast
    obtain ⟨hwin, hended⟩ := hcast k hk'
    rw [hend]
    refine ⟨hended, fun w hw hl ho => ?_⟩
    rw [hwin]
    exact mem_windowsAfter _ _ (by rw [hn]; exact hw) hl ho

/-- Settles O12: each instruction through the lemma of its effect above. -/
theorem trapReturnAndExit : Obligations.TrapReturnAndExit :=
  ⟨fun _ i _ hr hu => ⟨fun ht => trap_spec i hr hu ht, rett_spec hr hu, scalarStep_ok hr rfl⟩,
    fun _ _ hr hd => texit_spec hr hd⟩

end Sys2Proof.Machine
end

section
/-!
PROOFS. Reports of ended tasks, host completion records, `lwait` and the expiry of sleeps (R70, R72, R74, R208, R295, R444).
-/

namespace Sys2Proof.Machine

/-! ### What a change of a partition leaves -/

@[simp] theorem Mach.updPart_cur (m : Mach) (q : Nat) (f : Part → Part) : (m.updPart q f).cur = m.cur := by
  unfold Mach.updPart
  split <;> rfl

@[simp] theorem Mach.updPart_ctxs (m : Mach) (q : Nat) (f : Part → Part) : (m.updPart q f).ctxs = m.ctxs := by
  unfold Mach.updPart
  split <;> rfl

@[simp] theorem Mach.updPart_pairs (m : Mach) (q : Nat) (f : Part → Part) : (m.updPart q f).pairs = m.pairs := by
  unfold Mach.updPart
  split <;> rfl

@[simp] theorem Mach.updPart_nmus (m : Mach) (q : Nat) (f : Part → Part) : (m.updPart q f).nmus = m.nmus := by
  unfold Mach.updPart
  split <;> rfl

@[simp] theorem Mach.updPart_mem (m : Mach) (q : Nat) (f : Part → Part) : (m.updPart q f).mem = m.mem := by
  unfold Mach.updPart
  split <;> rfl

@[simp] theorem Mach.updPart_gone (m : Mach) (q : Nat) (f : Part → Part) : (m.updPart q f).gone = m.gone := by
  unfold Mach.updPart
  split <;> rfl

@[simp] theorem Mach.updPart_windows (m : Mach) (q : Nat) (f : Part → Part) : (m.updPart q f).windows = m.windows := by
  unfold Mach.updPart
  split <;> rfl

@[simp] theorem Mach.updPart_hostRecs (m : Mach) (q : Nat) (f : Part → Part) : (m.updPart q f).hostRecs = m.hostRecs := by
  unfold Mach.updPart
  split <;> rfl

@[simp] theorem Mach.updPart_saved (m : Mach) (q : Nat) (f : Part → Part) : (m.updPart q f).saved = m.saved := by
  unfold Mach.updPart
  split <;> rfl

@[simp] theorem Mach.updPart_slots (m : Mach) (q : Nat) (f : Part → Part) : (m.updPart q f).slots = m.slots := by
  unfold Mach.updPart
  split <;> rfl

@[simp] theorem Mach.updPart_troupe (m : Mach) (q : Nat) (f : Part → Part) : (m.updPart q f).troupe = m.troupe := by
  unfold Mach.updPart
  split <;> rfl

@[simp] theorem Mach.updPart_links (m : Mach) (q : Nat) (f : Part → Part) : (m.updPart q f).links = m.links := by
  unfold Mach.updPart
  split <;> rfl

@[simp] theorem Mach.updPart_cycle (m : Mach) (q : Nat) (f : Part → Part) : (m.updPart q f).cycle = m.cycle := by
  unfold Mach.updPart
  split <;> rfl

@[simp] theorem Mach.updPart_used (m : Mach) (q : Nat) (f : Part → Part) : (m.updPart q f).used = m.used := by
  unfold Mach.updPart
  split <;> rfl

@[simp] theorem Mach.updPart_pfaults (m : Mach) (q : Nat) (f : Part → Part) : (m.updPart q f).pfaults = m.pfaults := by
  unfold Mach.updPart
  split <;> rfl

/-! ### Completion reports -/

@[simp] theorem castReported_ctxs (m : Mach) (q id : Nat) : (m.castReported q id).ctxs = m.ctxs := m.updPart_ctxs q _
@[simp] theorem castReported_windows (m : Mach) (q id : Nat) : (m.castReported q id).windows = m.windows := m.updPart_windows q _
@[simp] theorem castReported_hostRecs (m : Mach) (q id : Nat) : (m.castReported q id).hostRecs = m.hostRecs := m.updPart_hostRecs q _

/-- The launcher's window, after an update that keeps windows' launchers and a filter that it passes. -/
theorem find_window_map_filter {ws : List Window} {l : Launcher} {w : Window} {f : Window → Window} {p : Window → Bool}
    (hf : ∀ w, (f w).l = w.l) (h : ws.find? (fun w => w.l == l) = some w) (hp : p (f w) = true) :
    ((ws.map fun w => if w.l = l then f w else w).filter p).find? (fun w => w.l == l) = some (f w) := by
  have hl : w.l = l := by simpa using List.find?_some h
  induction ws with
  | nil => cases h
  | cons a ws ih =>
    by_cases ha : a.l = l
    · obtain rfl : a = w := by simpa [ha] using h
      simp [ha, hp, hf]
    · have h' : ws.find? (fun w => w.l == l) = some w := by simpa [ha] using h
      rw [List.map_cons, if_neg ha, List.filter_cons]
      split
      · rw [List.find?_cons_of_neg (by simpa using ha)]
        exact ih h'
      · exact ih h'

/-- The oldest ended task of a task's window whose turn it is becomes an unread report (R70). -/
theorem report_of_task {m : Mach} {q i j : Nat} {w : Window} {r : Report} (hw : m.windows.find? (fun w => w.l == .task q i j) = some w)
    (hr : w.ended.find? (fun r => r.seq == w.base) = some r) (hd : w.dead = false) :
    (m.report (.task q i j)).ctxs = m.ctxs ∧ (m.report (.task q i j)).windows.find? (fun w => w.l == .task q i j) =
      some { w with base := w.base + 1, ended := w.ended.erase r, unread := w.unread ++ [r] } := by
  simp only [Mach.report, hw, hr, hd, launcherQ, Bool.false_eq_true, if_false, castReported_ctxs, castReported_windows]
  exact ⟨rfl, (find_window_map_filter (f := fun v => { v with base := v.base + 1, ended := v.ended.erase r, unread := w.unread ++ [r] })
    (p := fun w => !(w.dead && w.base == w.next)) (fun _ => rfl) hw (by simp [hd])).trans (by simp [hd])⟩

/-- The report of a task of a host launch changes that launch's record (R72, R74). -/
theorem report_of_host {m : Mach} {q sl : Nat} {w : Window} {r : Report} (hw : m.windows.find? (fun w => w.l == .host q sl) = some w)
    (hr : w.ended.find? (fun r => r.seq == w.base) = some r) :
    (m.report (.host q sl)).ctxs = m.ctxs ∧ (m.report (.host q sl)).hostRecs =
      m.hostRecs.map fun h => if h.q = q ∧ h.slot = sl ∧ h.cast = r.cast then h.note r else h := by
  simp only [Mach.report, hw, hr, launcherQ, castReported_ctxs, castReported_hostRecs, Bool.and_eq_true, decide_eq_true_eq, and_assoc]
  exact ⟨rfl, rfl⟩

/-! ### Host completion records -/

/-- A record that has changed is sent whole, and is then clean or gone (R74). -/
theorem rewriteRec_of_dirty {m : Mach} {q sl : Nat} {h : HostRec}
    (hf : m.hostRecs.find? (fun h => h.q == q && h.slot == sl && h.dirty) = some h)
    (hroom : m.streamRoom (complMember h.addr) clsLaunch 1 = true) :
    (m.rewriteRec q sl).troupe = (m.send (complMember h.addr) clsLaunch none (.record h.addr h.bytes) .other).troupe ∧
      h ∉ (m.rewriteRec q sl).hostRecs := by
  have hdirty : h.dirty = true := by
    have := List.find?_some hf
    simp only [Bool.and_eq_true] at this
    exact this.2
  simp only [Mach.rewriteRec, hf, hroom, Bool.not_true, Bool.false_eq_true, if_false]
  refine ⟨trivial, fun hmem => ?_⟩
  obtain ⟨g, -, hg⟩ := List.mem_map.mp (List.mem_filter.mp hmem).1
  by_cases hgh : g = h
  · rw [if_pos hgh] at hg
    have := congrArg HostRec.dirty hg
    simp [hdirty] at this
  · exact hgh (by rwa [if_neg hgh] at hg)

/-! ### `lwait` -/

/-- The oldest unread report of the acting task's window is taken (R444). -/
theorem takeReport_eq {m : Mach} {w : Window} {r : Report} {rest : List Report}
    (hw : m.windows.find? (fun w => w.l == .task m.me.task.q m.me.task.cast m.me.task.idx) = some w) (hu : w.unread = r :: rest) :
    m.takeReport =
      some (m.updWindow (.task m.me.task.q m.me.task.cast m.me.task.idx) fun w => { w with unread := rest }, r) := by
  simp only [Mach.takeReport, hw, hu]

theorem lwait_of_report {s : State} {d a : BitVec 5} {w : Window} {r : Report} {rest : List Report} (hr : s.ready [d, a])
    (hw : s.m.windows.find? (fun w => w.l == .task s.m.me.task.q s.m.me.task.cast s.m.me.task.idx) = some w) (hu : w.unread = r :: rest)
    (hroom : s.m.me.anyUnsafe = false ∨ s.m.me.undo.length ≤ 62) :
    execLwait d a s = .next (s.did (((((s.m.updWindow (.task s.m.me.task.q s.m.me.task.cast s.m.me.task.idx) fun w =>
      { w with unread := rest }).setX d.toNat r.value).setX a.toNat r.word).acquire s.m.cur))) := by
  refine scalarStep_ok hr ?_
  simp only [takeReport_eq hw hu, Mach.undoRoom_ok (hroom.imp_right fun h => show _ + 2 ≤ 64 by omega)]
  rfl

theorem lwait_sleeps {s : State} {d a : BitVec 5} (hr : s.ready [d, a]) (ht : s.m.takeReport.isNone = true) (hs : s.m.me.sleep = none) :
    execLwait d a s = .next { s with m := s.m.upd fun x =>
      { x with sleep := some ⟨.report d.toNat a.toNat, keptTime x.kept x.pc, (if s.x a = 0 then x.wdog else s.x a).toNat⟩ } } := by
  refine (scalarStep_wait hr (m' := s.m.upd fun x => { x with
    sleep := some ⟨.report d.toNat a.toNat, keptTime x.kept x.pc, (if s.x a = 0 then s.m.me.wdog else s.x a).toNat⟩ }) ?_).trans ?_
  · simp only [Option.isNone_iff_eq_none.mp ht, Mach.sleepOn, hs]
    rfl
  · rw [Mach.upd_congr]
    rfl

/-- A report that has come for a sleeping `lwait` is taken by it (R444). -/
theorem lwaitWake_eq {m : Mach} {c d a : Nat} {z : Sleep} {w : Window} {r : Report} {rest : List Report}
    (hst : (m.ctx c).status = .running) (hz : (m.ctx c).sleep = some z) (hon : z.on = .report d a)
    (hw : m.windows.find? (fun w => w.l == .task (m.ctx c).task.q (m.ctx c).task.cast (m.ctx c).task.idx) = some w)
    (hu : w.unread = r :: rest) (hroom : (m.ctx c).anyUnsafe = false ∨ (m.ctx c).undo.length ≤ 62) :
    m.lwaitWake c = ((((((m.as c).updWindow (.task (m.ctx c).task.q (m.ctx c).task.cast (m.ctx c).task.idx) fun w =>
      { w with unread := rest }).setX d r.value).setX a r.word).acquire c).retire) := by
  have htake := takeReport_eq (m := m.as c) hw hu
  have hundo : (m.as c).undoRoom 2 = .ok () :=
    Mach.undoRoom_ok (hroom.imp_right fun h => show (m.ctx c).undo.length + 2 ≤ 64 by omega)
  simp only [Mach.lwaitWake, hst, hz, Option.map_some, hon, htake, hundo]
  rfl

/-! ### The expiry of a sleep -/

/-- A sleep whose time is up and whose wait is not over ends with WAIT_TIMEOUT (R208, R295). -/
theorem expire_of_due {m : Mach} {c : Nat} {z : Sleep} (hst : (m.ctx c).status = .running) (hz : (m.ctx c).sleep = some z)
    (ht : z.timeout ≤ z.timer) (hw : (m.as c).woken z.on = false) :
    m.expire c = (m.as c).scalarTrap (z.on.flt (m.ctx c).task.idx) := by
  simp [Mach.expire, hz, ht, hst, hw]

/-- Settles O37: each event through the lemma of its case above. -/
theorem completion : Obligations.Completion := by
  intro s d a l w r
  refine ⟨fun hw hr hd => ⟨?task, ?host⟩, ?record, ?lwait, ?wake⟩
  case task =>
    rintro q i j rfl
    exact ⟨_, rfl, report_of_task hw hr hd⟩
  case host =>
    rintro q sl rfl
    exact ⟨_, rfl, report_of_host hw hr⟩
  case record =>
    intro q sl h hf hroom
    exact ⟨_, rfl, rewriteRec_of_dirty hf hroom⟩
  case lwait =>
    intro k here hr
    exact ⟨fun rest hw hu hroom => lwait_of_report hr hw hu hroom, fun ht hs => lwait_sleeps hr ht hs⟩
  case wake =>
    intro c z hst hz k
    refine ⟨fun d a rest hon hw hu hroom => ?_, fun ht hw => ?_⟩
    · exact congrArg (fun m => Host.Outcome.next { s with m := m }) (lwaitWake_eq hst hz hon hw hu hroom)
    · refine congrArg (fun m => Host.Outcome.next { s with m := m }) ((expire_of_due hst hz ht hw).trans ?_)
      cases z.on <;> rfl

end Sys2Proof.Machine
end

section
/-!
PROOFS. Creation, teardown and table writes of partitions, and repair (R84, R174, R192 to R195, R459, R462).
-/

namespace Sys2Proof.Machine

/-! ### Management writes of the table -/

/-- Before stage 7 no write of the table is heard (R459). -/
theorem tableWrite_unheard {s : State} (h : s.plat.stage ≠ 7) (r : Option Mach) : tableWrite s r = .next s :=
  if_pos (bne_iff_ne.mpr h)

theorem tableWrite_some {s : State} (h : s.plat.stage = 7) (m : Mach) :
    tableWrite s (some m) = .next { s with m := m, plat := s.plat.tableStatus m true } := by
  simp [tableWrite, h]

theorem tableWrite_none {s : State} (h : s.plat.stage = 7) :
    tableWrite s none = .next { s with plat := s.plat.tableStatus s.m false } := by
  simp [tableWrite, h]

/-! ### Creation -/

@[simp] theorem zeroPa_parts (m : Mach) (pa n : Nat) : (m.zeroPa pa n).parts = m.parts := by
  unfold Mach.zeroPa
  refine foldl_keep (fun k : Mach => k.parts = m.parts) _ _ _ rfl fun k r hk => ?_
  split
  all_goals exact hk

/-- A new partition is one more entry with nothing launched (R84). -/
theorem createPart_parts (m : Mach) (q : Nat) (e : PartEntry) :
    (m.createPart q e).parts = tabSet m.parts q ⟨e, [], 0, e.slice, 0, [], []⟩ := by
  unfold Mach.createPart
  refine foldl_keep (fun k : Mach => k.parts = tabSet m.parts q ⟨e, [], 0, e.slice, 0, [], []⟩) _ _ _ ?_ fun k n hk => hk
  simp only [zeroPa_parts]
  rfl

theorem createPart_part (m : Mach) (q : Nat) (e : PartEntry) :
    (m.createPart q e).part q = some ⟨e, [], 0, e.slice, 0, [], []⟩ := by
  simp [Mach.part, createPart_parts]

theorem createPart_part_ne (m : Mach) {q p : Nat} (e : PartEntry) (h : p ≠ q) : (m.createPart q e).part p = m.part p := by
  simp [Mach.part, createPart_parts, tabFind_tabSet_ne _ _ _ _ h]

/-! ### The limits of an entry -/

/-- An entry that may be written is disjoint from that of every other partition (R84). -/
theorem entryOk_disjoint {m : Mach} {q : Nat} {e : PartEntry} (h : m.entryOk q e = true) :
    ∀ p ∈ m.parts, p.1 ≠ q → p.2.e.pairs &&& e.pairs = 0 ∧ p.2.e.pgrp &&& e.pgrp = 0 ∧ p.2.e.subl &&& e.subl = 0 := by
  simp only [Mach.entryOk, Bool.and_eq_true] at h
  obtain ⟨⟨⟨⟨⟨⟨⟨⟨-, hall⟩, -⟩, -⟩, -⟩, -⟩, -⟩, -⟩, -⟩ := h
  intro p hp hne
  have hd := List.all_eq_true.mp hall p hp
  simp only [Bool.or_eq_true, beq_iff_eq, hne, false_or, peDisjoint, Bool.and_eq_true] at hd
  obtain ⟨⟨hg, hpairs⟩, hs⟩ := hd
  exact ⟨by rw [BitVec.and_comm, hpairs], by rw [BitVec.and_comm, hg], by rw [BitVec.and_comm, hs]⟩

/-- A sub-link that is down is offered to no partition that does not hold it yet (R462). -/
theorem sublWhole_down {m : Mach} {old v : BitVec 64} (h : m.sublWhole old v = true) {l : Sublink} (hl : l ∈ m.links) (hup : l.up = false)
    (hold : old.getLsbD l.id = false) (hid : l.id < 64) (honly : ∀ k ∈ m.links, k.has l.id = true → k = l) (hhas : l.has l.id = true) :
    v.getLsbD l.id = false := by
  have hi := List.all_eq_true.mp h l.id (List.mem_range.mpr hid)
  obtain ⟨k, hk⟩ : ∃ k, m.links.find? (fun k => k.has l.id) = some k :=
    Option.isSome_iff_exists.mp (List.find?_isSome.mpr ⟨l, hl, hhas⟩)
  obtain rfl : k = l := honly k (List.mem_of_find?_eq_some hk) (List.find?_some (p := fun k : Sublink => k.has l.id) hk)
  simpa [hk, hold, hup] using hi

theorem entryOk_down {m : Mach} {q : Nat} {e : PartEntry} (h : m.entryOk q e = true) {l : Sublink} (hl : l ∈ m.links) (hup : l.up = false)
    (hold : ∀ p, m.part q = some p → p.e.subl.getLsbD l.id = false) (hid : l.id < 64)
    (honly : ∀ k ∈ m.links, k.has l.id = true → k = l) (hhas : l.has l.id = true) : e.subl.getLsbD l.id = false := by
  simp only [Mach.entryOk, Bool.and_eq_true] at h
  obtain ⟨⟨⟨⟨⟨⟨⟨-, hsubl⟩, -⟩, -⟩, -⟩, -⟩, -⟩, -⟩ := h
  refine sublWhole_down hsubl hl hup ?_ hid honly hhas
  cases hp : m.part q with
  | none => simp
  | some p => exact hold p hp

/-! ### Writes of an entry -/

/-- A write that keeps the fixed fields, PTROOT and SUBL is done: SLICE waits, and the old XBAR counts for 4,096 clk (R193). -/
theorem rewriteEntry_ok {m : Mach} {q : Nat} {e : PartEntry} {p : Part} (hp : m.part q = some p) (hbk : e.bklim = p.e.bklim)
    (hpg : e.pgrp = p.e.pgrp) (hpr : e.pairs = p.e.pairs) (htb : e.titbase = p.e.titbase) (hrb : e.recbase = p.e.recbase)
    (hbb : e.bstbase = p.e.bstbase) (hpt : e.ptroot = p.e.ptroot) (hsl : e.subl = p.e.subl) (hok : m.entryOk q e = true) :
    m.rewriteEntry q e = some (m.updPart q fun p' => { p' with
      e := { e with slice := p.e.slice }, sliceNext := e.slice,
      xbarPast := if e.xbar = p.e.xbar then p'.xbarPast
        else (p.e.xbar, m.cycle + 4096) :: p'.xbarPast.filter fun x => decide (m.cycle < x.2) }) := by
  simp only [Mach.rewriteEntry, hp, hbk, hpg, hpr, htb, hrb, hbb, hpt, hsl, hok, beq_self_eq_true, Bool.and_self, Bool.true_or, if_true]

/-- A write that changes a fixed field is refused (R193). -/
theorem rewriteEntry_fixed {m : Mach} {q : Nat} {e : PartEntry} {p : Part} (hp : m.part q = some p)
    (h : e.pairs ≠ p.e.pairs ∨ e.pgrp ≠ p.e.pgrp ∨ e.bklim ≠ p.e.bklim) : m.rewriteEntry q e = none := by
  have hfixed : (e.bklim == p.e.bklim && e.pgrp == p.e.pgrp && e.pairs == p.e.pairs) = false := by
    rw [← Bool.not_eq_true, Bool.and_eq_true, Bool.and_eq_true, beq_iff_eq, beq_iff_eq, beq_iff_eq]
    tauto
  simp only [Mach.rewriteEntry, hp, hfixed, Bool.false_and, Bool.false_eq_true, if_false]

/-! ### Spares -/

theorem useSpare_ok {s : State} {kind n : Nat} (die : Nat) (hk : kind ≤ 2) (hf : s.m.spareFree kind n = true) :
    s.useSpare die kind n = { s with plat := { s.plat with spares := s.plat.spares ++ [(die, kind, n)] } } := by
  have hk4 : kind ≠ 4 := by omega
  simp [State.useSpare, hf, hk4, show ¬ 4 < kind by omega]

/-- Settles O47: each request through what it comes to at the table. -/
theorem partitions : Obligations.Partitions := by
  intro s q e htrip
  simp only [exec_partitionCreation, exec_partitionTeardown, exec_partitionTableWrite, exec_budgetWrite, exec_runtimeRepair]
  refine ⟨fun h => ?unheard, fun hok l hl hup hold hid honly hhas => entryOk_down hok hl hup hold hid honly hhas,
    fun hq hp => ⟨fun hok => ?create, fun hok => ?refuse⟩, fun hp => ?exists_, fun h => ?busy, fun h => ?idle,
    fun p hp hbk hpg hpr htb hrb hbb hpt hsl hok => ?write, fun p hp h => ?fixed, fun die i site hd hi hp hs => ?repair,
    fun die kind n hk hf => ?spare⟩
  case unheard =>
    exact ⟨tableWrite_unheard h _, tableWrite_unheard h _, tableWrite_unheard h _, fun row => if_pos (bne_iff_ne.mpr h)⟩
  case create =>
    refine ⟨fun h7 => ?_, createPart_part s.m q e, fun p h => createPart_part_ne s.m e h, entryOk_disjoint hok⟩
    rw [execPartitionCreation, if_pos (by simp [hq, hp, hok]), tableWrite_some h7]
  case refuse =>
    intro h7
    rw [execPartitionCreation, if_neg (by simp [hok]), tableWrite_none h7]
  case exists_ =>
    intro h7
    rw [execPartitionCreation, if_neg (by simp [Option.ne_none_iff_isSome.mpr hp]), tableWrite_none h7]
  case busy =>
    intro h7
    rw [execPartitionTeardown, if_pos h, tableWrite_none h7]
  case idle =>
    intro h7
    rw [execPartitionTeardown, if_neg (by simp [h]), tableWrite_some h7]
  case write =>
    have hw := rewriteEntry_ok hp hbk hpg hpr htb hrb hbb hpt hsl hok
    exact ⟨_, fun h7 => (congrArg (tableWrite s) hw).trans (tableWrite_some h7 _), Mach.part_updPart _ hp, Mach.updPart_ctxs _ _ _,
      Mach.updPart_mem _ _ _⟩
  case fixed =>
    intro h7
    rw [execPartitionTableWrite, rewriteEntry_fixed hp h, tableWrite_none h7]
  case repair =>
    exact if_pos (by simp [hd, hi, hp, hs])
  case spare =>
    have hk3 : kind ≠ 3 := by omega
    simp [runMove, htrip, netMove, useSpare_ok die hk hf, hk3]

end Sys2Proof.Machine
end

section
/-!
PROOFS. Pre-emption (R86, R199, R307): the counterexample to O49, a task saved before it and its named barriers.
-/

namespace Sys2Proof.Machine

/-! ### Two tasks that share named barriers

Tasks 0 and 1 of one streaming cast share the set of named barriers 0 on pair 0. Task 1 was saved first, with the barrier as it stood
then; after that task 0 arrived at it, and was halted. Task 0 is the last task of the cast on the pair, so what its save leaves of the
barriers goes back to task 1 (R199): the list of saved tasks does not only grow. -/

/-- The cast of both tasks: streaming, two tasks, one named barrier. -/
def sharedBarsCast : Cast := ⟨0, { wordHdr with ntasks := 2, barriers := 1 }, .host 0 0, 0, 2, 0, 0, [], [], false⟩

/-- The barrier when task 1 was saved, and after the arrival of task 0. -/
def barBefore : Bar := ⟨2, 0, false, 0⟩
def barAfter : Bar := ⟨2, 1, false, 0⟩

/-- Task 1, as it was saved. -/
def savedSharer : Saved :=
  ⟨{ Ctx.reset with status := .running, task := ⟨0, 0, 1, 2⟩ }, [], [], [], 0, 0, [barBefore]⟩

/-- Task 0, halted, in context 0. -/
def haltedSharer : Ctx := { Ctx.reset with status := .running, task := ⟨0, 0, 0, 2⟩, halted := true }

/-- The machine with task 0 halted and task 1 saved. -/
def sharedBars : State := { State.reset with m := { Mach.reset with
  parts := [(0, ⟨wordPart, [sharedBarsCast], 1, 0, 0, [], []⟩)]
  ctxs := [(0, haltedSharer)]
  pairs := [(0, { Pair.reset with bars := [⟨0, 0, [barAfter], 0⟩], barNo := 1 })]
  saved := [savedSharer] } }

/-- Task 0 is pre-empted alone, and everything of it has drained. -/
theorem sharedBars_saveReady : sharedBars.m.preemptSet 0 = [0] ∧ sharedBars.m.saveReady 0 = true := by decide

/-- The save of task 0 writes the barrier, as task 0 left it, into the saved task 1. -/
theorem sharedBars_saved : (sharedBars.m.preempt 0).saved.map Saved.bars = [[barAfter], [barAfter]] := by decide

/-- Refutes O49: saving the last task of a cast on a pair also changes an already saved task, which shares its named barriers; so the
saved tasks after the save are not those before it and one more. -/
theorem not_preemption : ¬ Obligations.Preemption := by
  unfold Obligations.Preemption
  intro h
  obtain ⟨-, hpreempt, -⟩ := h sharedBars rfl
  obtain ⟨-, -, hsave, -⟩ := hpreempt 0 rfl
  obtain ⟨hset, hready⟩ := sharedBars_saveReady
  obtain ⟨t, v, ht, hsaved, -⟩ := hsave hset rfl rfl hready
  obtain rfl : ({ sharedBars with m := sharedBars.m.preempt 0 } : State) = t := Host.Outcome.next.inj ht
  have hbars : [[barAfter], [barAfter]] = [[barBefore]] ++ [v.bars] :=
    sharedBars_saved.symm.trans (congrArg (List.map Saved.bars) hsaved)
  exact absurd (List.cons.inj hbars).1 (by decide)

end Sys2Proof.Machine
end

section
/-!
PROOFS. Launches (R76, R443): the counterexample to O36, a group image whose first word is read twice through different translations.
-/

namespace Sys2Proof.Machine

/-! ### A group image that changes between two reads

`lnch` reads the first 64 bytes of a group image to learn its length, then the image whole, from its first word on. The obligation asks
of each word only that it resolves once it has itself been translated. Here the TLB of the pair holds an entry of 8 bytes, not of a page, for the
first word alone. The second word misses, and the page that its walk fills stands before that entry from then on. So the second read of the
first word goes elsewhere, to a poisoned place, and `lnch` traps. -/

/-- The scratchpad of pair 0, as a physical address; all that the counterexample reads lies there. -/
def launchPad : Nat := 0x800000000000

/-- The virtual addresses of the header and of the group image. -/
def launchHdrVa : Nat := 0x1000
def launchGroupsVa : Nat := 0x40003000

/-- A readable leaf of attribute 1 for a place in the scratchpad. -/
def launchLeaf (off : Nat) : Nat := launchPad + off + 0x43

/-- The cached translations: the header's page, and the 8 bytes of the group image's first word. -/
def launchTlb : List TlbEnt :=
  [⟨0, launchHdrVa, 4096, launchLeaf 0x1000, 0⟩, ⟨0, launchGroupsVa, 8, launchLeaf 0x2000, 0⟩]

/-- A page table that maps the gigabyte of the group image to the scratchpad; the header: co-resident, one task, version 1, with a group
image; and the announced length of the image, one entry, where the cached translation finds it. -/
def launchMem : Cells 8 :=
  let table := csetRange (csetRange [] launchPad (leBytes 8 (launchPad + 1))) (launchPad + 8) (leBytes 8 (launchLeaf 0))
  let hdr := launchPad + 0x1000
  let header := cset (cset (cset table (hdr + 16) 1) (hdr + 42) 1) (hdr + 51) 1
  cset (csetRange header (hdr + 24) (leBytes 8 launchGroupsVa)) (launchPad + 0x2000) 1

/-- The launching task, in context 0: X2 holds the header's address. -/
def launchCtx : Ctx :=
  { startCtx wordHdr ⟨0, 0, 0, 1⟩ 0 with x := vecSet Ctx.reset.x 2 (BitVec.ofNat 64 launchHdrVa), thandler := 4 }

/-- The partition that it launches in: no cast is pending. -/
def launchPart : Part := ⟨{ wordPart with ptroot := BitVec.ofNat 64 launchPad }, [], 0, 0, 0, [], []⟩

/-- The machine before `lnch X3, X2`. -/
def shortEntry : State := { State.reset with m := { Mach.reset with
  ctxs := [(0, launchCtx)]
  parts := [(0, launchPart)]
  pairs := [(0, { Pair.reset with tlb := launchTlb })]
  mem := launchMem
  poison := [launchPad + 0x3000] } }

/-- Where the words of the header lie. -/
def launchHdrLoc (i : Nat) : Loc := .pa (launchPad + 0x1000 + 8 * i)

/-- Where the words of the group image lie, each at its first read. -/
def launchGroupLoc (i : Nat) : Loc := .pa (launchPad + (if i = 0 then 0x2000 else 0x3000) + 8 * i)

/-- The value of the header. -/
def launchHdrValue : Nat := leVal (shortEntry.m.image 8 32 launchHdrLoc)

theorem shortEntry_may_launch : shortEntry.ready [3, 2] ∧ shortEntry.m.me.engineReady = true ∧ shortEntry.m.me.vq = [] ∧
    shortEntry.m.part 0 = some launchPart ∧ launchPart.pending < 128 := by
  unfold State.ready
  decide +kernel

theorem shortEntry_header : shortEntry.m.Image .no 0 launchHdrVa 8 32 launchHdrLoc := by
  constructor <;> decide +kernel

theorem shortEntry_header_legal : hdrCheck launchHdrValue (pePairs launchPart.e).length = none ∧
    shortEntry.m.noFit 0 (taskHdr launchHdrValue) = false ∧ (taskHdr launchHdrValue).groups = launchGroupsVa ∧
    (taskHdr launchHdrValue).cor = true := by
  decide +kernel

/-- Each word of the group image can be read once it has been translated, for the first time. -/
theorem shortEntry_groups :
    (shortEntry.m.fetched 0 launchHdrVa 8 32).Image .no 64 launchGroupsVa 8 (8 * (1 + 1)) launchGroupLoc := by
  constructor <;> decide +kernel

/-- The image is legal: it announces one entry, which is empty. -/
theorem shortEntry_groups_legal : groupCount (leVal (shortEntry.m.image 8 8 launchGroupLoc)) = some 1 ∧
    groupsOf (taskHdr launchHdrValue).ntasks ((blocksOf 64 1 ((shortEntry.m.image 8 (8 * (1 + 1)) launchGroupLoc).drop 64)).map leVal) =
      some [⟨0, [], 0, 0⟩] := by
  decide +kernel

/-- The casts of partition 0 after an instruction, where it has a next state. -/
def castsAfter : Out → Option (List Cast)
  | .next t => (t.m.part 0).map Part.casts
  | _ => none

/-- What context 0 reports after an instruction. -/
def faultAfter : Out → Option (Word × Word)
  | .next t => some ((t.m.ctx 0).fcause, (t.m.ctx 0).faddr)
  | _ => none

/-- `lnch` traps: the second read of the image's first word finds the poison. -/
theorem shortEntry_lnch_poison : faultAfter (exec (.lnch 3 2) shortEntry) = some (0x20C, BitVec.ofNat 64 launchGroupsVa) := by
  decide +kernel

/-- So no cast is accepted. -/
theorem shortEntry_lnch_casts : castsAfter (exec (.lnch 3 2) shortEntry) = some [] := by decide +kernel

/-- The machine in which the cast has been accepted. -/
def shortEntryAccepted : Mach := (shortEntry.m.accept 0 (.task 0 0 0) (taskHdr launchHdrValue) [⟨0, [], 0, 0⟩]).1

/-- The acceptance leaves a cast. -/
theorem shortEntryAccepted_casts : (shortEntryAccepted.part 0).map Part.casts ≠ some [] := by decide +kernel

/-- Refutes O36: where the pair's TLB holds an entry smaller than a page, each word of a legal group image may resolve when it is first
translated, and its first word resolve elsewhere when `lnch` reads it again; `lnch` then traps and accepts no cast. -/
theorem not_launchAndPlacement : ¬ Obligations.LaunchAndPlacement := by
  unfold Obligations.LaunchAndPlacement
  intro h
  obtain ⟨hlaunch, -⟩ := h
  obtain ⟨hlnch, -⟩ := hlaunch shortEntry 3 2 launchPart
  obtain ⟨hready, hengine, hvq, hpart, hpending⟩ := shortEntry_may_launch
  obtain ⟨hhdr, hfit, hgroups, hcor⟩ := shortEntry_header_legal
  obtain ⟨hcount, hentries⟩ := shortEntry_groups_legal
  have himage : (shortEntry.m.fetched 0 launchHdrVa 8 32).Image .no 64 (taskHdr launchHdrValue).groups 8 (8 * (1 + 1)) launchGroupLoc :=
    hgroups ▸ shortEntry_groups
  have hsome : (taskHdr launchHdrValue).groups ≠ 0 := by rw [hgroups]; decide
  obtain ⟨t, hexec, hreads⟩ := hlnch launchHdrLoc launchGroupLoc hready hengine hvq hpart hpending shortEntry_header hhdr hfit
    [⟨0, [], 0, 0⟩] (Or.inr ⟨hsome, hcor, hcount, himage, hentries⟩)
  obtain ⟨-, -, -, -, -, hparts, -⟩ := hreads
  have hnone : (t.m.part 0).map Part.casts = some [] := (congrArg castsAfter hexec).symm.trans shortEntry_lnch_casts
  have haccepted : t.m.part 0 = shortEntryAccepted.part 0 := congrArg (fun ps => tabFind ps 0) hparts
  exact shortEntryAccepted_casts (haccepted ▸ hnone)

end Sys2Proof.Machine
end

section
/-!
PROOFS. X registers, the frame of the scalar computations, CSRs, and the reset values (R91, R92, R105 to R108, R112, R115, R211, R212,
R327 to R330, R339, R340).
-/

namespace Sys2Proof.Machine

/-! ### X registers -/

theorem toNat_ne_zero_of_ne {d : BitVec 5} (h : d ≠ 0) : d.toNat ≠ 0 := fun h0 => h (BitVec.eq_of_toNat_eq h0)

/-- Settles O1: a completed write is a write of the register file, and X0 is no part of it. -/
theorem registerWrite : Obligations.RegisterWrite := by
  refine ⟨fun s v k => ⟨rfl, ?_, rfl⟩, fun s d k v => ⟨fun hd => ?_, fun hk => ?_⟩⟩
  · rw [State.wrote_x]
    rfl
  · rw [State.wrote_x, Ctx.rx_setX_same _ _ _ (toNat_ne_zero_of_ne hd) d.isLt]
  · rw [State.wrote_x, Ctx.rx_setX_ne _ _ _ _ fun h => hk (BitVec.eq_of_toNat_eq h)]
    rfl

/-! ### The frame of the scalar computations -/

/-- An instruction that writes v to Xd and completes changes Xd, the PC and what completion clears. -/
theorem State.onlyXd_wrote (s : State) (d : BitVec 5) (v : Word) : s.onlyXd (s.wrote d v) d := by
  obtain ⟨x, u, hx⟩ := s.m.me.setX_eq d.toNat v
  have hme : (s.wrote d v).m.me = _ := Mach.me_retireTo (s.m.setX d.toNat v) _
  rw [Mach.setX, Mach.me_upd, hx] at hme
  refine ⟨State.onlyMe_of_mach ((s.m.onlyMe_upd _).trans (Mach.onlyMe_retire _)), ?_, fun k hk => ?_, ?_⟩
  · rw [Ctx.onlyX, hme]
  · exact (registerWrite.2 s d k v).2 hk
  · rw [hme]

/-- Whichever scalar computation executes writes some value to its Xd. -/
theorem computes_writes {i : Instr} {d : BitVec 5} {rs : List (BitVec 5)} (hi : i.computes = some (d, rs)) {s : State} (hr : s.ready rs)
    (hm : s.rm < 5) : ∃ v, exec i s = .next (s.wrote d v) := by

  unfold Instr.computes at hi
  split at hi <;> cases hi
  · exact ⟨_, exec_add.trans (alu2_ok hr)⟩
  · exact ⟨_, exec_sub.trans (alu2_ok hr)⟩
  · exact ⟨_, exec_mul.trans (alu2_ok hr)⟩
  · exact ⟨_, exec_mulh.trans (alu2_ok hr)⟩
  · exact ⟨_, exec_mulhu.trans (alu2_ok hr)⟩
  · exact ⟨_, exec_div.trans (alu2_ok hr)⟩
  · exact ⟨_, exec_divu.trans (alu2_ok hr)⟩
  · exact ⟨_, exec_rem.trans (alu2_ok hr)⟩
  · exact ⟨_, exec_remu.trans (alu2_ok hr)⟩
  · exact ⟨_, exec_and.trans (alu2_ok hr)⟩
  · exact ⟨_, exec_or.trans (alu2_ok hr)⟩
  · exact ⟨_, exec_xor.trans (alu2_ok hr)⟩
  · exact ⟨_, exec_sll.trans (alu2_ok hr)⟩
  · exact ⟨_, exec_srl.trans (alu2_ok hr)⟩
  · exact ⟨_, exec_sra.trans (alu2_ok hr)⟩
  · exact ⟨_, exec_slt.trans (alu2_ok hr)⟩
  · exact ⟨_, exec_sltu.trans (alu2_ok hr)⟩
  · exact ⟨_, exec_min.trans (alu2_ok hr)⟩
  · exact ⟨_, exec_max.trans (alu2_ok hr)⟩
  · exact ⟨_, exec_minu.trans (alu2_ok hr)⟩
  · exact ⟨_, exec_maxu.trans (alu2_ok hr)⟩
  · exact ⟨_, exec_sel.trans (scalarStep_ok hr rfl)⟩
  · exact ⟨_, exec_faddS.trans (fpu_ok hr hm)⟩
  · exact ⟨_, exec_fsubS.trans (fpu_ok hr hm)⟩
  · exact ⟨_, exec_fmulS.trans (fpu_ok hr hm)⟩
  · exact ⟨_, exec_fdivS.trans (fpu_ok hr hm)⟩
  · exact ⟨_, exec_fminS.trans (fpu_ok hr hm)⟩
  · exact ⟨_, exec_fmaxS.trans (fpu_ok hr hm)⟩
  · exact ⟨_, exec_fltS.trans (fpu_ok hr hm)⟩
  · exact ⟨_, exec_fleS.trans (fpu_ok hr hm)⟩
  · exact ⟨_, exec_feqS.trans (fpu_ok hr hm)⟩
  · exact ⟨_, exec_clz.trans (alu1_ok hr)⟩
  · exact ⟨_, exec_popc.trans (alu1_ok hr)⟩
  · exact ⟨_, exec_fcvtSL.trans (fpu_ok hr hm)⟩
  · exact ⟨_, exec_fcvtLS.trans (fpu_ok hr hm)⟩
  · exact ⟨_, exec_addi.trans (alu1_ok hr)⟩
  · exact ⟨_, exec_andi.trans (alu1_ok hr)⟩
  · exact ⟨_, exec_ori.trans (alu1_ok hr)⟩
  · exact ⟨_, exec_xori.trans (alu1_ok hr)⟩
  · exact ⟨_, exec_slli.trans (alu1_ok hr)⟩
  · exact ⟨_, exec_srli.trans (alu1_ok hr)⟩
  · exact ⟨_, exec_srai.trans (alu1_ok hr)⟩
  · exact ⟨_, exec_slti.trans (alu1_ok hr)⟩
  · exact ⟨_, exec_sltiu.trans (alu1_ok hr)⟩
  · exact ⟨immU _, exec_lui.trans (scalarStep_ok hr rfl)⟩
  · exact ⟨s.m.me.pc + immU _, exec_auipc.trans (scalarStep_ok hr rfl)⟩

/-- Settles O5: every scalar computation is a write of Xd that completes, and such a write has the frame. -/
theorem scalarFrame : Obligations.ScalarFrame := by
  intro i d rs hi s hr hm
  obtain ⟨v, hv⟩ := computes_writes hi hr hm
  exact ⟨_, hv, s.onlyXd_wrote d v⟩

/-! ### CSRs -/

theorem execCsrr_ok {s : State} {d : BitVec 5} {c : BitVec 12} (hr : s.ready [d]) (hw : csrWaits c.toNat = true → s.m.me.vq = []) :
    execCsrr d c s = .next (s.wrote d (s.m.csr s.m.cur c.toNat)) := by
  refine scalarStep_ok hr (if_neg ?_)
  simpa using hw

/-- A change of the context that acts, which leaves X and the PC, completes with the frame of a CSR write. -/
theorem State.did_upd_frame (s : State) (f : Ctx → Ctx) (hx : (f s.m.me).x = s.m.me.x) (hpc : (f s.m.me).pc = s.m.me.pc) :
    s.onlyMe (s.did (s.m.upd f)) ∧ (s.did (s.m.upd f)).m.me.x = s.m.me.x ∧ (s.did (s.m.upd f)).m.me.pc = s.m.me.pc + 4 := by
  have hme : (s.did (s.m.upd f)).m.me = _ := Mach.me_retireTo (s.m.upd f) _
  rw [Mach.me_upd] at hme
  exact ⟨State.onlyMe_of_mach ((s.m.onlyMe_upd _).trans (Mach.onlyMe_retire _)), by rw [hme, hx], by rw [hme, hpc]⟩

theorem csrWritable_cases {n : Nat} (h : csrWritable n = true) :
    n = 0x03 ∨ n = 0x0B ∨ n = 0x0C ∨ n = 0x0D ∨ n = 0x0E ∨ n = 0x0F ∨ n = 0x10 ∨ n = 0x1C ∨ n = 0x20 ∨ n = 0x21 ∨ n = 0x22 ∨
      n = 0x23 ∨ n = 0x24 ∨ n = 0x25 ∨ n = 0x26 ∨ n = 0x27 := by
  simp only [csrWritable, Bool.or_eq_true, Bool.and_eq_true, beq_iff_eq, decide_eq_true_eq] at h
  omega

/-- The bits of a 64-bit value that a narrower register keeps under a mask. -/
theorem setWidth_and_mask (v : Word) {n : Nat} (w : BitVec n) : (v.setWidth n &&& w).setWidth 64 = v &&& w.setWidth 64 := by
  ext i hi
  by_cases hn : i < n
  · simp [hn, BitVec.getLsbD_eq_getElem hi]
  · simp [hn, BitVec.getLsbD_of_ge w i (by omega)]

/-- The same without a mask: the register's width is one. -/
theorem setWidth_setWidth_eq_and (v : Word) (n : Nat) : (v.setWidth n).setWidth 64 = v &&& (BitVec.allOnes n).setWidth 64 := by
  rw [← setWidth_and_mask, BitVec.and_allOnes]

/-- A written CSR holds the value within the bits that it has (R106, R107). -/
theorem csr_upd_csrWrite (m : Mach) {n : Nat} (v : Word) (hn : csrWritable n = true) :
    (m.upd fun x => x.csrWrite n v).csr m.cur n = v &&& csrField n := by
  have hctx : (m.upd fun x => x.csrWrite n v).ctx m.cur = m.me.csrWrite n v := m.me_upd _
  have hplain : v = v &&& .allOnes 64 := BitVec.and_allOnes.symm
  have hmode := setWidth_and_mask v (0x7FFFFFFF : BitVec 32)
  have hfmt := setWidth_and_mask v (0xFFFFF : BitVec 32)
  simp only [Mach.csr, hctx]
  rcases csrWritable_cases hn with rfl | rfl | rfl | rfl | rfl | rfl | rfl | rfl | h 
  · exact setWidth_setWidth_eq_and v 17
  iterate 3 exact hplain
  · exact setWidth_setWidth_eq_and v 32
  · exact hplain
  · rfl
  · exact hplain
  · rcases h with rfl | rfl | rfl | rfl | rfl | rfl | rfl | rfl <;> 
      simp (disch := decide) only [Ctx.csrWrite, Ctx.setMd, Ctx.setFmt, vecAt_vecSet_same]
    iterate 4 exact hmode
    iterate 4 exact hfmt

theorem Mach.retire_cur (m : Mach) : m.retire.cur = m.cur := by simp [Mach.retire, Mach.retireTo]

/-- Completion leaves every writable CSR as it is. -/
theorem csr_retire (m : Mach) {n : Nat} (hn : csrWritable n = true) : m.retire.csr m.cur n = m.csr m.cur n := by
  have hctx : m.retire.ctx m.cur = _ := (congrArg m.retire.ctx m.retire_cur.symm).trans (m.me_retireTo _)
  rcases csrWritable_cases hn with rfl | rfl | rfl | rfl | rfl | rfl | rfl | rfl | rfl | rfl | rfl | rfl | rfl | rfl | rfl | rfl <;>
    simp only [Mach.csr, hctx] <;> rfl

@[simp] theorem Ctx.log_pc (x : Ctx) (r : UReg) : (x.log r).pc = x.pc := by
  obtain ⟨u, hu⟩ := x.log_eq_undo r
  rw [hu]

theorem Ctx.csrWrite_keeps (x : Ctx) {n : Nat} (v : Word) (hn : csrWritable n = true) : (x.csrWrite n v).x = x.x ∧ (x.csrWrite n v).pc = x.pc := by
  rcases csrWritable_cases hn with rfl | rfl | rfl | rfl | rfl | rfl | rfl | rfl | rfl | rfl | rfl | rfl | rfl | rfl | rfl | rfl <;>
    simp [Ctx.csrWrite, Ctx.setVl, Ctx.setMd, Ctx.setFmt]

/-- A scalar-side instruction that makes X[A] and its context into a new context. -/
theorem scalarStep_upd {s : State} {rs : List (BitVec 5)} (a : BitVec 5) {body : Body} (g : Word → Ctx → Ctx) (hr : s.ready rs)
    (hb : body s.m = .ok (s.m.upd fun x => g (x.rx a.toNat) x)) :
    scalarStep (rs.map BitVec.toNat) body s = .next (s.did (s.m.upd (g (s.x a)))) := by
  have hg : (s.m.upd fun x => g (x.rx a.toNat) x) = s.m.upd (g (s.x a)) := Mach.upd_congr rfl
  rw [← hg]
  exact scalarStep_ok hr hb

theorem execCsrw_ok {s : State} {a : BitVec 5} {c : BitVec 12} (hr : s.ready [a]) (hn : csrWritable c.toNat = true)
    (hw : csrWait s.m.me c.toNat = false) :
    ∃ t, execCsrw a c s = .next t ∧ t.m.csr s.m.cur c.toNat = s.x a &&& csrField c.toNat ∧ s.onlyMe t ∧ t.m.me.x = s.m.me.x ∧
      t.m.me.pc = s.m.me.pc + 4 := by
  obtain ⟨hx, hpc⟩ := s.m.me.csrWrite_keeps (s.x a) hn
  exact ⟨_, scalarStep_upd a (fun v x => x.csrWrite c.toNat v) hr (if_neg (by simp [hw])),
    (csr_retire _ hn).trans (csr_upd_csrWrite s.m _ hn), s.did_upd_frame _ hx hpc⟩

/-- The CSRs whose write waits until the vector queue is empty (R340). -/
theorem queueCsr_writes {s : State} {a : BitVec 5} (hr : s.ready [a]) (hq : s.m.me.vq = []) :
    execVstartWrite a s = .next (s.did (s.m.upd fun x => { x with vstart := (s.x a).truncate 17 })) ∧
    execSrstepWrite a s = .next (s.did (s.m.upd fun x => { x with srstep := (s.x a).truncate 32 })) ∧
    execPdoneWrite a s = .next (s.did (s.m.upd fun x => { x with pdone := s.x a })) := by
  have hwait : ¬ (!s.m.me.vq.isEmpty) = true := by simp [hq]
  exact ⟨scalarStep_upd a (fun v x => { x with vstart := v.truncate 17 }) hr (if_neg hwait),
    scalarStep_upd a (fun v x => { x with srstep := v.truncate 32 }) hr (if_neg hwait),
    scalarStep_upd a (fun v x => { x with pdone := v }) hr (if_neg hwait)⟩

/-- The CSRs whose write waits until no older vector-side instruction can fault; WDOG and BANKTO refuse 0 (R106, R340). -/
theorem safeCsr_writes {s : State} {a : BitVec 5} (hr : s.ready [a]) (hu : s.m.me.anyUnsafe = false) :
    execVshareWrite a s = .next (s.did (s.m.upd fun x => { x with vshareNext := (s.x a).truncate 8 })) ∧
    (s.x a ≠ 0 → execWdogWrite a s = .next (s.did (s.m.upd fun x => { x with wdog := s.x a }))) ∧
    (s.x a = 0 → execWdogWrite a s = .next (s.trapped (fltConfig 0x13 0x011))) ∧
    ((s.x a).truncate 32 ≠ (0 : BitVec 32) →
      execBanktoWrite a s = .next (s.did (s.m.upd fun x => { x with banko := (s.x a).truncate 32 }))) ∧
    ((s.x a).truncate 32 = (0 : BitVec 32) → execBanktoWrite a s = .next (s.trapped (fltConfig 0x13 0x012))) := by
  have hwait : ¬ s.m.me.anyUnsafe = true := by simp [hu]
  exact ⟨scalarStep_upd a (fun v x => { x with vshareNext := v.truncate 8 }) hr (if_neg hwait),
    fun h => scalarStep_upd a (fun v x => { x with wdog := v }) hr ((if_neg hwait).trans (if_neg h)),
    fun h => scalarStep_trap hr ((if_neg hwait).trans (if_pos h)),
    fun h => scalarStep_upd a (fun v x => { x with banko := v.truncate 32 }) hr ((if_neg hwait).trans (if_neg h)),
    fun h => scalarStep_trap hr ((if_neg hwait).trans (if_pos h))⟩

/-- ECNTn and ESELn, which the contexts of a pair share (R211, R212, R341). -/
theorem pairCsr_writes {s : State} {a : BitVec 5} (n : BitVec 3) (hr : s.ready [a]) (hu : s.m.me.anyUnsafe = false)
    (ht : s.m.pairTurn = true) :
    execEcntWrite a n s = .next (s.did (s.m.pairWrite fun p =>
      { p with ecnt := vecSet p.ecnt n.toNat (s.x a), carry := p.carry.set n.toNat 0 })) ∧
    execEselWrite a n s = .next (s.did (s.m.pairWrite fun p =>
      { p with esel := vecSet p.esel n.toNat ((s.x a &&& 0xFFF) ||| (vecAt 0 p.esel n.toNat &&& 0x1000 &&& ~~~(s.x a))),
               carry := p.carry.set n.toNat 0 })) := by
  have hwait : ¬ (s.m.me.anyUnsafe || !s.m.pairTurn) = true := by simp [hu, ht]
  exact ⟨scalarStep_ok hr (if_neg hwait), scalarStep_ok hr (if_neg hwait)⟩

/-- Settles O9: each access through the lemma of its kind above. -/
theorem csrs : Obligations.Csrs := by
  refine ⟨fun s d c hr hw => ⟨exec_csrr.trans (execCsrr_ok hr hw), rfl, rfl, rfl, rfl, rfl, rfl, rfl, rfl, rfl⟩,
    fun s a c hr => ⟨fun hn hw => exec_csrw ▸ execCsrw_ok hr hn hw, fun hq => ?_, fun hu => ?_⟩, fun s a n hr hu ht => ?_⟩
  · rw [exec_vstartWrite, exec_srstepWrite, exec_pdoneWrite]
    exact queueCsr_writes hr hq
  · simp only [exec_vshareWrite, exec_wdogWrite, exec_banktoWrite]
    exact safeCsr_writes hr hu
  · obtain ⟨hcnt, hsel⟩ := pairCsr_writes n hr hu ht
    exact ⟨exec_ecntWrite.trans hcnt, exec_eselWrite.trans hsel, fun p v => vecAt_vecSet_same _ _ _ _ n.isLt⟩

/-! ### Reset -/

theorem vecAt_replicate {α : Type} (d : α) (n i : Nat) : vecAt d (Vector.replicate n d) i = d := by
  simp only [vecAt, Vector.toList_replicate, List.getD_eq_getElem?_getD, List.getElem?_replicate]
  split <;> rfl

theorem crange_nil {w : Nat} (n k : Nat) : crange n k ([] : Cells w) = List.replicate n 0 := by
  induction n generalizing k with
  | zero => rfl
  | succ n ih => rw [crange, ih, List.replicate_succ]

/-- Settles O55: an agent that no table lists has its reset values. -/
theorem resetState : Obligations.ResetState := by
  intro c n m x
  have hx : x = .reset := rfl
  have hnmu : m.nmu c = .reset := rfl
  have hpair : m.pair c = .reset := rfl
  have hslot : m.slot n = .free := by
    simp only [m, State.reset, Mach.reset, Mach.slot, nthD, List.getD_eq_getElem?_getD, List.getElem?_replicate]
    split <;> rfl
  have hrx : x.rx n = 0 := by
    rw [hx, Ctx.rx]
    split
    · rfl
    · exact vecAt_replicate 0 32 n
  rw [hx] at hrx ⊢
  rw [hnmu, hpair, hslot]
  exact ⟨rfl, rfl, hrx, fun b k => crange_nil k _, vecAt_replicate .., rfl, vecAt_replicate .., vecAt_replicate .., vecAt_replicate ..,
    rfl, rfl, rfl, rfl, rfl, rfl, rfl, rfl, rfl, rfl, rfl, rfl, rfl, rfl, vecAt_replicate .., vecAt_replicate .., rfl,
    vecAt_replicate .., vecAt_replicate .., rfl, rfl, rfl, rfl, rfl⟩

end Sys2Proof.Machine
end

section
/-!
PROOFS. Taking an exception, waiting for an older instruction, and the double fault (R111, R113, R298, R299, R306).
-/

namespace Sys2Proof.Machine

/-! ### What the end of a task leaves -/

/-- From m to n neither the number of the acting context nor the list of partition faults changes. -/
def Mach.Quiet (m n : Mach) : Prop := n.cur = m.cur ∧ n.pfaults = m.pfaults

theorem Mach.Quiet.refl (m : Mach) : m.Quiet m := ⟨rfl, rfl⟩

theorem Mach.Quiet.trans {m n o : Mach} (h : m.Quiet n) (k : n.Quiet o) : m.Quiet o := ⟨k.1.trans h.1, k.2.trans h.2⟩

/-- What every step of a fold leaves, the fold leaves. -/
theorem Mach.Quiet.foldl {α : Type} {f : Mach → α → Mach} (hf : ∀ (m : Mach) a, m.Quiet (f m a)) (l : List α) (m : Mach) : m.Quiet (l.foldl f m) :=
  foldl_keep (fun n => m.Quiet n) f l m (.refl m) fun n a hn => hn.trans (hf n a)

theorem Mach.quiet_charge (m : Mach) (a b cls n : Nat) : m.Quiet (m.charge a b cls n) := by
  obtain ⟨u, c, h⟩ := m.charge_eq a b cls n
  rw [h]
  exact ⟨rfl, rfl⟩

theorem Mach.quiet_carry (m : Mach) (d h cls n : Nat) : m.Quiet (m.carry d h cls n) := by
  unfold Mach.carry
  split
  · exact .refl m
  · exact .trans ⟨rfl, rfl⟩ (Mach.quiet_charge _ _ _ _ _)

/-- From m to n errors have been corrected and counted, and nothing else has changed (R463). -/
def Mach.Corrected (m n : Mach) : Prop := ∃ so dc ic, n = { m with soft := so, dieCnt := dc, iodCnt := ic }

theorem Mach.Corrected.refl (m : Mach) : m.Corrected m := ⟨_, _, _, rfl⟩

theorem Mach.Corrected.trans {m n o : Mach} (h : m.Corrected n) (k : n.Corrected o) : m.Corrected o := by
  obtain ⟨_, _, _, rfl⟩ := h
  obtain ⟨so, dc, ic, rfl⟩ := k
  exact ⟨so, dc, ic, rfl⟩

theorem Mach.Corrected.foldl {α : Type} {f : Mach → α → Mach} (hf : ∀ (m : Mach) a, m.Corrected (f m a)) (l : List α) (m : Mach) :
    m.Corrected (l.foldl f m) := foldl_keep (fun n => m.Corrected n) f l m (.refl m) fun n a hn => hn.trans (hf n a)

theorem Mach.corrected_soft (m : Mach) (so : List (Nat × List Nat)) : m.Corrected { m with soft := so } := ⟨_, _, _, rfl⟩

theorem Mach.corrected_eccCount (m : Mach) (d k : Nat) (bad : Bool) : m.Corrected (m.eccCount d k bad) := by
  simp only [Mach.eccCount]
  by_cases hd : d < 4
  · exact if_pos hd ▸ ⟨_, _, _, rfl⟩
  · exact if_neg hd ▸ ⟨_, _, _, rfl⟩

theorem Mach.corrected_eccUnitRead (m : Mach) (u : Nat) : m.Corrected (m.eccUnitRead u) := by
  unfold Mach.eccUnitRead
  split
  · exact (m.corrected_soft _).trans (Mach.corrected_eccCount _ _ _ _)
  · exact .refl m

theorem Mach.corrected_eccKeys (m : Mach) (k n : Nat) : m.Corrected (m.eccKeys k n) := by
  unfold Mach.eccKeys
  split
  · exact .refl m
  · exact .foldl Mach.corrected_eccUnitRead _ m

theorem Mach.corrected_eccWrite (m : Mach) (k n : Nat) : m.Corrected (m.eccWrite k n) := by
  unfold Mach.eccWrite
  split
  · exact .refl m
  · exact (m.corrected_soft _).trans (Mach.corrected_eccKeys _ _ _)

theorem Mach.Corrected.quiet {m n : Mach} (h : m.Corrected n) : m.Quiet n := by
  obtain ⟨_, _, _, rfl⟩ := h
  exact ⟨rfl, rfl⟩

theorem Mach.quiet_poke (m : Mach) (k : Nat) (bs : List Byte) : m.Quiet (m.poke k bs) :=
  (m.corrected_eccWrite k bs.length).quiet.trans ⟨rfl, rfl⟩

theorem Mach.quiet_tbUpd (m : Mach) (c pa : Nat) (f : Tb → Tb) : m.Quiet (m.tbUpd c pa f) := by
  unfold Mach.tbUpd
  split
  · exact (m.quiet_carry _ _ _ _).trans (Mach.quiet_poke _ _ _)
  · exact .refl m

theorem Mach.quiet_copyReport (m : Mach) (c : Nat) (k : CopyCmd) (err poison : Bool) : m.Quiet (m.copyReport c k err poison) := by
  unfold Mach.copyReport
  split
  · exact m.quiet_tbUpd _ _ _
  · exact .refl m

theorem Mach.quiet_updCtx (m : Mach) (c : Nat) (f : Ctx → Ctx) : m.Quiet (m.updCtx c f) := ⟨rfl, rfl⟩

theorem Mach.quiet_discardCopies (m : Mach) (c limit : Nat) : m.Quiet (m.discardCopies c limit).1 := by
  simp only [Mach.discardCopies]
  split
  · exact .refl m
  · exact ((Mach.Quiet.foldl (fun m h => m.quiet_updCtx _ _) _ m).trans
      (.foldl (fun m k => m.quiet_copyReport c k true false) _ _)).trans (Mach.quiet_updCtx _ _ _)

theorem Mach.quiet_closeTask (m : Mach) (c : Nat) (self : Launcher) : m.Quiet (m.closeTask c self) := by
  obtain ⟨-, tr, sv, ps, hfree⟩ := Mach.freeCtx_eq
    { (m.charge (dieOf c) 4 5 64).updWindow self (fun w => { w with dead := true, unread := [] }) with
      windows := ((m.charge (dieOf c) 4 5 64).updWindow self fun w => { w with dead := true, unread := [] }).windows.filter
        fun w => !(w.dead && w.base == w.next) } c
  rw [Mach.closeTask, hfree]
  exact m.quiet_charge _ _ _ _

theorem Mach.quiet_updPart (m : Mach) (q : Nat) (f : Part → Part) : m.Quiet (m.updPart q f) := by
  obtain ⟨ps, h⟩ := m.updPart_eq q f
  exact h ▸ ⟨rfl, rfl⟩

theorem Mach.quiet_finishTask (m : Mach) (c : Nat) (faulted : Bool) (v : Word) : m.Quiet (m.finishTask c faulted v) := by
  simp only [Mach.finishTask]
  refine .trans ?_ (Mach.quiet_closeTask _ _ _)
  split
  · exact .refl m
  · exact .trans ⟨rfl, rfl⟩ (Mach.quiet_updPart _ _ _)

/-- A task that ends leaves the partition faults as they are, and its context runs no longer. -/
theorem endTask_spec (m : Mach) (c : Nat) (faulted : Bool) (v : Word) :
    m.Quiet (m.endTask c faulted v) ∧ ((m.endTask c faulted v).ctx c).status ≠ .running := by
  simp only [Mach.endTask]
  have hq : m.Quiet ((((m.discardCopies c ((m.ctx c).stamp + 1)).1.updCtx c fun x => { x with engFaults := [] }).updCtx c fun x =>
      { x with status := .ending faulted v, sleep := none, stall := 0, pendTrap := none })) :=
    ((m.quiet_discardCopies _ _).trans (Mach.quiet_updCtx _ _ _)).trans (Mach.quiet_updCtx _ _ _)
  generalize hn : (((m.discardCopies c ((m.ctx c).stamp + 1)).1.updCtx c fun x => { x with engFaults := [] }).updCtx c fun x =>
      { x with status := .ending faulted v, sleep := none, stall := 0, pendTrap := none }) = n at hq ⊢
  have hst : (n.ctx c).status = .ending faulted v := by rw [← hn, Mach.ctx_updCtx]
  simp only [Mach.settle, hst]
  split
  · exact ⟨hq.trans (n.quiet_finishTask _ _ _), by rw [(finishTask_eq n c faulted v).1]; simp [Ctx.reset]⟩
  · exact ⟨hq, by rw [hst]; simp⟩

/-! ### Taking an exception -/

theorem scalarTrap_of_safe {m : Mach} (f : Flt) (hu : m.me.anyUnsafe = false) : m.scalarTrap f = m.enterTrap m.cur f m.me.pc m.me.ir :=
  if_neg (by simp [hu])

theorem scalarTrap_of_unsafe {m : Mach} (f : Flt) (hu : m.me.anyUnsafe = true) :
    m.scalarTrap f = m.upd fun x => { x with pendTrap := some (f, x.pc, x.ir) } := if_pos hu

/-- The acting context in its handler: the trap registers, the PC at THANDLER, and the mark of the first instruction (R298). -/
theorem enterTrap_me {m : Mach} {f : Flt} (epc : Word) (word : BitVec 32) (hf : (m.me.firstH && f.code != 0x11) = false)
    (ht : m.me.thandler ≠ 0) :
    (m.enterTrap m.cur f epc word).me = { m.me.trapRegs f epc word with pc := m.me.thandler, firstH := true, inH := m.me.inH + 1 } := by
  rw [enterTrap_handler epc word hf ht]
  simp

/-- A fault of a handler's first instruction ends the task and is reported (R299, R306). -/
theorem enterTrap_double {m : Mach} {f : Flt} (epc : Word) (word : BitVec 32) (hf : m.me.firstH = true) (hc : f.code ≠ 0x11) :
    (m.enterTrap m.cur f epc word).pfaults = m.pfaults ++ [PFault.mk m.me.task.q 0x12 f.code] ∧
    (m.enterTrap m.cur f epc word).me.status ≠ .running := by
  have hme : (m.count m.cur evTrap 1).ctx m.cur = m.me := m.ctx_count ..
  have hpf : (m.count m.cur evTrap 1).pfaults = m.pfaults := by
    obtain ⟨ps, h⟩ := m.count_eq m.cur evTrap 1
    rw [h]
  have hcond : (m.me.firstH && f.code != 0x11) = true := by simp [hf, hc]
  simp only [Mach.enterTrap, hme, hcond, if_true]
  obtain ⟨⟨hcur, hfaults⟩, hst⟩ := endTask_spec { (m.count m.cur evTrap 1).updCtx m.cur fun x => x.trapRegs f.doubled epc word with
    pfaults := ((m.count m.cur evTrap 1).updCtx m.cur fun x => x.trapRegs f.doubled epc word).pfaults ++ [PFault.mk m.me.task.q 0x12 f.code] }
    m.cur true f.doubled.cause
  refine ⟨hfaults.trans (by simp [hpf]), ?_⟩
  rw [Mach.me, hcur]
  simpa using hst

/-- Settles O11: a scalar-side fault is taken at once, waits, or ends the task, as the lemma of its case says. -/
theorem trapEntry : Obligations.TrapEntry := by
  refine ⟨fun s f hu h1 ht => ?taken, fun s f hu => ?waits, fun s f hu h1 hc => ?doubled⟩
  case taken =>
    have hf : (s.m.me.firstH && f.code != 0x11) = false := by simp [h1]
    have hme : (s.trapped f).m.me = _ := (congrArg Mach.me (scalarTrap_of_safe f hu)).trans (enterTrap_me s.m.me.pc s.m.me.ir hf ht)
    have honly : s.onlyMe (s.trapped f) := State.onlyMe_of_mach (by rw [scalarTrap_of_safe f hu]; exact enterTrap_handler_onlyMe _ _ hf ht)
    dsimp only
    generalize (s.trapped f).m.me = y at hme ⊢
    subst hme
    exact ⟨rfl, rfl, rfl, rfl, fun hq => by simp [Ctx.trapRegs, hq], rfl, rfl, rfl, rfl, rfl, rfl, rfl, rfl, rfl, rfl, rfl, rfl, rfl, honly⟩
  case waits =>
    have hm : (s.trapped f).m = _ := scalarTrap_of_unsafe f hu
    exact ⟨by rw [hm, Mach.me_upd], by rw [hm]; rfl, State.onlyMe_of_mach (by rw [scalarTrap_of_unsafe f hu]; exact s.m.onlyMe_upd _)⟩
  case doubled =>
    have hm : (s.trapped f).m = s.m.enterTrap s.m.cur f s.m.me.pc s.m.me.ir := scalarTrap_of_safe f hu
    rw [hm]
    exact enterTrap_double _ _ h1 hc

end Sys2Proof.Machine
end

section
/-!
PROOFS. Rows of a register group (R93, R96, R101).
-/

namespace Sys2Proof.Machine

/-! ### Sorted update lists -/

theorem keysFrom_append {α : Type} {a b : Tab α} {lo n : Nat} (hlo : lo ≤ n) (ha : keysFrom lo a = true) (hlt : ∀ p ∈ a, p.1 < n)
    (hb : keysFrom n b = true) : keysFrom lo (a ++ b) = true := by
  induction a generalizing lo with
  | nil => exact keysFrom_mono hb hlo
  | cons p a ih =>
    simp only [keysFrom, Bool.and_eq_true, decide_eq_true_eq] at ha
    simp only [List.cons_append, keysFrom, Bool.and_eq_true, decide_eq_true_eq]
    exact ⟨ha.1, ih (hlt p (by simp)) ha.2 fun q hq => hlt q (by simp [hq])⟩

theorem tabFind_above {α : Type} {a : Tab α} {k : Nat} (hlt : ∀ p ∈ a, p.1 < k) : tabFind a k = none := by
  induction a with
  | nil => rfl
  | cons p a ih =>
    rw [tabFind_cons_gt (hlt p (by simp))]
    exact ih fun q hq => hlt q (by simp [hq])

/-- Above the keys of the first part a joined list is its second part. -/
theorem tabFind_append_above {α : Type} {a b : Tab α} {k : Nat} (hlt : ∀ p ∈ a, p.1 < k) : tabFind (a ++ b) k = tabFind b k := by
  induction a with
  | nil => rfl
  | cons p a ih =>
    rw [List.cons_append, tabFind_cons_gt (hlt p (by simp))]
    exact ih fun q hq => hlt q (by simp [hq])

/-- Below the keys of the second part it is its first part. -/
theorem tabFind_append_below {α : Type} {a b : Tab α} {k n : Nat} (hb : keysFrom n b = true) (hk : k < n) :
    tabFind (a ++ b) k = tabFind a k := by
  induction a with
  | nil => exact tabFind_below hb hk
  | cons p a ih => simp only [List.cons_append, tabFind, ih]

/-! ### The bytes that a row's elements write -/

/-- The bytes of one element of register v, from offset `off`, that hold a code. -/
def elemUpds (v e off : Nat) (c : Option Nat) : List (Nat × Byte) :=
  match c with
  | none => []
  | some c => (leBytes e c).zipIdx.map fun b => (Ctx.vkey v (off + b.2), b.1)

/-- The bytes of the row's elements, the first of them element i. -/
def rowUpds (v e i : Nat) (vals : List (Option Nat)) : List (Nat × Byte) :=
  (vals.zipIdx i).flatMap fun p => elemUpds v e (p.2 * e) p.1

@[simp] theorem rowUpds_nil (v e i : Nat) : rowUpds v e i [] = [] := rfl

theorem rowUpds_cons (v e i : Nat) (c : Option Nat) (vals : List (Option Nat)) :
    rowUpds v e i (c :: vals) = elemUpds v e (i * e) c ++ rowUpds v e (i + 1) vals := rfl

theorem elemUpds_some (v e off c : Nat) :
    elemUpds v e off (some c) = ((leBytes e c).zipIdx 0).map fun b => (Ctx.vkey v off + b.2, b.1) := by
  simp only [elemUpds, Ctx.vkey, Nat.add_assoc]

theorem elemUpds_lt {v e off : Nat} {c : Option Nat} : ∀ p ∈ elemUpds v e off c, p.1 < Ctx.vkey v (off + e) := by
  intro p hp
  cases c with
  | none => cases hp
  | some c =>
    obtain ⟨b, hb, rfl⟩ := List.mem_map.mp hp
    have := List.snd_lt_of_mem_zipIdx hb
    simp only [leBytes_length] at this
    simp only [Ctx.vkey]
    omega

theorem keysFrom_elemUpds (v e off : Nat) (c : Option Nat) : keysFrom (Ctx.vkey v off) (elemUpds v e off c) = true := by
  cases c with
  | none => rfl
  | some c =>
    have h := keysFrom_zipIdx (Ctx.vkey v off) (leBytes e c) 0
    rwa [Nat.add_zero, ← elemUpds_some] at h

theorem tabFind_elemUpds (v e off b : Nat) (c : Option Nat) :
    tabFind (elemUpds v e off c) (Ctx.vkey v (off + b)) = c.bind fun c => (leBytes e c)[b]? := by
  cases c with
  | none => rfl
  | some c =>
    rw [elemUpds_some, show Ctx.vkey v (off + b) = Ctx.vkey v off + 0 + b by simp only [Ctx.vkey]; omega]
    exact tabFind_zipIdx _ _ 0 b

theorem keysFrom_rowUpds (v e i : Nat) (vals : List (Option Nat)) : keysFrom (Ctx.vkey v (i * e)) (rowUpds v e i vals) = true := by
  induction vals generalizing i with
  | nil => rfl
  | cons c vals ih =>
    have hn : Ctx.vkey v (i * e + e) = Ctx.vkey v ((i + 1) * e) := by rw [Nat.add_one_mul]
    rw [rowUpds_cons]
    exact keysFrom_append (by simp only [Ctx.vkey]; omega) (keysFrom_elemUpds ..) elemUpds_lt (hn ▸ ih (i + 1))

theorem rowUpds_lt {v e i : Nat} {vals : List (Option Nat)} : ∀ p ∈ rowUpds v e i vals, p.1 < Ctx.vkey v ((i + vals.length) * e) := by
  intro p hp
  obtain ⟨q, hq, hp⟩ := List.mem_flatMap.mp hp
  have hlt : q.2 + 1 ≤ i + vals.length := by have := List.snd_lt_add_of_mem_zipIdx hq; omega
  have hmul := Nat.mul_le_mul_right e hlt
  have hp := elemUpds_lt p hp
  rw [Nat.add_one_mul] at hmul
  simp only [Ctx.vkey] at hp ⊢
  omega

/-- What a row writes at byte b of element i + j. -/
theorem tabFind_rowUpds (v e i j : Nat) (vals : List (Option Nat)) {b : Nat} (hb : b < e) :
    tabFind (rowUpds v e i vals) (Ctx.vkey v ((i + j) * e + b)) = (nthD none vals j).bind fun c => (leBytes e c)[b]? := by
  induction vals generalizing i j with
  | nil => simp [nthD, tabFind]
  | cons c vals ih =>
    rw [rowUpds_cons]
    cases j with
    | zero =>
      have hk : Ctx.vkey v ((i + 0) * e + b) < Ctx.vkey v ((i + 1) * e) := by
        rw [Nat.add_zero, Nat.add_one_mul]; simp only [Ctx.vkey]; omega
      rw [tabFind_append_below (keysFrom_rowUpds v e (i + 1) vals) hk]
      exact tabFind_elemUpds v e (i * e) b c
    | succ j =>
      rw [show i + (j + 1) = i + 1 + j by omega, tabFind_append_above]
      · exact ih (i + 1) j
      · intro p hp
        have hp := elemUpds_lt p hp
        rw [Nat.add_mul, Nat.add_one_mul]
        simp only [Ctx.vkey] at hp ⊢
        omega

/-! ### Rows -/

theorem Ctx.putRow_eq (x : Ctx) (v e : Nat) (vals : List (Option Nat)) :
    let y := x.putRow v e vals
    y = { x with vrf := y.vrf, vdirty := y.vdirty, vhwm := y.vhwm, vrPoison := y.vrPoison } := by
  simp only [Ctx.putRow]
  split <;> rfl

theorem Ctx.putRow_vrf (x : Ctx) (v e : Nat) (vals : List (Option Nat)) :
    (x.putRow v e vals).vrf = x.vrf ∧ rowUpds v e 0 vals = [] ∨ (x.putRow v e vals).vrf = csetAll (rowUpds v e 0 vals) x.vrf := by
  unfold Ctx.putRow
  dsimp only
  split
  next h => exact .inl ⟨rfl, List.getLast?_eq_none_iff.mp h⟩
  next => exact .inr rfl

theorem Ctx.cellsWf_putRow {x : Ctx} (v e : Nat) (vals : List (Option Nat)) (h : cellsWf x.vrf = true) :
    cellsWf (x.putRow v e vals).vrf = true := by
  obtain ⟨hy, -⟩ | hy := x.putRow_vrf v e vals
  · rwa [hy]
  · exact hy ▸ cellsWf_csetAll (keysFrom_mono (keysFrom_rowUpds v e 0 vals) (Nat.zero_le _)) h

theorem Ctx.cget_putRow {x : Ctx} (v e : Nat) (vals : List (Option Nat)) (h : cellsWf x.vrf = true) (k : Nat) :
    cget (x.putRow v e vals).vrf k = (tabFind (rowUpds v e 0 vals) k).getD (cget x.vrf k) := by
  obtain ⟨hy, hus⟩ | hy := x.putRow_vrf v e vals
  · rw [hy, hus]; rfl
  · rw [hy, cget_csetAll (keysFrom_mono (keysFrom_rowUpds v e 0 vals) (Nat.zero_le _)) h]

theorem Ctx.vkey_le_vkey {v w n b : Nat} (hvw : v < w) (hn : n ≤ 65536) : vkey v n ≤ vkey w b := by
  simp only [vkey]
  omega

/-- A written row leaves the bytes of every other register. -/
theorem Ctx.cget_putRow_ne {x : Ctx} {v e : Nat} {vals : List (Option Nat)} (h : cellsWf x.vrf = true) (hl : vals.length * e ≤ 65536)
    {w b : Nat} (hw : w ≠ v) (hb : b < 65536) : cget (x.putRow v e vals).vrf (vkey w b) = cget x.vrf (vkey w b) := by
  rw [cget_putRow v e vals h (vkey w b)]
  obtain hlt | hgt := Nat.lt_or_gt_of_ne hw
  · have hk : vkey w b < vkey v (0 * e) := by simp only [vkey]; omega
    rw [tabFind_below (keysFrom_rowUpds v e 0 vals) hk, Option.getD_none]
  · have hk : ∀ p ∈ rowUpds v e 0 vals, p.1 < vkey w b := fun p hp => by
      have hp := rowUpds_lt p hp
      rw [Nat.zero_add] at hp
      exact Nat.lt_of_lt_of_le hp (vkey_le_vkey hgt hl)
    rw [tabFind_above hk, Option.getD_none]

/-- Byte b of element j after a row was written: the code's, where position j holds one. -/
theorem Ctx.cget_putRow_elem {x : Ctx} {v e : Nat} {vals : List (Option Nat)} (h : cellsWf x.vrf = true) (j : Nat) {b : Nat} (hb : b < e) :
    cget (x.putRow v e vals).vrf (vkey v (j * e + b)) = ((nthD none vals j).bind fun c => (leBytes e c)[b]?).getD (cget x.vrf (vkey v (j * e + b))) := by
  have hfind := tabFind_rowUpds v e 0 j vals hb
  rw [Nat.zero_add] at hfind
  rw [cget_putRow v e vals h, hfind]

@[simp] theorem Ctx.putRows_nil (x : Ctx) (v e : Nat) : x.putRows v e [] = x := rfl

theorem Ctx.putRows_cons (x : Ctx) (v e : Nat) (l : List (Option Nat)) (rows : List (List (Option Nat))) :
    x.putRows v e (l :: rows) = (x.putRow v e l).putRows (v + 1) e rows := by
  simp only [putRows, List.zipIdx_cons, List.foldl_cons, Nat.add_zero, Nat.zero_add]
  rw [List.zipIdx_succ, List.foldl_map]
  simp only [Nat.add_assoc, Nat.add_comm 1]

theorem Ctx.putRows_eq (x : Ctx) (v e : Nat) (rows : List (List (Option Nat))) :
    let y := x.putRows v e rows
    y = { x with vrf := y.vrf, vdirty := y.vdirty, vhwm := y.vhwm, vrPoison := y.vrPoison } := by
  induction rows generalizing x v with
  | nil => rfl
  | cons l rows ih =>
    have hrow := x.putRow_eq v e l
    have hrest := ih (x.putRow v e l) (v + 1)
    simp only [putRows_cons] at hrow hrest ⊢
    rw [hrow] at hrest
    exact hrow ▸ hrest

theorem Ctx.cellsWf_putRows {x : Ctx} (v e : Nat) (rows : List (List (Option Nat))) (h : cellsWf x.vrf = true) :
    cellsWf (x.putRows v e rows).vrf = true := by
  induction rows generalizing x v with
  | nil => exact h
  | cons l rows ih =>
    rw [putRows_cons]
    exact ih (v + 1) (cellsWf_putRow v e l h)

/-- Written rows leave the bytes of every register outside their group. -/
theorem Ctx.cget_putRows_ne {x : Ctx} {v e : Nat} {rows : List (List (Option Nat))} (h : cellsWf x.vrf = true)
    (hl : ∀ l ∈ rows, l.length * e ≤ 65536) {w b : Nat} (hw : w < v ∨ v + rows.length ≤ w) (hb : b < 65536) :
    cget (x.putRows v e rows).vrf (vkey w b) = cget x.vrf (vkey w b) := by
  induction rows generalizing x v with
  | nil => rfl
  | cons l rows ih =>
    simp only [List.length_cons] at hw
    rw [putRows_cons, ih (cellsWf_putRow v e l h) (fun l hm => hl l (by simp [hm])) (by omega),
      cget_putRow_ne h (hl l (by simp)) (by omega) hb]

/-- Byte b of element j of row r after rows were written. -/
theorem Ctx.cget_putRows_elem {x : Ctx} {v e : Nat} {rows : List (List (Option Nat))} (h : cellsWf x.vrf = true)
    (hl : ∀ l ∈ rows, l.length * e ≤ 65536) {r j b : Nat} (hr : r < rows.length) (hj : j * e + e ≤ 65536) (hb : b < e) :
    cget (x.putRows v e rows).vrf (vkey (v + r) (j * e + b)) =
      ((nthD none (nthD [] rows r) j).bind fun c => (leBytes e c)[b]?).getD (cget x.vrf (vkey (v + r) (j * e + b))) := by
  induction rows generalizing x v r with
  | nil => cases hr
  | cons l rows ih =>
    have hwf := cellsWf_putRow v e l h
    have hrest : ∀ l ∈ rows, l.length * e ≤ 65536 := fun l hm => hl l (by simp [hm])
    rw [putRows_cons]
    cases r with
    | zero =>
      rw [cget_putRows_ne hwf hrest (.inl (by omega)) (by omega)]
      exact cget_putRow_elem h j hb
    | succ r =>
      have hcell := ih (x := x.putRow v e l) (v := v + 1) (r := r) hwf hrest (by simpa using hr)
      rw [show v + (r + 1) = v + 1 + r by omega, hcell, cget_putRow_ne h (hl l (by simp)) (by omega) (by omega)]
      rfl

/-- An element whose bytes are those of a code is the code. -/
theorem Ctx.elem_of_bytes {y : Ctx} {v r j e c : Nat} (h : cellsWf y.vrf = true)
    (hb : ∀ b, (hb : b < e) → cget y.vrf (vkey (v + r) (j * e + b)) = (leBytes e c)[b]'(by simpa using hb)) :
    y.elem v r j e = c % 2 ^ (8 * e) := by
  have hbytes : y.vread (v + r) (j * e) e = leBytes e c := by
    rw [vread, cgetRange_eq h]
    refine List.ext_getElem (by simp) fun b hlen _ => ?_
    have hbe : b < e := by simpa using hlen
    rw [List.getElem_map, List.getElem_range, ← hb b hbe]
    simp only [vkey, Nat.add_assoc]
  rw [elem, hbytes, leVal_leBytes, Nat.pow_mul]

/-- Elements whose bytes agree are equal. -/
theorem Ctx.elem_congr {x y : Ctx} {v r j e : Nat} (hx : cellsWf x.vrf = true) (hy : cellsWf y.vrf = true)
    (hb : ∀ b, b < e → cget y.vrf (vkey (v + r) (j * e + b)) = cget x.vrf (vkey (v + r) (j * e + b))) :
    y.elem v r j e = x.elem v r j e := by
  rw [elem, elem, vread, vread, cgetRange_eq hy, cgetRange_eq hx]
  refine congrArg leVal (List.map_congr_left fun b hm => ?_)
  have h := hb b (List.mem_range.mp hm)
  simpa only [vkey, Nat.add_assoc] using h

/-- Settles O53: rows are written one after another, and each byte of the group is its row's or the old one. -/
theorem registerRows : Obligations.RegisterRows := by
  intro x v e rows hx _ hl
  have hy := x.cellsWf_putRows v e rows hx
  refine ⟨x.putRows_eq v e rows, hy, fun r hr i hi => ?_, fun w hw b hb => Ctx.cget_putRows_ne hx hl hw hb⟩
  have hcell := fun b (hb : b < e) => Ctx.cget_putRows_elem (v := v) hx hl hr hi hb
  cases hc : nthD none (nthD [] rows r) i with
  | some c =>
    refine Ctx.elem_of_bytes hy fun b hb => ?_
    rw [hcell b hb, hc, Option.bind_some, List.getElem?_eq_getElem (by simpa using hb), Option.getD_some]
  | none =>
    refine Ctx.elem_congr hx hy fun b hb => ?_
    rw [hcell b hb, hc, Option.bind_none, Option.getD_none]

end Sys2Proof.Machine
end

section
/-!
PROOFS. Elementwise operations on floats (R101, R226, R355, R357).
-/

namespace Sys2Proof.Machine

/-! ### Types -/

theorem tyIsInt_of_flt {c fmt : Nat} {f : FFmt} (h : tyOf c fmt = .flt f) : tyIsInt c = false := by
  by_contra hi
  obtain ⟨hlo, hhi⟩ : 4 ≤ c ∧ c ≤ 13 := by simpa [tyIsInt] using hi
  interval_cases c <;> cases h

/-- No operation that floats may be used with refuses a float type that is not block-scaled (R355, R356). -/
theorem ewBad_of_flt {k : Cap} {f : FFmt} {op : Nat} (ht : k.tyv = .flt f)
    (hb : k.blocked = false) (hop : op ≤ 5) : ewBad op k = false := by
  simp [ewBad, hop, hb, Cap.srInt, tyIsInt_of_flt ht]

/-! ### Operands -/

/-- Element i of row r of a second operand, as a code of k's type: a group's, or the scalar in every position (R353, R357). -/
def State.operand (s : State) (k : Cap) (b : Src) (r i : Nat) : Nat :=
  match b with
  | .reg v => nthD 0 (s.m.me.row (v + r) k.vl k.size) i % 2 ^ k.tyv.bits
  | .scal w => w.toNat % 2 ^ k.tyv.bits

theorem State.row_length (s : State) (v n e : Nat) : (s.m.me.row v n e).length = n := chunks_length ..

/-- The active elements of a first operand's row. -/
theorem State.sent_maskRow (s : State) (k : Nat) (o : VOp) (c : Cap) (v r : Nat) :
    maskRow ((s.sent k o).me.actives c) c.tyv.bits ((s.sent k o).me.row (v + r) c.vl c.size) =
      (List.range c.vl).map fun i => if s.m.me.active c i then some (s.operand c (.reg v) r i) else none := by
  rw [State.sent_actives, State.sent_row, maskRow_eq _ _ _ _ (s.row_length ..)]
  rfl

/-- The active elements of a second operand's row. -/
theorem State.sent_srcRow (s : State) (k : Nat) (o : VOp) (c : Cap) (b : Src) (r : Nat) :
    maskRow ((s.sent k o).me.actives c) c.tyv.bits (srcRows (s.sent k o).me c b r) =
      (List.range c.vl).map fun i => if s.m.me.active c i then some (s.operand c b r i) else none := by
  cases b with
  | reg v => exact s.sent_maskRow k o c v r
  | scal w =>
    rw [State.sent_actives, srcRows, maskRow_eq _ _ _ _ List.length_replicate]
    refine List.map_congr_left fun i hi => ?_
    have hc : nthD 0 (List.replicate c.vl (xsCode c.tyv w)) i = xsCode c.tyv w := by
      simp [nthD, List.getD_eq_getElem?_getD, List.mem_range.mp hi]
    rw [hc, xsCode, Nat.mod_mod]
    rfl

theorem valRow_range (t : Ty) (n : Nat) (p : Nat → Option Nat) :
    valRow t ((List.range n).map p) = (List.range n).map fun i => (p i).map t.val := by
  simp [valRow]

/-! ### Results -/

section
variable {s : State} {rs : List (BitVec 5)} {k : Cap} {op d a : Nat} {b : Src} {f : FFmt}

/-- The checks of an elementwise operation pass. -/
theorem ew_starts (h : s.Vector rs) (hm : s.Modes k [k.size]) (hr : ∀ r ∈ [(d, k.g), (a, k.g)] ++ b.regs k.g, s.m.me.regOk r.1 r.2 = true)
    (ht : k.tyv = .flt f) (hb : k.blocked = false) (hop : op ≤ 5) {o : VOp} {e : VEnt} (he : e.cap = k) (srcs : List (Nat × Nat × Nat)) :
    vStart (s.sent mdv o) e ([(d, k.g), (a, k.g)] ++ b.regs k.g) [k.size] (ewBad op k) k.fmts srcs = .ok () :=
  s.vStart_ok h he hr hm (ewBad_of_flt ht hb hop) (Cap.fmts_ok hm)

/-- Sums, differences, products and quotients of the active elements are rounded into the destination (R355). -/
theorem runEw_rounds (h : s.Vector rs) (hm : s.Modes k [k.size])
    (hr : ∀ r ∈ [(d, k.g), (a, k.g)] ++ b.regs k.g, s.m.me.regOk r.1 r.2 = true) (ht : k.tyv = .flt f) (hb : k.blocked = false)
    (hop : op ≤ 3) {o : VOp} {e : VEnt} (he : e.cap = k) :
    runEw op d a b (s.sent mdv o) e = .ok (putRounded (s.sent mdv o) k k.tyv k.size d
      (s.rows k fun r i => fopEw op k.rdn (f.val (s.operand k (.reg a) r i)) (f.val (s.operand k b r i)))) := by
  have hrow : ∀ r, zipVals (fopEw op k.rdn)
      (valRow k.tyv (maskRow ((s.sent mdv o).me.actives k) k.tyv.bits ((s.sent mdv o).me.row (a + r) k.vl k.size)))
      (valRow k.tyv (maskRow ((s.sent mdv o).me.actives k) k.tyv.bits (srcRows (s.sent mdv o).me k b r))) =
      (List.range k.vl).map fun i => if s.m.me.active k i then
        some (fopEw op k.rdn (f.val (s.operand k (.reg a) r i)) (f.val (s.operand k b r i))) else none := by
    intro r
    rw [State.sent_maskRow, State.sent_srcRow, valRow_range, valRow_range, zipVals_range, ht]
    refine List.map_congr_left fun i _ => ?_
    cases s.m.me.active k i <;> rfl
  subst he
  simp only [runEw, ew_starts h hm hr ht hb (Nat.le_trans hop (by decide)) rfl, bind, Except.bind]
  split
  next g hg =>
    rw [if_pos hop]
    exact congrArg (fun rows => Except.ok (putRounded _ _ _ _ _ rows)) (List.map_congr_left fun r _ => hrow r)
  next hg => exact absurd (ht.symm.trans hg) (by simp)

/-- The smaller or larger of the active elements goes into the destination, its code kept by the rounding (R226). -/
theorem runEw_codes (h : s.Vector rs) (hm : s.Modes k [k.size])
    (hr : ∀ r ∈ [(d, k.g), (a, k.g)] ++ b.regs k.g, s.m.me.regOk r.1 r.2 = true) (ht : k.tyv = .flt f) (hb : k.blocked = false)
    (hlo : 3 < op) (hop : op ≤ 5) {o : VOp} {e : VEnt} (he : e.cap = k) :
    runEw op d a b (s.sent mdv o) e = .ok (putCodes (s.sent mdv o) k.size d
      (s.rows k fun r i => f.round 0 0 (fopEw op false (f.val (s.operand k (.reg a) r i)) (f.val (s.operand k b r i))))) := by
  have hrow : ∀ r, zipRows (fun u v => f.round 0 0 (fopEw op false (f.val u) (f.val v)))
      (maskRow ((s.sent mdv o).me.actives k) k.tyv.bits ((s.sent mdv o).me.row (a + r) k.vl k.size))
      (maskRow ((s.sent mdv o).me.actives k) k.tyv.bits (srcRows (s.sent mdv o).me k b r)) =
      (List.range k.vl).map fun i => if s.m.me.active k i then
        some (f.round 0 0 (fopEw op false (f.val (s.operand k (.reg a) r i)) (f.val (s.operand k b r i)))) else none := by
    intro r
    rw [State.sent_maskRow, State.sent_srcRow, zipRows_range]
    refine List.map_congr_left fun i _ => ?_
    cases s.m.me.active k i <;> rfl
  subst he
  simp only [runEw, ew_starts h hm hr ht hb hop rfl, bind, Except.bind]
  split
  next g hg =>
    obtain rfl : f = g := by simpa using ht.symm.trans hg
    rw [if_neg (by omega), if_pos hop]
    exact congrArg (fun rows => Except.ok (putCodes _ _ _ rows)) (List.map_congr_left fun r _ => hrow r)
  next hg => exact absurd (ht.symm.trans hg) (by simp)

end

/-- Settles O17: each operation is dispatched, starts at once, and runs on its operands' active elements. -/
theorem elementwiseFloat : Obligations.ElementwiseFloat := by
  intro s d a b y f k h hm hg ht hb A B Y v x
  have hd : s.m.me.regOk d.toNat k.g = true := hg d (by simp)
  have ha : s.m.me.regOk a.toNat k.g = true := hg a (by simp)
  have hb' : s.m.me.regOk b.toNat k.g = true := hg b (by simp)
  have hv : ∀ r ∈ [(d.toNat, k.g), (a.toNat, k.g)] ++ (Src.reg b.toNat).regs k.g, s.m.me.regOk r.1 r.2 = true := by
    simp [Src.regs, hd, ha, hb']
  have hx : ∀ r ∈ [(d.toNat, k.g), (a.toNat, k.g)] ++ (Src.scal (s.x y)).regs k.g, s.m.me.regOk r.1 r.2 = true := by
    simp [Src.regs, hd, ha]
  refine ⟨?_, ?_, ?_, ?_, ?_, ?_, ?_, ?_, ?_, ?_, ?_, ?_⟩
  · exact exec_vadd.trans (State.vector_ok h (by simp) (runEw_rounds (op := 0) h hm hv ht hb (by omega) rfl))
  · exact exec_vaddX.trans (State.vector_ok h (by simp) (runEw_rounds (op := 0) h hm hx ht hb (by omega) rfl))
  · exact exec_vsub.trans (State.vector_ok h (by simp) (runEw_rounds (op := 1) h hm hv ht hb (by omega) rfl))
  · exact exec_vsubX.trans (State.vector_ok h (by simp) (runEw_rounds (op := 1) h hm hx ht hb (by omega) rfl))
  · exact exec_vmul.trans (State.vector_ok h (by simp) (runEw_rounds (op := 2) h hm hv ht hb (by omega) rfl))
  · exact exec_vmulX.trans (State.vector_ok h (by simp) (runEw_rounds (op := 2) h hm hx ht hb (by omega) rfl))
  · exact exec_vdiv.trans (State.vector_ok h (by simp) (runEw_rounds (op := 3) h hm hv ht hb (by omega) rfl))
  · exact exec_vdivX.trans (State.vector_ok h (by simp) (runEw_rounds (op := 3) h hm hx ht hb (by omega) rfl))
  · exact exec_vmin.trans (State.vector_ok h (by simp) (runEw_codes (op := 4) h hm hv ht hb (by omega) (by omega) rfl))
  · exact exec_vminX.trans (State.vector_ok h (by simp) (runEw_codes (op := 4) h hm hx ht hb (by omega) (by omega) rfl))
  · exact exec_vmax.trans (State.vector_ok h (by simp) (runEw_codes (op := 5) h hm hv ht hb (by omega) (by omega) rfl))
  · exact exec_vmaxX.trans (State.vector_ok h (by simp) (runEw_codes (op := 5) h hm hx ht hb (by omega) (by omega) rfl))

end Sys2Proof.Machine
end

section
/-!
PROOFS. The clk, timers, counters and the strip arbiter (R106, R160, R161, R207, R208, R211, R212).
-/

namespace Sys2Proof.Machine

/-! ### Tables, vectors and lists -/

/-- A table whose entries are mapped, each under its own key. -/
theorem tabFind_mapEntries {α β : Type} (t : Tab α) (g : Nat → α → β) (k : Nat) :
    tabFind (t.map fun e => (e.1, g e.1 e.2)) k = (tabFind t k).map (g k) := by
  induction t with
  | nil => rfl
  | cons e t ih =>
    simp only [List.map_cons, tabFind]
    split
    next h => rw [h, Option.map_some]
    next =>
      split
      · rfl
      · exact ih

theorem vecAt_vecOf {α : Type} (d : α) (n : Nat) (f : Nat → α) {i : Nat} (h : i < n) : vecAt d (vecOf n f) i = f i := by
  simp [vecAt, vecOf, h]

theorem mapAt_length {α : Type} (l : List α) (i : Nat) (f : α → α) : (mapAt l i f).length = l.length := by
  induction l generalizing i with
  | nil => rfl
  | cons a t ih =>
    cases i with
    | zero => rfl
    | succ i => exact congrArg (· + 1) (ih i)

theorem nthD_mapAt_same {α : Type} (d : α) (l : List α) (i : Nat) (f : α → α) :
    nthD d (mapAt l i f) i = if i < l.length then f (nthD d l i) else d := by
  induction l generalizing i with
  | nil => rfl
  | cons a t ih =>
    cases i with
    | zero => rfl
    | succ i =>
      simp only [List.length_cons, Nat.add_lt_add_iff_right]
      exact ih i

/-! ### The clk -/

@[simp] theorem Ctx.tick_reset : Ctx.reset.tick = .reset := rfl

theorem Mach.ctx_clk (m : Mach) (c : Nat) : m.clk.ctx c = (m.ctx c).tick := by
  have hfind : tabFind m.clk.ctxs c = (tabFind m.ctxs c).map Ctx.tick := tabFind_mapEntries m.ctxs (fun _ x => x.tick) c
  rw [ctx, ctx, tabGet, tabGet, hfind]
  cases tabFind m.ctxs c <;> rfl

/-- Counters that select nothing count nothing. -/
theorem Pair.tick_reset (xs : List Ctx) : Pair.reset.tick xs = .reset := if_pos (by decide)

theorem Mach.pair_clk (m : Mach) (j : Nat) : m.clk.pair j = (m.pair j).tick ((List.range 4).map fun k => m.ctx (j * 4 + k)) := by
  have hfind : tabFind m.clk.pairs j = (tabFind m.pairs j).map fun u => u.tick ((List.range 4).map fun k => m.ctx (j * 4 + k)) :=
    tabFind_mapEntries m.pairs (fun j u => u.tick ((List.range 4).map fun k => m.ctx (j * 4 + k))) j
  rw [pair, pair, tabGet, tabGet, hfind]
  cases tabFind m.pairs j with
  | none => exact (Pair.tick_reset _).symm
  | some u => rfl

/-- A counter takes at most 16 events a clk and carries the rest; a wrap sets OVF (R211, R212). -/
theorem Pair.tick_counter (u : Pair) (xs : List Ctx) {i : Nat} (hi : i < 8) (hsel : ∃ k, vecAt 0 u.esel k ≠ 0) :
    let sel := vecAt 0 u.esel i
    let n := nthD 0 u.carry i + clkEvents xs sel
    vecAt 0 (u.tick xs).ecnt i = vecAt 0 u.ecnt i + .ofNat 64 (min 16 n) ∧ nthD 0 (u.tick xs).carry i = n - min 16 n ∧
    vecAt 0 (u.tick xs).esel i = if 2 ^ 64 ≤ (vecAt 0 u.ecnt i).toNat + min 16 n then sel ||| 0x1000 else sel := by
  have hany : ¬ u.esel.toList.all (· == 0) = true := by
    obtain ⟨k, hk⟩ := hsel
    intro hall
    refine hk ?_
    unfold vecAt
    rw [List.getD_eq_getElem?_getD]
    cases hget : u.esel.toList[k]? with
    | none => rfl
    | some w => exact beq_iff_eq.mp (List.all_eq_true.mp hall w (List.mem_of_getElem? hget))
  simp only [tick, if_neg hany, vecAt_vecOf _ _ _ hi]
  refine ⟨?_, ?_, trivial⟩
  · rw [BitVec.ofNat_add, BitVec.ofNat_toNat, BitVec.setWidth_eq]
  · simp [nthD, List.getD_eq_getElem?_getD, hi]

/-! ### Periods -/

/-- VSHARE takes effect in context c. -/
def Mach.shareNow (m : Mach) (c : Nat) : Mach :=
  if (m.ctx c).vshare = (m.ctx c).vshareNext then m else m.updCtx c fun x => { x with vshare := x.vshareNext }

theorem Mach.pair_shareNow (m : Mach) (c p : Nat) : (m.shareNow c).pair p = m.pair p := by
  unfold shareNow
  split <;> rfl

theorem Mach.ctx_shareNow (m : Mach) (c : Nat) : (m.shareNow c).ctx c = { m.ctx c with vshare := (m.ctx c).vshareNext } := by
  unfold shareNow
  split
  next h => rw [← h]
  next => rw [ctx_updCtx]

theorem Mach.ctx_shareNow_ne (m : Mach) {c d : Nat} (h : d ≠ c) : (m.shareNow c).ctx d = m.ctx d := by
  unfold shareNow
  split
  · rfl
  · exact m.ctx_updCtx_ne c d _ h

/-- VSHARE takes effect in every context of the pair. -/
theorem Mach.foldl_shareNow (m : Mach) (p : Nat) :
    ((List.range 4).foldl (fun m k => m.shareNow (p * 4 + k)) m).pair p = m.pair p ∧
    ∀ k, k < 4 → ((List.range 4).foldl (fun m k => m.shareNow (p * 4 + k)) m).ctx (p * 4 + k) =
      { m.ctx (p * 4 + k) with vshare := (m.ctx (p * 4 + k)).vshareNext } := by
  have hrange : List.range 4 = [0, 1, 2, 3] := rfl
  simp only [hrange, List.foldl_cons, List.foldl_nil]
  refine ⟨by simp only [pair_shareNow], fun k hk => ?_⟩
  interval_cases k
  · rw [ctx_shareNow_ne _ (by omega), ctx_shareNow_ne _ (by omega), ctx_shareNow_ne _ (by omega), ctx_shareNow]
  · rw [ctx_shareNow_ne _ (by omega), ctx_shareNow_ne _ (by omega), ctx_shareNow, ctx_shareNow_ne _ (by omega)]
  · rw [ctx_shareNow_ne _ (by omega), ctx_shareNow, ctx_shareNow_ne _ (by omega), ctx_shareNow_ne _ (by omega)]
  · rw [ctx_shareNow, ctx_shareNow_ne _ (by omega), ctx_shareNow_ne _ (by omega), ctx_shareNow_ne _ (by omega)]

theorem Mach.newPeriod_old {m : Mach} {p : Nat} (h : m.cycle / 1024 ≤ (m.pair p).period) : m.newPeriod p = m := if_pos h

theorem Mach.newPeriod_eq {m : Mach} {p : Nat} (h : (m.pair p).period < m.cycle / 1024) :
    m.newPeriod p = (List.range 4).foldl (fun m k => m.shareNow (p * 4 + k)) (m.updPair p fun u => { u with
      spend := if m.cycle / 1024 = u.period + 1 then u.spill else List.replicate 12 0, spill := List.replicate 12 0,
      period := m.cycle / 1024 }) := if_neg (Nat.not_le.mpr h)

/-! ### Strips -/

/-- The one picked is of lowest spend, and the first of these. -/
theorem leastSpent_spec (f : Nat → Nat) {l : List Nat} (hl : l.Pairwise (· < ·)) (hne : l ≠ []) :
    ∃ k, leastSpent f l = some k ∧ k ∈ l ∧ ∀ j ∈ l, f k < f j ∨ f k = f j ∧ k ≤ j := by
  induction l with
  | nil => exact absurd rfl hne
  | cons a t ih =>
    obtain ⟨ha, ht⟩ := List.pairwise_cons.mp hl
    by_cases hnil : t = []
    · subst hnil
      exact ⟨a, rfl, by simp, by simp⟩
    · obtain ⟨j, hj, hmem, hmin⟩ := ih ht hnil
      simp only [leastSpent, hj]
      by_cases haj : f a ≤ f j
      · refine ⟨a, if_pos haj, by simp, fun i hi => ?_⟩
        obtain rfl | hi := List.mem_cons.mp hi
        · exact .inr ⟨rfl, le_refl _⟩
        · have := hmin i hi
          have := ha i hi
          omega
      · refine ⟨j, if_neg haj, by simp [hmem], fun i hi => ?_⟩
        obtain rfl | hi := List.mem_cons.mp hi
        · exact .inl (by omega)
        · exact hmin i hi

theorem paid_of_head_ne_zero {l : List Nat} (b : Nat) (h : l.headD 0 ≠ 0) :
    paid b l = (if l.headD 0 ≤ b then [] else [l.headD 0 - b]) ++ l.tail := by
  cases l with
  | nil => exact absurd rfl h
  | cons n t =>
    by_cases hn : (n :: t).headD 0 ≤ b
    · rw [if_pos hn]
      exact if_pos hn
    · rw [if_neg hn]
      exact if_neg hn

/-- What a grant of the resource to context k of the pair makes of the pair (R160, R161). -/
def Mach.granted (m : Mach) (p res k : Nat) : Mach :=
  let w := (m.ctx (p * 4 + k)).vshare.toNat
  let b := min 16 ((nthD [] (m.pair p).need (4 * res + k)).headD 0)
  let cost := fun (n : Nat) => if w = 0 then 0 else n * 256 / w
  m.updPair p fun u => { u with
    need := mapAt u.need (4 * res + k) (paid b), till := u.till.set res (m.cycle + b),
    spend := mapAt u.spend (4 * res + k) (· + cost b),
    spill := u.spill.set (4 * res + k) (cost (m.cycle + b - (m.cycle / 1024 + 1) * 1024)) }

theorem Mach.grantStrip_eq {m : Mach} {p res k : Nat} (hres : res < 3) (hper : m.cycle / 1024 ≤ (m.pair p).period)
    (htill : nthD 0 (m.pair p).till res ≤ m.cycle)
    (hk : leastSpent (fun k => nthD 0 (m.pair p).spend (4 * res + k))
      (((List.range 4).filter fun k => (nthD [] (m.pair p).need (4 * res + k)).headD 0 != 0).filter
        fun k => (m.ctx (p * 4 + k)).vshare.toNat != 0) = some k) :
    m.grantStrip p res = m.granted p res k := by
  have hgo : ¬ (3 ≤ res ∨ m.cycle < nthD 0 (m.pair p).till res) := by omega
  simp only [grantStrip, newPeriod_old hper, hk]
  simp [hgo, granted]

/-- Settles O50: each event through the lemma of its kind above. -/
theorem clockAndArbitration : Obligations.ClockAndArbitration := by
  intro s p
  refine ⟨⟨_, exec_clk, rfl, rfl, rfl, s.m.ctx_clk, s.m.pair_clk⟩, fun u xs i hi hsel => u.tick_counter xs hi hsel, fun hper => ?period,
    fun res hres hper htill htl hnl => ?strip⟩
  case period =>
    have hm := Mach.newPeriod_eq hper
    obtain ⟨hpair, hctx⟩ := Mach.foldl_shareNow (s.m.updPair p fun u => { u with
      spend := if s.m.cycle / 1024 = u.period + 1 then u.spill else List.replicate 12 0, spill := List.replicate 12 0,
      period := s.m.cycle / 1024 }) p
    rw [Mach.pair_updPair] at hpair
    refine ⟨{ s with m := s.m.newPeriod p }, exec_arbitrationPeriod, ?_⟩
    simp only [hm, hpair]
    exact ⟨trivial, trivial, trivial, hctx⟩
  case strip =>
    intro u strip due w hdue
    have hsorted : (due.filter fun k => w k != 0).Pairwise (· < ·) := (List.pairwise_lt_range.filter _).filter _
    have hne : (due.filter fun k => w k != 0) ≠ [] := by
      obtain ⟨k, hk, hw⟩ := hdue
      exact List.ne_nil_of_mem (List.mem_filter.mpr ⟨hk, by simpa using hw⟩)
    obtain ⟨k, hpick, hmem, hmin⟩ := leastSpent_spec (fun k => nthD 0 u.spend (4 * res + k)) hsorted hne
    obtain ⟨hk, hw⟩ := List.mem_filter.mp hmem
    obtain ⟨hk4, hstrip⟩ := List.mem_filter.mp hk
    have hw : w k ≠ 0 := by simpa using hw
    have hstrip : strip k ≠ 0 := by simpa using hstrip
    have hlt : 4 * res + k < u.need.length := by
      have hk4 := List.mem_range.mp hk4
      rw [hnl]
      omega
    have hm : s.m.grantStrip p res = s.m.granted p res k := Mach.grantStrip_eq hres hper htill hpick
    refine ⟨k, { s with m := s.m.granted p res k }, hk, hw, fun j hj hwj => hmin j (List.mem_filter.mpr ⟨hj, by simpa using hwj⟩),
      exec_stripGrant.trans (congrArg (fun m => onMach s fun _ => m) hm), ?_⟩
    simp only [Mach.granted, Mach.pair_updPair]
    refine ⟨?_, ?_, ?_, rfl⟩
    · rw [nthD_mapAt_same, if_pos hlt]
      exact paid_of_head_ne_zero _ hstrip
    · rw [nthD, List.getD_eq_getElem?_getD, List.getElem?_set_self (htl ▸ hres), Option.getD_some]
    · rw [nthD_mapAt_same, if_neg hw]

end Sys2Proof.Machine
end

section
/-!
PROOFS. Quantisation, scale registers, and compression (R100, R121, R232, R233, R246, R249 to R251, R367 to R372).
-/

namespace Sys2Proof.Machine

/-! ### Where addresses lead -/

section
variable {m n : Mach} (hp : n.parts = m.parts)
include hp

theorem Mach.keyOf_congr (pa : Nat) : n.keyOf pa = m.keyOf pa := by
  simp only [keyOf, phys, partOfGroup, partOfPair, part, hp]

theorem Mach.keyRuns_congr (fuel pa l : Nat) : n.keyRuns fuel pa l = m.keyRuns fuel pa l := by
  induction fuel generalizing pa l with
  | zero => rfl
  | succ fuel ih => simp only [keyRuns, keyOf_congr hp, ih]

theorem Mach.readPa_congr (hm : n.mem = m.mem) (pa l : Nat) : n.readPa pa l = m.readPa pa l := by
  simp only [readPa, keyRuns_congr hp, hm]

theorem Mach.titAddr_congr (q t : Nat) : n.titAddr q t = m.titAddr q t := by simp only [titAddr, part, hp]

theorem Mach.recAddr_congr (q t : Nat) : n.recAddr q t = m.recAddr q t := by simp only [recAddr, part, hp]

theorem Mach.record_congr (hm : n.mem = m.mem) (q t : Nat) : n.record q t = m.record q t := by
  rw [record, record, recAddr_congr hp, readPa_congr hp hm]

theorem Mach.poisonAt_pa_congr (hb : n.poison = m.poison) (pa l : Nat) : n.poisonAt (.pa pa) l = m.poisonAt (.pa pa) l := by
  simp only [poisonAt, keyOf_congr hp, hb]

theorem Mach.chainBusy_congr (hc : n.chains = m.chains) (hn : n.nmus = m.nmus) (ss : List (Loc × Nat)) : n.chainBusy ss = m.chainBusy ss := by
  simp only [chainBusy, parkedKey, nmu, keyRuns_congr hp, hc, hn]

end

/-! ### What the device reads for itself -/

theorem tabFind_mem {α : Type} {t : Tab α} {k : Nat} {v : α} (h : tabFind t k = some v) : (k, v) ∈ t := by
  induction t with
  | nil => cases h
  | cons e t ih =>
    simp only [tabFind] at h
    split at h
    next hk => simp [hk, ← Option.some.inj h]
    next =>
      split at h
      · cases h
      · exact List.mem_cons_of_mem _ (ih h)

theorem Mach.nmu_awake_of_all {m : Mach} (h : (m.nmus.all fun e => e.2.power == .awake) = true) (i : Nat) : (m.nmu i).power = .awake := by
  rw [nmu, tabGet]
  cases hf : tabFind m.nmus i with
  | none => rfl
  | some u => exact beq_iff_eq.mp (List.all_eq_true.mp h _ (tabFind_mem hf))

/-- The runs of context c that an NMU holds (R145). -/
def Nmu.runs (u : Nmu) (c : Nat) : Nat :=
  (u.queue.filter fun r => r.run.c == c).length + match u.cur with
    | some r => if r.run.c = c then 1 else 0
    | none => 0

theorem Mach.runsOf_eq (m : Mach) (c : Nat) : m.runsOf c = (m.nmus.map fun e => e.2.runs c).sum := rfl

/-- An entry replaced by one of no more weight adds nothing to the sum over a table. -/
theorem sum_tabSet_le {α : Type} {t : Tab α} {k : Nat} {u v : α} (g : α → Nat) (h : tabFind t k = some u) (hg : g v ≤ g u) :
    ((tabSet t k v).map fun e => g e.2).sum ≤ (t.map fun e => g e.2).sum := by
  induction t with
  | nil => cases h
  | cons e t ih =>
    simp only [tabFind] at h
    simp only [tabSet]
    split at h
    next hk =>
      cases h
      simpa [hk] using hg
    next hk =>
      split at h
      · cases h
      next hlt =>
        rw [if_neg hk, if_neg hlt]
        simpa using ih h

/-- From m to n the device has corrected errors, counted them and woken parked PCs, and has done nothing else (R310, R463). -/
structure Mach.Tended (m n : Mach) : Prop where
  rest : ∃ so dc ic pf nm, n = { m with soft := so, dieCnt := dc, iodCnt := ic, pfaults := pf, nmus := nm }
  awake : ∀ i, (m.nmu i).power = .awake → (n.nmu i).power = .awake
  all : (m.nmus.all fun e => e.2.power == .awake) = true → n.nmus = m.nmus
  runs : ∀ c, n.runsOf c ≤ m.runsOf c

/-- Nothing of it touches the NMUs. -/
theorem Mach.Tended.of_nmus {m n : Mach} (h : ∃ so dc ic pf, n = { m with soft := so, dieCnt := dc, iodCnt := ic, pfaults := pf }) :
    m.Tended n := by
  obtain ⟨_, _, _, _, rfl⟩ := h
  exact ⟨⟨_, _, _, _, _, rfl⟩, fun _ h => h, fun _ => rfl, fun _ => le_refl _⟩

theorem Mach.Tended.refl (m : Mach) : m.Tended m := .of_nmus ⟨_, _, _, _, rfl⟩

theorem Mach.Tended.trans {m n o : Mach} (h : m.Tended n) (k : n.Tended o) : m.Tended o := by
  refine ⟨?_, fun i hi => k.awake i (h.awake i hi), fun ha => ?_, fun c => (k.runs c).trans (h.runs c)⟩
  · obtain ⟨_, _, _, _, _, hn⟩ := h.rest
    obtain ⟨so, dc, ic, pf, nm, ho⟩ := k.rest
    exact ⟨so, dc, ic, pf, nm, by rw [ho, hn]⟩
  · have hn := h.all ha
    exact (k.all (by rw [hn]; exact ha)).trans hn

theorem Mach.Tended.foldl {α : Type} {f : Mach → α → Mach} (hf : ∀ (m : Mach) a, m.Tended (f m a)) (l : List α) (m : Mach) :
    m.Tended (l.foldl f m) := foldl_keep (fun n => m.Tended n) f l m (.refl m) fun n a hn => hn.trans (hf n a)

theorem Mach.Corrected.tended {m n : Mach} (h : m.Corrected n) : m.Tended n := by
  obtain ⟨_, _, _, rfl⟩ := h
  exact .of_nmus ⟨_, _, _, _, rfl⟩

theorem Mach.corrected_eccRead (m : Mach) (ss : List (Loc × Nat)) : m.Corrected (m.eccRead ss) := by
  unfold eccRead
  split
  · exact .refl m
  · refine .foldl (fun m s => ?_) _ m
    split
    · refine .foldl (fun m r => ?_) _ m
      split
      · exact m.corrected_eccKeys _ _
      · exact .refl m
    · exact .refl m

/-- A PC that has been put back is awake and holds no further runs, and no other PC changes. -/
theorem Mach.tended_updNmu {m : Mach} {pc : Nat} {f : Nmu → Nmu} (hpc : (m.nmu pc).power ≠ .awake) (hf : ∀ u, (f u).power = .awake)
    (hr : ∀ u c, (f u).runs c ≤ u.runs c) : m.Tended (m.updNmu pc f) := by
  refine ⟨⟨_, _, _, _, _, rfl⟩, fun i hi => ?_, fun ha => absurd (nmu_awake_of_all ha pc) hpc, fun c => ?_⟩
  · by_cases hip : i = pc
    · rw [hip, nmu_updNmu]
      exact hf _
    · simpa [nmu, updNmu, tabGet, tabFind_tabSet_ne _ _ _ _ hip] using hi
  · cases hfind : tabFind m.nmus pc with
    | none => exact absurd (show (m.nmu pc).power = .awake by rw [nmu, tabGet, hfind]; rfl) hpc
    | some u =>
      have hu : m.nmu pc = u := by rw [nmu, tabGet, hfind]; rfl
      rw [runsOf_eq, runsOf_eq, updNmu, hu]
      exact sum_tabSet_le (fun u => u.runs c) hfind (hr u c)

theorem Mach.tended_pfaults (m : Mach) (pf : List PFault) : m.Tended { m with pfaults := pf } := .of_nmus ⟨_, _, _, _, rfl⟩

theorem Mach.tended_parkOut (m : Mach) (pc : Nat) : m.Tended (m.parkOut pc) := by
  simp only [parkOut]
  split
  · exact .refl m
  next hpc =>
    have hk := m.corrected_eccKeys (parkKey pc) Config.parkBytes
    refine hk.tended.trans ?_
    obtain ⟨so, dc, ic, hn⟩ := hk
    generalize m.eccKeys (parkKey pc) Config.parkBytes = n at hn ⊢
    have hpc : (n.nmu pc).power ≠ .awake := by rw [hn]; exact hpc
    split
    · exact (n.tended_pfaults _).trans (tended_updNmu hpc (fun _ => rfl) fun u c => Nat.le_add_right _ _)
    · exact tended_updNmu hpc (fun _ => rfl) fun u c => le_refl _

theorem Mach.tended_wake (m : Mach) (ss : List (Loc × Nat)) : m.Tended (m.wake ss) := by
  unfold wake
  split
  · exact .refl m
  · refine .foldl (fun m s => ?_) _ m
    split
    · refine .foldl (fun m r => ?_) _ m
      split
      · split
        · exact m.tended_parkOut _
        · exact .refl m
      · exact .refl m
    · exact .refl m

theorem Mach.tended_ownRead (m : Mach) (pa n : Nat) : m.Tended (m.ownRead pa n) :=
  (m.corrected_eccRead _).tended.trans (tended_wake _ _)

/-- What is free for an access stays free: no chain opens, and no PC parks (R159, R310). -/
theorem Mach.Tended.free {m n : Mach} (h : m.Tended n) {ss : List (Loc × Nat)} (hm : m.chainBusy ss = false) : n.chainBusy ss = false := by
  have hruns := fun f a l => Mach.keyRuns_congr (show n.parts = m.parts by obtain ⟨_, _, _, _, _, rfl⟩ := h.rest; rfl) f a l
  obtain ⟨so, dc, ic, pf, nm, rfl⟩ := h.rest
  simp only [chainBusy, Bool.and_eq_false_iff, Bool.not_eq_false', Bool.and_eq_true] at hm ⊢
  obtain ⟨hch, hall⟩ | hany := hm
  · exact .inl ⟨hch, (congrArg (fun l : Tab Nmu => l.all fun e => e.2.power == .awake) (h.all hall)).trans hall⟩
  · refine .inr (List.any_eq_false.mpr fun s hs => ?_)
    have hs := List.any_eq_false.mp hany s hs
    split at hs
    next a =>
      simp only [List.any_eq_true, not_exists, not_and] at hs ⊢
      intro r hr
      have hr := hs r (hruns _ _ _ ▸ hr)
      split at hr
      next k hk =>
        simp only [Bool.or_eq_true, not_or, parkedKey, Bool.and_eq_true, decide_eq_true_eq, bne_iff_ne, ne_eq, not_and, Decidable.not_not] at hr ⊢
        exact ⟨fun hlt => h.awake _ (hr.1 hlt), hr.2⟩
      next => exact hr
    next => exact hs

/-! ### The tensor's entry and its record -/

theorem State.sent_rest (s : State) (k : Nat) (o : VOp) : ∃ cs, s.sent k o = { s.m with ctxs := cs } := ⟨_, rfl⟩

theorem State.sent_qOf (s : State) (k : Nat) (o : VOp) : (s.sent k o).qOf s.m.cur = s.m.qOf s.m.cur := by
  have hme : (s.sent k o).ctx s.m.cur = _ := s.sent_me k o
  rw [Mach.qOf, hme]
  rfl

theorem State.sent_tit {s : State} {rs : List (BitVec 5)} (h : s.Vector rs) (k : Nat) (o : VOp) (tid : Nat) :
    (s.sent k o).titUsed (s.m.me.vent k o) s.m.cur tid = s.m.tit s.m.cur tid := by
  have hraw : (s.sent k o).titRaw (pairOf s.m.cur) (s.m.qOf s.m.cur) tid = s.m.titRaw (pairOf s.m.cur) (s.m.qOf s.m.cur) tid := by
    have hp : (s.sent k o).parts = s.m.parts := rfl
    simp only [Mach.titRaw, Mach.titAddr_congr hp, Mach.readPa_congr hp (s.sent_mem k o)]
    rfl
  rw [Mach.titUsed, s.sent_progOf h]
  exact congrArg titOf ((congrArg (fun q => (s.sent k o).titRaw (pairOf s.m.cur) q tid) (s.sent_qOf k o)).trans hraw)

theorem Mach.snapFind_congr {m n : Mach} {c : Nat} (hq : n.qOf c = m.qOf c) (hp : n.pair (pairOf c) = m.pair (pairOf c)) (t : Nat) :
    n.snapFind c t = m.snapFind c t := by
  rw [snapFind, snapFind, hq, hp]

/-- The machine n once an instruction o, dispatched in s, has read its tensor's entry: its queue entry and the pair's cache are changed,
errors corrected and PCs woken, and nothing else. -/
structure State.Begun (s : State) (k : Nat) (o : VOp) (tid : Nat) (n : Mach) : Prop where
  rest : ∃ cs ps so dc ic pf nm,
    n = { s.m with ctxs := cs, pairs := ps, soft := so, dieCnt := dc, iodCnt := ic, pfaults := pf, nmus := nm }
  me : ∃ vq, n.me = { (s.sent k o).me with vq := vq }
  sq : (n.pair (pairOf s.m.cur)).sq = (s.m.pair (pairOf s.m.cur)).sq
  snap : n.snapFind s.m.cur tid = s.m.snapFind s.m.cur tid
  free : ∀ ss, s.m.chainBusy ss = false → n.chainBusy ss = false

/-- A filter that keeps what is searched for does not change what is found. -/
theorem find?_filter_of_imp {α : Type} {p q : α → Bool} (h : ∀ a, p a = true → q a = true) (l : List α) :
    (l.filter q).find? p = l.find? p := by
  rw [List.find?_filter]
  refine congrArg (List.find? · l) (funext fun a => ?_)
  cases hp : p a with
  | false => simp
  | true => simp [h a hp]

theorem Mach.titFill_spec (m : Mach) (c t : Nat) :
    (∃ ps so dc ic pf nm, m.titFill c t = { m with pairs := ps, soft := so, dieCnt := dc, iodCnt := ic, pfaults := pf, nmus := nm }) ∧
    ((m.titFill c t).pair (pairOf c)).sq = (m.pair (pairOf c)).sq ∧ (m.titFill c t).snapFind c t = m.snapFind c t ∧
    ∀ ss, m.chainBusy ss = false → (m.titFill c t).chainBusy ss = false := by
  simp only [titFill]
  split
  · exact ⟨⟨_, _, _, _, _, _, rfl⟩, rfl, rfl, fun _ h => h⟩
  next hmiss =>
    have ho := m.tended_ownRead (m.titAddr (m.qOf c) t) 64
    obtain ⟨so, dc, ic, pf, nm, hn⟩ := ho.rest
    generalize m.ownRead (m.titAddr (m.qOf c) t) 64 = n at ho hn ⊢
    have hpair : n.pair (pairOf c) = m.pair (pairOf c) := by rw [hn]; rfl
    have hq : n.qOf c = m.qOf c := by rw [hn]; rfl
    refine ⟨⟨_, so, dc, ic, pf, nm, by rw [updPair, hn]⟩, ?_, ?_, fun ss h => ?_⟩
    · rw [pair_updPair, hpair]
    · have hq' : ∀ f, (n.updPair (pairOf c) f).qOf c = m.qOf c := fun f => hq
      rw [snapFind, snapFind, hq', pair_updPair, hpair]
      refine find?_filter_of_imp (fun s hs => ?_) _
      rw [Bool.and_eq_true, beq_iff_eq, beq_iff_eq] at hs
      simp [hs.1, hs.2]
    · have hbusy : ∀ f, (n.updPair (pairOf c) f).chainBusy ss = n.chainBusy ss := fun f =>
        chainBusy_congr (m := n) (n := n.updPair (pairOf c) f) rfl rfl rfl ss
      rw [hbusy]
      exact ho.free h

theorem State.begun_titStart {s : State} {rs : List (BitVec 5)} (h : s.Vector rs) (k : Nat) (o : VOp) {tid : Nat} (ht : tid ≠ 0) :
    s.Begun k o tid ((s.sent k o).titStart (s.m.me.vent k o) s.m.cur tid) := by
  have hgo : ¬ (tid = 0 || ((s.sent k o).me.progOf (s.m.me.vent k o)).tit.isSome) = true := by
    rw [s.sent_progOf h]
    simpa using ⟨ht, rfl⟩
  rw [Mach.titStart, if_neg hgo]
  obtain ⟨⟨ps, so, dc, ic, pf, nm, hn⟩, hsq, hsnap, hfree⟩ := (s.sent k o).titFill_spec s.m.cur tid
  generalize (s.sent k o).titFill s.m.cur tid = n at hn hsq hsnap hfree ⊢
  have hcur : n.cur = s.m.cur := by rw [hn]; rfl
  have hme : n.me = (s.sent k o).me := by rw [hn]; rfl
  obtain ⟨f, hnote⟩ : ∃ f : Prog → Prog, (n.note (s.m.me.vent k o) fun p =>
      { p with tit := some ((s.sent k o).titRaw (pairOf s.m.cur) ((s.sent k o).qOf s.m.cur) tid) }) = n.note (s.m.me.vent k o) f := ⟨_, rfl⟩
  have hnme : ∃ vq, (n.note (s.m.me.vent k o) f).me = { (s.sent k o).me with vq := vq } := ⟨_, by rw [Mach.note, Mach.me_upd, hme]; rfl⟩
  rw [hnote]
  refine ⟨⟨_, ps, so, dc, ic, pf, nm, by rw [Mach.note, Mach.upd, Mach.updCtx, Mach.setCtx, hn]; rfl⟩, hnme, hsq, ?_, fun ss hs => ?_⟩
  · have hq : (n.note (s.m.me.vent k o) f).qOf s.m.cur = n.qOf s.m.cur := by
      obtain ⟨vq, hnme⟩ := hnme
      rw [← hcur]
      exact (congrArg (fun x : Ctx => x.task.q) hnme).trans (congrArg (fun x : Ctx => x.task.q) hme).symm
    exact (Mach.snapFind_congr hq rfl tid).trans (hsnap.trans (Mach.snapFind_congr (s.sent_qOf k o) rfl tid))
  · have hsent : (s.sent k o).chainBusy ss = s.m.chainBusy ss :=
      Mach.chainBusy_congr (m := s.m) (n := s.sent k o) rfl rfl rfl ss
    have hnoted : (n.note (s.m.me.vent k o) f).chainBusy ss = n.chainBusy ss :=
      Mach.chainBusy_congr (m := n) (n := n.note (s.m.me.vent k o) f) rfl rfl rfl ss
    rw [hnoted]
    exact hfree ss (hsent.trans hs)

/-! ### Ends of a vector-side instruction -/

/-- A vector-side instruction that faults at its dispatch. -/
theorem State.vector_trap {s : State} {run : VRun} {k : Nat} {rs : List (BitVec 5)} {qs : List Nat} {mk : Ctx → VOp} {m' : Mach} {f : Flt}
    (h : s.Vector rs) (hq : ∀ r ∈ qs, r ∈ rs.map BitVec.toNat)
    (hb : run (s.sent k (mk s.m.me)) (s.m.me.vent k (mk s.m.me)) = .error (.trap f m')) :
    vectorStep run k qs mk s = .next (s.vtrapped k (mk s.m.me) m' f) := by
  have hr : s.m.me.ready qs = true := Ctx.ready_mono h.ready hq
  have hamo : s.m.amoAhead s.m.cur = false := by
    have hs : (s.m.ctx s.m.cur).sb = [] := h.stores
    simp [Mach.amoAhead, hs]
  have hb : run (s.m.enqueue (s.m.me.vent k (mk s.m.me))).afterDispatch (s.m.me.vent k (mk s.m.me)) = _ := hb
  simp only [vectorStep, onMach, hr, h.empty, h.unit_, hamo, Mach.dispatchNow, hb]
  simp [State.vtrapped]

theorem State.vdid_me {s : State} {k : Nat} {o : VOp} {m' : Mach} (hc : m'.cur = s.m.cur) :
    (s.vdid k o m').m.me = (m'.me.vdone (s.m.me.vent k o)).retireUndo := by
  have hv : (s.vdid k o m').m = m'.vcomplete m'.cur (s.m.me.vent k o) := by rw [hc]; rfl
  rw [hv, Mach.vcomplete, Mach.me_count]
  exact m'.me_upd _

theorem State.vdid_mem (s : State) (k : Nat) (o : VOp) (m' : Mach) : (s.vdid k o m').m.mem = m'.mem := Mach.count_mem ..

/-! ### A quantiser's start -/

section
variable {s : State} {k : Nat} {o : VOp} {tid : Nat} {n : Mach} (hb : s.Begun k o tid n)
include hb

theorem State.Begun.cur : n.cur = s.m.cur := by obtain ⟨_, _, _, _, _, _, _, rfl⟩ := hb.rest; rfl
theorem State.Begun.mem : n.mem = s.m.mem := by obtain ⟨_, _, _, _, _, _, _, rfl⟩ := hb.rest; rfl
theorem State.Begun.parts : n.parts = s.m.parts := by obtain ⟨_, _, _, _, _, _, _, rfl⟩ := hb.rest; rfl
theorem State.Begun.lag : n.lag = s.m.lag := by obtain ⟨_, _, _, _, _, _, _, rfl⟩ := hb.rest; rfl
theorem State.Begun.cycle : n.cycle = s.m.cycle := by obtain ⟨_, _, _, _, _, _, _, rfl⟩ := hb.rest; rfl
theorem State.Begun.chains : n.chains = s.m.chains := by obtain ⟨_, _, _, _, _, _, _, rfl⟩ := hb.rest; rfl
theorem State.Begun.poison : n.poison = s.m.poison := by obtain ⟨_, _, _, _, _, _, _, rfl⟩ := hb.rest; rfl

theorem State.Begun.ctx : ∃ vq, n.ctx s.m.cur = { (s.sent k o).me with vq := vq } := by
  obtain ⟨vq, h⟩ := hb.me
  exact ⟨vq, hb.cur ▸ h⟩

theorem State.Begun.qOf : n.qOf s.m.cur = s.m.qOf s.m.cur := by
  obtain ⟨vq, h⟩ := hb.ctx
  rw [Mach.qOf, h]
  exact s.sent_qOf k o

theorem State.Begun.tensorCheck_eq (c : Cap) (t : Tit) (need : Bool) (comp : Nat) :
    tensorCheck n.me c t need comp = tensorCheck s.m.me c t need comp := by
  obtain ⟨vq, h⟩ := hb.me
  have hreg : ∀ v g, n.me.regOk v g = s.m.me.regOk v g := fun v g => h ▸ s.sent_regOk k o v g
  have hmax : ∀ e, n.me.maxvlOf e = s.m.me.maxvlOf e := fun e => h ▸ s.sent_maxvlOf k o e
  simp only [tensorCheck, hreg, hmax]

theorem State.Begun.vWait_ok {rs : List (BitVec 5)} (hv : s.Vector rs) (e : VEnt) (regs : List (Nat × Nat)) : vWait n e regs = .ok () := by
  obtain ⟨vq, h⟩ := hb.me
  have hs : n.me.scored regs = false := by
    simp only [Ctx.scored, List.any_eq_false, h]
    intro r _
    simp [State.sent_me, hv.score]
  have hw : n.me.windowStores e.stamp = false := by simp [Ctx.windowStores, h, State.sent_me, hv.stores]
  simp [vWait, hs, hw]

theorem State.Begun.sqRoom (c : Nat) : n.sqRoom s.m.cur c = s.m.sqRoom s.m.cur c := by
  rw [Mach.sqRoom, Mach.sqRoom, Mach.sqSent, Mach.sqSent, hb.sq, hb.chains]

theorem State.Begun.recReady (h : s.m.recReady (s.m.qOf s.m.cur) tid = true) : n.recReady (n.qOf s.m.cur) tid = true := by
  rw [Mach.recReady, hb.qOf, Mach.recAddr_congr hb.parts]
  simpa using hb.free _ (by simpa [Mach.recReady] using h)

theorem State.Begun.snapNow : n.snapNow (n.qOf s.m.cur) tid = s.m.snapNow (s.m.qOf s.m.cur) tid := by
  rw [hb.qOf, Mach.snapNow, Mach.snapNow, Mach.record_congr hb.parts hb.mem, hb.cycle]

theorem State.Begun.snapOk (t : Tit) (sn : Snap) : n.snapOk s.m.cur t sn = s.m.snapOk s.m.cur t sn := by
  obtain ⟨vq, h⟩ := hb.ctx
  have hacq : (n.ctx s.m.cur).lastAcq = s.m.me.lastAcq := by rw [h, State.sent_me]
  rw [Mach.snapOk, Mach.snapOk, hb.cycle, hacq]
  rfl

/-- A cached snapshot is used only where one may be, and only the choice itself is spent (R246). -/
theorem State.Begun.snapCached (t : Tit) : ∃ f, (n.snapCached s.m.cur tid t).1 = { n with free := f } ∧
    ((n.snapCached s.m.cur tid t).2 = none ∨ ∃ sn, (n.snapCached s.m.cur tid t).2 = some sn ∧ s.MaySnap tid t sn) := by
  simp only [Mach.snapCached, hb.snap, hb.snapOk]
  cases hf : s.m.snapFind s.m.cur tid with
  | none => exact ⟨n.free, rfl, .inl rfl⟩
  | some sn =>
    by_cases hok : s.m.snapOk s.m.cur t sn = true
    · simp only [hok, if_true]
      refine ⟨n.free + 1, rfl, ?_⟩
      by_cases hfree : Config.freeBool n.free = true
      · exact .inr ⟨sn, if_pos hfree, .inr ⟨hf, hok⟩⟩
      · exact .inl (if_neg hfree)
    · simp only [hok]
      exact ⟨n.free, rfl, .inl rfl⟩

/-- A quantiser that need not wait has a snapshot that it may use (R246). -/
theorem State.Begun.snapshot (hl : s.m.lag = false) (hf : s.QuantFree tid) (w : Who) (t : Tit) :
    ∃ n' sn, n.snapshot s.m.cur w tid t = .ok (n', sn) ∧ s.MaySnap tid t sn ∧ n'.me = n.me ∧ n'.cur = s.m.cur ∧ n'.mem = s.m.mem := by
  obtain ⟨vq, hctx⟩ := hb.ctx
  have hreq : (n.ctx s.m.cur).snapReqs = [] := by rw [hctx, State.sent_me]; exact hf.1
  have hfor : (n.ctx s.m.cur).snapFor w = none := by simp [Ctx.snapFor, hreq]
  have hdone : ∀ m : Mach, m.cur = s.m.cur → m.ctx s.m.cur = n.ctx s.m.cur →
      (m.updCtx s.m.cur fun x => if x.snapReqs.isEmpty then x else x.dropSnap w).me = n.me := by
    intro m hc hm
    have hcur : (m.updCtx s.m.cur fun x => if x.snapReqs.isEmpty then x else x.dropSnap w).cur = s.m.cur := hc
    rw [Mach.me, hcur, Mach.ctx_updCtx, hm, hreq, Mach.me, hb.cur]
    rfl
  obtain ⟨f, hr1, hr2⟩ := hb.snapCached t
  simp only [Mach.snapshot, hfor]
  obtain hnone | ⟨sn, hsome, hmay⟩ := hr2
  · have hgo : (n.lag || !n.recReady (n.qOf s.m.cur) tid) = false := by rw [hb.lag, hl, hb.recReady hf.2]; rfl
    have ho := Mach.tended_ownRead { n with free := f } (n.recAddr (n.qOf s.m.cur) tid) 128
    simp only [hnone, hgo, hr1]
    refine ⟨_, _, rfl, .inl hb.snapNow, hdone _ ?_ ?_, ?_, ?_⟩
    all_goals
      obtain ⟨_, _, _, _, _, ho⟩ := ho.rest
      rw [Mach.snapStore, ho]
    · exact hb.cur
    · rfl
    · exact hb.cur
    · exact hb.mem
  · simp only [hsome, hr1]
    exact ⟨_, _, rfl, hmay, hdone _ hb.cur rfl, hb.cur, hb.mem⟩

end

/-- The policy's decision: RESCALE, or the scale in use (R249). -/
theorem quantDecide_eq (tid : Nat) (t : Tit) (sn : Snap) : quantDecide tid t sn =
    if t.rescale = 0 ∧ t.over sn = true then .error (fltRescale tid (t.inUse sn).x sn.gen) else .ok (t.inUse sn) := by
  obtain hr | hr | hr : t.rescale = 0 ∨ t.rescale = 1 ∨ 2 ≤ t.rescale := by omega
  · simp [quantDecide, hr, Tit.over, Tit.inUse]
  · simp [quantDecide, hr, Tit.over, Tit.inUse]
  · have h0 : t.rescale ≠ 0 := by omega
    have h1 : t.rescale ≠ 1 := by omega
    simp [quantDecide, hr, h0, h1, Tit.over, Tit.inUse]

/-- Deltas that leave touch the pair's queue and the context's list of written TIDs alone (R158, R247). -/
theorem Mach.pushDeltas_spec {m : Mach} {c : Nat} (hc : m.cur = c) (ds : List Delta) :
    (∃ w, (m.pushDeltas c ds).me = { m.me with wrote := w }) ∧ (m.pushDeltas c ds).mem = m.mem ∧ (m.pushDeltas c ds).cur = m.cur := by
  subst hc
  unfold pushDeltas
  split
  · exact ⟨⟨_, rfl⟩, rfl, rfl⟩
  · refine ⟨⟨(m.me.wrote ++ ds.map fun d => d.tid).eraseDups, ?_⟩, ?_, ?_⟩
    · rw [me_count]
      exact (m.updPair (pairOf m.cur) fun p => { p with sq := p.sq ++ ds }).me_upd _
    · rw [count_mem]; rfl
    · rw [count_cur]; rfl

/-! ### The registers that rows and scales go to -/

theorem Ctx.putRow_vrf_congr {x y : Ctx} (h : x.vrf = y.vrf) (v e : Nat) (vals : List (Option Nat)) :
    (x.putRow v e vals).vrf = (y.putRow v e vals).vrf := by
  unfold putRow
  dsimp only
  split
  · exact h
  · exact congrArg (csetAll _) h

theorem Ctx.putRows_vrf_congr {x y : Ctx} (h : x.vrf = y.vrf) (v e : Nat) (rows : List (List (Option Nat))) :
    (x.putRows v e rows).vrf = (y.putRows v e rows).vrf := by
  induction rows generalizing x y v with
  | nil => exact h
  | cons l rows ih =>
    rw [putRows_cons, putRows_cons]
    exact ih (putRow_vrf_congr h v e l) (v + 1)

@[simp] theorem Ctx.srUsed_vrf (x : Ctx) (k : Cap) (r : Bool) : (x.srUsed k r).vrf = x.vrf := by
  unfold srUsed
  split <;> rfl

/-- A change of the vector registers alone, with what they keep beside their bytes, and of SRSTEP. -/
def Ctx.OnlyRows (x y : Ctx) : Prop :=
  ∃ vrf vd vh vp sr, y = { x with vrf := vrf, vdirty := vd, vhwm := vh, vrPoison := vp, srstep := sr }

theorem Ctx.onlyRows_putRows (x : Ctx) (v e : Nat) (rows : List (List (Option Nat))) : x.OnlyRows (x.putRows v e rows) :=
  ⟨_, _, _, _, x.srstep, x.putRows_eq v e rows⟩

theorem Ctx.onlyRows_putRow (x : Ctx) (v e : Nat) (vals : List (Option Nat)) : x.OnlyRows (x.putRow v e vals) :=
  ⟨_, _, _, _, x.srstep, x.putRow_eq v e vals⟩

theorem Ctx.onlyRows_srUsed (x : Ctx) (k : Cap) (r : Bool) : x.OnlyRows (x.srUsed k r) := by
  unfold srUsed
  split <;> exact ⟨_, _, _, _, _, rfl⟩

theorem Ctx.OnlyRows.trans {x y z : Ctx} (h : x.OnlyRows y) (k : y.OnlyRows z) : x.OnlyRows z := by
  obtain ⟨_, _, _, _, _, rfl⟩ := h
  obtain ⟨a, b, c, d, e, rfl⟩ := k
  exact ⟨a, b, c, d, e, rfl⟩

theorem Ctx.OnlyRows.x {x y : Ctx} (h : x.OnlyRows y) : y.x = x.x := by obtain ⟨_, _, _, _, _, rfl⟩ := h; rfl
theorem Ctx.OnlyRows.pc {x y : Ctx} (h : x.OnlyRows y) : y.pc = x.pc := by obtain ⟨_, _, _, _, _, rfl⟩ := h; rfl
theorem Ctx.OnlyRows.sreg {x y : Ctx} (h : x.OnlyRows y) : y.sreg = x.sreg := by obtain ⟨_, _, _, _, _, rfl⟩ := h; rfl

/-- Rows of values rounded one by one, each under its number (R350). -/
theorem zipIdx_range_map {α β : Type} (n : Nat) (f : Nat → α) (g : α × Nat → β) :
    (((List.range n).map f).zipIdx).map g = (List.range n).map fun r => g (f r, r) := by
  refine List.ext_getElem (by simp) fun i _ _ => ?_
  simp

theorem putRounded_me (m : Mach) (k : Cap) (t : Ty) (e d : Nat) (f : Nat → List (Option XV)) :
    m.me.OnlyRows (putRounded m k t e d ((List.range k.g).map f)).me ∧ (putRounded m k t e d ((List.range k.g).map f)).me.vrf =
      (m.me.putRows d e ((List.range k.g).map fun r => roundRow t k.rm m.me.srstep.toNat r (f r))).vrf := by
  rw [putRounded, Mach.me_upd]
  refine ⟨(Ctx.onlyRows_putRows ..).trans (Ctx.onlyRows_srUsed ..), ?_⟩
  rw [Ctx.srUsed_vrf, zipIdx_range_map]

/-! ### `vqnt` -/

/-- The exact values of the active elements of row r of group a. -/
def State.values (s : State) (k : Cap) (a : BitVec 6) (r : Nat) : List (Option XV) :=
  (List.range k.vl).map fun i => if s.m.me.active k i then some (k.tyv.val (s.code k a r i)) else none

/-- The machine after a quantiser has written its rounded codes and block bytes (R232, R233, R367). -/
def Mach.quantCodes (m : Mach) (k : Cap) (t : Tit) (q : Quant) (d : Nat) (rows : Nat → List (Option XV)) : Mach :=
  let m := putRounded m k t.tyv (tySize t.ty) d ((List.range k.g).map fun r => (quantRow t.tyv t.blk q (rows r)).map fun v => v.map Prod.fst)
  if t.blk = 0 then m else m.upd fun x => putBlocks x (d + k.g) ((List.range k.g).map fun r => rowBlocks t.tyv t.blk q.x (rows r))

theorem Mach.quantCodes_me (m : Mach) (k : Cap) (t : Tit) (q : Quant) (d : Nat) (rows : Nat → List (Option XV)) :
    m.me.OnlyRows (m.quantCodes k t q d rows).me ∧ (m.quantCodes k t q d rows).me.vrf =
      (let z := m.me.putRows d (tySize t.ty) ((List.range k.g).map fun r =>
        roundRow t.tyv k.rm m.me.srstep.toNat r ((quantRow t.tyv t.blk q (rows r)).map fun v => v.map Prod.fst))
      if t.blk = 0 then z else putBlocks z (d + k.g) ((List.range k.g).map fun r => rowBlocks t.tyv t.blk q.x (rows r))).vrf := by
  obtain ⟨hme, hvrf⟩ := putRounded_me m k t.tyv (tySize t.ty) d fun r => (quantRow t.tyv t.blk q (rows r)).map fun v => v.map Prod.fst
  simp only [quantCodes]
  split
  · exact ⟨hme, hvrf⟩
  · rw [me_upd]
    exact ⟨hme.trans (Ctx.onlyRows_putRow ..), Ctx.putRow_vrf_congr hvrf _ _ _⟩

theorem Mach.quantCodes_rest (m : Mach) (k : Cap) (t : Tit) (q : Quant) (d : Nat) (rows : Nat → List (Option XV)) :
    (m.quantCodes k t q d rows).cur = m.cur ∧ (m.quantCodes k t q d rows).mem = m.mem := by
  simp only [quantCodes]
  split <;> exact ⟨rfl, rfl⟩

/-- A position is encoded where it holds a value, and nowhere else. -/
theorem quantRow_zip (t : Ty) (bs : Nat) (q : Quant) (row : List (Option XV)) (f : Option XV × Option (XV × Int) → Option XV)
    (hf : ∀ u w, f (some u, some w) = some w.1) (hn : ∀ w, f (none, w) = none) :
    (row.zip (quantRow t bs q row)).map f = (quantRow t bs q row).map fun v => v.map Prod.fst := by
  refine List.ext_getElem (by simp [quantRow]) fun i h1 h2 => ?_
  simp only [List.length_map, List.length_zip, quantRow, List.length_zipIdx, Nat.min_self] at h1
  simp only [List.getElem_map, List.getElem_zip, quantRow, List.getElem_zipIdx]
  cases row[i] with
  | none => exact hn _
  | some u => exact hf _ _

theorem quantRow_rows (n : Nat) (rows : Nat → List (Option XV)) (t : Ty) (bs : Nat) (q : Quant) (f : Option XV × Option (XV × Int) → Option XV)
    (hf : ∀ u w, f (some u, some w) = some w.1) (hn : ∀ w, f (none, w) = none) :
    (((List.range n).map rows).zip (((List.range n).map rows).map fun r => quantRow t bs q r)).map (fun p => (p.1.zip p.2).map f) =
      (List.range n).map fun r => (quantRow t bs q (rows r)).map fun v => v.map Prod.fst := by
  refine List.ext_getElem (by simp) fun i _ _ => ?_
  simp only [List.getElem_map, List.getElem_zip, List.getElem_range]
  exact quantRow_zip t bs q (rows i) f hf hn

/-- The values of a row, where the queue alone has changed since the dispatch. -/
theorem State.valRow_eq (s : State) {j : Nat} {o : VOp} {x : Ctx} (hx : ∃ vq, x = { (s.sent j o).me with vq := vq }) (k : Cap) (a : BitVec 6)
    (r : Nat) : valRow k.tyv (maskRow (x.actives k) k.tyv.bits (x.row (a.toNat + r) k.vl k.size)) = s.values k a r := by
  obtain ⟨vq, rfl⟩ := hx
  have hmask := s.sent_maskRow j o k a.toNat r
  refine (congrArg (valRow k.tyv) hmask).trans ?_
  rw [valRow_range, State.values]
  refine List.map_congr_left fun i _ => ?_
  cases s.m.me.active k i <;> rfl

theorem tensorCheck_tid {x : Ctx} {k : Cap} {t : Tit} {need : Bool} {comp : Nat} (h : tensorCheck x k t need comp = .ok ()) : k.tid ≠ 0 := by
  intro h0
  simp [tensorCheck, h0] at h

/-- The checks of a quantiser that come before its tensor's entry pass. -/
theorem quant_vPre {s : State} {d a : BitVec 6} {o : VOp} (hm : s.Modes (s.cap mdv) [(s.cap mdv).size])
    (hg : s.Groups (s.cap mdv).g [d, a]) :
    vPre (s.sent mdv o).me (s.cap mdv) [(d.toNat, (s.cap mdv).g), (a.toNat, (s.cap mdv).g)] [(s.cap mdv).size] false [] = .ok () :=
  s.vPre_ok (by simpa [State.Groups] using hg) hm rfl (by simp)

theorem srcPoison_of_clean {x : Ctx} (h : x.vrPoison = []) (k : Cap) (srcs : List (Nat × Nat × Nat)) : srcPoison x k srcs = .ok () := by
  have hnone : (srcs.findSome? fun t => (x.poisonRow t.1 t.2.1 k.vl t.2.2).map fun i => fltRegPoison x t.1 i t.2.2) = none := by
    simp [List.findSome?_eq_none_iff, Ctx.poisonRow, h]
  simp [srcPoison, hnone]

/-- The tensor's entry is read, and the quantiser goes on to its snapshot (R352, R367). -/
theorem runQnt_eq {s : State} {rs : List (BitVec 5)} {d a : BitVec 6} {k : Cap} {t : Tit} (h : s.Vector rs) (i : Nat) (hk : s.cap mdv = k)
    (htit : s.m.tit s.m.cur k.tid = t) (hm : s.Modes k [k.size]) (hg : s.Groups k.g [d, a]) (hvl : k.vl ≠ 0) (hty : k.ty ≤ 2)
    (ht : tensorCheck s.m.me k t true (d.toNat + k.g) = .ok ()) (hfin : t.tyv.noFinite = false) (hroom : s.m.sqRoom s.m.cur 1 = true)
    {o : VOp} {r : Except Stop (Mach × Quant)}
    (hr : ((s.sent mdv o).titStart (s.m.me.vent mdv o) s.m.cur k.tid).quantStart s.m.cur (s.m.me.vent mdv o).who k.tid t = r) :
    (∀ e, r = .error e → runQnt d.toNat a.toNat i (s.sent mdv o) (s.m.me.vent mdv o) = .error e) ∧
    (∀ n q, r = .ok (n, q) → n.cur = s.m.cur → (∃ vq, n.me = { (s.sent mdv o).me with vq := vq }) → ∃ ds,
      runQnt d.toNat a.toNat i (s.sent mdv o) (s.m.me.vent mdv o) = .ok
        (((n.quantCodes k t q d.toNat (s.values k a)).upd fun x =>
          { x with sreg := vecSet x.sreg i (sregOf q.x k.tid q.gen) }).pushDeltas s.m.cur ds)) := by
  subst hk htit
  have hb := s.begun_titStart h mdv o (tensorCheck_tid ht)
  generalize hn : (s.sent mdv o).titStart (s.m.me.vent mdv o) s.m.cur (s.cap mdv).tid = n at hb hr
  have hchk := (hb.tensorCheck_eq (s.cap mdv) (s.m.tit s.m.cur (s.cap mdv).tid) true (d.toNat + (s.cap mdv).g)).trans ht
  have hroom : n.sqRoom s.m.cur 1 = true := (hb.sqRoom 1).trans hroom
  have hpre := quant_vPre (o := o) hm hg
  simp only [runQnt, State.vent_cap, hty, decide_true, Bool.not_true, hpre, orRaise, hvl, if_false, s.sent_tit h, s.sent_cur, hn, hchk, hfin, hb.vWait_ok h,
    hroom, waitFor, hr, bind,
    Except.bind]
  refine ⟨fun e he => ?_, fun n' q he hc hme => ?_⟩
  · simp [he]
  · have hclean : n'.me.vrPoison = [] := by
      obtain ⟨vq, hme⟩ := hme
      rw [hme, State.sent_me]
      exact h.clean
    have hrow : ∀ r, valRow (s.cap mdv).tyv (maskRow (n'.me.actives (s.cap mdv)) (s.cap mdv).tyv.bits
        (n'.me.row (a.toNat + r) (s.cap mdv).vl (s.cap mdv).size)) = s.values (s.cap mdv) a r := fun r => s.valRow_eq hme _ a r
    simp only [he, srcPoison_of_clean hclean, hrow]
    rw [quantRow_rows _ _ _ _ _ _ (fun _ _ => rfl) fun w => by cases w <;> rfl]
    simp only [List.map_map]
    exact ⟨_, rfl⟩

/-- A quantiser that need not wait has its snapshot, and the policy decides (R246, R249). -/
theorem State.Begun.quantStart {s : State} {k : Nat} {o : VOp} {tid : Nat} {n : Mach} (hb : s.Begun k o tid n) (hl : s.m.lag = false)
    (hf : s.QuantFree tid) (w : Who) (t : Tit) :
    ∃ n' sn, s.MaySnap tid t sn ∧ n'.me = n.me ∧ n'.cur = s.m.cur ∧ n'.mem = s.m.mem ∧
      (t.rescale = 0 ∧ t.over sn = true → ∃ ds, n.quantStart s.m.cur w tid t =
        .error (.trap (fltRescale tid (t.inUse sn).x sn.gen) (n'.pushDeltas s.m.cur ds))) ∧
      (t.rescale ≠ 0 ∨ t.over sn = false → n.quantStart s.m.cur w tid t = .ok (n', t.inUse sn)) := by
  obtain ⟨n', sn, hs, hmay, hme, hcur, hmem⟩ := hb.snapshot hl hf w t
  refine ⟨n', sn, hmay, hme, hcur, hmem, fun hover => ?_, fun hnot => ?_⟩
  · simp only [Mach.quantStart, hs, quantDecide_eq, if_pos hover, bind, Except.bind]
    exact ⟨_, rfl⟩
  · have hnot : ¬ (t.rescale = 0 ∧ t.over sn = true) := by
      rintro ⟨h0, h1⟩
      simp [h0, h1] at hnot
    simp only [Mach.quantStart, hs, quantDecide_eq, if_neg hnot, bind, Except.bind]
    rfl

theorem State.sent_regs (s : State) (k : Nat) (o : VOp) : (s.sent k o).me.vrf = s.m.me.vrf ∧ (s.sent k o).me.sreg = s.m.me.sreg ∧
    (s.sent k o).me.x = s.m.me.x ∧ (s.sent k o).me.pc = s.m.me.pc + 4 ∧ (s.sent k o).me.srstep = s.m.me.srstep := by
  rw [s.sent_me]
  exact ⟨rfl, rfl, rfl, rfl, rfl⟩

/-- What stands in the registers after an instruction has completed, by the machine that its run came to. -/
theorem State.vdid_regs {s : State} {k : Nat} {o : VOp} {m' : Mach} (hc : m'.cur = s.m.cur) :
    let u := s.vdid k o m'
    u.m.me.vrf = m'.me.vrf ∧ u.m.me.sreg = m'.me.sreg ∧ u.m.me.x = m'.me.x ∧ u.m.me.pc = m'.me.pc ∧ u.m.mem = m'.mem := by
  dsimp only
  rw [s.vdid_mem, State.vdid_me hc]
  exact ⟨rfl, rfl, rfl, rfl, rfl⟩

section
variable {s : State} {rs : List (BitVec 5)} (h : s.Vector rs) {d a : BitVec 6} (n : BitVec 3) {k : Cap} (hk : s.cap mdv = k) {t : Tit}
  (htit : s.m.tit s.m.cur k.tid = t) (hm : s.Modes k [k.size]) (hg : s.Groups k.g [d, a]) (hvl : k.vl ≠ 0) (hty : k.ty ≤ 2)
  (hfin : t.tyv.noFinite = false)
include h hm hg hvl hty hk htit hfin

/-- `vqnt` by its snapshot: RESCALE before any element is written, or the quantised row and its scale register. -/
theorem vqnt_spec (ht : tensorCheck s.m.me k t true (d.toNat + k.g) = .ok ()) (hroom : s.m.sqRoom s.m.cur 1 = true) (hf : s.QuantFree k.tid) :
    ∃ sn, s.MaySnap k.tid t sn ∧
      (t.rescale = 0 ∧ t.over sn = true → ∃ m, m.mem = s.m.mem ∧ m.me.vrf = s.m.me.vrf ∧ m.me.sreg = s.m.me.sreg ∧ execVqnt d a n s =
        .next (s.vtrapped mdv (.qnt d.toNat a.toNat n.toNat) m (fltRescale k.tid (t.inUse sn).x sn.gen))) ∧
      (t.rescale ≠ 0 ∨ t.over sn = false →
        let q := t.inUse sn
        ∃ u, execVqnt d a n s = .next u ∧ u.m.me.sreg = vecSet s.m.me.sreg n.toNat (sregOf q.x k.tid q.gen) ∧
          u.m.me.vrf = (let z := s.m.me.putRows d.toNat (tySize t.ty) ((List.range k.g).map fun r =>
              roundRow t.tyv k.rm s.m.me.srstep.toNat r ((quantRow t.tyv t.blk q (s.values k a r)).map fun v => v.map Prod.fst))
            if t.blk = 0 then z else
              putBlocks z (d.toNat + k.g) ((List.range k.g).map fun r => rowBlocks t.tyv t.blk q.x (s.values k a r))).vrf ∧
          u.m.mem = s.m.mem ∧ u.m.me.x = s.m.me.x ∧ u.m.me.pc = s.m.me.pc + 4) := by
  generalize ho : VOp.qnt d.toNat a.toNat n.toNat = o
  have hb := s.begun_titStart h mdv o (tensorCheck_tid ht)
  obtain ⟨n', sn, hmay, hme, hcur, hmem, hover, hdone⟩ := hb.quantStart h.unit_ hf (s.m.me.vent mdv o).who t
  obtain ⟨hvrf, hsreg, hx, hpc, hsr⟩ := s.sent_regs mdv o
  obtain ⟨vq, hbme⟩ := hb.me
  rw [hbme] at hme
  refine ⟨sn, hmay, fun hov => ?_, fun hno => ?_⟩
  · obtain ⟨ds, hq⟩ := hover hov
    obtain ⟨⟨w, hwme⟩, hwmem, -⟩ := Mach.pushDeltas_spec hcur ds
    have hrun := (runQnt_eq h n.toNat hk htit hm hg hvl hty ht hfin hroom hq).1 _ rfl
    refine ⟨n'.pushDeltas s.m.cur ds, hwmem.trans hmem, ?_, ?_, ?_⟩
    · rw [hwme, hme]; exact hvrf
    · rw [hwme, hme]; exact hsreg
    · subst ho
      exact State.vector_trap h (by simp) hrun
  · intro q
    obtain ⟨ds, hrun⟩ := (runQnt_eq h n.toNat hk htit hm hg hvl hty ht hfin hroom (hdone hno)).2 _ _ rfl hcur ⟨vq, hme⟩
    obtain ⟨hwcur, hwmem⟩ := n'.quantCodes_rest k t q d.toNat (s.values k a)
    obtain ⟨honly, hcodes⟩ := n'.quantCodes_me k t q d.toNat (s.values k a)
    generalize hv : (n'.quantCodes k t q d.toNat (s.values k a)).upd (fun x =>
      { x with sreg := vecSet x.sreg n.toNat (sregOf q.x k.tid q.gen) }) = v at hrun
    have hvcur : v.cur = s.m.cur := by rw [← hv]; exact hwcur.trans hcur
    have hvmem : v.mem = s.m.mem := by rw [← hv]; exact hwmem.trans hmem
    have hvme : v.me = { (n'.quantCodes k t q d.toNat (s.values k a)).me with
        sreg := vecSet (n'.quantCodes k t q d.toNat (s.values k a)).me.sreg n.toNat (sregOf q.x k.tid q.gen) } := by rw [← hv, Mach.me_upd]
    obtain ⟨⟨wr, hpme⟩, hpmem, hpcur⟩ := Mach.pushDeltas_spec hvcur ds
    obtain ⟨huvrf, husreg, hux, hupc, humem⟩ := s.vdid_regs (k := mdv) (o := o) (hpcur.trans hvcur)
    have hnrows : ∀ rows, (n'.me.putRows d.toNat (tySize t.ty) rows).vrf = (s.m.me.putRows d.toNat (tySize t.ty) rows).vrf :=
      Ctx.putRows_vrf_congr (by rw [hme]; exact hvrf) _ _
    have hnsr : n'.me.srstep = s.m.me.srstep := by rw [hme]; exact hsr
    refine ⟨s.vdid mdv o (v.pushDeltas s.m.cur ds), ?_, ?_, ?_, humem.trans (hpmem.trans hvmem), ?_, ?_⟩
    · subst ho
      exact State.vector_ok h (by simp) hrun
    · rw [husreg, hpme, hvme, honly.sreg, hme]
      exact congrArg (fun l => vecSet l n.toNat _) hsreg
    · rw [huvrf, hpme, hvme, hcodes, hnsr]
      dsimp only
      split
      · exact hnrows _
      · exact Ctx.putRow_vrf_congr (hnrows _) _ _ _
    · rw [hux, hpme, hvme, honly.x, hme]
      exact hx
    · rw [hupc, hpme, hvme, honly.pc, hme]
      exact hpc

end

/-! ### `vdqnt` -/

/-- The dequantised values of the active elements of row r of group a (R369). -/
def State.dequants (s : State) (k : Cap) (t : Tit) (sc : Int) (a : BitVec 6) (r : Nat) : List (Option XV) :=
  (List.range k.vl).map fun i => if s.m.me.active k i then
    some (((t.tyv.val (nthD 0 (s.m.me.row (a.toNat + r) k.vl (tySize t.ty)) i % 2 ^ t.tyv.bits)).underBlock
      (s.m.me.blockByte (a.toNat + k.g) t.blk k.vl r i)).scale sc) else none

theorem State.dequants_eq (s : State) {j : Nat} {o : VOp} {x : Ctx} (hx : ∃ vq, x = { (s.sent j o).me with vq := vq }) (k : Cap) (t : Tit)
    (sc : Int) (a : BitVec 6) (r : Nat) :
    ((maskRow (x.actives k) t.tyv.bits (x.row (a.toNat + r) k.vl (tySize t.ty))).zipIdx.map fun v => v.1.map fun c =>
      ((t.tyv.val c).underBlock (x.blockByte (a.toNat + k.g) t.blk k.vl r v.2)).scale sc) = s.dequants k t sc a r := by
  obtain ⟨vq, rfl⟩ := hx
  have hacts : Ctx.actives { (s.sent j o).me with vq := vq } k = (List.range k.vl).map fun i => s.m.me.active k i := s.sent_actives j o k
  have hrow : ∀ v, Ctx.row { (s.sent j o).me with vq := vq } v k.vl (tySize t.ty) = s.m.me.row v k.vl (tySize t.ty) :=
    fun v => s.sent_row j o v k.vl (tySize t.ty)
  have hvrf : (s.sent j o).me.vrf = s.m.me.vrf := s.sent_vrf j o
  rw [hacts, hrow, maskRow_eq _ _ _ _ (s.row_length ..), zipIdx_range_map]
  refine List.map_congr_left fun i _ => ?_
  cases s.m.me.active k i
  · rfl
  · simp only [if_true, Option.map_some, Ctx.blockByte, Ctx.vread, hvrf]

/-- A read for itself leaves the registers and memory (R310, R463). -/
theorem Mach.ownRead_spec (m : Mach) (pa l : Nat) : (m.ownRead pa l).me = m.me ∧ (m.ownRead pa l).mem = m.mem ∧ (m.ownRead pa l).cur = m.cur ∧
    (m.ownRead pa l).parts = m.parts ∧ (m.ownRead pa l).ctxs = m.ctxs := by
  obtain ⟨_, _, _, _, _, h⟩ := (m.tended_ownRead pa l).rest
  rw [h]
  exact ⟨rfl, rfl, rfl, rfl, rfl⟩

section
variable {s : State} {rs : List (BitVec 5)} (h : s.Vector rs) {d a : BitVec 6} (i : BitVec 3) {k : Cap} (hk : s.cap mdv = k) {t : Tit}
  (htit : s.m.tit s.m.cur k.tid = t) (hm : s.Modes k [k.size]) (hg : s.Groups k.g [d, a]) (hvl : k.vl ≠ 0) (hty : k.ty ≤ 2)
  (hfin : t.tyv.noFinite = false) {sr : BitVec 64} (hsr : vecAt 0 s.m.me.sreg i.toNat = sr)
  (ht : tensorCheck s.m.me k t (!sValid sr) (a.toNat + k.g) = .ok ())
  (hready : sValid sr = false → s.m.recReady (s.m.qOf s.m.cur) k.tid = true) {o : VOp}
include h hm hg hvl hty hk htit hfin hsr ht hready

/-- A dequantiser that need not wait meets a poisoned record, or rounds the scaled values into its destination (R121, R369). -/
theorem runDqnt_eq :
    let bad := sValid sr = false ∧ s.m.poisonAt (.pa (s.m.recAddr (s.m.qOf s.m.cur) k.tid)) 128 ≠ none
    let sc := if sValid sr then sExp sr else recScale (s.m.record (s.m.qOf s.m.cur) k.tid)
    ∃ n, n.cur = s.m.cur ∧ n.mem = s.m.mem ∧ (∃ vq, n.me = { (s.sent mdv o).me with vq := vq }) ∧
      (bad → runDqnt d.toNat a.toNat i.toNat (s.sent mdv o) (s.m.me.vent mdv o) = .error (.trap (fltPoison 0 1 0) n)) ∧
      (¬ bad → runDqnt d.toNat a.toNat i.toNat (s.sent mdv o) (s.m.me.vent mdv o) = .ok
        (putRounded n k k.tyv k.size d.toNat ((List.range k.g).map fun r => s.dequants k t sc a r))) := by
  intro bad sc
  have hpre : vPre (s.sent mdv o).me k [(d.toNat, k.g), (a.toNat, k.g)] [k.size] false [] = .ok () := by
    subst hk
    exact quant_vPre hm hg
  have hcap : (s.m.me.vent mdv o).cap = k := hk
  have hb := s.begun_titStart h mdv o (tensorCheck_tid ht)
  have hused := (s.sent_tit h mdv o k.tid).trans htit
  generalize hn : (s.sent mdv o).titStart (s.m.me.vent mdv o) s.m.cur k.tid = n at hb
  have hchk := (hb.tensorCheck_eq k t (!sValid sr) (a.toNat + k.g)).trans ht
  obtain ⟨vq, hme⟩ := hb.me
  have hsreg : vecAt 0 n.me.sreg i.toNat = sr := by rw [hme]; exact (congrArg (vecAt 0 · i.toNat) (s.sent_regs mdv o).2.1).trans hsr
  have hclean : n.me.vrPoison = [] := by rw [hme, State.sent_me]; exact h.clean
  have hwait : (sValid sr || n.recReady (n.qOf s.m.cur) k.tid) = true := by
    cases hv : sValid sr with
    | true => rfl
    | false => exact hb.recReady (hready hv)
  have hpoison : n.poisonAt (.pa (n.recAddr (n.qOf s.m.cur) k.tid)) 128 = s.m.poisonAt (.pa (s.m.recAddr (s.m.qOf s.m.cur) k.tid)) 128 := by
    rw [hb.qOf, Mach.recAddr_congr hb.parts, Mach.poisonAt_pa_congr hb.parts hb.poison]
  simp only [runDqnt, hcap, hty, decide_true, Bool.not_true, hpre, orRaise, hvl, if_false, hused, s.sent_cur, hn, hsreg, hchk, hfin, hb.vWait_ok h,
    srcPoison_of_clean hclean, hwait, waitFor, hpoison, bind, Except.bind]
  by_cases hbad : bad
  · have hcond : (!sValid sr && (s.m.poisonAt (.pa (s.m.recAddr (s.m.qOf s.m.cur) k.tid)) 128).isSome) = true := by
      simp [hbad.1, Option.isSome_iff_ne_none, hbad.2]
    refine ⟨n, hb.cur, hb.mem, ⟨vq, hme⟩, fun _ => ?_, fun hnot => absurd hbad hnot⟩
    simp only [hcond, if_true]
    rfl
  · have hcond : (!sValid sr && (s.m.poisonAt (.pa (s.m.recAddr (s.m.qOf s.m.cur) k.tid)) 128).isSome) = false := by
      cases hv : sValid sr with
      | true => rfl
      | false => simpa [bad, hv] using hbad
    have hread := n.ownRead_spec (n.recAddr (n.qOf s.m.cur) k.tid) 128
    generalize hn2 : (if sValid sr then n else n.ownRead (n.recAddr (n.qOf s.m.cur) k.tid) 128) = n2
    obtain ⟨hme2, hmem2, hcur2, hparts2, hctxs2⟩ : n2.me = n.me ∧ n2.mem = n.mem ∧ n2.cur = n.cur ∧ n2.parts = n.parts ∧ n2.ctxs = n.ctxs := by
      rw [← hn2]
      split
      · exact ⟨rfl, rfl, rfl, rfl, rfl⟩
      · exact hread
    have hq2 : n2.qOf s.m.cur = s.m.qOf s.m.cur := by
      rw [← hb.qOf, Mach.qOf, Mach.qOf, Mach.ctx, Mach.ctx, hctxs2]
    have hrec2 : n2.record (n2.qOf s.m.cur) k.tid = s.m.record (s.m.qOf s.m.cur) k.tid := by
      rw [hq2, Mach.record_congr (hparts2.trans hb.parts) (hmem2.trans hb.mem)]
    refine ⟨n2, hcur2.trans hb.cur, hmem2.trans hb.mem, ⟨vq, hme2.trans hme⟩, fun h => absurd h hbad, fun _ => ?_⟩
    simp only [hcond, hrec2, s.dequants_eq ⟨vq, hme2.trans hme⟩]
    rfl

/-- `vdqnt`, with its effects on the registers. -/
theorem vdqnt_spec :
    let bad := sValid sr = false ∧ s.m.poisonAt (.pa (s.m.recAddr (s.m.qOf s.m.cur) k.tid)) 128 ≠ none
    let sc := if sValid sr then sExp sr else recScale (s.m.record (s.m.qOf s.m.cur) k.tid)
    (bad → ∃ m, m.mem = s.m.mem ∧ m.me.vrf = s.m.me.vrf ∧ execVdqnt d a i s =
      .next (s.vtrapped mdv (.dqnt d.toNat a.toNat i.toNat) m (fltPoison 0 1 0))) ∧
    (¬ bad → ∃ u, execVdqnt d a i s = .next u ∧ u.m.me.sreg = s.m.me.sreg ∧
      u.m.me.vrf = (s.m.me.putRows d.toNat k.size ((List.range k.g).map fun r => roundRow k.tyv k.rm s.m.me.srstep.toNat r
        (s.dequants k t sc a r))).vrf ∧
      u.m.mem = s.m.mem ∧ u.m.me.x = s.m.me.x ∧ u.m.me.pc = s.m.me.pc + 4) := by
  intro bad sc
  obtain ⟨n, hcur, hmem, ⟨vq, hme⟩, htrap, hdone⟩ := runDqnt_eq (o := .dqnt d.toNat a.toNat i.toNat) h i hk htit hm hg hvl hty hfin hsr ht hready
  obtain ⟨hvrf, hsreg, hx, hpc, hstep⟩ := s.sent_regs mdv (.dqnt d.toNat a.toNat i.toNat)
  refine ⟨fun hbad => ⟨n, hmem, by rw [hme]; exact hvrf, State.vector_trap h (by simp) (htrap hbad)⟩, fun hgood => ?_⟩
  obtain ⟨honly, hrows⟩ := putRounded_me n k k.tyv k.size d.toNat (s.dequants k t sc a)
  obtain ⟨huvrf, husreg, hux, hupc, humem⟩ := s.vdid_regs (k := mdv) (o := .dqnt d.toNat a.toNat i.toNat)
    (m' := putRounded n k k.tyv k.size d.toNat ((List.range k.g).map fun r => s.dequants k t sc a r)) hcur
  have hnrows : ∀ rows, (n.me.putRows d.toNat k.size rows).vrf = (s.m.me.putRows d.toNat k.size rows).vrf :=
    Ctx.putRows_vrf_congr (by rw [hme]; exact hvrf) _ _
  have hnsr : n.me.srstep = s.m.me.srstep := by rw [hme]; exact hstep
  refine ⟨_, State.vector_ok h (by simp) (hdone hgood), ?_, ?_, humem.trans hmem, ?_, ?_⟩
  · rw [husreg, honly.sreg, hme]
    exact hsreg
  · rw [huvrf, hrows, hnrows, hnsr]
  · rw [hux, honly.x, hme]
    exact hx
  · rw [hupc, honly.pc, hme]
    exact hpc

end

/-! ### Compression -/

/-- Block j of a list that is f blocks long. -/
theorem blocksOf_range (n : Nat) (hn : 0 < n) (f : Nat) (g : Nat → Nat) :
    blocksOf n f ((List.range (f * n)).map g) = (List.range f).map fun j => (List.range n).map fun q => g (j * n + q) := by
  induction f generalizing g with
  | zero => rfl
  | succ f ih =>
    have hlen : (f + 1) * n = n + f * n := by rw [Nat.add_one_mul, Nat.add_comm]
    have hne : ((List.range ((f + 1) * n)).map g).isEmpty = false := by
      rw [hlen]
      simp only [List.isEmpty_map, List.isEmpty_eq_false_iff, ne_eq, List.range_eq_nil]
      omega
    have htake : ((List.range ((f + 1) * n)).map g).take n = (List.range n).map g := by
      rw [← List.map_take, List.take_range, hlen, Nat.min_eq_left (by omega)]
    have hdrop : ((List.range ((f + 1) * n)).map g).drop n = (List.range (f * n)).map fun i => g (n + i) := by
      rw [hlen, List.range_add, List.map_append, List.drop_left' (by simp), List.map_map]
      rfl
    rw [blocksOf, if_neg (by simp [hne]), htake, hdrop, ih, List.range_succ_eq_map, List.map_cons, List.map_map]
    congr 1
    · simp
    · refine List.map_congr_left fun j _ => List.map_congr_left fun q _ => congrArg g ?_
      rw [Nat.succ_mul]
      omega

/-- Element i of a row to be compressed: 0 where it is not active, or beyond VL (R371). -/
def State.comprCode (s : State) (k : Cap) (a : BitVec 6) (i : Nat) : Nat := if s.m.me.active k i then s.code k a 0 i else 0

/-- The positions that group j of n elements keeps (R371, R372). -/
def State.comprKept (s : State) (k : Cap) (a : BitVec 6) (n j : Nat) : List Nat :=
  keptOf (n / 2) ((List.range n).map fun q =>
    let c := s.comprCode k a (j * n + q)
    if c = 0 then XV.fin false 0 0 false else k.tyv.val c)

theorem keptOf_lt {mk : Nat} {vals : List XV} {q : Nat} (h : q ∈ keptOf mk vals) : q < vals.length :=
  List.mem_range.mp (List.mem_filter.mp h).1

/-- The row, filled up to whole groups. -/
theorem State.comprRow_eq (s : State) (j : Nat) (o : VOp) (k : Cap) (a : BitVec 6) {l : Nat} (hl : k.vl ≤ l) :
    ((maskRow ((s.sent j o).me.actives k) k.tyv.bits ((s.sent j o).me.row a.toNat k.vl k.size)).map fun c => c.getD 0) ++
      List.replicate (l - k.vl) 0 = (List.range l).map (s.comprCode k a) := by
  have hrow := s.sent_maskRow j o k a.toNat 0
  rw [Nat.add_zero] at hrow
  rw [hrow, List.map_map]
  refine List.ext_getElem (by simp; omega) fun i h1 h2 => ?_
  simp only [List.length_map, List.length_range] at h2
  rw [List.getElem_append]
  split
  next hi =>
    simp only [List.getElem_map, List.getElem_range, Function.comp_apply, comprCode]
    cases s.m.me.active k i <;> rfl
  next hi =>
    simp only [List.length_map, List.length_range, Nat.not_lt] at hi
    have hzero : nthD 0 (s.m.me.row (a.toNat + 0) k.vl k.size) i = 0 := by
      simp [nthD, List.getD_eq_getElem?_getD, s.row_length, hi]
    simp only [List.getElem_replicate, List.getElem_map, List.getElem_range, comprCode, State.code, hzero, Nat.zero_mod, ite_self]

theorem foldl_zipIdx_range {α β : Type} (n : Nat) (f : Nat → α) (g : β → α × Nat → β) (b : β) :
    ((List.range n).map f).zipIdx.foldl g b = (List.range n).foldl (fun v j => g v (f j, j)) b := by
  have hzip := zipIdx_range_map n f id
  rw [List.map_id] at hzip
  rw [hzip, List.foldl_map]
  rfl

/-- The codes that groups keep, in the order of the groups. -/
theorem compr_codes (ng n : Nat) (row : Nat → Nat) (kept : Nat → List Nat) (hk : ∀ j, ∀ q ∈ kept j, q < n) :
    (((List.range ng).map fun j => (List.range n).map fun q => row (j * n + q)).zip ((List.range ng).map kept)).flatMap
      (fun p => p.2.map fun i => some (nthD 0 p.1 i)) = (List.range ng).flatMap fun j => (kept j).map fun q => some (row (j * n + q)) := by
  rw [List.zip_map', List.flatMap_map]
  refine List.flatMap_congr fun j _ => List.map_congr_left fun q hq => ?_
  simp [nthD, List.getD_eq_getElem?_getD, hk j q hq]

/-- Compression of a row of a single register: the kept half of each group, and the kept positions (R371, R372). -/
theorem runCompr_ok {s : State} {rs : List (BitVec 5)} (h : s.Vector rs) {d a b : BitVec 6} {k : Cap} (hk : s.cap mdv = k)
    (hm : s.Modes k [k.size]) (hg : s.Groups k.g [d, a, b]) (hvl : k.vl ≠ 0) (h1 : k.g = 1) (hdb : d ≠ b) {op n wi : Nat} (hn0 : 0 < n)
    (hn : (if op = 0 then 4 else 8) = n) (hwi : (if op = 0 then 2 else 3) = wi) (hw : (if op = 0 then 4 else 12) = n / 2 * wi) (o : VOp) :
    let ng := (k.vl + n - 1) / n
    let at_ := (List.range ng).foldl (fun v j =>
      v + (s.comprKept k a n j).zipIdx.foldl (fun u q => u + q.1 * 2 ^ (q.2 * wi)) 0 * 2 ^ (j * (n / 2 * wi))) 0
    runCompr op d.toNat a.toNat b.toNat (s.sent mdv o) (s.m.me.vent mdv o) = .ok ((s.sent mdv o).upd fun c =>
      (c.putRow d.toNat k.size ((List.range ng).flatMap fun j => (s.comprKept k a n j).map fun q => some (s.comprCode k a (j * n + q)))).vwrite
        b.toNat 0 (leBytes ((ng * (n / 2 * wi) + 7) / 8) at_)) := by
  intro ng at_
  have hcap : (s.m.me.vent mdv o).cap = k := hk
  have hregs : ∀ r ∈ [(d.toNat, 1), (a.toNat, 1), (b.toNat, 1)], s.m.me.regOk r.1 r.2 = true := by
    simpa [State.Groups, h1] using hg
  have hchk : (s.sent mdv o).me.checkRegs [(d.toNat, 1), (a.toNat, 1), (b.toNat, 1)] = .ok () :=
    Ctx.checkRegs_ok (by simpa [State.sent_regOk] using hregs)
  have hd : ¬ d.toNat = b.toNat := fun he => hdb (BitVec.eq_of_toNat_eq he)
  have hstart : ∀ srcs, vStart (s.sent mdv o) (s.m.me.vent mdv o) [(d.toNat, 1), (a.toNat, 1), (b.toNat, 1)] [k.size] false k.fmts srcs = .ok () :=
    fun srcs => s.vStart_ok h hcap hregs hm rfl (Cap.fmts_ok hm)
  have hle : k.vl ≤ (k.vl + n - 1) / n * n := by
    have := Nat.div_add_mod (k.vl + n - 1) n
    have hlt := Nat.mod_lt (k.vl + n - 1) hn0
    rw [Nat.mul_comm]
    omega
  simp only [runCompr, hcap, h1, hn, hwi, hw, hchk, orRaise, hd, if_false, bne_self_eq_false, hstart, hvl, bind, Except.bind,
    s.comprRow_eq mdv o k a hle, blocksOf_range n hn0]
  have hkept : ∀ f, (((List.range f).map fun j => (List.range n).map fun q => s.comprCode k a (j * n + q)).map fun gr =>
      keptOf (n / 2) (gr.map fun c => if c = 0 then XV.fin false 0 0 false else k.tyv.val c)) = (List.range f).map (s.comprKept k a n) := by
    intro f
    rw [List.map_map]
    refine List.map_congr_left fun j _ => ?_
    rw [Function.comp_apply, List.map_map]
    rfl
  have hlt : ∀ j, ∀ q ∈ s.comprKept k a n j, q < n := fun j q hq => by simpa using keptOf_lt hq
  rw [hkept, compr_codes _ n _ _ hlt, foldl_zipIdx_range]
  rfl

/-! ### Scale registers -/

theorem sregOf_byte (w : Word) : sregOf (sx 8 (w.toNat % 256)) 0 0 = .ofNat 64 (w.toNat % 256 + 2 ^ 36) := by
  have hwrap : wrapN 8 (sx 8 (w.toNat % 256)) = w.toNat % 256 := by
    have hlt := Nat.mod_lt w.toNat (show 0 < 256 by decide)
    simp only [wrapN, sx]
    split
    · omega
    · split <;> omega
  rw [sregOf, hwrap]
  simp

theorem vsset_spec {s : State} {x : BitVec 5} (h : s.Vector [x]) (n : BitVec 3) :
    execVsset n x s = .next (s.vdid mdv (.sset n.toNat (s.x x)) ((s.sent mdv (.sset n.toNat (s.x x))).upd fun c =>
      { c with sreg := vecSet c.sreg n.toNat (.ofNat 64 ((s.x x).toNat % 256 + 2 ^ 36)) })) := by
  refine State.vector_ok h (by simp) ?_
  rw [← sregOf_byte]
  rfl

theorem vsget_spec {s : State} {x : BitVec 5} (h : s.Vector [x]) (n : BitVec 3) :
    execVsget x n s = s.gives mdv (.sget x.toNat n.toNat) x (vecAt 0 s.m.me.sreg n.toNat) := by
  refine State.vector_ok h (by simp) ?_
  have hsreg := (s.sent_regs mdv (.sget x.toNat n.toNat)).2.1
  refine congrArg Except.ok (Mach.upd_congr ?_)
  rw [hsreg]
  rfl

/-- Settles O24: each instruction through the lemma of its kind above. -/
theorem quantisers : Obligations.Quantisers := by
  intro s d a b x n k y put h
  refine ⟨exec_vsset.trans (vsset_spec h n), exec_vsget.trans (vsget_spec h n), fun hm hg hvl => ?_⟩
  have hda : s.Groups k.g [d, a] := hg.mono (by simp)
  refine ⟨fun hty ht hfin hroom hf => ?quant, fun hty ht hfin hready => ?dequant, fun h1 hdb => ?compress⟩
  case quant =>
    rw [exec_vqnt]
    exact vqnt_spec h n rfl rfl hm hda hvl hty hfin ht hroom hf
  case dequant =>
    rw [exec_vdqnt]
    exact vdqnt_spec h n rfl rfl hm hda hvl hty hfin rfl ht hready
  case compress =>
    refine ⟨exec_vcompr24.trans (State.vector_ok h (by simp) ?_), exec_vcompr48.trans (State.vector_ok h (by simp) ?_)⟩
    · exact runCompr_ok h rfl hm hg hvl h1 hdb (op := 0) (by decide) rfl rfl rfl _
    · exact runCompr_ok h rfl hm hg hvl h1 hdb (op := 1) (by decide) rfl rfl rfl _

end Sys2Proof.Machine
end

section
/-!
PROOFS. The steps of the vector queue: the walk bound of a try is not the machine's own (R186).
-/

namespace Sys2Proof.Machine

/-- A vector load that waits in the queue behind a buffered atomic. -/
def waitingLoad : VEnt := ⟨Ctx.reset.capture mdl, .ld 0 0, 1, false, false, none, 0, false, .none⟩

/-- An older scalar atomic, not performed yet. -/
def olderAtomic : SbEnt := ⟨0, 0, .amo 0 0 0 0 0, 0, 0, []⟩

/-- Context 0 runs and holds both, in a machine whose page walks are bounded already. -/
def boundedWalks : State := { State.reset with
  m := ({ State.reset.m with seen := some 5 } : Mach).updCtx 0 fun x => { x with status := .running, vq := [waitingLoad], sb := [olderAtomic] } }

theorem boundedWalks_ctx : boundedWalks.m.ctx 0 =
    { Ctx.reset with status := .running, vq := [waitingLoad], sb := [olderAtomic] } := Mach.ctx_updCtx ..

/-- The load's walk follows the atomic. -/
theorem boundedWalks_amoAhead : (boundedWalks.m.trying 0 waitingLoad).amoAhead 0 = true := by
  have hctx : (boundedWalks.m.trying 0 waitingLoad).ctx 0 = _ := boundedWalks_ctx
  rw [Mach.amoAhead, hctx]
  rfl

/-- A try unbounds the page walks, whatever it comes to (R186). -/
theorem Mach.faultSafe_seen {m : Mach} {c : Nat} {e : VEnt} {rest : List VEnt} (hq : (m.ctx c).vq = e :: rest) (hd : e.done = false) :
    (m.faultSafe c).seen = none := by
  have hb : ∀ (m : Mach) (limit : Nat) (f : Mach → Mach), (m.bounded limit f).seen = none := fun _ _ _ => rfl
  simp only [faultSafe, hq, hd, attempt, Bool.false_eq_true, if_false]
  split
  · unfold passFence
    split <;> exact hb _ _ _
  · exact hb _ _ _

/-- Refutes O42: a try at the fault-safe point leaves the page walks unbounded. Where they were bounded before, and the oldest instruction waits
for an older atomic, the step does not leave the state as it was, though no fence is held. -/
theorem not_queueSteps : ¬ Obligations.QueueSteps := by
  unfold Obligations.QueueSteps
  intro h
  have hrun : (boundedWalks.m.ctx 0).status = .running := by rw [boundedWalks_ctx]
  have hq : (boundedWalks.m.ctx 0).vq = [waitingLoad] := by rw [boundedWalks_ctx]
  obtain ⟨hhead, -⟩ := h boundedWalks 0 hrun
  obtain ⟨hsafe, -⟩ := hhead waitingLoad [] hq (by simp)
  obtain ⟨hwait, -⟩ := hsafe rfl
  obtain hnext | hheld := hwait (Bool.and_eq_true_iff.mpr ⟨rfl, boundedWalks_amoAhead⟩)
  · have hseen := Mach.faultSafe_seen hq rfl
    rw [exec_faultSafePoint] at hnext
    have hm : boundedWalks.m.faultSafe 0 = boundedWalks.m := by
      injection hnext with hstate
      exact congrArg State.m hstate
    rw [hm] at hseen
    cases hseen
  · have hheld : (boundedWalks.m.ctx 0).vq.head?.any VEnt.waits = true := hheld
    rw [hq] at hheld
    cases hheld

end Sys2Proof.Machine
end

section
/-!
PROOFS. Plural instructions (R108, R179, R231, R401 to R403, R428).
-/

namespace Sys2Proof.Machine

/-! ### Translation -/

/-- What translations by context c rest on is the same in machines m and n (R135 to R138, R185, R193). -/
structure Mach.SameMaps (m n : Mach) (c : Nat) : Prop where
  parts : n.parts = m.parts
  mem : n.mem = m.mem
  seen : n.seen = m.seen
  cycle : n.cycle = m.cycle
  cur : n.cur = m.cur
  pc : n.me.pc = m.me.pc
  task : (n.ctx c).task = (m.ctx c).task
  sb : (n.ctx c).sb = (m.ctx c).sb
  tlb : (n.pair (pairOf c)).tlb = (m.pair (pairOf c)).tlb
  probe : (n.pair (pairOf c)).probe = (m.pair (pairOf c)).probe

section
variable {m n : Mach} {c : Nat} (h : m.SameMaps n c)
include h

theorem Mach.SameMaps.qOf : n.qOf c = m.qOf c := by rw [Mach.qOf, Mach.qOf, h.task]

theorem Mach.SameMaps.readSeen (pa l : Nat) : n.readSeen c pa l = m.readSeen c pa l := by
  simp only [Mach.readSeen, Mach.readPa_congr h.parts h.mem, h.seen, h.sb]

theorem Mach.SameMaps.walkFrom (k va lvl table : Nat) : n.walkFrom c k va lvl table = m.walkFrom c k va lvl table := by
  induction lvl generalizing table with
  | zero => rfl
  | succ lvl ih => simp only [Mach.walkFrom, h.readSeen, ih]

theorem Mach.SameMaps.tlbFind (va : Nat) : n.tlbFind c va = m.tlbFind c va := by
  simp only [Mach.tlbFind, h.qOf, h.tlb, h.probe]

theorem Mach.SameMaps.leaf (k va : Nat) : n.leaf c k va = m.leaf c k va := by
  simp only [Mach.leaf, Mach.walk, Mach.part, h.tlbFind, h.walkFrom, h.qOf, h.parts]

theorem Mach.SameMaps.reachOk (q k pa : Nat) (eng : Bool) : n.reachOk q k pa eng = m.reachOk q k pa eng := by
  simp only [Mach.reachOk, Mach.phys, Mach.partOfGroup, Mach.partOfPair, Mach.mayReach, Mach.part, h.parts, h.cycle, h.cur, h.pc]

theorem Mach.SameMaps.checkLeaf (q k pte lvl pa va : Nat) (eng : Bool) : n.checkLeaf q k pte lvl pa va eng = m.checkLeaf q k pte lvl pa va eng := by
  unfold Mach.checkLeaf
  simp only [h.reachOk]

theorem Mach.SameMaps.keptBits (va lvl : Nat) : n.keptBits c va lvl = m.keptBits c va lvl := by
  rw [Mach.keptBits, Mach.keptBits, h.tlbFind]

theorem Mach.SameMaps.translate (k va : Nat) (eng : Bool) : n.translate c k va eng = m.translate c k va eng := by
  simp only [Mach.translate, h.leaf, h.keptBits, h.checkLeaf, h.qOf]

theorem Mach.SameMaps.pages (k : Nat) (eng : Bool) (fuel va l : Nat) : n.pages c k eng fuel va l = m.pages c k eng fuel va l := by
  induction fuel generalizing va l with
  | zero => rfl
  | succ fuel ih => simp only [Mach.pages, h.translate, ih]

/-- Where no window is accepted, an access resolves alike. -/
theorem Mach.SameMaps.resolve (k va l : Nat) : n.resolve c k va l .no = m.resolve c k va l .no := by
  have hidx : n.windowIdx c va = m.windowIdx c va := by simp only [Mach.windowIdx, h.task]
  have hwin : n.window c k va l .no = m.window c k va l .no := by simp [Mach.window, hidx, h.task]
  simp only [Mach.resolve, hwin, h.pages]

theorem Mach.SameMaps.banksOf (ss : List (List (Loc × Nat))) : n.banksOf ss = m.banksOf ss := by
  have hbank : n.bankAt = m.bankAt := by
    funext l
    cases l <;> simp only [Mach.bankAt, Mach.keyOf_congr h.parts]
  simp only [Mach.banksOf, hbank]

theorem Mach.SameMaps.members (kind : Nat) (b : Bst) (off g : Nat) (skip : Nat → Bool) (seen ks : List Nat) :
    n.members c kind b off g skip seen ks = m.members c kind b off g skip seen ks := by
  induction ks generalizing seen with
  | nil => rfl
  | cons k ks ih => simp only [Mach.members, h.resolve, h.banksOf, ih]

end

/-! ### What reads, walks and bookkeeping leave -/

/-- From m to n the pairs' caches and counts, what the device corrects and counts, and the marks of activations have changed, and nothing else;
no statistics queue is another, what was free for an access still is, and no context has more runs. -/
structure Mach.Kept (m n : Mach) : Prop where
  rest : ∃ ps so dc ic pf nm us pa, n = { m with
    pairs := ps, soft := so, dieCnt := dc, iodCnt := ic, pfaults := pf, nmus := nm, used := us, pacts := pa }
  sq : ∀ p, (n.pair p).sq = (m.pair p).sq
  free : ∀ ss, m.chainBusy ss = false → n.chainBusy ss = false
  runs : ∀ c, n.runsOf c ≤ m.runsOf c

theorem Mach.Kept.refl (m : Mach) : m.Kept m := ⟨⟨_, _, _, _, _, _, _, _, rfl⟩, fun _ => rfl, fun _ h => h, fun _ => le_refl _⟩

theorem Mach.Kept.trans {m n o : Mach} (h : m.Kept n) (k : n.Kept o) : m.Kept o where
  rest := by
    obtain ⟨_, _, _, _, _, _, _, _, hn⟩ := h.rest
    obtain ⟨ps, so, dc, ic, pf, nm, us, pa, ho⟩ := k.rest
    exact ⟨ps, so, dc, ic, pf, nm, us, pa, by rw [ho, hn]⟩
  sq p := (k.sq p).trans (h.sq p)
  free ss hs := k.free ss (h.free ss hs)
  runs c := (k.runs c).trans (h.runs c)

theorem Mach.Kept.foldl {α : Type} {f : Mach → α → Mach} (hf : ∀ (m : Mach) a, m.Kept (f m a)) (l : List α) (m : Mach) :
    m.Kept (l.foldl f m) := foldl_keep (fun n => m.Kept n) f l m (.refl m) fun n a hn => hn.trans (hf n a)

theorem Mach.Kept.me {m n : Mach} (h : m.Kept n) : n.me = m.me := by obtain ⟨_, _, _, _, _, _, _, _, rfl⟩ := h.rest; rfl

theorem Mach.Tended.kept {m n : Mach} (h : m.Tended n) : m.Kept n := by
  have hfree := fun ss hs => h.free (ss := ss) hs
  have hruns := h.runs
  obtain ⟨so, dc, ic, pf, nm, rfl⟩ := h.rest
  exact ⟨⟨_, _, _, _, _, _, _, _, rfl⟩, fun _ => rfl, hfree, hruns⟩

/-- Counts and marks alone. -/
theorem Mach.Kept.of_counts {m n : Mach} (h : ∃ us dc pa, n = { m with used := us, dieCnt := dc, pacts := pa }) : m.Kept n := by
  obtain ⟨hp, hc, hn⟩ : n.parts = m.parts ∧ n.chains = m.chains ∧ n.nmus = m.nmus := by
    obtain ⟨_, _, _, rfl⟩ := h
    exact ⟨rfl, rfl, rfl⟩
  have hbusy := chainBusy_congr hp hc hn
  obtain ⟨_, _, _, rfl⟩ := h
  exact ⟨⟨_, _, _, _, _, _, _, _, rfl⟩, fun _ => rfl, fun ss hs => (hbusy ss).trans hs, fun _ => le_refl _⟩

/-- A change of a pair that leaves its statistics queue. -/
theorem Mach.kept_updPair (m : Mach) (p : Nat) {f : Pair → Pair} (hf : ∀ u, (f u).sq = u.sq) : m.Kept (m.updPair p f) := by
  refine ⟨⟨_, _, _, _, _, _, _, _, rfl⟩, fun q => ?_, fun ss hs => ?_, fun c => le_refl _⟩
  · by_cases hq : q = p
    · rw [hq, pair_updPair, hf]
    · rw [pair_updPair_ne _ _ _ _ hq]
  · exact (chainBusy_congr (m := m) (n := m.updPair p f) rfl rfl rfl ss).trans hs

theorem Mach.kept_count (m : Mach) (c src k : Nat) : m.Kept (m.count c src k) := by
  simp only [count]
  split
  · exact m.kept_updPair _ fun _ => rfl
  · exact .refl m

theorem Mach.kept_beats (m : Mach) (c res k : Nat) : m.Kept (m.beats c res k) := by
  simp only [beats]
  split
  · exact .refl m
  · refine .trans (n := m.updPair (pairOf c) fun p => { p with need := mapAt p.need (4 * res + c % 4) (· ++ [k]) })
      (m.kept_updPair _ fun _ => rfl) ?_
    split
    · exact kept_count _ _ _ _
    · split
      · exact kept_count _ _ _ _
      · exact .refl _

theorem Mach.kept_charge (m : Mach) (a b cls k : Nat) : m.Kept (m.charge a b cls k) := by
  obtain ⟨us, dc, h⟩ := m.charge_eq a b cls k
  exact .of_counts ⟨us, dc, m.pacts, h⟩

theorem Mach.kept_fetchFlits (m : Mach) (d cls : Nat) (ss : List (Loc × Nat)) : m.Kept (m.fetchFlits d cls ss) := by
  unfold fetchFlits
  refine .foldl (fun m s => ?_) ss m
  split
  · exact m.kept_charge _ _ _ _
  · exact .refl m

theorem Mach.kept_fillTlb (m : Mach) (c va : Nat) : m.Kept (m.fillTlb c va) := by
  simp only [fillTlb]
  split
  · exact .refl m
  · have hwalk : m.Kept ((m.count c evWalk 1).walkMarks c va) := by
      refine (m.kept_count c evWalk 1).trans ?_
      unfold walkMarks
      split
      · exact ((corrected_eccRead _ _).tended.trans (tended_wake _ _)).kept
      · exact .refl _
    split
    · exact hwalk.trans (kept_updPair _ _ fun _ => rfl)
    · exact hwalk

theorem Mach.kept_touch (m : Mach) (c va : Nat) : m.Kept (m.touch c va) := by
  unfold touch
  split
  · exact .refl m
  · exact (m.kept_count c evTranslate 1).trans (kept_fillTlb _ _ _)

theorem Mach.kept_activate (m : Mach) (b : Bst) (ps : List PMem) : m.Kept (m.activate b ps) := .of_counts ⟨m.used, m.dieCnt, _, rfl⟩

/-- The touches and activations of a plural instruction. -/
theorem Mach.kept_members (m : Mach) (c : Nat) (b : Bst) (ps qs : List PMem) : m.Kept ((m.touchMembers c ps).activate b qs) :=
  (Kept.foldl (fun m p => m.kept_touch c p.va) ps m).trans (kept_activate _ _ _)

/-! ### The same, with the vector queue's own notes -/

/-- From m to n the acting context's vector queue and undo log have changed besides. -/
structure Mach.Noted (m n : Mach) : Prop where
  rest : ∃ cs ps so dc ic pf nm us pa, n = { m with
    ctxs := cs, pairs := ps, soft := so, dieCnt := dc, iodCnt := ic, pfaults := pf, nmus := nm, used := us, pacts := pa }
  me : ∃ vq un, n.me = { m.me with vq := vq, undo := un }
  others : ∀ c, c ≠ m.cur → n.ctx c = m.ctx c
  sq : ∀ p, (n.pair p).sq = (m.pair p).sq
  free : ∀ ss, m.chainBusy ss = false → n.chainBusy ss = false
  runs : ∀ c, n.runsOf c ≤ m.runsOf c

theorem Mach.Noted.refl (m : Mach) : m.Noted m :=
  ⟨⟨_, _, _, _, _, _, _, _, _, rfl⟩, ⟨_, _, rfl⟩, fun _ _ => rfl, fun _ => rfl, fun _ h => h, fun _ => le_refl _⟩

section
variable {m n : Mach} (h : m.Noted n)
include h

theorem Mach.Noted.cur : n.cur = m.cur := by obtain ⟨_, _, _, _, _, _, _, _, _, rfl⟩ := h.rest; rfl
theorem Mach.Noted.mem : n.mem = m.mem := by obtain ⟨_, _, _, _, _, _, _, _, _, rfl⟩ := h.rest; rfl
theorem Mach.Noted.parts : n.parts = m.parts := by obtain ⟨_, _, _, _, _, _, _, _, _, rfl⟩ := h.rest; rfl
theorem Mach.Noted.poison : n.poison = m.poison := by obtain ⟨_, _, _, _, _, _, _, _, _, rfl⟩ := h.rest; rfl
theorem Mach.Noted.chains : n.chains = m.chains := by obtain ⟨_, _, _, _, _, _, _, _, _, rfl⟩ := h.rest; rfl
theorem Mach.Noted.seen : n.seen = m.seen := by obtain ⟨_, _, _, _, _, _, _, _, _, rfl⟩ := h.rest; rfl
theorem Mach.Noted.cycle : n.cycle = m.cycle := by obtain ⟨_, _, _, _, _, _, _, _, _, rfl⟩ := h.rest; rfl

/-- Of every context the registers are as before. -/
theorem Mach.Noted.ctx (c : Nat) : ∃ vq un, n.ctx c = { m.ctx c with vq := vq, undo := un } := by
  by_cases hc : c = m.cur
  · obtain ⟨vq, un, hme⟩ := h.me
    rw [Mach.me, h.cur, ← hc] at hme
    exact ⟨vq, un, hme.trans (by rw [Mach.me, ← hc])⟩
  · exact ⟨_, _, h.others c hc⟩

theorem Mach.Noted.qOf (c : Nat) : n.qOf c = m.qOf c := by
  obtain ⟨vq, un, hc⟩ := h.ctx c
  rw [Mach.qOf, hc]
  rfl

theorem Mach.Noted.read (l : Loc) (k : Nat) : n.read l k = m.read l k := by
  cases l with
  | pa a => exact Mach.readPa_congr h.parts h.mem a k
  | vr c off =>
    obtain ⟨vq, un, hc⟩ := h.ctx c
    simp only [Mach.read, hc]
    rfl
  | acc c off =>
    obtain ⟨vq, un, hc⟩ := h.ctx c
    simp only [Mach.read, hc]
    rfl

theorem Mach.Noted.readSegs (ss : List (Loc × Nat)) : n.readSegs ss = m.readSegs ss := by simp only [Mach.readSegs, h.read]

theorem Mach.Noted.poisonAt (l : Loc) (k : Nat) : n.poisonAt l k = m.poisonAt l k := by
  cases l with
  | pa a => exact Mach.poisonAt_pa_congr h.parts h.poison a k
  | vr c off =>
    obtain ⟨vq, un, hc⟩ := h.ctx c
    simp only [Mach.poisonAt, hc]
    rfl
  | acc c off =>
    obtain ⟨vq, un, hc⟩ := h.ctx c
    simp only [Mach.poisonAt, hc]

theorem Mach.Noted.memberPoison (p : PMem) : n.memberPoison p = m.memberPoison p := by
  have hsegs : ∀ ss o, n.poisonSegs o ss = m.poisonSegs o ss := by
    intro ss
    induction ss with
    | nil => exact fun _ => rfl
    | cons s ss ih => exact fun o => by simp only [Mach.poisonSegs, h.poisonAt, ih]
  simp only [Mach.memberPoison, hsegs]

theorem Mach.Noted.sqRoom (c k : Nat) : n.sqRoom c k = m.sqRoom c k := by
  rw [Mach.sqRoom, Mach.sqRoom, Mach.sqSent, Mach.sqSent, h.sq, h.chains]

end

theorem Mach.Noted.trans {m n o : Mach} (h : m.Noted n) (k : n.Noted o) : m.Noted o where
  rest := by
    obtain ⟨_, _, _, _, _, _, _, _, _, hn⟩ := h.rest
    obtain ⟨cs, ps, so, dc, ic, pf, nm, us, pa, ho⟩ := k.rest
    exact ⟨cs, ps, so, dc, ic, pf, nm, us, pa, by rw [ho, hn]⟩
  me := by
    obtain ⟨_, _, hn⟩ := h.me
    obtain ⟨vq, un, ho⟩ := k.me
    exact ⟨vq, un, by rw [ho, hn]⟩
  others c hc := (k.others c (h.cur ▸ hc)).trans (h.others c hc)
  sq p := (k.sq p).trans (h.sq p)
  free ss hs := k.free ss (h.free ss hs)
  runs c := (k.runs c).trans (h.runs c)

theorem Mach.Noted.foldl {α : Type} {f : Mach → α → Mach} (hf : ∀ (m : Mach) a, m.Noted (f m a)) (l : List α) (m : Mach) :
    m.Noted (l.foldl f m) := foldl_keep (fun n => m.Noted n) f l m (.refl m) fun n a hn => hn.trans (hf n a)

theorem Mach.Kept.noted {m n : Mach} (h : m.Kept n) : m.Noted n := by
  have hsq := h.sq
  have hfree := h.free
  have hruns := h.runs
  obtain ⟨_, _, _, _, _, _, _, _, rfl⟩ := h.rest
  exact ⟨⟨_, _, _, _, _, _, _, _, _, rfl⟩, ⟨_, _, rfl⟩, fun _ _ => rfl, hsq, hfree, hruns⟩

theorem Mach.noted_upd (m : Mach) {f : Ctx → Ctx} (hf : ∃ vq un, f m.me = { m.me with vq := vq, undo := un }) : m.Noted (m.upd f) := by
  refine ⟨⟨_, _, _, _, _, _, _, _, _, rfl⟩, ?_, fun c hc => m.ctx_upd_ne c f hc, fun _ => rfl, fun ss hs => ?_, fun c => le_refl _⟩
  · rw [me_upd]
    exact hf
  · exact (chainBusy_congr (m := m) (n := m.upd f) rfl rfl rfl ss).trans hs

theorem Mach.noted_note (m : Mach) (e : VEnt) (f : Prog → Prog) : m.Noted (m.note e f) := m.noted_upd ⟨_, _, rfl⟩

/-! ### An entry's progress, and the starts -/

/-- Entry e stands alone in the acting context's vector queue, with progress p. -/
def Mach.Holds (m : Mach) (e : VEnt) (p : Prog) : Prop := ∃ sf, m.me.vq = [{ e with safe := sf, prog := p }]

section
variable {m : Mach} {e : VEnt} {p : Prog} (h : m.Holds e p)
include h

theorem Mach.Holds.progOf : m.me.progOf e = p := by
  obtain ⟨sf, hv⟩ := h
  simp [Ctx.progOf, hv]

theorem Mach.Holds.note (f : Prog → Prog) : (m.note e f).Holds e (f p) := by
  obtain ⟨sf, hv⟩ := h
  exact ⟨sf, by simp [Mach.note, Ctx.updEnt, hv]⟩

theorem Mach.Holds.markSafe : (m.upd fun x => x.markSafe e).Holds e p := by
  obtain ⟨sf, hv⟩ := h
  exact ⟨true, by simp [Ctx.markSafe, Ctx.updEnt, Ctx.retireUndo, hv]⟩

theorem Mach.Holds.congr {n : Mach} (hm : n.me.vq = m.me.vq) : n.Holds e p := by
  obtain ⟨sf, hv⟩ := h
  exact ⟨sf, hm.trans hv⟩

end

theorem State.sent_holds {s : State} {rs : List (BitVec 5)} (h : s.Vector rs) (k : Nat) (o : VOp) :
    (s.sent k o).Holds (s.m.me.vent k o) .none := ⟨false, by simp [State.sent_me, h.empty, Ctx.vent]⟩

theorem Mach.noted_markSafe (m : Mach) (e : VEnt) : m.Noted (m.upd fun x => x.markSafe e) := m.noted_upd ⟨_, _, rfl⟩

/-- From m to n entry e has read table entries, and keeps them in its progress; cached translations are as before. -/
structure Mach.Started (m n : Mach) (e : VEnt) : Prop extends Mach.Noted m n where
  tlb : ∀ p, (n.pair p).tlb = (m.pair p).tlb
  probe : ∀ p, (n.pair p).probe = (m.pair p).probe
  prog : ∀ p, m.Holds e p → ∃ bst tit, n.Holds e { p with bst := bst, tit := tit }

theorem Mach.Started.refl (m : Mach) (e : VEnt) : m.Started m e := { Noted.refl m with
  tlb _ := rfl
  probe _ := rfl
  prog p h := ⟨p.bst, p.tit, h⟩ }

theorem Mach.Started.trans {m n o : Mach} {e : VEnt} (h : m.Started n e) (k : n.Started o e) : m.Started o e := { h.toNoted.trans k.toNoted with
  tlb p := (k.tlb p).trans (h.tlb p)
  probe p := (k.probe p).trans (h.probe p)
  prog p hp := by
    obtain ⟨_, _, hn⟩ := h.prog p hp
    obtain ⟨_, _, ho⟩ := k.prog _ hn
    exact ⟨_, _, ho⟩ }

theorem Mach.Started.sameMaps {m n : Mach} {e : VEnt} (h : m.Started n e) (c : Nat) : m.SameMaps n c where
  parts := h.parts
  mem := h.mem
  seen := h.seen
  cycle := h.cycle
  cur := h.cur
  pc := by obtain ⟨_, _, hme⟩ := h.me; rw [hme]
  task := by obtain ⟨_, _, hc⟩ := h.toNoted.ctx c; rw [hc]
  sb := by obtain ⟨_, _, hc⟩ := h.toNoted.ctx c; rw [hc]
  tlb := h.tlb _
  probe := h.probe _

/-- A table entry read and cached, and kept by entry e. -/
theorem Mach.started_cached (m : Mach) (e : VEnt) (pa l c : Nat) {f : Pair → Pair} {g : Prog → Prog}
    (hf : ∀ u, (f u).sq = u.sq ∧ (f u).tlb = u.tlb ∧ (f u).probe = u.probe) (hg : ∀ p, ∃ bst tit, g p = { p with bst := bst, tit := tit }) :
    m.Started (((m.ownRead pa l).updPair (pairOf c) f).note e g) e := by
  have hread := (m.tended_ownRead pa l).kept
  have hps : ∀ p, (m.ownRead pa l).pair p = m.pair p := fun p => by
    obtain ⟨_, _, _, _, _, h⟩ := (m.tended_ownRead pa l).rest
    rw [h]
    rfl
  have hpair := hread.trans ((m.ownRead pa l).kept_updPair (pairOf c) fun u => (hf u).1)
  have hcache : ∀ p, (((m.ownRead pa l).updPair (pairOf c) f).pair p).tlb = (m.pair p).tlb ∧
      (((m.ownRead pa l).updPair (pairOf c) f).pair p).probe = (m.pair p).probe := fun p => by
    by_cases hp : p = pairOf c
    · rw [hp, pair_updPair, (hf _).2.1, (hf _).2.2, hps]
      exact ⟨rfl, rfl⟩
    · rw [pair_updPair_ne _ _ _ _ hp, hps]
      exact ⟨rfl, rfl⟩
  exact { hpair.noted.trans (noted_note _ e g) with
    tlb := fun p => (hcache p).1
    probe := fun p => (hcache p).2
    prog := fun p hp => by
      obtain ⟨bst, tit, hgp⟩ := hg p
      exact ⟨bst, tit, hgp ▸ (hp.congr (congrArg Ctx.vq hpair.me)).note g⟩ }

/-- An entry found in the cache, and kept. -/
theorem Mach.started_note (m : Mach) (e : VEnt) {g : Prog → Prog} (hg : ∀ p, ∃ bst tit, g p = { p with bst := bst, tit := tit }) :
    m.Started (m.note e g) e := { m.noted_note e g with
  tlb _ := rfl
  probe _ := rfl
  prog p hp := by
    obtain ⟨bst, tit, hgp⟩ := hg p
    exact ⟨bst, tit, hgp ▸ hp.note g⟩ }

theorem Mach.started_banksetStart (m : Mach) (e : VEnt) (c n : Nat) : m.Started (m.banksetStart e c n) e := by
  simp only [banksetStart]
  split
  · exact .refl m e
  simp only [bstFill]
  split
  · exact m.started_note e fun p => ⟨_, _, rfl⟩
  · exact m.started_cached e _ _ c (fun _ => ⟨rfl, rfl, rfl⟩) fun p => ⟨_, _, rfl⟩

theorem Mach.started_titStart (m : Mach) (e : VEnt) (c t : Nat) : m.Started (m.titStart e c t) e := by
  simp only [titStart]
  split
  · exact .refl m e
  simp only [titFill]
  split
  · exact m.started_note e fun p => ⟨_, _, rfl⟩
  · exact m.started_cached e _ _ c (fun _ => ⟨rfl, rfl, rfl⟩) fun p => ⟨_, _, rfl⟩

/-! ### Plural operands at the dispatch -/

/-- The entry of the bank set that an instruction dispatched now uses is the one that stands (R180). -/
theorem State.sent_bankset {s : State} {rs : List (BitVec 5)} (h : s.Vector rs) (k : Nat) (o : VOp) (set : Word) :
    (s.sent k o).banksetUsed (s.m.me.vent k o) s.m.cur set = s.m.bankset s.m.cur set := by
  have hp : (s.sent k o).parts = s.m.parts := rfl
  have hraw : ∀ n, (s.sent k o).bstRaw s.m.cur n = s.m.bstRaw s.m.cur n := fun n => by
    simp only [Mach.bstRaw, Mach.bstAddr, Mach.part, Mach.readPa_congr hp (s.sent_mem k o), s.sent_qOf, hp]
    rfl
  rw [Mach.banksetUsed, s.sent_progOf h]
  simp only [Prog.none, Mach.bankset, hraw]

theorem State.sent_membersOn (s : State) (k : Nat) (o : VOp) (c : Cap) (b : Bst) : membersOn (s.sent k o).me c b = membersOn s.m.me c b := by
  simp only [membersOn, Ctx.guard, State.sent_me]

theorem membersOn_congr {x y : Ctx} (hm : y.masks = x.masks) (c : Cap) (b : Bst) : membersOn y c b = membersOn x c b := by
  simp only [membersOn, Ctx.guard, hm]

/-- A member without a fault: its words have resolved. -/
theorem Mach.members_mem {m : Mach} {c kind : Nat} {b : Bst} {off g : Nat} {skip : Nat → Bool} {ks : List Nat} :
    ∀ {seen : List Nat} {p : PMem}, p ∈ m.members c kind b off g skip seen ks → p.bad = none →
      ((List.range g).mapM fun i => m.resolve c kind ((p.va + 64 * i) % 2 ^ 64) 64 .no) = .ok p.ss := by
  induction ks with
  | nil => intro seen p hp; simp [members] at hp
  | cons k ks ih =>
    intro seen p hp hbad
    simp only [members] at hp
    split at hp
    next f hf =>
      split at hp
      · exact ih hp hbad
      · obtain rfl | hp := List.mem_cons.mp hp
        · cases hbad
        · exact ih hp hbad
    next ss hss =>
      split at hp
      · exact ih hp hbad
      · split at hp
        · obtain rfl | hp := List.mem_cons.mp hp
          · cases hbad
          · exact ih hp hbad
        · obtain rfl | hp := List.mem_cons.mp hp
          · exact hss
          · exact ih hp hbad

/-- The members stand in the order of their numbers, each once. -/
theorem Mach.members_sublist {m : Mach} {c kind : Nat} {b : Bst} {off g : Nat} {skip : Nat → Bool} (ks seen : List Nat) :
    ((m.members c kind b off g skip seen ks).map PMem.k).Sublist ks := by
  induction ks generalizing seen with
  | nil => exact List.Sublist.refl _
  | cons k ks ih =>
    simp only [members]
    split
    · split
      · exact (ih _).cons k
      · exact (ih _).cons_cons k
    · split
      · exact (ih _).cons k
      · split
        · exact (ih _).cons_cons k
        · exact (ih _).cons_cons k

theorem Mach.members_nodup {m : Mach} {c kind : Nat} {b d : Bst} {off g : Nat} {skip : Nat → Bool} (x : Ctx) (k : Cap) (seen : List Nat) :
    ((m.members c kind b off g skip seen (membersOn x k d)).map PMem.k).Nodup :=
  (members_sublist _ _).nodup (List.nodup_range.filter _)

/-- Where no window is accepted, what resolves lies in no window. -/
theorem Mach.isWindow_of_resolve {m : Mach} {c k va l : Nat} {ss : List (Loc × Nat)} (h : m.resolve c k va l .no = .ok ss) : isWindow va = false := by
  cases hw : isWindow va with
  | false => rfl
  | true =>
    simp only [resolve, hw, if_true, window] at h
    split at h
    · cases h
    · split at h
      · cases h
      · simp at h

theorem except_forM_ok {ε α : Type} {f : α → Except ε Unit} {l : List α} (h : ∀ a ∈ l, f a = .ok ()) : l.forM f = .ok () := by
  induction l with
  | nil => rfl
  | cons a l ih =>
    have hcons : (a :: l).forM f = (f a >>= fun _ => l.forM f) := rfl
    rw [hcons, h a (by simp)]
    exact ih fun b hb => h b (by simp [hb])

theorem except_mapM_mem {ε α β : Type} {f : α → Except ε β} {l : List α} {r : List β} (h : l.mapM f = .ok r) : ∀ a ∈ l, ∃ b, f a = .ok b := by
  induction l generalizing r with
  | nil => intro a ha; cases ha
  | cons a l ih =>
    rw [List.mapM_cons] at h
    cases ha : f a with
    | error e => rw [ha] at h; cases h
    | ok b =>
      rw [ha] at h
      cases hl : l.mapM f with
      | error e =>
        simp only [hl, bind, Except.bind] at h
        cases h
      | ok bs =>
        intro a' ha'
        obtain rfl | ha' := List.mem_cons.mp ha'
        · exact ⟨b, ha⟩
        · exact ih hl a' ha'

/-- Members none of which has a fault name no window address. -/
theorem Mach.windowMembers_ok {m : Mach} {c kind : Nat} {b : Bst} {off g : Nat} {skip : Nat → Bool} {ks : List Nat} :
    ∀ {seen : List Nat}, (∀ p ∈ m.members c kind b off g skip seen ks, p.bad = none) →
      m.windowMembers c b off g (ks.filter fun i => !skip i) = .ok () := by
  induction ks with
  | nil => intro seen _; rfl
  | cons k ks ih =>
    intro seen hall
    simp only [members] at hall
    have hcons : (m.windowMembers c b off g (ks.filter fun i => !skip i) = .ok ()) →
        (skip k = false → ∀ i ∈ List.range g, isWindow ((b.va k off + 64 * i) % 2 ^ 64) = false) →
        m.windowMembers c b off g ((k :: ks).filter fun i => !skip i) = .ok () := by
      intro hrest hhead
      cases hk : skip k with
      | true => simpa [hk] using hrest
      | false =>
        simp only [hk, List.filter_cons, Bool.not_false, if_true]
        have hone : ((List.range g).forM fun i => m.windowCheck c ((b.va k off + 64 * i) % 2 ^ 64)) = .ok () :=
          except_forM_ok fun i hi => by simp only [windowCheck, hhead hk i hi, Bool.false_and, Bool.false_eq_true, if_false]
        exact (congrArg (· >>= fun _ => m.windowMembers c b off g (ks.filter fun i => !skip i)) hone).trans hrest
    split at hall
    next f hf =>
      split at hall
      next hk => exact hcons (ih hall) fun h => by simp [hk] at h
      next hk => simpa using hall _ (List.mem_cons_self ..)
    next ss hss =>
      have hwin : ∀ i ∈ List.range g, isWindow ((b.va k off + 64 * i) % 2 ^ 64) = false := fun i hi => by
        obtain ⟨_, hr⟩ := except_mapM_mem hss i hi
        exact isWindow_of_resolve hr
      split at hall
      · exact hcons (ih hall) fun _ => hwin
      · split at hall
        · exact hcons (ih fun p hp => hall p (List.mem_cons_of_mem _ hp)) fun _ => hwin
        · exact hcons (ih fun p hp => hall p (List.mem_cons_of_mem _ hp)) fun _ => hwin

/-! ### Completion -/

/-- An instruction alone in its queue, which is no fence, ends with its run (R149). -/
theorem State.ends_vdid {s : State} {k : Nat} {o : VOp} {m' w : Mach} {p : Prog} (hc : m'.cur = s.m.cur) (hq : m'.Holds (s.m.me.vent k o) p)
    (hop : (m'.me.vdone (s.m.me.vent k o)).vstart = 0) (hpc : m'.me.pc = s.m.me.pc + 4) (harch : m'.me.arch = w.me.arch)
    (hmem : m'.mem = w.mem) (hothers : ∀ c, c ≠ s.m.cur → m'.ctx c = w.ctx c) : s.ends (s.vdid k o m') w := by
  have hme := s.vdid_me (k := k) (o := o) hc
  have hctx : ∀ c, c ≠ s.m.cur → (s.vdid k o m').m.ctx c = m'.ctx c := fun c hne => by
    have hv : (s.vdid k o m').m = m'.vcomplete s.m.cur (s.m.me.vent k o) := rfl
    rw [hv, Mach.vcomplete, Mach.ctx_count]
    exact m'.ctx_updCtx_ne _ _ _ hne
  refine ⟨?_, (s.vdid_mem k o m').trans hmem, fun c hne => (hctx c hne).trans (hothers c hne), ?_, ?_, ?_, ?_, rfl⟩
  · rw [hme]
    exact harch
  · exact (Mach.count_cur ..).trans hc
  · rw [hme]
    exact hpc
  · obtain ⟨sf, hvq⟩ := hq
    rw [hme]
    simp [Ctx.vdone, Ctx.retireUndo, hvq]
  · rw [hme]
    exact hop

/-! ### Plural loads -/

/-- The words of a member, as they stand in machine m. -/
def Mach.wordsOf (m : Mach) (p : PMem) : List Byte := p.ss.flatMap fun w => m.readSegs w

theorem Mach.Noted.wordsOf {m n : Mach} (h : m.Noted n) (p : PMem) : n.wordsOf p = m.wordsOf p := by simp only [Mach.wordsOf, h.readSegs]

theorem Mach.Holds.gotOf {m : Mach} {e : VEnt} {p : Prog} (h : m.Holds e p) (k : Nat) :
    m.gotOf e k = (p.got.find? fun g => g.1 == k).map Prod.snd := by rw [Mach.gotOf, h.progOf]

/-- What has been noted for a member of a list with distinct numbers. -/
theorem find?_noted (f : PMem → List Byte) {ps : List PMem} (hd : (ps.map PMem.k).Nodup) {q : PMem} (hq : q ∈ ps) :
    ((ps.map fun p => (p.k, f p)).find? fun g => g.1 == q.k).map Prod.snd = some (f q) := by
  induction ps with
  | nil => cases hq
  | cons p ps ih =>
    rw [List.map_cons, List.nodup_cons] at hd
    obtain rfl | hq := List.mem_cons.mp hq
    · simp
    · have hne : (p.k == q.k) = false := by
        simp only [beq_eq_false_iff_ne]
        exact fun h => hd.1 (h ▸ List.mem_map_of_mem hq)
      simp only [List.map_cons, List.find?_cons, hne]
      exact ih hd.2 hq

theorem find?_none_of_fresh {got : List (Nat × List Byte)} {k : Nat} (h : ∀ g ∈ got, g.1 ≠ k) : got.find? (fun g => g.1 == k) = none := by
  simpa using fun a b hg => h (a, b) hg

/-- All members that are free and not poisoned are read, in order. -/
theorem Mach.pldReads_spec {e : VEnt} {ps : List PMem} :
    ∀ {m : Mach} {p : Prog}, m.Holds e p → (ps.map PMem.k).Nodup → (∀ q ∈ ps, ∀ g ∈ p.got, g.1 ≠ q.k) →
      (∀ q ∈ ps, m.memberPoison q = none ∧ ∀ w ∈ q.ss, m.chainBusy w = false) →
      m.Noted (m.pldReads e true ps) ∧ (m.pldReads e true ps).Holds e { p with got := p.got ++ ps.map fun q => (q.k, m.wordsOf q) } := by
  induction ps with
  | nil => intro m p hp _ _ _; exact ⟨.refl m, by simpa [pldReads] using hp⟩
  | cons q ps ih =>
    intro m p hp hd hfresh hok
    obtain ⟨hpsn, hfree⟩ := hok q (by simp)
    rw [List.map_cons, List.nodup_cons] at hd
    have hskip : ((m.gotOf e q.k).isSome || q.ss.any fun s => m.chainBusy s) = false := by
      rw [hp.gotOf, find?_none_of_fresh (hfresh q (by simp))]
      simpa using hfree
    simp only [pldReads, hskip, hpsn, Bool.false_eq_true, if_false, Option.isSome_none, if_true]
    have hread := ((m.corrected_eccRead q.ss.flatten).tended.kept).trans (kept_fetchFlits _ (dieOf m.cur) 0 q.ss.flatten)
    generalize (m.eccRead q.ss.flatten).fetchFlits (dieOf m.cur) 0 q.ss.flatten = n at hread ⊢
    have hn : n.Holds e p := hp.congr (congrArg Ctx.vq hread.me)
    have hnote := hn.note fun g => { g with got := g.got ++ [(q.k, m.wordsOf q)] }
    have hnoted := hread.noted.trans (n.noted_note e fun g => { g with got := g.got ++ [(q.k, m.wordsOf q)] })
    have hrest := ih hnote hd.2
      (fun r hr g hg => by
        obtain hg | hg := List.mem_append.mp hg
        · exact hfresh r (by simp [hr]) g hg
        · rw [List.mem_singleton.mp hg]
          intro h
          rw [show q.k = r.k from h] at hd
          exact hd.1 (List.mem_map_of_mem hr))
      fun r hr => by
        obtain ⟨h1, h2⟩ := hok r (by simp [hr])
        exact ⟨(hnoted.memberPoison r).trans h1, fun w hw => hnoted.free w (h2 w hw)⟩
    refine ⟨hnoted.trans hrest.1, ?_⟩
    have hlist := hrest.2
    simp only [hnoted.wordsOf, List.append_assoc, List.singleton_append] at hlist
    exact hlist

theorem Mach.countOnce_spec {m : Mach} {e : VEnt} {p : Prog} (hp : m.Holds e p) {f : Mach → Mach} (hf : m.Kept (f m)) :
    m.Noted (m.countOnce e f) ∧ (m.countOnce e f).Holds e { p with counted := true } := by
  unfold countOnce
  split
  next hc =>
    rw [hp.progOf] at hc
    exact ⟨.refl m, by cases p; simp_all⟩
  next =>
    exact ⟨hf.noted.trans (noted_note _ e _), (hp.congr (congrArg Ctx.vq hf.me)).note _⟩

theorem Mach.storeAhead_nil {m : Mach} (h : m.me.sb = []) (e : VEnt) (ps : List PMem) : m.storeAhead e ps = false := by simp [storeAhead, h]

theorem pluralPre_ok {s : State} {j : Nat} {o : VOp} {k : Cap} {d : Nat} {fit bad rd : Bool} (hd : s.m.me.regOk d k.g = true)
    (ht : tyCodeOk k.ty = true) (hfit : fit = true → 64 ≤ s.m.me.maxvlOf k.size * k.size) (hbad : bad = false) (hr : k.rm < 6)
    (hf : k.ty = 3 → fmtValid k.fmt.toNat = true) : pluralPre (s.sent j o).me k d fit bad rd = .ok () := by
  have h0 := Ctx.checkRegs_ok (x := (s.sent j o).me) (rs := [(d, k.g)]) (by simpa [State.sent_regOk] using hd)
  have h1 : (fit && decide ((s.sent j o).me.maxvlOf k.size * k.size < 64)) = false := by
    rw [State.sent_maxvlOf]
    cases fit with
    | false => rfl
    | true => simpa using hfit rfl
  have h2 : ¬ 6 ≤ k.rm := by omega
  have h3 : (rd && k.ty = 3 && !fmtValid k.fmt.toNat) = false := by
    by_cases h : k.ty = 3
    · simp [hf h]
    · simp [h]
  simp only [pluralPre, h0, ht, hbad, h1, h2, h3, Bool.not_true, Bool.false_or, Bool.false_eq_true, decide_false, if_false]

/-- A plural instruction dispatched now, once it has read its tables: its machine, and its progress. -/
structure State.PluralStart (s : State) (j : Nat) (o : VOp) (n : Mach) : Prop where
  started : (s.sent j o).Started n (s.m.me.vent j o)
  holds : ∃ p : Prog, n.Holds (s.m.me.vent j o) p ∧ p.got = []

theorem State.pluralStart_bank {s : State} {rs : List (BitVec 5)} (h : s.Vector rs) (j : Nat) (o : VOp) (c n : Nat) :
    s.PluralStart j o ((s.sent j o).banksetStart (s.m.me.vent j o) c n) := by
  have hstart := (s.sent j o).started_banksetStart (s.m.me.vent j o) c n
  obtain ⟨_, _, hp⟩ := hstart.prog _ (s.sent_holds h j o)
  exact ⟨hstart, _, hp, rfl⟩

theorem State.pluralStart_tit {s : State} {rs : List (BitVec 5)} (h : s.Vector rs) (j : Nat) (o : VOp) (c n t : Nat) :
    s.PluralStart j o (((s.sent j o).banksetStart (s.m.me.vent j o) c n).titStart (s.m.me.vent j o) c t) := by
  have hstart := ((s.sent j o).started_banksetStart (s.m.me.vent j o) c n).trans (Mach.started_titStart _ _ c t)
  obtain ⟨_, _, hp⟩ := hstart.prog _ (s.sent_holds h j o)
  exact ⟨hstart, _, hp, rfl⟩

section
variable {s : State} {j : Nat} {o : VOp} {n : Mach} (hs : s.PluralStart j o n)
include hs

/-- The acting context after the starts. -/
theorem State.PluralStart.me : ∃ vq un, n.me = { (s.sent j o).me with vq := vq, undo := un } := hs.started.me

theorem State.PluralStart.sb {rs : List (BitVec 5)} (h : s.Vector rs) : n.me.sb = [] := by
  obtain ⟨_, _, hme⟩ := hs.me
  simpa [hme, State.sent_me] using h.stores

theorem State.PluralStart.seen {rs : List (BitVec 5)} (h : s.Vector rs) : n.seen.isNone = true := by
  rw [hs.started.seen]
  have hsent : (s.sent j o).seen = s.m.seen := rfl
  rw [hsent, h.seen]
  rfl

theorem State.PluralStart.membersOn (k : Cap) (b : Bst) : Machine.membersOn n.me k b = Machine.membersOn s.m.me k b := by
  obtain ⟨_, _, hme⟩ := hs.me
  exact (membersOn_congr (by rw [hme]; exact s.sent_masks j o) k b)

theorem State.PluralStart.members (kind : Nat) (b : Bst) (off g : Nat) (skip : Nat → Bool) (ks : List Nat) :
    n.members s.m.cur kind b off g skip [] ks = (s.sent j o).members s.m.cur kind b off g skip [] ks :=
  (hs.started.sameMaps s.m.cur).members ..

end

theorem filter_bad_none {ps : List PMem} (h : ∀ p ∈ ps, p.bad = none) : (ps.filter fun p => p.bad.isNone) = ps :=
  List.filter_eq_self.mpr fun p hp => by simp [h p hp]

theorem pluralFault_none {ps : List PMem} {f : PMem → Option (Nat × Flt)} (h : ∀ p ∈ ps, f p = none) (done : Nat) :
    pluralFault (ps.filterMap f) done = none := by rw [List.filterMap_eq_nil_iff.mpr h]; rfl

/-- The rows of a plural load of members ps with words w (R402). -/
def Cap.pldRows (k : Cap) (op : Nat) (ws : List (List Byte)) : List (List (Option Nat)) :=
  (List.range k.g).map fun r => (List.range (64 / k.size)).map fun i =>
    some (pldFold k.tyv k op (ws.map fun w => leVal ((w.drop (64 * r + k.size * i)).take k.size) % 2 ^ k.tyv.bits))

/-- A plural load whose members are all there runs to its end. -/
theorem runPld_ok {s : State} {rs : List (BitVec 5)} (h : s.Vector rs) {o : VOp} {op d : Nat} {set off : Word} {k : Cap} {b : Bst} {ps : List PMem}
    (hk : s.cap mdp = k) (hd : s.m.me.regOk d k.g = true) (ht : tyCodeOk k.ty = true) (hr : k.rm < 6)
    (hf : k.ty = 3 → fmtValid k.fmt.toNat = true) (hfit : 64 ≤ s.m.me.maxvlOf k.size * k.size) (hbad : pldBad op k = false)
    (hb : s.m.bankset s.m.cur set = .ok b)
    (hps : (s.sent mdp o).members s.m.cur kPlural b off.toNat k.g (fun _ => false) [] (membersOn s.m.me k b) = ps)
    (hok : ∀ p ∈ ps, p.bad = none ∧ (s.sent mdp o).wordsOf p ≠ [] ∧ (s.sent mdp o).memberPoison p = none ∧
      ∀ w ∈ p.ss, (s.sent mdp o).chainBusy w = false) :
    ∃ n p, (s.sent mdp o).Noted n ∧ n.Holds (s.m.me.vent mdp o) p ∧
      runPld op d set off (s.sent mdp o) (s.m.me.vent mdp o) = .ok
        ((putCodes n k.size d (k.pldRows op (ps.map (s.sent mdp o).wordsOf))).upd fun x => { x with pdone := 0 }) := by
  have hcap : (s.m.me.vent mdp o).cap = k := hk
  have hpre : pluralPre (s.sent mdp o).me k d true (pldBad op k) true = .ok () := pluralPre_ok hd ht (fun _ => hfit) hbad hr hf
  have hwin : (s.sent mdp o).windowMembers s.m.cur b off.toNat k.g (membersOn s.m.me k b) = .ok () := by
    simpa using Mach.windowMembers_ok (skip := fun _ => false) fun p hp => (hok p (hps ▸ hp)).1
  have hst := State.pluralStart_bank h mdp o s.m.cur set.toNat
  generalize hn1 : (s.sent mdp o).banksetStart (s.m.me.vent mdp o) s.m.cur set.toNat = n1 at hst
  obtain ⟨p1, hp1, hgot1⟩ := hst.holds
  have hcount := Mach.countOnce_spec hp1 (f := fun m => (m.touchMembers s.m.cur ps).activate b ps) (n1.kept_members s.m.cur b ps ps)
  generalize hn2 : (n1.countOnce (s.m.me.vent mdp o) fun m => (m.touchMembers s.m.cur ps).activate b ps) = n2 at hcount
  have hnoted2 := hst.started.toNoted.trans hcount.1
  have hreads := Mach.pldReads_spec (ps := ps) hcount.2 (hps ▸ Mach.members_nodup s.m.me k []) (by simp [hgot1]) fun q hq => by
    obtain ⟨_, _, h1, h2⟩ := hok q hq
    exact ⟨(hnoted2.memberPoison q).trans h1, fun w hw => hnoted2.free w (h2 w hw)⟩
  have hseen2 : n2.seen.isNone = true := by rw [hcount.1.seen, hst.seen h]
  generalize hn3 : n2.pldReads (s.m.me.vent mdp o) true ps = n3 at hreads
  have hgot : ∀ q ∈ ps, n3.gotOf (s.m.me.vent mdp o) q.k = some ((s.sent mdp o).wordsOf q) := fun q hq => by
    rw [hreads.2.gotOf, hgot1, List.nil_append]
    simp only [hnoted2.wordsOf]
    exact find?_noted _ (hps ▸ Mach.members_nodup s.m.me k []) hq
  have hkept := n3.kept_beats s.m.cur resPort ((n3.me.progOf (s.m.me.vent mdp o)).got.length * k.g)
  refine ⟨_, _, hnoted2.trans (hreads.1.trans hkept.noted), hreads.2.congr (congrArg Ctx.vq hkept.me), ?_⟩
  generalize hn4 : n3.beats s.m.cur resPort ((n3.me.progOf (s.m.me.vent mdp o)).got.length * k.g) = n4 at hkept ⊢
  have hgot4 : ∀ q ∈ ps, n4.gotOf (s.m.me.vent mdp o) q.k = some ((s.sent mdp o).wordsOf q) := fun q hq => by
    rw [Mach.gotOf, hkept.me]
    exact hgot q hq
  have hsome : (ps.any fun p => (n3.gotOf (s.m.me.vent mdp o) p.k).isNone) = false := by
    simp only [List.any_eq_false]
    intro q hq
    simp [hgot q hq]
  have hgood : (ps.filter fun p => p.bad.isNone) = ps := filter_bad_none fun p hp => (hok p hp).1
  have hwords : (ps.map fun p => (n4.gotOf (s.m.me.vent mdp o) p.k).getD []) = ps.map (s.sent mdp o).wordsOf :=
    List.map_congr_left fun q hq => by rw [hgot4 q hq]; rfl
  simp only [runPld, runPldL, hcap, hpre, orRaise, s.sent_cur, s.sent_bankset h, hb, s.sent_membersOn, hwin, s.vWait_ok h, hn1, hst.membersOn,
    hst.members, hps, Mach.storeAhead_nil (hst.sb h), waitFor, hn2, hgood, hseen2, hn3, hsome, hn4, hwords, Bool.false_eq_true, if_false,
    Bool.not_false, if_true, Bool.true_and, bind, Except.bind, pure, Except.pure]
  rw [pluralFault_none]
  · rfl
  · intro q hq
    simp [hgot4 q hq, (hok q hq).2.1]

theorem Ctx.arch_putRow (x : Ctx) (v e : Nat) (vals : List (Option Nat)) : (x.putRow v e vals).arch = x.arch.putRow v e vals := by
  simp only [putRow]
  split <;> rfl

theorem Ctx.arch_putRows (x : Ctx) (v e : Nat) (rows : List (List (Option Nat))) : (x.putRows v e rows).arch = x.arch.putRows v e rows := by
  induction rows generalizing x v with
  | nil => rfl
  | cons l rows ih => rw [putRows_cons, putRows_cons, ih, arch_putRow]

section
variable {s : State} {j : Nat} {o : VOp} {n : Mach} (h : (s.sent j o).Noted n)
include h

theorem Mach.Noted.sent_arch : n.me.arch = s.m.me.arch := by
  obtain ⟨_, _, hme⟩ := h.me
  rw [hme, State.sent_me]
  rfl

theorem Mach.Noted.sent_pc : n.me.pc = s.m.me.pc + 4 := by
  obtain ⟨_, _, hme⟩ := h.me
  rw [hme, State.sent_me]

theorem Mach.Noted.sent_others (c : Nat) (hc : c ≠ s.m.cur) : n.ctx c = s.m.ctx c := by
  rw [h.others c hc]
  exact (Mach.ctx_upd_ne (s.m.enqueue (s.m.me.vent j o)) _ _ hc).trans (Mach.ctx_upd_ne s.m _ _ hc)

/-- An instruction that in machine n, where it has only noted its progress, changes its own context as f does, and is done. -/
theorem Mach.Noted.ends_upd {p : Prog} (hp : n.Holds (s.m.me.vent j o) p) {m' : Mach} {f : Ctx → Ctx} (hme : m'.me = f n.me) (hmem : m'.mem = n.mem)
    (hcur : m'.cur = n.cur) (hothers : ∀ c, c ≠ n.cur → m'.ctx c = n.ctx c) (hvq : (f n.me).vq = n.me.vq) (hpc : (f n.me).pc = n.me.pc)
    (hf : ∀ x y : Ctx, x.arch = y.arch → (f x).arch = (f y).arch) (hop : (m'.me.vdone (s.m.me.vent j o)).vstart = 0) :
    s.ends (s.vdid j o m') (s.m.upd f) := by
  refine State.ends_vdid (p := p) (hcur.trans h.cur) (hp.congr ?_) hop ?_ ?_ (hmem.trans h.mem) fun c hc => ?_
  · rw [hme, hvq]
  · rw [hme, hpc, h.sent_pc]
  · rw [hme, Mach.me_upd, hf _ _ h.sent_arch]
  · rw [hothers c (h.cur ▸ hc), Mach.ctx_upd_ne _ _ _ hc, h.sent_others c hc]

end

theorem Ctx.OnlyRows.vq {x y : Ctx} (h : x.OnlyRows y) : y.vq = x.vq := by obtain ⟨_, _, _, _, _, rfl⟩ := h; rfl

theorem Cap.g_pos (k : Cap) : 0 < k.g := Nat.two_pow_pos _

/-- A plural load ends with the folded rows in its destination (R402). -/
theorem pld_ends {s : State} {a y : BitVec 5} {rs : List (BitVec 5)} (h : s.Vector rs) (ha : ∀ r ∈ [a.toNat, y.toNat], r ∈ rs.map BitVec.toNat)
    {op : Nat} {d : BitVec 6} {p3 : BitVec 3} {b : Bst}
    (ht : tyCodeOk (s.cap mdp).ty = true) (hr : (s.cap mdp).rm < 6) (hf : (s.cap mdp).ty = 3 → fmtValid (s.cap mdp).fmt.toNat = true)
    (hb : s.m.bankset s.m.cur (s.x a) = .ok b) (hd : s.Groups (s.cap mdp).g [d]) (hbad : pldBad op (s.cap mdp) = false)
    (hfit : 64 ≤ s.m.me.maxvlOf (s.cap mdp).size * (s.cap mdp).size) :
    let m := s.sent mdp (.pld op d.toNat (s.x a) (pluralOff (s.x y) p3))
    let ps := m.members s.m.cur kPlural b (pluralOff (s.x y) p3).toNat (s.cap mdp).g (fun _ => false) [] (membersOn s.m.me (s.cap mdp) b)
    (∀ p ∈ ps, p.bad = none ∧ (m.wordsOf p).length = 64 * (s.cap mdp).g ∧ m.memberPoison p = none ∧ ∀ w ∈ p.ss, m.chainBusy w = false) →
    ∃ t, vectorStep vrun mdp [a.toNat, y.toNat] (fun x => .pld op d.toNat (x.rx a.toNat) (pluralOff (x.rx y.toNat) p3)) s = .next t ∧
      s.ends t (s.m.upd fun z => { z.putRows d.toNat (s.cap mdp).size ((s.cap mdp).pldRows op (ps.map m.wordsOf)) with pdone := 0 }) := by
  intro m ps hok
  have hg := (s.cap mdp).g_pos
  obtain ⟨n, p, hn, hp, hrun⟩ := runPld_ok h (set := s.x a) (off := pluralOff (s.x y) p3) rfl (hd d (by simp)) ht hr hf hfit hbad hb rfl
    fun q hq => by
      obtain ⟨h1, h2, h3, h4⟩ := hok q hq
      exact ⟨h1, fun h0 => by rw [show m.wordsOf q = [] from h0] at h2; simp at h2; omega, h3, h4⟩
  refine ⟨_, State.vector_ok h ha hrun, ?_⟩
  let f := fun z : Ctx => { z.putRows d.toNat (s.cap mdp).size ((s.cap mdp).pldRows op (ps.map m.wordsOf)) with pdone := 0 }
  refine hn.ends_upd hp (f := f) ?_ rfl rfl (fun c hc => ?_) (n.me.onlyRows_putRows ..).vq (n.me.onlyRows_putRows ..).pc (fun x z hxz => ?_) rfl
  · rw [Mach.me_upd, putCodes, Mach.me_upd]
  · exact (Mach.ctx_upd_ne (putCodes n _ _ _) _ _ hc).trans (Mach.ctx_upd_ne n _ _ hc)
  · have hrows := (x.arch_putRows d.toNat (s.cap mdp).size ((s.cap mdp).pldRows op (ps.map m.wordsOf))).trans
      ((congrArg (Ctx.putRows · _ _ _) hxz).trans (z.arch_putRows ..).symm)
    exact congrArg (fun x : Ctx => { x with pdone := 0 }) hrows

/-! ### Plural runs -/

theorem Mach.bankAt_congr {m n : Mach} (h : n.parts = m.parts) : n.bankAt = m.bankAt := by
  funext l
  cases l <;> simp only [Mach.bankAt, Mach.keyOf_congr h]

/-- The run of a member rests on its instruction's tensor entry and on the tables of partitions. -/
theorem Mach.Noted.runOf {m n : Mach} (h : m.Noted n) {e : VEnt} {p q : Prog} (hp : m.Holds e p) (hq : n.Holds e q) (ht : q.tit = p.tit) (w : Word) :
    n.runOf e w = m.runOf e w := by
  funext r
  simp only [Mach.runOf, hp.progOf, hq.progOf, ht, h.cur, h.qOf, bankAt_congr h.parts]

/-- A `prun` whose runs all have room in the bank queue enters them (R428). -/
theorem runPrun_ok {s : State} {rs : List (BitVec 5)} (h : s.Vector rs) {o : VOp} {xw set off : Word} {k : Cap} {b : Bst} {ps : List PMem} {n : Mach}
    (hk : s.cap mdp = k) (ht : tyCodeOk k.ty = true) (hr : k.rm < 6) (hf : k.ty = 3 → fmtValid k.fmt.toNat = true)
    (hb : s.m.bankset s.m.cur set = .ok b) (htid : tidCheck (s.m.tit s.m.cur k.tid) k.tid = .ok ())
    (hn : ((s.sent mdp o).banksetStart (s.m.me.vent mdp o) s.m.cur set.toNat).titStart (s.m.me.vent mdp o) s.m.cur k.tid = n)
    (hps : n.members s.m.cur kPrun b off.toNat 1 (fun i => s.m.me.pdone.getLsbD i) [] (membersOn s.m.me k b) = ps)
    (hok : ∀ p ∈ ps, p.bad = none) (hroom : ps.length + s.m.me.bankq.length + s.m.runsOf s.m.cur ≤ 16) :
    ∃ n' p, (s.sent mdp o).Noted n' ∧ n'.Holds (s.m.me.vent mdp o) p ∧
      runPrun xw set off (s.sent mdp o) (s.m.me.vent mdp o) = .ok
        ((n'.upd fun x => { x with bankq := x.bankq ++ ps.map (n.runOf (s.m.me.vent mdp o) xw) }).upd fun x => { x with pdone := 0 }) := by
  have hcap : (s.m.me.vent mdp o).cap = k := hk
  have hst := hn ▸ State.pluralStart_tit h mdp o s.m.cur set.toNat k.tid
  obtain ⟨p1, hp1, -⟩ := hst.holds
  obtain ⟨vq, un, hme⟩ := hst.me
  have hpdone : n.me.pdone = s.m.me.pdone ∧ (s.sent mdp o).me.pdone = s.m.me.pdone := by
    rw [hme, State.sent_me]
    exact ⟨rfl, rfl⟩
  have hbankq : n.me.bankq = s.m.me.bankq := by rw [hme, State.sent_me]
  have hwin : (s.sent mdp o).windowMembers s.m.cur b off.toNat 1 ((membersOn s.m.me k b).filter fun i => !s.m.me.pdone.getLsbD i) = .ok () :=
    Mach.windowMembers_ok (kind := kPrun) (skip := fun i => s.m.me.pdone.getLsbD i) (seen := []) fun p hp => by
      rw [← hst.members, hps] at hp
      exact hok p hp
  have hruns : n.runsOf s.m.cur ≤ s.m.runsOf s.m.cur := hst.started.runs s.m.cur
  have hcount := Mach.countOnce_spec hp1 (f := fun m => (m.touchMembers s.m.cur ps).activate b ps) (n.kept_members s.m.cur b ps ps)
  generalize hn2 : (n.countOnce (s.m.me.vent mdp o) fun m => (m.touchMembers s.m.cur ps).activate b ps) = n2 at hcount
  have hrun : n2.runOf (s.m.me.vent mdp o) xw = n.runOf (s.m.me.vent mdp o) xw := hcount.1.runOf hp1 hcount.2 rfl xw
  have hsat : ((n.me.vq.find? fun v => v.stamp == (s.m.me.vent mdp o).stamp).map VEnt.sat).getD 0 = 0 := by
    obtain ⟨sf, hv⟩ := hp1
    simp [hv, Ctx.vent]
  have hbad : (ps.filterMap fun p => p.bad.map fun f => (p.k, f)) = [] :=
    List.filterMap_eq_nil_iff.mpr fun p hp => by simp [hok p hp]
  have htake : ps.take (16 - (s.m.me.bankq.length + n.runsOf s.m.cur)) = ps := List.take_of_length_le (by omega)
  have hcheck : (!tyCodeOk k.ty || decide (6 ≤ k.rm)) = false := by simpa [ht] using hr
  have hfmt : (k.tid != 0 && decide (k.ty = 3) && !fmtValid k.fmt.toNat) = false := by
    by_cases h3 : k.ty = 3
    · simp [hf h3]
    · simp [h3]
  refine ⟨n2, _, hst.started.toNoted.trans hcount.1, hcount.2, ?_⟩
  simp only [runPrun, hcap, hcheck, hfmt, orRaise, s.sent_cur, s.sent_bankset h, hb, s.sent_membersOn, hpdone, hwin, s.sent_tit h, htid, hn, hst.membersOn,
    hps, hsat, Nat.zero_testBit, Bool.not_false, List.filter_true, hbad, filter_bad_none hok, hbankq, htake, hn2, hrun, Nat.lt_irrefl, pluralFault,
    Bool.false_eq_true, if_false, bind, Except.bind, pure, Except.pure]

/-- `prun` ends with its runs in the bank queue. -/
theorem prun_ends {s : State} {x a y : BitVec 5} (h : s.Vector [x, a, y]) {p6 : BitVec 6} {b : Bst}
    (ht : tyCodeOk (s.cap mdp).ty = true) (hr : (s.cap mdp).rm < 6) (hf : (s.cap mdp).ty = 3 → fmtValid (s.cap mdp).fmt.toNat = true)
    (hb : s.m.bankset s.m.cur (s.x a) = .ok b) (htid : tidCheck (s.m.tit s.m.cur (s.cap mdp).tid) (s.cap mdp).tid = .ok ()) :
    let o := VOp.prun (s.x x) (s.x a) (pluralOff (s.x y) p6)
    let w := s.m.me.vent mdp o
    let m := ((s.sent mdp o).banksetStart w s.m.cur (s.x a).toNat).titStart w s.m.cur (s.cap mdp).tid
    let ps := m.members s.m.cur kPrun b (pluralOff (s.x y) p6).toNat 1 (fun i => s.m.me.pdone.getLsbD i) [] (membersOn s.m.me (s.cap mdp) b)
    (∀ p ∈ ps, p.bad = none) → ps.length + s.m.me.bankq.length + s.m.runsOf s.m.cur ≤ 16 →
    ∃ t, exec (.prun x a y p6) s = .next t ∧
      s.ends t (s.m.upd fun z => { z with bankq := z.bankq ++ ps.map (m.runOf w (s.x x)), pdone := 0 }) := by
  intro o w m ps hok hroom
  obtain ⟨n, p, hn, hp, hrun⟩ := runPrun_ok h (o := o) (xw := s.x x) rfl ht hr hf hb htid rfl rfl hok hroom
  refine ⟨_, exec_prun.trans (State.vector_ok h (by simp) hrun), ?_⟩
  refine hn.ends_upd hp (f := fun z => { z with bankq := z.bankq ++ ps.map (m.runOf w (s.x x)), pdone := 0 }) ?_ rfl rfl (fun c hc => ?_) rfl rfl
    (fun u z huz => ?_) rfl
  · rw [Mach.me_upd, Mach.me_upd]
  · exact (Mach.ctx_upd_ne (n.upd _) _ _ hc).trans (Mach.ctx_upd_ne n _ _ hc)
  · exact congrArg (fun z : Ctx => { z with bankq := z.bankq ++ ps.map (m.runOf w (s.x x)), pdone := 0 }) huz

/-! ### Members in banks -/

theorem except_ite {ε α : Type} {p : Prop} [Decidable p] {e : ε} {x : Except ε α} {a : α} (h : (if p then .error e else x) = .ok a) :
    ¬ p ∧ x = .ok a := by
  by_cases hp : p
  · rw [if_pos hp] at h; cases h
  · exact ⟨hp, by rwa [if_neg hp] at h⟩

/-- Where an access that needs a bank may go: the memory of the quads (R142). -/
theorem Mach.checkLeaf_bank {m : Mach} {q k pte lvl pa va r : Nat} {eng : Bool} (hk : 5 ≤ k) (h : m.checkLeaf q k pte lvl pa va eng = .ok r) :
    r < Config.dramEnd := by
  obtain ⟨hreg, h⟩ := except_ite h
  obtain ⟨-, h⟩ := except_ite h
  obtain ⟨hbank, h⟩ := except_ite h
  obtain ⟨hreach, h⟩ := except_ite h
  cases h
  have hb : pte.testBit 5 = true := by simpa [hk] using hbank
  have h0 : pa / 2 ^ 46 = 0 := by
    simp only [hb, Bool.true_and, Bool.or_eq_true, not_or, bne_iff_ne] at hreg
    exact Decidable.not_not.mp hreg.1.2.1
  by_contra hlt
  refine hreach ?_
  simp only [reachOk, phys, h0, hlt, if_false, Bool.not_false]

/-- Segments in the memory of the quads. -/
def InDram (ss : List (Loc × Nat)) : Prop := ∀ s ∈ ss, ∃ a, s.1 = .pa a ∧ a < Config.dramEnd

theorem inDram_joinSeg {pa l : Nat} {t : List (Loc × Nat)} (hpa : pa < Config.dramEnd) (ht : InDram t) : InDram (joinSeg pa l t) := by
  have hhead : ∀ k : Nat, ∃ a, ((Loc.pa pa, k) : Loc × Nat).1 = .pa a ∧ a < Config.dramEnd := fun k => ⟨pa, rfl, hpa⟩
  unfold joinSeg
  split
  next b k t' =>
    split
    · intro s hs
      obtain rfl | hs := List.mem_cons.mp hs
      · exact hhead _
      · exact ht s (List.mem_cons_of_mem _ hs)
    · exact List.forall_mem_cons.mpr ⟨hhead l, ht⟩
  · exact List.forall_mem_cons.mpr ⟨hhead l, ht⟩

theorem sum_joinSeg (pa l : Nat) (t : List (Loc × Nat)) : ((joinSeg pa l t).map Prod.snd).sum = l + (t.map Prod.snd).sum := by
  unfold joinSeg
  split
  next b k t' =>
    split
    · simp [Nat.add_assoc]
    · rfl
  · rfl

/-- The words of a bank access lie in the memory of the quads, and are no more than was asked for. -/
theorem Mach.pages_bank {m : Mach} {c k : Nat} (hk : 5 ≤ k) {eng : Bool} {fuel : Nat} : ∀ {va l : Nat} {ss : List (Loc × Nat)},
    m.pages c k eng fuel va l = .ok ss → InDram ss ∧ (ss.map Prod.snd).sum ≤ l := by
  induction fuel with
  | zero => intro va l ss h; cases h; exact ⟨by simp [InDram], Nat.zero_le _⟩
  | succ fuel ih =>
    intro va l ss h
    simp only [pages] at h
    split at h
    · cases h; exact ⟨by simp [InDram], Nat.zero_le _⟩
    split at h
    · cases h
    next pa hpa =>
    split at h
    · cases h
    next t ht =>
    cases h
    obtain ⟨hdram, hsum⟩ := ih ht
    have hlt : pa < Config.dramEnd := by
      unfold translate at hpa
      split at hpa
      · cases hpa
      split at hpa
      · cases hpa
      · exact checkLeaf_bank hk hpa
    refine ⟨inDram_joinSeg hlt hdram, ?_⟩
    rw [sum_joinSeg]
    have hmin := Nat.min_le_left l (4096 - va % 4096)
    omega

theorem Mach.resolve_bank {m : Mach} {c k va l : Nat} (hk : 5 ≤ k) {ss : List (Loc × Nat)} (h : m.resolve c k va l .no = .ok ss) :
    InDram ss ∧ (ss.map Prod.snd).sum ≤ l := by
  have hw := isWindow_of_resolve h
  simp only [resolve, hw, Bool.false_eq_true, if_false] at h
  exact pages_bank hk h

theorem except_mapM_eq {ε α β : Type} {f : α → Except ε β} {l : List α} {r : List β} (h : l.mapM f = .ok r) :
    ∀ b ∈ r, ∃ a ∈ l, f a = .ok b := by
  induction l generalizing r with
  | nil => cases h; intro b hb; cases hb
  | cons a l ih =>
    rw [List.mapM_cons] at h
    cases ha : f a with
    | error e => rw [ha] at h; cases h
    | ok b =>
      cases hl : l.mapM f with
      | error e => rw [ha, hl] at h; cases h
      | ok bs =>
        rw [ha, hl] at h
        cases h
        intro b' hb'
        obtain rfl | hb' := List.mem_cons.mp hb'
        · exact ⟨a, by simp, ha⟩
        · obtain ⟨a', ha', hfa⟩ := ih hl b' hb'
          exact ⟨a', by simp [ha'], hfa⟩

/-- Every word of a member lies in the memory of the quads. -/
theorem Mach.members_bank {m : Mach} {c kind : Nat} (hk : 5 ≤ kind) {b : Bst} {off g : Nat} {skip : Nat → Bool} {ks seen : List Nat} {p : PMem}
    (hp : p ∈ m.members c kind b off g skip seen ks) (hbad : p.bad = none) : ∀ w ∈ p.ss, InDram w ∧ (w.map Prod.snd).sum ≤ 64 := by
  intro w hw
  obtain ⟨i, -, hi⟩ := except_mapM_eq (members_mem hp hbad) w hw
  exact resolve_bank hk hi

/-! ### Writes to the memory of the quads -/

/-- Memory after bytes were written at runs of keys. -/
def putRuns (mem : Cells 8) (rs : List (Option Nat × List Byte)) : Cells 8 :=
  rs.foldl (fun mem r => match r.1 with | some k => csetRange mem k r.2 | none => mem) mem

/-- Memory `mem` after machine m's segments ss were written with their bytes (R118). -/
def Mach.memAfter (m : Mach) (ss : List (Loc × List Byte)) (mem : Cells 8) : Cells 8 :=
  ss.foldl (fun mem s => match s.1 with
    | .pa a => putRuns mem (splitRuns (m.keyRuns (s.2.length / 256 + 2) a s.2.length) s.2)
    | _ => mem) mem

/-- Bytes for segments that the memory of the quads holds. -/
def DramBytes (ss : List (Loc × List Byte)) : Prop := ∀ s ∈ ss, ∃ a, s.1 = .pa a ∧ a + s.2.length ≤ 2 ^ 46

/-- From m to n bytes have been written to memory: bytes, poison, errors, counts and clocks of links have changed, and nothing else. -/
def Mach.Wrote (m n : Mach) : Prop :=
  ∃ me po so dc ic us cl, n = { m with mem := me, poison := po, soft := so, dieCnt := dc, iodCnt := ic, used := us, clocks := cl }

theorem Mach.Wrote.refl (m : Mach) : m.Wrote m := ⟨_, _, _, _, _, _, _, rfl⟩

theorem Mach.Wrote.trans {m n o : Mach} (h : m.Wrote n) (k : n.Wrote o) : m.Wrote o := by
  obtain ⟨_, _, _, _, _, _, _, rfl⟩ := h
  obtain ⟨a, b, c, d, e, f, g, rfl⟩ := k
  exact ⟨a, b, c, d, e, f, g, rfl⟩

theorem Mach.Wrote.parts {m n : Mach} (h : m.Wrote n) : n.parts = m.parts := by obtain ⟨_, _, _, _, _, _, _, rfl⟩ := h; rfl
theorem Mach.Wrote.me {m n : Mach} (h : m.Wrote n) : n.me = m.me := by obtain ⟨_, _, _, _, _, _, _, rfl⟩ := h; rfl
theorem Mach.Wrote.cur {m n : Mach} (h : m.Wrote n) : n.cur = m.cur := by obtain ⟨_, _, _, _, _, _, _, rfl⟩ := h; rfl
theorem Mach.Wrote.ctx {m n : Mach} (h : m.Wrote n) (c : Nat) : n.ctx c = m.ctx c := by obtain ⟨_, _, _, _, _, _, _, rfl⟩ := h; rfl

theorem Mach.Corrected.wrote {m n : Mach} (h : m.Corrected n) : m.Wrote n := by
  obtain ⟨so, dc, ic, rfl⟩ := h
  exact ⟨_, _, so, dc, ic, _, _, rfl⟩

theorem Mach.wrote_poke (m : Mach) (k : Nat) (bs : List Byte) : m.Wrote (m.poke k bs) :=
  (m.corrected_eccWrite k bs.length).wrote.trans ⟨_, _, _, _, _, _, _, rfl⟩

theorem Mach.wrote_carry (m : Mach) (d h cls l : Nat) : m.Wrote (m.carry d h cls l) ∧ (m.carry d h cls l).mem = m.mem := by
  unfold carry
  split
  · exact ⟨.refl m, rfl⟩
  · obtain ⟨us, dc, hc⟩ := charge_eq { m with clocks := mapAt (m.clocks.set d (mapAt (nthD [] m.clocks d) d (· + 1))) h (fun w =>
      (w.zip (mapAt (nthD [] m.clocks d) d (· + 1))).map (fun (p : Nat × Nat) => Nat.max p.1 p.2)) } d h cls l
    dsimp only
    rw [hc]
    exact ⟨⟨_, _, _, _, _, _, _, rfl⟩, rfl⟩

theorem Mach.wrote_cross (m : Mach) (d cls : Nat) (ss : List (Loc × List Byte)) : m.Wrote (m.cross d cls ss) ∧ (m.cross d cls ss).mem = m.mem := by
  unfold cross
  refine foldl_keep (fun n : Mach => m.Wrote n ∧ n.mem = m.mem) _ ss m ⟨.refl m, rfl⟩ fun n s hn => ?_
  split
  · have hc := n.wrote_carry d ‹_› cls s.2.length
    exact ⟨hn.1.trans hc.1, hc.2.trans hn.2⟩
  · exact hn

/-- Below 2^46 an address is in the memory of the quads, or nowhere (R116). -/
theorem Mach.keyOf_lt {m : Mach} {pa k : Nat} (hpa : pa < 2 ^ 46) (h : m.keyOf pa = some k) : k < Config.dramEnd := by
  have h0 : pa / 2 ^ 46 = 0 := Nat.div_eq_of_lt hpa
  have hphys : ∀ p, m.phys pa = p → (∃ q, p = .dram pa q ∧ pa < Config.dramEnd) ∨ p = .none := by
    intro p hp
    simp only [phys, h0] at hp
    split at hp
    next hlt =>
      split at hp
      · split at hp
        · split at hp
          · exact .inl ⟨_, hp.symm, hlt⟩
          · exact .inr hp.symm
        · exact .inr hp.symm
      · exact .inr hp.symm
    · exact .inr hp.symm
  unfold keyOf at h
  obtain ⟨q, hq, hlt⟩ | hq := hphys _ rfl
  · rw [hq] at h
    cases h
    exact hlt
  · rw [hq] at h
    cases h

theorem Mach.keyRuns_lt {m : Mach} {fuel : Nat} : ∀ {pa l : Nat}, pa + l ≤ 2 ^ 46 →
    ∀ r ∈ m.keyRuns fuel pa l, ∀ k, r.1 = some k → k < Config.dramEnd := by
  induction fuel with
  | zero => intro pa l _ r hr; cases hr
  | succ fuel ih =>
    intro pa l hl r hr k hk
    simp only [keyRuns] at hr
    split at hr
    · cases hr
    next hne =>
      obtain rfl | hr := List.mem_cons.mp hr
      · exact keyOf_lt (by omega) hk
      · exact ih (by omega) r hr k hk

theorem splitRuns_mem {rs : List (Option Nat × Nat)} : ∀ {bs : List Byte}, ∀ r ∈ splitRuns rs bs, ∃ q ∈ rs, q.1 = r.1 ∧ r.2.length ≤ q.2 := by
  induction rs with
  | nil => intro bs r hr; cases hr
  | cons q rs ih =>
    intro bs r hr
    obtain rfl | hr := List.mem_cons.mp hr
    · exact ⟨q, by simp, rfl, by simp⟩
    · obtain ⟨q', hq, h⟩ := ih r hr
      exact ⟨q', by simp [hq], h⟩

/-- A write to the memory of the quads meets no transaction barrier: it changes the bytes it names (R117). -/
theorem Mach.wrote_runs {rs : List (Option Nat × List Byte)} (w : Place) : ∀ {m : Mach}, (∀ r ∈ rs, ∀ k, r.1 = some k → k < Config.dramEnd) →
    let n := rs.foldl (fun m r => match r.1 with | some k => (m.poke k r.2).clobberTb k r.2.length w | none => m) m
    m.Wrote n ∧ n.mem = putRuns m.mem rs := by
  induction rs with
  | nil => intro m _; exact ⟨.refl m, rfl⟩
  | cons r rs ih =>
    intro m h
    have hrest : ∀ {n : Mach}, _ := fun {n : Mach} => ih (m := n) fun q hq => h q (by simp [hq])
    obtain ⟨k, bs⟩ := r
    cases k with
    | none => exact hrest
    | some k =>
      have hk : (m.poke k bs).clobberTb k bs.length w = m.poke k bs := if_pos (h (some k, bs) (by simp) k rfl)
      have htail := hrest (n := m.poke k bs)
      dsimp only [List.foldl_cons] at htail ⊢
      rw [hk]
      refine ⟨(m.wrote_poke k bs).trans htail.1, htail.2.trans ?_⟩
      rw [poke_mem]
      rfl

theorem Mach.wrote_writePa (m : Mach) {a : Nat} {bs : List Byte} (w : Place) (h : a + bs.length ≤ 2 ^ 46) :
    m.Wrote (m.writePa a bs w) ∧ (m.writePa a bs w).mem = putRuns m.mem (splitRuns (m.keyRuns (bs.length / 256 + 2) a bs.length) bs) :=
  wrote_runs w fun r hr k hk => by
    obtain ⟨q, hq, hqr, -⟩ := splitRuns_mem r hr
    exact keyRuns_lt h q hq k (hqr.trans hk)

theorem Mach.memAfter_congr {m n : Mach} (h : n.parts = m.parts) (ss : List (Loc × List Byte)) (mem : Cells 8) :
    n.memAfter ss mem = m.memAfter ss mem := by
  simp only [memAfter, keyRuns_congr h]

theorem Mach.memAfter_append (m : Mach) (ss ts : List (Loc × List Byte)) (mem : Cells 8) :
    m.memAfter (ss ++ ts) mem = m.memAfter ts (m.memAfter ss mem) := List.foldl_append

theorem Mach.wrote_writeSegs {ss : List (Loc × List Byte)} (w : Place) : ∀ {m : Mach}, DramBytes ss →
    m.Wrote (m.writeSegs ss w) ∧ (m.writeSegs ss w).mem = m.memAfter ss m.mem := by
  induction ss with
  | nil => intro m _; exact ⟨.refl m, rfl⟩
  | cons s ss ih =>
    intro m h
    obtain ⟨a, ha, hlen⟩ := h s (by simp)
    obtain ⟨l, bs⟩ := s
    obtain rfl : l = .pa a := ha
    have hone := m.wrote_writePa w hlen
    have hrest := ih (m := m.writePa a bs w) fun t ht => h t (by simp [ht])
    refine ⟨hone.1.trans hrest.1, hrest.2.trans ?_⟩
    rw [memAfter_congr hone.1.parts]
    exact congrArg (m.memAfter ss) hone.2

theorem Mach.wrote_writeFrom {m : Mach} {ss : List (Loc × List Byte)} (h : DramBytes ss) (d cls : Nat) :
    m.Wrote (m.writeFrom d cls ss) ∧ (m.writeFrom d cls ss).mem = m.memAfter ss m.mem := by
  have hcross := m.wrote_cross d cls ss
  have hw := wrote_writeSegs none (m := m.cross d cls ss) h
  refine ⟨hcross.1.trans hw.1, hw.2.trans ?_⟩
  rw [memAfter_congr hcross.1.parts, hcross.2]

theorem crange_length {w : Nat} (n k : Nat) (t : Cells w) : (crange n k t).length = n := by
  induction n generalizing k t with
  | zero => rfl
  | succ n ih =>
    cases t with
    | nil => simp [crange, ih]
    | cons e t =>
      unfold crange
      split <;> simp [ih]

theorem Ctx.vread_length (x : Ctx) (v b n : Nat) : (x.vread v b n).length = n := crange_length ..

/-- The bytes of a word's segments: a segment's own length each, where there are enough. -/
theorem segBytes_mem {ss : List (Loc × Nat)} : ∀ {bs : List Byte}, (ss.map Prod.snd).sum ≤ bs.length →
    ∀ w ∈ segBytes ss bs, (w.1, w.2.length) ∈ ss ∧ w.2.length ≤ bs.length := by
  induction ss with
  | nil => intro bs _ w hw; cases hw
  | cons s ss ih =>
    intro bs h w hw
    simp only [List.map_cons, List.sum_cons] at h
    have hs : s.2 ≤ bs.length := by omega
    obtain rfl | hw := List.mem_cons.mp hw
    · simp only [List.length_take, Nat.min_eq_left hs]
      exact ⟨by simp, hs⟩
    · obtain ⟨h1, h2⟩ := ih (bs := bs.drop s.2) (by rw [List.length_drop]; omega) w hw
      refine ⟨by simp [h1], h2.trans ?_⟩
      rw [List.length_drop]
      exact Nat.sub_le ..

theorem dramBytes_segBytes {ss : List (Loc × Nat)} {bs : List Byte} (h : InDram ss) (hs : (ss.map Prod.snd).sum ≤ bs.length)
    (hb : bs.length ≤ 64) : DramBytes (segBytes ss bs) := by
  intro w hw
  obtain ⟨hmem, hlen⟩ := segBytes_mem hs w hw
  obtain ⟨a, ha, hlt⟩ := h _ hmem
  refine ⟨a, ha, ?_⟩
  have hend : Config.dramEnd + 64 ≤ 2 ^ 46 := by decide
  omega

/-! ### What a write leaves -/

theorem putRuns_frame {rs : List (Option Nat × List Byte)} {q : Nat} : ∀ {mem : Cells 8}, cellsWf mem = true →
    (∀ r ∈ rs, ∀ k, r.1 = some k → ¬ (k ≤ q ∧ q < k + r.2.length)) →
      cellsWf (putRuns mem rs) = true ∧ cget (putRuns mem rs) q = cget mem q := by
  induction rs with
  | nil => intro mem h _; exact ⟨h, rfl⟩
  | cons r rs ih =>
    intro mem h hq
    obtain ⟨k, bs⟩ := r
    have hrest := fun {mem : Cells 8} (hw : cellsWf mem = true) => ih (mem := mem) hw fun r hr => hq r (by simp [hr])
    cases k with
    | none => exact hrest h
    | some k =>
      obtain ⟨h1, h2⟩ := hrest (cellsWf_csetRange h k bs)
      refine ⟨h1, h2.trans ?_⟩
      rw [cget_csetRange h, if_neg (hq (some k, bs) (by simp) k rfl)]

theorem Mach.memAfter_frame {m : Mach} {q : Nat} {ss : List (Loc × List Byte)} : ∀ {mem : Cells 8}, cellsWf mem = true →
    (∀ s ∈ ss, ¬ m.covers [(s.1, s.2.length)] q) → cget (m.memAfter ss mem) q = cget mem q := by
  induction ss with
  | nil => intro mem _ _; rfl
  | cons s ss ih =>
    intro mem h hq
    obtain ⟨l, bs⟩ := s
    have hrest := fun {mem : Cells 8} (hw : cellsWf mem = true) => ih (mem := mem) hw fun s hs => hq s (by simp [hs])
    have hhead := hq (l, bs) (by simp)
    cases l with
    | pa a =>
      have hrun := putRuns_frame (q := q) h (rs := splitRuns (m.keyRuns (bs.length / 256 + 2) a bs.length) bs) fun r hr k hk hle => by
        obtain ⟨r', hr', hkey, hlen⟩ := splitRuns_mem r hr
        exact hhead ⟨_, List.mem_singleton_self _, a, rfl, r', hr', k, hkey.trans hk, hle.1, by omega⟩
      exact (hrest hrun.1).trans hrun.2
    | vr => exact hrest h
    | acc => exact hrest h

theorem Mach.covers_of_mem {m : Mach} {ss : List (Loc × Nat)} {s : Loc × Nat} (hs : s ∈ ss) {q : Nat} (h : m.covers [s] q) : m.covers ss q := by
  obtain ⟨l, hl, h⟩ := h
  rw [List.mem_singleton.mp hl] at h
  exact ⟨s, hs, h⟩

/-! ### Plural stores -/

/-- The segments that a member's words fill, with their bytes. -/
def PMem.puts (p : PMem) (data : List (List Byte)) : List (Loc × List Byte) := (p.ss.zip data).flatMap fun w => segBytes w.1 w.2

/-- Words of a member, in the memory of the quads, and their data. -/
structure PMem.Banked (p : PMem) : Prop where
  dram : ∀ w ∈ p.ss, InDram w
  sum : ∀ w ∈ p.ss, (w.map Prod.snd).sum ≤ 64

section
variable {p : PMem} {data : List (List Byte)} (h : p.Banked) (hd : ∀ bs ∈ data, bs.length = 64)
include h hd

theorem PMem.Banked.dramBytes : ∀ w ∈ p.ss.zip data, DramBytes (segBytes w.1 w.2) := fun w hw => by
  obtain ⟨hss, hbs⟩ := List.of_mem_zip hw
  exact dramBytes_segBytes (h.dram _ hss) ((hd _ hbs).symm ▸ h.sum _ hss) (hd _ hbs).le

theorem PMem.Banked.puts_mem : ∀ s ∈ p.puts data, (s.1, s.2.length) ∈ p.ss.flatten := fun s hs => by
  obtain ⟨w, hw, hs⟩ := List.mem_flatMap.mp hs
  obtain ⟨hss, hbs⟩ := List.of_mem_zip hw
  exact List.mem_flatten.mpr ⟨_, hss, (segBytes_mem ((hd _ hbs).symm ▸ h.sum _ hss) s hs).1⟩

theorem Mach.wrote_pstPut (m : Mach) : m.Wrote (m.pstPut data p) ∧ (m.pstPut data p).mem = m.memAfter (p.puts data) m.mem := by
  have hall := h.dramBytes hd
  unfold pstPut PMem.puts
  generalize p.ss.zip data = ws at hall
  induction ws generalizing m with
  | nil => exact ⟨.refl m, rfl⟩
  | cons w ws ih =>
    have hone := wrote_writeFrom (m := m) (hall w (by simp)) (dieOf m.cur) 0
    have hrest := ih (m.writeFrom (dieOf m.cur) 0 (segBytes w.1 w.2)) fun v hv => hall v (by simp [hv])
    refine ⟨hone.1.trans hrest.1, hrest.2.trans ?_⟩
    rw [memAfter_congr hone.1.parts, hone.2, List.flatMap_cons, memAfter_append]

end

/-- Members written one after another. -/
theorem Mach.wrote_foldl_pstPut {data : List (List Byte)} (hd : ∀ bs ∈ data, bs.length = 64) {ps : List PMem} : ∀ (m : Mach), (∀ p ∈ ps, p.Banked) →
    m.Wrote (ps.foldl (fun m p => m.pstPut data p) m) ∧
      (ps.foldl (fun m p => m.pstPut data p) m).mem = m.memAfter (ps.flatMap fun p => p.puts data) m.mem := by
  induction ps with
  | nil => intro m _; exact ⟨.refl m, rfl⟩
  | cons p ps ih =>
    intro m h
    have hone := wrote_pstPut (h p (by simp)) hd m
    have hrest := ih (m.pstPut data p) fun q hq => h q (by simp [hq])
    refine ⟨hone.1.trans hrest.1, hrest.2.trans ?_⟩
    rw [memAfter_congr hone.1.parts, hone.2, List.flatMap_cons, memAfter_append]

/-- From m to n an instruction has noted its progress and written to memory. -/
structure Mach.Stored (m n : Mach) : Prop where
  rest : ∃ cs ps me po so dc ic pf nm us pa cl, n = { m with
    ctxs := cs, pairs := ps, mem := me, poison := po, soft := so, dieCnt := dc, iodCnt := ic, pfaults := pf, nmus := nm, used := us, pacts := pa, clocks := cl }
  me : ∃ vq un, n.me = { m.me with vq := vq, undo := un }
  others : ∀ c, c ≠ m.cur → n.ctx c = m.ctx c
  sq : ∀ p, (n.pair p).sq = (m.pair p).sq
  free : ∀ ss, m.chainBusy ss = false → n.chainBusy ss = false

theorem Mach.Noted.stored {m n : Mach} (h : m.Noted n) : m.Stored n where
  rest := by
    obtain ⟨_, _, _, _, _, _, _, _, _, hn⟩ := h.rest
    exact ⟨_, _, _, _, _, _, _, _, _, _, _, _, hn⟩
  me := h.me
  others := h.others
  sq := h.sq
  free := h.free

theorem Mach.Wrote.stored {m n : Mach} (h : m.Wrote n) : m.Stored n := by
  obtain ⟨hc, hn⟩ : n.chains = m.chains ∧ n.nmus = m.nmus := by
    obtain ⟨_, _, _, _, _, _, _, rfl⟩ := h
    exact ⟨rfl, rfl⟩
  have hbusy := chainBusy_congr h.parts hc hn
  obtain ⟨_, _, _, _, _, _, _, rfl⟩ := h
  exact ⟨⟨_, _, _, _, _, _, _, _, _, _, _, _, rfl⟩, ⟨_, _, rfl⟩, fun _ _ => rfl, fun _ => rfl, fun ss hs => (hbusy ss).trans hs⟩

theorem Mach.Stored.cur {m n : Mach} (h : m.Stored n) : n.cur = m.cur := by obtain ⟨_, _, _, _, _, _, _, _, _, _, _, _, rfl⟩ := h.rest; rfl
theorem Mach.Stored.parts {m n : Mach} (h : m.Stored n) : n.parts = m.parts := by obtain ⟨_, _, _, _, _, _, _, _, _, _, _, _, rfl⟩ := h.rest; rfl
theorem Mach.Stored.chains {m n : Mach} (h : m.Stored n) : n.chains = m.chains := by obtain ⟨_, _, _, _, _, _, _, _, _, _, _, _, rfl⟩ := h.rest; rfl

theorem Mach.Stored.trans {m n o : Mach} (h : m.Stored n) (k : n.Stored o) : m.Stored o where
  rest := by
    obtain ⟨_, _, _, _, _, _, _, _, _, _, _, _, hn⟩ := h.rest
    obtain ⟨a1, a2, a3, a4, a5, a6, a7, a8, a9, a10, a11, a12, ho⟩ := k.rest
    exact ⟨a1, a2, a3, a4, a5, a6, a7, a8, a9, a10, a11, a12, by rw [ho, hn]⟩
  me := by
    obtain ⟨_, _, hn⟩ := h.me
    obtain ⟨vq, un, ho⟩ := k.me
    exact ⟨vq, un, by rw [ho, hn]⟩
  others c hc := (k.others c (h.cur ▸ hc)).trans (h.others c hc)
  sq p := (k.sq p).trans (h.sq p)
  free ss hs := k.free ss (h.free ss hs)

theorem Mach.Stored.sqRoom {m n : Mach} (h : m.Stored n) (c k : Nat) : n.sqRoom c k = m.sqRoom c k := by
  rw [Mach.sqRoom, Mach.sqRoom, Mach.sqSent, Mach.sqSent, h.sq, h.chains]

/-- All members that are free are written, in order. -/
theorem Mach.pstPuts_spec {e : VEnt} {data : List (List Byte)} (hd : ∀ bs ∈ data, bs.length = 64) {ps : List PMem} :
    ∀ {m : Mach} {p : Prog}, m.Holds e p → (ps.map PMem.k).Nodup → (∀ q ∈ ps, ∀ g ∈ p.got, g.1 ≠ q.k) →
      (∀ q ∈ ps, q.Banked ∧ ∀ w ∈ q.ss, m.chainBusy w = false) →
      let n := m.pstPuts e data true ps
      m.Stored n ∧ n.Holds e { p with got := p.got ++ ps.map fun q => (q.k, []) } ∧
        n.mem = m.memAfter (ps.flatMap fun q => q.puts data) m.mem := by
  induction ps with
  | nil => intro m p hp _ _ _; exact ⟨(Noted.refl m).stored, by simpa [pstPuts] using hp, rfl⟩
  | cons q ps ih =>
    intro m p hp hdist hfresh hok
    obtain ⟨hbank, hfree⟩ := hok q (by simp)
    rw [List.map_cons, List.nodup_cons] at hdist
    have hskip : ((m.gotOf e q.k).isSome || q.ss.any fun s => m.chainBusy s) = false := by
      rw [hp.gotOf, find?_none_of_fresh (hfresh q (by simp))]
      simpa using hfree
    simp only [pstPuts, hskip, Bool.false_eq_true, if_false, if_true]
    have hput := wrote_pstPut hbank hd m
    generalize m.pstPut data q = n at hput ⊢
    have hn : n.Holds e p := hp.congr (congrArg Ctx.vq hput.1.me)
    have hnote := hn.note fun g => { g with got := g.got ++ [(q.k, [])] }
    have hnoted := hput.1.stored.trans (n.noted_note e fun g => { g with got := g.got ++ [(q.k, [])] }).stored
    obtain ⟨h1, h2, h3⟩ := ih hnote hdist.2
      (fun r hr g hg => by
        obtain hg | hg := List.mem_append.mp hg
        · exact hfresh r (by simp [hr]) g hg
        · rw [List.mem_singleton.mp hg]
          intro h
          rw [show q.k = r.k from h] at hdist
          exact hdist.1 (List.mem_map_of_mem hr))
      fun r hr => by
        obtain ⟨h1, h2⟩ := hok r (by simp [hr])
        exact ⟨h1, fun w hw => hnoted.free w (h2 w hw)⟩
    refine ⟨hnoted.trans h1, ?_, h3.trans ?_⟩
    · simp only [List.append_assoc, List.singleton_append] at h2
      exact h2
    · rw [memAfter_congr hnoted.parts, List.flatMap_cons, memAfter_append]
      exact congrArg _ hput.2

theorem Mach.deltasFor_length (m : Mach) (c tid : Nat) (t : Tit) (vals : List (Nat × XV)) (ovf psn : Bool) (x : Option Int) :
    (m.deltasFor c tid t vals ovf psn x).length ≤ 5 := by
  have hdies : ((List.range 5).filter fun d => vals.any fun v => v.1 == d).length ≤ 5 := (List.length_filter_le _ _).trans (by simp)
  simp only [deltasFor, deltasByDie, List.length_map]
  split
  · exact Nat.zero_le _
  · split
    · exact Nat.le_of_ble_eq_true rfl
    · simpa using hdies

theorem Mach.sqRoom_mono {m : Mach} {c j k : Nat} (hjk : j ≤ k) (h : m.sqRoom c k = true) : m.sqRoom c j = true := by
  simp only [Mach.sqRoom, decide_eq_true_eq] at h ⊢
  omega

theorem Mach.ctx_pushDeltas {m : Mach} {c d : Nat} (hd : d ≠ c) (ds : List Delta) : (m.pushDeltas c ds).ctx d = m.ctx d := by
  unfold pushDeltas
  split
  · rfl
  · rw [ctx_count]
    exact ctx_updCtx_ne (m.updPair (pairOf c) fun p => { p with sq := p.sq ++ ds }) _ _ _ hd

/-- The words that a plural store of group d stores (R403). -/
def Ctx.pstData (x : Ctx) (k : Cap) (d : Nat) : List (List Byte) := (List.range k.g).map fun r => x.vread (d + r) 0 64

theorem Ctx.pstData_length (x : Ctx) (k : Cap) (d : Nat) : ∀ bs ∈ x.pstData k d, bs.length = 64 := by
  intro bs hbs
  obtain ⟨r, -, rfl⟩ := List.mem_map.mp hbs
  exact vread_length ..

/-- A plural store whose members are all free writes them, and hands in what it has counted (R403). -/
theorem runPst_ok {s : State} {rs : List (BitVec 5)} (h : s.Vector rs) {o : VOp} {d : Nat} {set off : Word} {k : Cap} {b : Bst} {ps : List PMem}
    (hk : s.cap mdp = k) (hd : s.m.me.regOk d k.g = true) (ht : tyCodeOk k.ty = true) (hr : k.rm < 6)
    (hf : k.ty = 3 → fmtValid k.fmt.toNat = true) (hb : s.m.bankset s.m.cur set = .ok b)
    (htid : tidCheck (s.m.tit s.m.cur k.tid) k.tid = .ok ()) (hroom : s.m.sqRoom s.m.cur 5 = true)
    (hps : (s.sent mdp o).members s.m.cur kPst b off.toNat k.g (fun i => s.m.me.pdone.getLsbD i) [] (membersOn s.m.me k b) = ps)
    (hok : ∀ p ∈ ps, p.bad = none ∧ ∀ w ∈ p.ss, (s.sent mdp o).chainBusy w = false) :
    ∃ n p ds, (s.sent mdp o).Stored n ∧ n.Holds (s.m.me.vent mdp o) p ∧
      n.mem = (s.sent mdp o).memAfter (ps.flatMap fun q => q.puts (s.m.me.pstData k d)) s.m.mem ∧
      runPst d set off (s.sent mdp o) (s.m.me.vent mdp o) = .ok ((n.pushDeltas s.m.cur ds).upd fun x => { x with pdone := 0 }) := by
  have hcap : (s.m.me.vent mdp o).cap = k := hk
  have hpre : pluralPre (s.sent mdp o).me k d false false (k.tid != 0) = .ok () := pluralPre_ok hd ht (fun h => absurd h (by simp)) rfl hr hf
  have hgood := filter_bad_none fun p hp => (hok p hp).1
  have hwin : (s.sent mdp o).windowMembers s.m.cur b off.toNat k.g ((membersOn s.m.me k b).filter fun i => !s.m.me.pdone.getLsbD i) = .ok () :=
    Mach.windowMembers_ok (kind := kPst) (skip := fun i => s.m.me.pdone.getLsbD i) (seen := []) fun p hp => (hok p (hps ▸ hp)).1
  have hbank : ∀ p ∈ ps, p.Banked := fun p hp => by
    have hmem := Mach.members_bank (m := s.sent mdp o) (kind := kPst) (by decide) (hps.symm ▸ hp) (hok p hp).1
    exact ⟨fun w hw => (hmem w hw).1, fun w hw => (hmem w hw).2⟩
  have hnodup : (ps.map PMem.k).Nodup := hps ▸ Mach.members_nodup s.m.me k []
  have hst := State.pluralStart_tit h mdp o s.m.cur set.toNat k.tid
  generalize hn1 : ((s.sent mdp o).banksetStart (s.m.me.vent mdp o) s.m.cur set.toNat).titStart (s.m.me.vent mdp o) s.m.cur k.tid = n1 at hst
  obtain ⟨p1, hp1, hgot1⟩ := hst.holds
  obtain ⟨hpdone, hspdone, hdata⟩ : n1.me.pdone = s.m.me.pdone ∧ (s.sent mdp o).me.pdone = s.m.me.pdone ∧
      ((List.range k.g).map fun r => n1.me.vread (d + r) 0 64) = s.m.me.pstData k d := by
    obtain ⟨_, _, hme⟩ := hst.me
    rw [hme, State.sent_me]
    exact ⟨rfl, rfl, rfl⟩
  have hcount := Mach.countOnce_spec hp1 (f := fun m => (m.touchMembers s.m.cur ps).activate b ps) (n1.kept_members s.m.cur b ps ps)
  generalize hn2 : (n1.countOnce (s.m.me.vent mdp o) fun m => (m.touchMembers s.m.cur ps).activate b ps) = n2 at hcount
  have hall : (ps.all fun p => p.bad.isNone) = true := List.all_eq_true.mpr fun p hp => by simp [(hok p hp).1]
  have hsafe := n2.noted_markSafe (s.m.me.vent mdp o)
  have hnoted := (hst.started.toNoted.trans hcount.1).trans hsafe
  have hseen : n2.seen.isNone = true := by rw [hcount.1.seen, hst.seen h]
  obtain ⟨hstored, hholds, hmem⟩ := Mach.pstPuts_spec (s.m.me.pstData_length k d) hcount.2.markSafe hnodup (by simp [hgot1]) fun q hq =>
    ⟨hbank q hq, fun w hw => hnoted.free w ((hok q hq).2 w hw)⟩
  generalize hn3 : (n2.upd fun x => x.markSafe (s.m.me.vent mdp o)).pstPuts (s.m.me.vent mdp o) (s.m.me.pstData k d) true ps = n3 at hstored hholds hmem
  have hgot : ∀ q ∈ ps, n3.gotOf (s.m.me.vent mdp o) q.k = some [] := fun q hq => by
    rw [hholds.gotOf, hgot1, List.nil_append]
    exact find?_noted (fun _ => []) hnodup hq
  have hleft : (ps.filter fun p => (n3.gotOf (s.m.me.vent mdp o) p.k).isNone) = [] := List.filter_eq_nil_iff.mpr fun q hq => by simp [hgot q hq]
  have hdone : (ps.filter fun p => (n3.gotOf (s.m.me.vent mdp o) p.k).isSome) = ps := List.filter_eq_self.mpr fun q hq => by simp [hgot q hq]
  have hsq : ∀ c tid t vals ovf psn x, n3.sqRoom s.m.cur (n3.deltasFor c tid t vals ovf psn x).length = true := fun c tid t vals ovf psn x => by
    rw [hstored.sqRoom, hnoted.sqRoom]
    exact Mach.sqRoom_mono (n3.deltasFor_length c tid t vals ovf psn x) hroom
  have hbeats := n3.kept_beats s.m.cur resPort (ps.length * k.g)
  have hcur3 : (n3.beats s.m.cur resPort (ps.length * k.g)).cur = s.m.cur :=
    (Mach.Noted.cur hbeats.noted).trans (hstored.cur.trans hnoted.cur)
  have hheld := hholds.congr (congrArg Ctx.vq hbeats.me)
  have hlast : ∀ ds, (ps.filter fun p =>
      (((n3.beats s.m.cur resPort (ps.length * k.g)).pushDeltas s.m.cur ds).gotOf (s.m.me.vent mdp o) p.k).isNone) = [] := fun ds => by
    obtain ⟨⟨w, hw⟩, -⟩ := Mach.pushDeltas_spec hcur3 ds
    refine List.filter_eq_nil_iff.mpr fun q hq => ?_
    rw [(hheld.congr (by rw [hw])).gotOf, ← hholds.gotOf, hgot q hq]
    simp
  have hmem3 : n3.mem = (s.sent mdp o).memAfter (ps.flatMap fun q => q.puts (s.m.me.pstData k d)) s.m.mem := by
    rw [hmem, Mach.memAfter_congr hnoted.parts, hnoted.mem, s.sent_mem]
  obtain ⟨ds, hrun⟩ : ∃ ds, runPst d set off (s.sent mdp o) (s.m.me.vent mdp o) =
      .ok (((n3.beats s.m.cur resPort (ps.length * k.g)).pushDeltas s.m.cur ds).upd fun x => { x with pdone := 0 }) := by
    simp only [runPst, runPstL, hcap, hpre, orRaise, s.sent_cur, s.sent_bankset h, hb, s.sent_membersOn, hspdone, hwin, s.sent_tit h, htid, s.vWait_ok h,
      hn1, hpdone, hst.membersOn, hst.members, hps, Mach.storeAhead_nil (hst.sb h), waitFor, hn2, hgood, hall, Mach.upd_seen, hseen, hdata, hn3, hleft,
      hdone, hsq, hlast, List.isEmpty_nil, List.foldl_nil, List.map_nil, Bool.not_true, Bool.not_false, Bool.and_false, Bool.false_eq_true, if_false, if_true,
      bind, Except.bind, pure, Except.pure, pluralFault]
    exact ⟨_, rfl⟩
  exact ⟨n3.beats s.m.cur resPort (ps.length * k.g), _, ds, (hnoted.stored.trans hstored).trans hbeats.noted.stored,
    hheld, hbeats.noted.mem.trans hmem3, hrun⟩

/-- What stands in no word of the members keeps its byte (R403). -/
theorem Mach.keepsBut_puts {m t : Mach} {ps : List PMem} {data : List (List Byte)} (hd : ∀ bs ∈ data, bs.length = 64) (hb : ∀ p ∈ ps, p.Banked)
    (hwf : m.mem.wf = true) (hmem : t.mem = m.memAfter (ps.flatMap fun p => p.puts data) m.mem) : m.keepsBut t (ps.flatMap fun p => p.ss.flatten) := by
  intro q hq _
  rw [hmem]
  refine memAfter_frame hwf fun w hw hcov => hq ?_
  obtain ⟨p, hp, hw⟩ := List.mem_flatMap.mp hw
  exact covers_of_mem (List.mem_flatMap.mpr ⟨p, hp, (hb p hp).puts_mem hd w hw⟩) hcov

/-- A plural store ends with its words in its members, and no other byte is changed (R403). -/
theorem pst_ends {s : State} {a y : BitVec 5} {rs : List (BitVec 5)} (h : s.Vector rs) (ha : ∀ r ∈ [a.toNat, y.toNat], r ∈ rs.map BitVec.toNat)
    {d : BitVec 6} {p6 : BitVec 6} {b : Bst} (ht : tyCodeOk (s.cap mdp).ty = true) (hr : (s.cap mdp).rm < 6)
    (hf : (s.cap mdp).ty = 3 → fmtValid (s.cap mdp).fmt.toNat = true) (hb : s.m.bankset s.m.cur (s.x a) = .ok b) (hd : s.Groups (s.cap mdp).g [d])
    (htid : tidCheck (s.m.tit s.m.cur (s.cap mdp).tid) (s.cap mdp).tid = .ok ()) (hroom : s.m.sqRoom s.m.cur 5 = true) (hwf : s.m.mem.wf = true) :
    let off := pluralOff (s.x y) p6
    let o := VOp.pst d.toNat (s.x a) off
    let m := s.sent mdp o
    let ps := m.members s.m.cur kPst b off.toNat (s.cap mdp).g (fun i => s.m.me.pdone.getLsbD i) [] (membersOn s.m.me (s.cap mdp) b)
    (∀ p ∈ ps, p.bad = none ∧ ∀ w ∈ p.ss, m.chainBusy w = false) →
    ∃ qs t, exec (.pst d a y p6) s = .next t ∧
      s.ends t ((ps.foldl (fun (m : Mach) p => m.pstPut (s.m.me.pstData (s.cap mdp) d.toNat) p) { m with pairs := qs }).upd fun z => { z with pdone := 0 }) ∧
      s.m.keepsBut t.m (ps.flatMap fun p => p.ss.flatten) := by
  intro off o m ps hok
  have hlen := s.m.me.pstData_length (s.cap mdp) d.toNat
  have hbank : ∀ p ∈ ps, p.Banked := fun p hp => by
    have hmem := Mach.members_bank (kind := kPst) (by decide) hp (hok p hp).1
    exact ⟨fun w hw => (hmem w hw).1, fun w hw => (hmem w hw).2⟩
  obtain ⟨n, p, ds, hn, hp, hmem, hrun⟩ := runPst_ok h (o := o) (off := off) rfl (hd d (by simp)) ht hr hf hb htid hroom rfl hok
  have hcur : n.cur = s.m.cur := hn.cur
  obtain ⟨⟨w, hme⟩, hpmem, hpcur⟩ := Mach.pushDeltas_spec hcur ds
  obtain ⟨vq, un, hnme⟩ := hn.me
  obtain ⟨hwrote, hwmem⟩ := Mach.wrote_foldl_pstPut hlen { m with pairs := m.pairs } hbank
  refine ⟨m.pairs, _, exec_pst.trans (State.vector_ok h ha hrun), ?_, ?_⟩
  · refine State.ends_vdid (p := p) (hpcur.trans hcur) (hp.congr ?_) rfl ?_ ?_ ?_ fun c hc => ?_
    · rw [Mach.me_upd, hme]
    · rw [Mach.me_upd, hme, hnme, State.sent_me]
    · rw [Mach.me_upd, Mach.me_upd, hme, hnme, hwrote.me]
      rfl
    · exact (hpmem.trans hmem).trans hwmem.symm
    · have hcp : c ≠ (n.pushDeltas s.m.cur ds).cur := fun h => hc (h.trans (hpcur.trans hcur))
      rw [Mach.ctx_upd_ne _ _ _ hcp, Mach.ctx_pushDeltas hc, hn.others c hc, Mach.ctx_upd_ne _ _ _ (fun h => hc (h.trans hwrote.cur)), hwrote.ctx]
  · refine Mach.keepsBut_puts hlen hbank hwf ((s.vdid_mem ..).trans (hpmem.trans (hmem.trans ?_)))
    exact Mach.memAfter_congr (m := s.m) (n := s.sent mdp o) rfl _ _

/-- The plural loads differ in how they fold alone. -/
theorem exec_pld {s : State} {d : BitVec 6} {a y : BitVec 5} {p3 : BitVec 3} :
    ∀ e ∈ ([(0, .pldSum d a y p3), (1, .pldMax d a y p3), (2, .pldMin d a y p3), (3, .pldMaxabs d a y p3), (4, .pldAnd d a y p3),
      (5, .pldOr d a y p3), (6, .pldXor d a y p3)] : List (Nat × Instr)),
      exec e.2 s = vectorStep vrun mdp [a.toNat, y.toNat] (fun x => .pld e.1 d.toNat (x.rx a.toNat) (pluralOff (x.rx y.toNat) p3)) s := by
  simp only [List.forall_mem_cons]
  exact ⟨exec_pldSum, exec_pldMax, exec_pldMin, exec_pldMaxabs, exec_pldAnd, exec_pldOr, exec_pldXor, List.forall_mem_nil _⟩

/-- Settles O29: the members that are on are found once and each is free, so that a plural load folds the word of each, a plural store writes each
member's words and no other byte, and `prun` enters one run for each. -/
theorem pluralAccess : Obligations.PluralAccess := by
  unfold Obligations.PluralAccess
  intro s d x a y p3 p6 b k c hv ht hr hf hb on done
  refine ⟨?_, ?_, ?_⟩
  · intro e he off m ps word hd hbad hfit hok
    obtain ⟨t, hexec, hend⟩ := pld_ends hv (a := a) (y := y) (by simp) (op := e.1) (p3 := p3) ht hr hf hb hd hbad hfit hok
    simp only [Cap.pldRows, List.map_map] at hend
    exact ⟨t, (exec_pld e he).trans hexec, hend⟩
  · intro off o m ps hd htid hroom hwf hok
    exact pst_ends hv (by simp) ht hr hf hb hd htid hroom hwf fun p hp => ⟨(hok p hp).1, fun w hw => ((hok p hp).2 w hw).1⟩
  · intro off o w m ps htid hok hroom
    exact prun_ends hv ht hr hf hb htid hok hroom

end Sys2Proof.Machine
end

section
/-!
PROOFS. Memory (R116 to R120, R200): the counterexample to O54, a write to a word that a buffered `tbinit` names.
-/

namespace Sys2Proof.Machine

/-! ### A write to a barrier word that only an instruction names

`tbs` lists the transaction barriers that are already undefined. A write also meets those that an instruction or a copy names, which a machine
with an empty `tbs` may have: its bytes become free values (R200), so it does not read back. -/

/-- The first byte of the scratchpad of pair 0. -/
def namedWord : Nat := Config.pairBase

/-- Context 0 has a `tbinit` of that word in its store buffer; no barrier is undefined, and memory lists nothing. -/
def namedBarrier : Mach := { Mach.reset with
  ctxs := [(0, { Ctx.reset with sb := [⟨0, 0, .tbinit 0, 0, 0, [(.pa namedWord, [])]⟩] })]
  parts := wordParts }

theorem namedBarrier_keyOf : namedBarrier.keyOf namedWord = some namedWord := by decide +kernel

/-- The bytes of the word after the write of a byte to it. -/
theorem namedBarrier_write (b : Byte) : (namedBarrier.writePa namedWord [b]).mem =
    csetRange (csetRange [] namedWord [b]) namedWord ((List.range 16).map fun i => Config.freeByte i) := by
  rfl

/-- Refutes O54: a byte written to a transaction barrier that a buffered `tbinit` names, where `tbs` lists none, becomes a free value; written
as another value than that, it does not read back. -/
theorem not_memoryLaws : ¬ Obligations.MemoryLaws := by
  unfold Obligations.MemoryLaws
  intro h
  obtain ⟨-, hwrite⟩ := h namedBarrier rfl
  obtain ⟨-, hread, -⟩ := hwrite namedWord [Config.freeByte 0 + 1] namedWord namedBarrier_keyOf (by decide +kernel) rfl
  have hbyte := hread 0 Nat.one_pos
  have hwf : cellsWf (csetRange ([] : Cells 8) namedWord [Config.freeByte 0 + 1]) = true := cellsWf_csetRange rfl _ _
  rw [namedBarrier_write, cget_csetRange hwf] at hbyte
  simp [nthD] at hbyte

end Sys2Proof.Machine
end

section
/-!
PROOFS. Scalar loads (R129, R332): the counterexample to O6, a load from the task's scratchpad whose second part lies in an aperture.
-/

namespace Sys2Proof.Machine

/-! ### A scratchpad that ends in an aperture

The obligation asks of the location of a load that it is in no aperture, and means by it the location's first byte. An access that an 8-byte
boundary cuts is performed in two parts (R332), and a window address leads to one location whatever the cut (R129). Here the
scratchpad of the context, whose base no hypothesis bounds, begins 8 bytes below the aperture of member 0, and the load begins 4 bytes below it:
its second part is a request to a member that is absent, and the load traps. -/

/-- Context 0 runs a task whose scratchpad begins 8 bytes below the apertures; X1 holds the address of its byte 4. -/
def padEdgeCtx : Ctx :=
  { startCtx wordHdr ⟨0, 0, 0, 1⟩ 0 with
    x := vecSet Ctx.reset.x 1 0xFF80000000000004, thandler := 0x100, spBase := 2 ^ 46 - 8, spSize := 16 }

/-- The machine before `ld.d X2, 0(X1)`. -/
def padEdge : State := { State.reset with m := { Mach.reset with ctxs := [(0, padEdgeCtx)] } }

/-- The eight bytes of the load, as one location. -/
def padEdgeLoc : List (Loc × Nat) := [(.pa (3 * 2 ^ 46 - 4), 8)]

theorem padEdge_ready : padEdge.ready [2, 1] := by
  unfold State.ready
  decide +kernel

theorem padEdge_readable : padEdge.Readable (padEdge.ea 1 0) 8 padEdgeLoc where
  here := by decide +kernel
  local_ := by decide +kernel
  free := by decide +kernel
  clean := by decide +kernel
  whole := .inr (by decide +kernel)

/-- The PC of context 0 after an instruction. -/
def pcAfter : Out → Option Word
  | .next t => some (t.m.ctx 0).pc
  | _ => none

/-- The load traps. -/
theorem padEdge_load : pcAfter (exec (.ldD 2 1 0) padEdge) = some 0x100 := by decide +kernel

/-- The form of the load. -/
def padEdgeForm : LoadForm := ⟨.ldD 2 1 0, 8, .ofNat 64, false⟩

/-- A load that completes goes on at the next instruction. -/
theorem padEdge_loaded : pcAfter (.next ((padEdge.touched (padEdge.ea 1 0) 8 padEdgeLoc).loaded 0 padEdgeForm 2
    (padEdge.seen (padEdge.ea 1 0) 8 padEdgeLoc))) = some (BitVec.ofNat 64 (wordVa + 4)) := by
  decide +kernel

/-- Refutes O6: a load from a scratchpad that reaches into an aperture resolves to one location, whose first byte lies on this chip; the second
part of the load lies with an absent member, so the load traps, where the obligation has it complete. -/
theorem not_loadsAndStores : ¬ Obligations.LoadsAndStores := by
  unfold Obligations.LoadsAndStores
  intro h
  obtain ⟨hload, -⟩ := h padEdge 2 1 0 padEdgeLoc padEdge_ready
  have hexec : exec (.ldD 2 1 0) padEdge = _ := hload padEdgeForm (by simp [loadForms, padEdgeForm]) padEdge_readable
  have hpc := padEdge_load.symm.trans ((congrArg pcAfter hexec).trans padEdge_loaded)
  exact absurd hpc (by decide)

end Sys2Proof.Machine
end

section
/-!
PROOFS. `tlbinv` (R136, R185, R448).
-/

namespace Sys2Proof.Machine

/-! ### What completion leaves of the TLBs -/

theorem mem_tabSet {α : Type} {t : Tab α} {k : Nat} {v : α} {e : Nat × α} (h : e ∈ tabSet t k v) : e = (k, v) ∨ e ∈ t := by
  induction t with
  | nil => exact .inl (List.mem_singleton.mp h)
  | cons a t ih =>
    simp only [tabSet] at h
    split at h
    · exact (List.mem_cons.mp h).imp_right (List.mem_cons_of_mem _)
    · split at h
      · exact List.mem_cons.mp h
      · rcases List.mem_cons.mp h with rfl | h
        · exact .inr List.mem_cons_self
        · exact (ih h).imp_right (List.mem_cons_of_mem _)

/-- No listed pair holds a translation, in its TLB or in a probe bank, that p holds of. -/
def Mach.NoEntry (m : Mach) (p : TlbEnt → Prop) : Prop := ∀ u ∈ m.pairs, (∀ e ∈ u.2.tlb, ¬ p e) ∧ ∀ e ∈ u.2.probe, ¬ p e.2

/-- A pair that is not listed holds none. -/
theorem Mach.NoEntry.pair {m : Mach} {p : TlbEnt → Prop} (h : m.NoEntry p) (k : Nat) :
    (∀ e ∈ (m.pair k).tlb, ¬ p e) ∧ ∀ e ∈ (m.pair k).probe, ¬ p e.2 := by
  rw [Mach.pair, tabGet]
  cases hf : tabFind m.pairs k with
  | none => exact ⟨fun _ he => absurd he List.not_mem_nil, fun _ he => absurd he List.not_mem_nil⟩
  | some u => exact h _ (tabFind_mem hf)

theorem Mach.NoEntry.count {m : Mach} {p : TlbEnt → Prop} (h : m.NoEntry p) (c src n : Nat) : (m.count c src n).NoEntry p := by
  simp only [Mach.count]
  split
  · intro u hu
    rcases mem_tabSet hu with rfl | hu
    · exact h.pair (pairOf c)
    · exact h u hu
  · exact h

theorem Mach.NoEntry.retire {m : Mach} {p : TlbEnt → Prop} (h : m.NoEntry p) : m.retire.NoEntry p :=
  Mach.NoEntry.count (m := m.upd _) h _ _ _

/-! ### Entries that are dropped -/

/-- The entry is partition q's, and covers the address or is of the same 64 KiB page in 4 KiB leaves with C64 (R136). -/
def TlbEnt.OfPage (q va : Nat) (e : TlbEnt) : Prop :=
  e.q = q ∧ (e.va ≤ va ∧ va < e.va + e.size ∨ e.lvl = 0 ∧ e.pte.testBit 4 = true ∧ e.va / 65536 = va / 65536)

theorem Mach.tlbDrop_noEntry (m : Mach) (q va : Nat) : (m.tlbDrop q va).NoEntry (TlbEnt.OfPage q va) := by
  have hkept : ∀ e : TlbEnt, (!(e.q == q && ((decide (e.va ≤ va) && decide (va < e.va + e.size)) ||
      (e.lvl == 0 && e.pte.testBit 4 && e.va / 65536 == va / 65536)))) = true → ¬ e.OfPage q va := by
    rintro e he ⟨hq, ⟨hle, hlt⟩ | ⟨hlvl, hbit, hva⟩⟩
    · simp [hq, hle, hlt] at he
    · simp [hq, hlvl, hbit, hva] at he
  intro u hu
  obtain ⟨w, -, rfl⟩ := List.mem_map.mp hu
  exact ⟨fun e he => hkept e (List.mem_filter.mp he).2, fun e he => hkept e.2 (List.mem_filter.mp he).2⟩

/-! ### The instruction -/

theorem tlbinv_canonical {s : State} {a : BitVec 5} (hr : s.ready [a]) (hc : isCanonical (s.x a).toNat = true) :
    exec (.tlbinv a) s = .next { s with m := (s.m.tlbDrop (s.m.qOf s.m.cur) (s.x a).toNat).retire } := by
  have hc : isCanonical (s.m.me.rx a.toNat).toNat = true := hc
  exact exec_tlbinv.trans (scalarStep_ok hr (by simp only [hc]; rfl))

theorem tlbinv_not_canonical {s : State} {a : BitVec 5} (hr : s.ready [a]) (hc : isCanonical (s.x a).toNat = false) :
    exec (.tlbinv a) s = .next (s.trapped (fltPage 3 0 (s.x a).toNat)) := by
  have hc : isCanonical (s.m.me.rx a.toNat).toNat = false := hc
  exact exec_tlbinv.trans (scalarStep_trap hr (by simp only [hc]; rfl))

theorem decode_major_EA {w : Nat} (h : w / 16777216 = 0xEA) : decode w = zeros w [(23, 17), (11, 0)] (.tlbinv (fb 5 w 12)) := by
  have hw : w ≠ 0xFFFFFFFF := by omega
  rw [decode, if_neg hw, h]
  rfl

theorem decode_tlbinv (d a b : BitVec 5) (f : BitVec 6) :
    decode (0xEA000000 + d.toNat * 262144 + a.toNat * 4096 + b.toNat * 64 + f.toNat) =
      if d = 0 ∧ b = 0 ∧ f = 0 then .ok (.tlbinv a) else .error 3 := by
  have hd := d.isLt
  have ha := a.isLt
  have hb := b.isLt
  have hf := f.isLt
  generalize hw : 0xEA000000 + d.toNat * 262144 + a.toNat * 4096 + b.toNat * 64 + f.toNat = w
  have hzero : zeroIn w [(23, 17), (11, 0)] = true ↔ d = 0 ∧ b = 0 ∧ f = 0 := by
    simp only [zeroIn, fld, List.all_cons, List.all_nil, Bool.and_true, Bool.and_eq_true, beq_iff_eq, ← BitVec.toNat_inj,
      BitVec.ofNat_eq_ofNat, BitVec.toNat_ofNat]
    omega
  have hfield : fb 5 w 12 = a := BitVec.eq_of_toNat_eq (by
    rw [fb, BitVec.toNat_ofNat]
    omega)
  rw [decode_major_EA (by omega), zeros, hfield]
  exact if_congr hzero rfl rfl

/-- Settles O40: the entries of the page are filtered out of every pair, and completion changes none of a pair's translations. -/
theorem tlbInvalidation : Obligations.TlbInvalidation := by
  unfold Obligations.TlbInvalidation
  refine ⟨fun s a => ⟨fun hr hc => ?_, tlbinv_not_canonical⟩, decode_tlbinv, by decide⟩
  have hdropped := (s.m.tlbDrop_noEntry (s.m.qOf s.m.cur) (s.x a).toNat).retire
  refine ⟨_, tlbinv_canonical hr hc, by simp [Mach.retire, Mach.retireTo, Mach.tlbDrop],
    fun n hn => (Mach.onlyMe_retire (s.m.tlbDrop (s.m.qOf s.m.cur) (s.x a).toNat)).2.1 n hn, fun k => ?_,
    fun p hp => ⟨fun e he hq => ⟨fun hcov => ?_, fun h64 => ?_⟩, fun e he hq hcov => ?_⟩⟩
  · simp only [State.x, Ctx.rx, Mach.retire_x]
    rfl
  · exact (hdropped p hp).1 e he ⟨hq, .inl hcov⟩
  · exact (hdropped p hp).1 e he ⟨hq, .inr h64⟩
  · exact (hdropped p hp).2 e he ⟨hq, .inl hcov⟩

end Sys2Proof.Machine
end

section
/-!
PROOFS. Fetch and the step (R132, R310, R322, R338, R429, R449, R466).
-/

namespace Sys2Proof.Machine

/-! ### Fetch -/

/-- A fetch that waits for nothing and resolves to one location: the word of the pair's instruction cache. -/
theorem Mach.fetch_cached {m : Mach} {c a : Nat} {w : BitVec 32} (hw : m.walkWaits c (m.ctx c).pc.toNat 4 = false)
    (hr : m.resolve c kFetch (m.ctx c).pc.toNat 4 .no = .ok [(.pa a, 4)])
    (hc : (m.pair (pairOf c)).icache.find? (fun e => e.1 == a) = some (a, w)) : m.fetch c = .ok (m, w.toNat) := by
  simp [fetch, hw, hr, hc]

/-- The same where the cache does not hold the word: it is read from memory, little-endian, and fills TLB and cache. -/
theorem Mach.fetch_memory {m : Mach} {c a : Nat} (hw : m.walkWaits c (m.ctx c).pc.toNat 4 = false)
    (hr : m.resolve c kFetch (m.ctx c).pc.toNat 4 .no = .ok [(.pa a, 4)]) (hp : m.poisonSegs 0 [(.pa a, 4)] = none)
    (hk : ∀ k, m.keyOf a = some k → m.parkedKey k = false) (hc : ∀ e ∈ (m.pair (pairOf c)).icache, e.1 ≠ a) :
    m.fetch c = .ok ((((m.eccRead [(.pa a, 4)]).fillTlb c (m.ctx c).pc.toNat).fillTlb c ((m.ctx c).pc.toNat + 3)).cacheWord c a
      (leVal (m.readPa a 4)), leVal (m.readPa a 4)) := by
  have hmiss : (m.pair (pairOf c)).icache.find? (fun e => e.1 == a) = none := List.find?_eq_none.mpr fun e he => by simpa using hc e he
  have hawake : ((m.keyOf a).map m.parkedKey).getD false = false := by
    cases h : m.keyOf a with
    | none => rfl
    | some k => exact hk k h
  simp [fetch, hw, hr, hp, hmiss, hawake, readSegs, read]

theorem Mach.Kept.ctxs {m n : Mach} (h : m.Kept n) : n.ctxs = m.ctxs := by obtain ⟨_, _, _, _, _, _, _, _, rfl⟩ := h.rest; rfl
theorem Mach.Kept.mem {m n : Mach} (h : m.Kept n) : n.mem = m.mem := by obtain ⟨_, _, _, _, _, _, _, _, rfl⟩ := h.rest; rfl

theorem Mach.kept_fetch (m : Mach) (c a pc w : Nat) :
    m.Kept ((((m.eccRead [(.pa a, 4)]).fillTlb c pc).fillTlb c (pc + 3)).cacheWord c a w) :=
  ((((m.corrected_eccRead _).tended.kept.trans (kept_fillTlb _ _ _)).trans (kept_fillTlb _ _ _))).trans (kept_updPair _ _ fun _ => rfl)

/-! ### Moves -/

/-- The state in which the first move of an agenda is made. -/
def State.moving (s : State) (rest : List Move) (m : Mach) : State := { s with m := m, agenda := rest, tick := s.tick + 1 }

theorem step_eq_of_agenda {s : State} {mv : Move} {rest : List Move} (h : s.agenda = mv :: rest) :
    step s = afterMove (runMove mv (s.moving rest s.m)) := by
  simp only [step, nextMove, h]
  rfl

theorem runMove_tripped {s : State} {mv : Move} (ht : s.plat.tripped = true) (hm : mv.goesOn = false) : runMove mv s = .next s := by
  simp [runMove, ht, hm]

theorem runMove_run {s : State} {c : Nat} (ht : s.plat.tripped = false) (hc : c < 1024) : runMove (.run c false) s = runCtx c false s := by
  simp [runMove, ht, hc]

theorem runMove_nmu {s : State} {n : Nat} (ht : s.plat.tripped = false) (hn : n < 1024) : runMove (.nmu n) s = runNmu n s := by
  simp [runMove, ht, hn]

theorem runMove_ev {s : State} (ht : s.plat.tripped = false) (i : Instr) : runMove (.ev i) s = exec i s := by
  simp [runMove, ht]

theorem runCtx_fetched {s : State} {c : Nat} {r : Mach × Nat} (hr : s.m.runnable c = true) (hf : s.m.fetch c = .ok r) :
    runCtx c false s = execWord r.2 { s with m := r.1.issue c false r.2 } := by
  simp [runCtx, hr, hf]

theorem runCtx_faulted {s : State} {c : Nat} {f : Flt} (hr : s.m.runnable c = true) (hw : s.m.walkWaits c (s.m.ctx c).pc.toNat 4 = false)
    (hf : s.m.resolve c kFetch (s.m.ctx c).pc.toNat 4 .no = .error f) :
    runCtx c false s = .next { s with m := (s.m.issue c false 0).scalarTrap f } := by
  have hraise : s.m.fetch c = .error (.trap f s.m) := by simp [Mach.fetch, hw, hf, raise]
  simp [runCtx, hr, hraise, onMach]

theorem execWord_ok {w : Nat} {i : Instr} {s : State} (h : decode w = .ok i) : execWord w s = exec (resolve i s.m.me) s := by
  simp [execWord, h]

theorem execWord_error {w k : Nat} {s : State} (h : decode w = .error k) :
    execWord w s = .next { s with m := s.m.scalarTrap { code := 1, detail := k } } := by
  simp [execWord, h, onMach, fltInstr]

theorem runNmu_word {s : State} {n : Nat} {r : NRun} {i : Instr} (hr : (s.m.nmu n).cur = some r) (ha : r.at_ < 512)
    (hhint : ¬ (0xF0 ≤ (cget (s.m.nmu n).store r.at_).toNat / 2 ^ 24 ∧ (cget (s.m.nmu n).store r.at_).toNat / 2 ^ 24 ≤ 0xF7))
    (hi : decodeB (cget (s.m.nmu n).store r.at_).toNat = some i) : runNmu n s = exec i { s with m := { s.m with ncur := n } } := by
  have hnot : ¬ (decide (0xF0 ≤ (cget (s.m.nmu n).store r.at_).toNat / 2 ^ 24) &&
      decide ((cget (s.m.nmu n).store r.at_).toNat / 2 ^ 24 ≤ 0xF7)) = true := by simpa using hhint
  rw [runNmu, hr]
  refine (if_neg (Nat.not_le.mpr ha)).trans ((if_neg hnot).trans ?_)
  split
  next j hj => cases hi.symm.trans hj; rfl
  next hj => cases hi.symm.trans hj

theorem runMove_other {s : State} (ht : s.plat.tripped = false) :
    (∀ n key chain meas chal sig h, runMove (.join n key chain meas chal sig h) s = .next (s.join n key chain meas chal sig h)) ∧
    ∀ e, runMove (.net e) s = .next (netMove e s) := by
  simp [runMove, ht]

/-- Settles O60: the step makes the first move of the agenda, and each kind of move through the lemma of what it executes. -/
theorem stepRunsInstruction : Obligations.StepRunsInstruction := by
  unfold Obligations.StepRunsInstruction
  intro s rest
  let next := s.moving rest s.m
  refine ⟨fun mv ha ht hm => ?_, fun ht => ⟨fun c m w ha hc hr hf => ⟨fun i hi => ?_, fun k hk => ?_⟩, fun c f ha hc hr hw hf => ?_,
    fun c a hw hr hp hk hc => ?_, fun c a w hw hr hc => Mach.fetch_cached hw hr hc, fun n r i ha hn hr hat hhint hi => ?_,
    fun i ha => ?_, fun n key chain meas chal sig h ha => ?_, fun e ha => ?_⟩⟩
  · exact (step_eq_of_agenda ha).trans (congrArg afterMove (runMove_tripped (s := next) ht hm))
  · have hrun := (runMove_run (s := next) ht hc).trans (runCtx_fetched (s := next) hr hf)
    exact (step_eq_of_agenda ha).trans (congrArg afterMove (hrun.trans (execWord_ok hi)))
  · have hrun := (runMove_run (s := next) ht hc).trans (runCtx_fetched (s := next) hr hf)
    exact (step_eq_of_agenda ha).trans (congrArg afterMove (hrun.trans (execWord_error hk)))
  · have hrun := (runMove_run (s := next) ht hc).trans (runCtx_faulted (s := next) hr hw hf)
    exact (step_eq_of_agenda ha).trans (congrArg afterMove hrun)
  · have hkept := s.m.kept_fetch c a (s.m.ctx c).pc.toNat (leVal (s.m.readPa a 4))
    exact ⟨_, Mach.fetch_memory hw hr hp hk hc, hkept.ctxs, hkept.mem⟩
  · have hrun := (runMove_nmu (s := next) ht hn).trans (runNmu_word (s := next) hr hat hhint hi)
    exact (step_eq_of_agenda ha).trans (congrArg afterMove hrun)
  · exact (step_eq_of_agenda ha).trans (congrArg afterMove (runMove_ev (s := next) ht i))
  · exact (step_eq_of_agenda ha).trans (congrArg afterMove ((runMove_other (s := next) ht).1 n key chain meas chal sig h))
  · exact (step_eq_of_agenda ha).trans (congrArg afterMove ((runMove_other (s := next) ht).2 e))

end Sys2Proof.Machine
end

section
/-!
PROOFS. Scalar reads of images (R140, R151, R185, R331, R445): what translations and reads leave, and that the reads of an image, one
after another, give its bytes.
-/

namespace Sys2Proof.Machine

/-! ### Machines that translate alike

`Mach.fetched` translates the words of an image without reading them; an instruction reads each word before it translates the next. Between the
two machines only counts, beats, flits and corrected errors differ, on which no translation rests. -/

/-- The machines differ in event counts, owed beats, flits and corrected errors alone. -/
structure Mach.Alike (m n : Mach) : Prop where
  rest : ∃ ps so dc ic us, n = { m with pairs := ps, soft := so, dieCnt := dc, iodCnt := ic, used := us }
  tlb : ∀ p, (n.pair p).tlb = (m.pair p).tlb
  probe : ∀ p, (n.pair p).probe = (m.pair p).probe

theorem Mach.Alike.refl (m : Mach) : m.Alike m := ⟨⟨_, _, _, _, _, rfl⟩, fun _ => rfl, fun _ => rfl⟩

theorem Mach.Alike.symm {m n : Mach} (h : m.Alike n) : n.Alike m := by
  refine ⟨?_, fun p => (h.tlb p).symm, fun p => (h.probe p).symm⟩
  obtain ⟨_, _, _, _, _, rfl⟩ := h.rest
  exact ⟨m.pairs, m.soft, m.dieCnt, m.iodCnt, m.used, rfl⟩

theorem Mach.Alike.trans {m n o : Mach} (h : m.Alike n) (k : n.Alike o) : m.Alike o := by
  refine ⟨?_, fun p => (k.tlb p).trans (h.tlb p), fun p => (k.probe p).trans (h.probe p)⟩
  obtain ⟨_, _, _, _, _, hn⟩ := h.rest
  obtain ⟨ps, so, dc, ic, us, ho⟩ := k.rest
  exact ⟨ps, so, dc, ic, us, by rw [ho, hn]⟩

theorem Mach.Alike.foldl {α : Type} {f : Mach → α → Mach} (hf : ∀ (m n : Mach) a, m.Alike n → (f m a).Alike (f n a)) (l : List α) {m n : Mach}
    (h : m.Alike n) : (l.foldl f m).Alike (l.foldl f n) := by
  induction l generalizing m n with
  | nil => exact h
  | cons a l ih => exact ih (hf m n a h)

theorem Mach.Alike.parts {m n : Mach} (h : m.Alike n) : n.parts = m.parts := by obtain ⟨_, _, _, _, _, rfl⟩ := h.rest; rfl
theorem Mach.Alike.ctxs {m n : Mach} (h : m.Alike n) : n.ctxs = m.ctxs := by obtain ⟨_, _, _, _, _, rfl⟩ := h.rest; rfl
theorem Mach.Alike.nmus {m n : Mach} (h : m.Alike n) : n.nmus = m.nmus := by obtain ⟨_, _, _, _, _, rfl⟩ := h.rest; rfl
theorem Mach.Alike.cur {m n : Mach} (h : m.Alike n) : n.cur = m.cur := by obtain ⟨_, _, _, _, _, rfl⟩ := h.rest; rfl
theorem Mach.Alike.ctx {m n : Mach} (h : m.Alike n) (c : Nat) : n.ctx c = m.ctx c := by rw [Mach.ctx, h.ctxs, Mach.ctx]
theorem Mach.Alike.me {m n : Mach} (h : m.Alike n) : n.me = m.me := by rw [Mach.me, h.cur, h.ctx, Mach.me]

theorem Mach.Alike.sameMaps {m n : Mach} (h : m.Alike n) (c : Nat) : m.SameMaps n c := by
  have htlb := h.tlb (pairOf c)
  have hprobe := h.probe (pairOf c)
  obtain ⟨_, _, _, _, _, rfl⟩ := h.rest
  exact ⟨rfl, rfl, rfl, rfl, rfl, rfl, rfl, rfl, htlb, hprobe⟩

theorem Mach.Alike.of_corrected {m n : Mach} (h : m.Corrected n) : m.Alike n := by
  obtain ⟨_, _, _, rfl⟩ := h
  exact ⟨⟨_, _, _, _, _, rfl⟩, fun _ => rfl, fun _ => rfl⟩

/-- A change of a pair that its translations do not show. -/
theorem Mach.alike_updPair (m : Mach) (p : Nat) {f : Pair → Pair} (hf : ∀ u, (f u).tlb = u.tlb ∧ (f u).probe = u.probe) :
    m.Alike (m.updPair p f) := by
  refine ⟨⟨_, _, _, _, _, rfl⟩, fun q => ?_, fun q => ?_⟩
  all_goals
    by_cases hq : q = p
    · simp [hq, hf]
    · rw [m.pair_updPair_ne p q f hq]

theorem Mach.alike_count (m : Mach) (c src k : Nat) : m.Alike (m.count c src k) := by
  simp only [count]
  split
  · exact m.alike_updPair _ fun _ => ⟨rfl, rfl⟩
  · exact .refl m

theorem Mach.alike_beats (m : Mach) (c res k : Nat) : m.Alike (m.beats c res k) := by
  simp only [beats]
  split
  · exact .refl m
  · refine .trans (n := m.updPair (pairOf c) fun p => { p with need := mapAt p.need (4 * res + c % 4) (· ++ [k]) })
      (m.alike_updPair _ fun _ => ⟨rfl, rfl⟩) ?_
    split
    · exact alike_count _ _ _ _
    · split
      · exact alike_count _ _ _ _
      · exact .refl _

theorem Mach.alike_fetchFlits (m : Mach) (d cls : Nat) (ss : List (Loc × Nat)) : m.Alike (m.fetchFlits d cls ss) := by
  refine foldl_keep (fun n => m.Alike n) _ ss m (.refl m) fun n s hn => hn.trans ?_
  split
  · obtain ⟨us, dc, h⟩ := n.charge_eq _ d cls s.2
    rw [h]
    exact ⟨⟨_, _, _, _, _, rfl⟩, fun _ => rfl, fun _ => rfl⟩
  · exact .refl n

/-- What a read costs is nothing that a translation sees. -/
theorem Mach.alike_readCost (m : Mach) (c cls : Nat) (ss : List (Loc × Nat)) : m.Alike (m.readCost c cls ss) :=
  ((Alike.of_corrected (m.corrected_eccRead ss)).trans ((alike_beats _ _ _ _).trans (alike_beats _ _ _ _))).trans (alike_fetchFlits _ _ _ _)

/-! ### Translations of machines that are alike -/

theorem Mach.Alike.parkOut {m n : Mach} (h : m.Alike n) (pc : Nat) : (m.parkOut pc).Alike (n.parkOut pc) := by
  have hnmu : n.nmu pc = m.nmu pc := by rw [Mach.nmu, h.nmus, Mach.nmu]
  simp only [Mach.parkOut, hnmu]
  split
  · exact h
  · have hk := (Alike.of_corrected (m.corrected_eccKeys (parkKey pc) Config.parkBytes)).symm.trans
      (h.trans (.of_corrected (n.corrected_eccKeys (parkKey pc) Config.parkBytes)))
    generalize m.eccKeys (parkKey pc) Config.parkBytes = a, n.eccKeys (parkKey pc) Config.parkBytes = b at hk
    have htlb := hk.tlb
    have hprobe := hk.probe
    obtain ⟨ps, so, dc, ic, us, rfl⟩ := hk.rest
    simp only
    split
    · exact ⟨⟨ps, so, dc, ic, us, rfl⟩, htlb, hprobe⟩
    · exact ⟨⟨ps, so, dc, ic, us, rfl⟩, htlb, hprobe⟩

theorem Mach.Alike.wake {m n : Mach} (h : m.Alike n) (ss : List (Loc × Nat)) : (m.wake ss).Alike (n.wake ss) := by
  simp only [Mach.wake, h.nmus]
  split
  · exact h
  · refine h.foldl (fun a b s hab => ?_) ss
    obtain ⟨l, k⟩ := s
    cases l with
    | pa pa =>
      simp only [Mach.keyRuns_congr hab.parts]
      refine hab.foldl (fun a b r hab => ?_) _
      split
      · split
        · exact hab.parkOut _
        · exact hab
      · exact hab
    | vr c off => exact hab
    | acc c off => exact hab

theorem Mach.SameMaps.walk {m n : Mach} {c : Nat} (h : m.SameMaps n c) (k va : Nat) : n.walk c k va = m.walk c k va := by
  simp only [Mach.walk, Mach.part, h.walkFrom, h.qOf, h.parts]

theorem Mach.SameMaps.walkReads {m n : Mach} {c : Nat} (h : m.SameMaps n c) (va lvl table : Nat) :
    n.walkReads c va lvl table = m.walkReads c va lvl table := by
  induction lvl generalizing table with
  | zero => rfl
  | succ lvl ih => simp only [Mach.walkReads, h.readSeen, ih]

theorem Mach.SameMaps.leafBits {m n : Mach} {c : Nat} (h : m.SameMaps n c) (va pte lvl : Nat) : n.leafBits c va pte lvl = m.leafBits c va pte lvl := by
  unfold Mach.leafBits Mach.page64
  simp only [h.walk]

theorem Mach.SameMaps.pageOf {m n : Mach} {c : Nat} (h : m.SameMaps n c) (va : Nat) : n.pageOf c va = m.pageOf c va := by
  simp only [Mach.pageOf, h.tlbFind, h.leaf, h.leafBits]

theorem Mach.Alike.walkMarks {m n : Mach} (h : m.Alike n) (c va : Nat) : (m.walkMarks c va).Alike (n.walkMarks c va) := by
  have hpart : n.part (n.qOf c) = m.part (m.qOf c) := by rw [(h.sameMaps c).qOf, Mach.part, h.parts, Mach.part]
  simp only [Mach.walkMarks, hpart, (h.sameMaps c).walkReads]
  split
  · exact Alike.wake ((Alike.of_corrected (m.corrected_eccRead _)).symm.trans (h.trans (.of_corrected (n.corrected_eccRead _)))) _
  · exact h

theorem Mach.Alike.updPair {m n : Mach} (h : m.Alike n) (p : Nat) {f : Pair → Pair}
    (hf : ∀ u v, u.tlb = v.tlb → u.probe = v.probe → (f u).tlb = (f v).tlb ∧ (f u).probe = (f v).probe) :
    (m.updPair p f).Alike (n.updPair p f) := by
  refine ⟨?_, fun q => ?_, fun q => ?_⟩
  · obtain ⟨_, so, dc, ic, us, hn⟩ := h.rest
    exact ⟨_, so, dc, ic, us, by rw [Mach.updPair, hn]; rfl⟩
  all_goals
    by_cases hq : q = p
    · simp only [hq, Mach.pair_updPair, hf _ _ (h.tlb p) (h.probe p)]
    · simp only [Mach.pair_updPair_ne _ p q f hq, h.tlb, h.probe]

theorem Mach.Alike.fillTlb {m n : Mach} (h : m.Alike n) (c va : Nat) : (m.fillTlb c va).Alike (n.fillTlb c va) := by
  simp only [Mach.fillTlb, (h.sameMaps c).tlbFind]
  split
  · exact h
  · have hmarks := ((m.alike_count c evWalk 1).symm.trans (h.trans (n.alike_count c evWalk 1))).walkMarks c va
    generalize (m.count c evWalk 1).walkMarks c va = a, (n.count c evWalk 1).walkMarks c va = b at hmarks
    have hmaps := hmarks.sameMaps c
    simp only [hmaps.walk]
    split
    next l hl =>
      have hent : b.tlbEnt c va l.1 l.2 = a.tlbEnt c va l.1 l.2 := by simp only [Mach.tlbEnt, hmaps.leafBits, hmaps.qOf]
      rw [hent]
      exact hmarks.updPair _ fun u v ht hp => ⟨by rw [ht], hp⟩
    next => exact hmarks

theorem Mach.Alike.touch {m n : Mach} (h : m.Alike n) (c va : Nat) : (m.touch c va).Alike (n.touch c va) := by
  unfold Mach.touch
  split
  · exact h
  · exact Alike.fillTlb ((m.alike_count c evTranslate 1).symm.trans (h.trans (n.alike_count c evTranslate 1))) c va

theorem Mach.Alike.touchRange (c fuel : Nat) {m n : Mach} (h : m.Alike n) (va l : Nat) : (m.touchRange c fuel va l).Alike (n.touchRange c fuel va l) := by
  induction fuel generalizing m n va l with
  | zero => exact h
  | succ fuel ih =>
    simp only [Mach.touchRange, (h.sameMaps c).pageOf]
    split
    · exact h
    · exact ih (h.touch c va) _ _

theorem Mach.Alike.upd {m n : Mach} (h : m.Alike n) (f : Ctx → Ctx) : (m.upd f).Alike (n.upd f) := by
  have htlb := h.tlb
  have hprobe := h.probe
  obtain ⟨ps, so, dc, ic, us, rfl⟩ := h.rest
  exact ⟨⟨ps, so, dc, ic, us, rfl⟩, htlb, hprobe⟩

/-- The machine once access `key` of the acting context has translated n bytes at va (R212). -/
def Mach.reached (m : Mach) (key va n : Nat) : Mach := m.countKey key fun m => m.touchN m.cur va n

theorem Mach.Alike.reached {m n : Mach} (h : m.Alike n) (key va l : Nat) : (m.reached key va l).Alike (n.reached key va l) := by
  simp only [Mach.reached, Mach.countKey, h.me, h.cur]
  split
  · exact h
  · exact (h.touchRange _ _ _ _).upd _

/-- Whatever windows an access accepts, it resolves alike. -/
theorem Mach.Alike.resolve {m n : Mach} (h : m.Alike n) (c k va l : Nat) (win : Win) (eng : Bool) :
    n.resolve c k va l win eng = m.resolve c k va l win eng := by
  have hwin : n.window c k va l win = m.window c k va l win := by
    unfold Mach.window Mach.windowIdx Mach.ctxOfTask
    simp only [h.ctx, h.ctxs]
  simp only [Mach.resolve, hwin, (h.sameMaps c).pages]

end Sys2Proof.Machine
end

section
/-!
PROOFS. What reading leaves: translations, and the reads of an image one after another (R140, R151, R185, R331, R445).
-/

namespace Sys2Proof.Machine

/-! ### What reading leaves -/

/-- From m to n memory has been read: what `Mach.Kept` allows, and the marks of the accesses whose translations are counted; the cached bank sets
stay, and no NMU has begun a run. -/
structure Mach.Reads (m n : Mach) : Prop where
  rest : ∃ cs ps so dc ic pf nm us pa, n = { m with
    ctxs := cs, pairs := ps, soft := so, dieCnt := dc, iodCnt := ic, pfaults := pf, nmus := nm, used := us, pacts := pa }
  ctx : ∀ c, ∃ ks, n.ctx c = { m.ctx c with counted := ks }
  others : ∀ c, c ≠ m.cur → n.ctx c = m.ctx c
  bstc : ∀ p, (n.pair p).bstc = (m.pair p).bstc
  idle : ∀ i, (m.nmu i).cur = none → (n.nmu i).cur = none
  free : ∀ ss, m.chainBusy ss = false → n.chainBusy ss = false
  runs : ∀ c, n.runsOf c ≤ m.runsOf c

theorem Mach.Reads.of_kept {m n : Mach} (h : m.Kept n) (hb : ∀ p, (n.pair p).bstc = (m.pair p).bstc)
    (hi : ∀ i, (m.nmu i).cur = none → (n.nmu i).cur = none) : m.Reads n := by
  have hctx : ∀ c, n.ctx c = m.ctx c := fun c => by
    obtain ⟨_, _, _, _, _, _, _, _, rfl⟩ := h.rest
    rfl
  refine ⟨?_, fun c => ⟨_, hctx c⟩, fun c _ => hctx c, hb, hi, h.free, h.runs⟩
  obtain ⟨_, _, _, _, _, _, _, _, rfl⟩ := h.rest
  exact ⟨_, _, _, _, _, _, _, _, _, rfl⟩

theorem Mach.Reads.refl (m : Mach) : m.Reads m := .of_kept (.refl m) (fun _ => rfl) fun _ h => h

theorem Mach.Reads.cur {m n : Mach} (h : m.Reads n) : n.cur = m.cur := by obtain ⟨_, _, _, _, _, _, _, _, _, rfl⟩ := h.rest; rfl
theorem Mach.Reads.parts {m n : Mach} (h : m.Reads n) : n.parts = m.parts := by obtain ⟨_, _, _, _, _, _, _, _, _, rfl⟩ := h.rest; rfl
theorem Mach.Reads.mem {m n : Mach} (h : m.Reads n) : n.mem = m.mem := by obtain ⟨_, _, _, _, _, _, _, _, _, rfl⟩ := h.rest; rfl
theorem Mach.Reads.poison {m n : Mach} (h : m.Reads n) : n.poison = m.poison := by obtain ⟨_, _, _, _, _, _, _, _, _, rfl⟩ := h.rest; rfl

theorem Mach.Reads.trans {m n o : Mach} (h : m.Reads n) (k : n.Reads o) : m.Reads o := by
  refine ⟨?_, fun c => ?_, fun c hc => (k.others c (h.cur.symm ▸ hc)).trans (h.others c hc), fun p => (k.bstc p).trans (h.bstc p),
    fun i hi => k.idle i (h.idle i hi), fun ss hs => k.free ss (h.free ss hs), fun c => (k.runs c).trans (h.runs c)⟩
  · obtain ⟨_, _, _, _, _, _, _, _, _, hn⟩ := h.rest
    obtain ⟨cs, ps, so, dc, ic, pf, nm, us, pa, ho⟩ := k.rest
    exact ⟨cs, ps, so, dc, ic, pf, nm, us, pa, by rw [ho, hn]⟩
  · obtain ⟨_, hn⟩ := h.ctx c
    obtain ⟨ks, ho⟩ := k.ctx c
    exact ⟨ks, by rw [ho, hn]⟩

theorem Mach.Reads.foldl {α : Type} {f : Mach → α → Mach} (hf : ∀ (m : Mach) a, m.Reads (f m a)) (l : List α) (m : Mach) :
    m.Reads (l.foldl f m) := foldl_keep (fun n => m.Reads n) f l m (.refl m) fun n a hn => hn.trans (hf n a)

theorem Mach.Corrected.reads {m n : Mach} (h : m.Corrected n) : m.Reads n := by
  have hk := h.tended.kept
  obtain ⟨_, _, _, rfl⟩ := h
  exact .of_kept hk (fun _ => rfl) fun _ h => h

/-- A change of a pair that leaves its statistics queue and its bank sets. -/
theorem Mach.reads_updPair (m : Mach) (p : Nat) {f : Pair → Pair} (hf : ∀ u, (f u).sq = u.sq ∧ (f u).bstc = u.bstc) : m.Reads (m.updPair p f) := by
  refine .of_kept (m.kept_updPair p fun u => (hf u).1) (fun q => ?_) fun _ h => h
  by_cases hq : q = p
  · rw [hq, pair_updPair, (hf _).2]
  · rw [pair_updPair_ne _ _ _ _ hq]

theorem Mach.reads_count (m : Mach) (c src k : Nat) : m.Reads (m.count c src k) := by
  simp only [count]
  split
  · exact m.reads_updPair _ fun _ => ⟨rfl, rfl⟩
  · exact .refl m

theorem Mach.reads_beats (m : Mach) (c res k : Nat) : m.Reads (m.beats c res k) := by
  simp only [beats]
  split
  · exact .refl m
  · refine .trans (n := m.updPair (pairOf c) fun p => { p with need := mapAt p.need (4 * res + c % 4) (· ++ [k]) })
      (m.reads_updPair _ fun _ => ⟨rfl, rfl⟩) ?_
    split
    · exact reads_count _ _ _ _
    · split
      · exact reads_count _ _ _ _
      · exact .refl _

theorem Mach.reads_fetchFlits (m : Mach) (d cls : Nat) (ss : List (Loc × Nat)) : m.Reads (m.fetchFlits d cls ss) := by
  refine .foldl (fun n s => ?_) ss m
  split
  · have hk := n.kept_charge (by assumption) d cls s.2
    obtain ⟨us, dc, h⟩ := n.charge_eq _ d cls s.2
    rw [h] at hk ⊢
    exact .of_kept hk (fun _ => rfl) fun _ h => h
  · exact .refl n

theorem Mach.reads_readCost (m : Mach) (c cls : Nat) (ss : List (Loc × Nat)) : m.Reads (m.readCost c cls ss) :=
  ((m.corrected_eccRead ss).reads.trans ((reads_beats _ _ _ _).trans (reads_beats _ _ _ _))).trans (reads_fetchFlits _ _ _ _)

theorem Mach.reads_parkOut (m : Mach) (pc : Nat) : m.Reads (m.parkOut pc) := by
  have hk := (m.tended_parkOut pc).kept
  simp only [parkOut] at hk ⊢
  split
  · exact .refl m
  next hpc =>
    rw [if_neg hpc] at hk
    obtain ⟨so, dc, ic, he⟩ := m.corrected_eccKeys (parkKey pc) Config.parkBytes
    rw [he] at hk ⊢
    split
    next hp =>
      rw [if_pos hp] at hk
      refine .of_kept hk (fun _ => rfl) fun i hi => ?_
      by_cases hip : i = pc
      · simp [hip, Nmu.reset]
      · rwa [nmu_updNmu_ne _ _ _ _ hip]
    next hp =>
      rw [if_neg hp] at hk
      refine .of_kept hk (fun _ => rfl) fun i hi => ?_
      by_cases hip : i = pc
      · rw [hip] at hi
        rw [hip, nmu_updNmu]
        exact hi
      · rwa [nmu_updNmu_ne _ _ _ _ hip]

theorem Mach.reads_wake (m : Mach) (ss : List (Loc × Nat)) : m.Reads (m.wake ss) := by
  unfold wake
  split
  · exact .refl m
  · refine .foldl (fun m s => ?_) _ m
    split
    · refine .foldl (fun m r => ?_) _ m
      split
      · split
        · exact m.reads_parkOut _
        · exact .refl m
      · exact .refl m
    · exact .refl m

theorem Mach.reads_fillTlb (m : Mach) (c va : Nat) : m.Reads (m.fillTlb c va) := by
  simp only [fillTlb]
  split
  · exact .refl m
  · have hwalk : m.Reads ((m.count c evWalk 1).walkMarks c va) := by
      refine (m.reads_count c evWalk 1).trans ?_
      unfold walkMarks
      split
      · exact (corrected_eccRead _ _).reads.trans (reads_wake _ _)
      · exact .refl _
    split
    · exact hwalk.trans (reads_updPair _ _ fun _ => ⟨rfl, rfl⟩)
    · exact hwalk

theorem Mach.reads_touchRange (c fuel : Nat) (m : Mach) (va l : Nat) : m.Reads (m.touchRange c fuel va l) := by
  induction fuel generalizing m va l with
  | zero => exact .refl m
  | succ fuel ih =>
    simp only [touchRange]
    split
    · exact .refl m
    · refine .trans (n := m.touch c va) ?_ (ih _ _ _)
      unfold touch
      split
      · exact .refl m
      · exact (m.reads_count c evTranslate 1).trans (reads_fillTlb _ _ _)

theorem Mach.reads_counted (m : Mach) (key : Nat) : m.Reads (m.upd fun x => { x with counted := key :: x.counted }) := by
  refine ⟨⟨_, _, _, _, _, _, _, _, _, rfl⟩, fun c => ?_, fun c hc => m.ctx_upd_ne c _ hc, fun _ => rfl, fun _ h => h,
    fun ss hs => (chainBusy_congr (m := m) (n := m.upd _) rfl rfl rfl ss).trans hs, fun _ => le_refl _⟩
  by_cases hc : c = m.cur
  · subst hc
    exact ⟨_, m.me_upd _⟩
  · exact ⟨_, m.ctx_upd_ne c _ hc⟩

theorem Mach.reads_reached (m : Mach) (key va l : Nat) : m.Reads (m.reached key va l) := by
  unfold reached countKey
  split
  · exact .refl m
  · exact (reads_touchRange _ _ _ _ _).trans (reads_counted _ _)

/-! ### What a scalar read sees once others have read -/

section
variable {m n : Mach} (h : m.Reads n)
include h

theorem Mach.Reads.me : ∃ ks, n.me = { m.me with counted := ks } := by
  obtain ⟨ks, hc⟩ := h.ctx m.cur
  exact ⟨ks, by rw [Mach.me, h.cur, hc, Mach.me]⟩

theorem Mach.Reads.readBuf (l : Loc) (k : Nat) : n.readBuf n.cur l k = m.readBuf m.cur l k := by
  have hread : n.read l k = m.read l k := by
    cases l with
    | pa a => exact Mach.readPa_congr h.parts h.mem a k
    | vr c off =>
      obtain ⟨ks, hc⟩ := h.ctx c
      simp only [Mach.read, hc]
      rfl
    | acc c off =>
      obtain ⟨ks, hc⟩ := h.ctx c
      simp only [Mach.read, hc]
      rfl
  obtain ⟨ks, hc⟩ := h.ctx m.cur
  simp only [Mach.readBuf, hread, h.cur, hc]

theorem Mach.Reads.poisonAt (l : Loc) (k : Nat) : n.poisonAt l k = m.poisonAt l k := by
  cases l with
  | pa a => exact Mach.poisonAt_pa_congr h.parts h.poison a k
  | vr c off =>
    obtain ⟨ks, hc⟩ := h.ctx c
    simp only [Mach.poisonAt, hc]
    rfl
  | acc c off =>
    obtain ⟨ks, hc⟩ := h.ctx c
    simp only [Mach.poisonAt, hc]

theorem Mach.Reads.poisonBuf (o : Nat) (ss : List (Loc × Nat)) : n.poisonBuf n.cur o ss = m.poisonBuf m.cur o ss := by
  obtain ⟨ks, hc⟩ := h.ctx m.cur
  induction ss generalizing o with
  | nil => rfl
  | cons s ss ih =>
    rw [h.cur] at ih ⊢
    simp only [Mach.poisonBuf, hc, h.poisonAt, ih]

/-- What does not make a scalar load wait does not make it wait later. -/
theorem Mach.Reads.loadFree {ss : List (Loc × Nat)} (hf : (m.ownWindowReady m.cur ss && !m.chainBusy ss && !m.me.pluralAhead m.me.stamp ss &&
    m.me.loadMayGo ss) = true) :
    (n.ownWindowReady n.cur ss && !n.chainBusy ss && !n.me.pluralAhead n.me.stamp ss && n.me.loadMayGo ss) = true := by
  obtain ⟨ks, hme⟩ := h.me
  have hown : n.ownWindowReady n.cur ss = m.ownWindowReady m.cur ss := by
    have hctx : n.ctx m.cur = { m.ctx m.cur with counted := ks } := by
      rw [Mach.me, h.cur] at hme
      exact hme
    simp only [Mach.ownWindowReady, h.cur, hctx]
    rfl
  simp only [Bool.and_eq_true, Bool.not_eq_true'] at hf ⊢
  obtain ⟨⟨⟨hw, hbusy⟩, hplural⟩, hgo⟩ := hf
  rw [hme, hown]
  exact ⟨⟨⟨hw, h.free ss hbusy⟩, hplural⟩, hgo⟩

end

/-- A load that may go has no older atomic, so no walk for it waits (R186, R253). -/
theorem Mach.walkWaits_of_loadMayGo {m : Mach} {ss : List (Loc × Nat)} (h : m.me.loadMayGo ss = true) (va k : Nat) : m.walkWaits m.cur va k = false := by
  have hamo : m.amoAhead m.cur = false := by
    simp only [Ctx.loadMayGo, Bool.and_eq_true, Bool.not_eq_true', List.any_eq_false] at h
    simp only [amoAhead, List.any_eq_false, Bool.and_eq_true, not_and]
    exact fun e he _ => h.1.1 e he
  simp [walkWaits, hamo]

/-- One aligned read from one location of this chip (R331). -/
theorem Mach.scalarReadAt_ok {m : Mach} {win : Win} {key va w : Nat} {l : Loc} (hpart : firstPart va w = 0)
    (hhere : (m.reached key va w).resolve m.cur kRead va w win = .ok [(l, w)]) (hlocal : apertureOf l = none)
    (hfree : (m.ownWindowReady m.cur [(l, w)] && !m.chainBusy [(l, w)] && !m.me.pluralAhead m.me.stamp [(l, w)] && m.me.loadMayGo [(l, w)]) = true)
    (hclean : m.poisonBuf m.cur 0 [(l, w)] = none) :
    m.scalarReadAt win key va w = .ok ((m.reached key va w).readCost m.cur 0 [(l, w)], m.readBuf m.cur l w) := by
  have hr := m.reads_reached key va w
  have hgo : m.me.loadMayGo [(l, w)] = true := (Bool.and_eq_true_iff.mp hfree).2
  have hfree' := hr.loadFree hfree
  have hclean' := (hr.poisonBuf 0 [(l, w)]).trans hclean
  have hbuf := hr.readBuf l w
  have hparts : inParts va w [(l, w)] = [(l, w)] := by rw [inParts, hpart]; rfl
  have hreached : (m.countKey key fun n => n.touchN m.cur va w) = m.reached key va w := by simp only [reached, countKey]
  rw [hr.cur] at hfree' hclean' hbuf
  simp [scalarReadAt, walkWaits_of_loadMayGo hgo, hreached, hhere, hfree', hclean', hparts, scalarBytes, hlocal, hbuf, hr.cur, orRaise, waitFor,
    bind, Except.bind, pure, Except.pure]

end Sys2Proof.Machine
end

section
/-!
PROOFS. `pmld`, and the steps of NMUs (R123, R156, R309, R310, R427, R429).
-/

namespace Sys2Proof.Machine

/-! ### The loads of an image -/

/-- Words of 4 or 8 bytes at a multiple of their size are read in one part (R332). -/
theorem firstPart_of_aligned {va w : Nat} (i : Nat) (h : va % w = 0 ∧ (w = 4 ∨ w = 8)) : firstPart ((va + w * i) % 2 ^ 64) w = 0 := by
  obtain ⟨hva, rfl | rfl⟩ := h
  all_goals
    rw [firstPart, if_neg]
    omega

theorem Mach.fetched_succ (m : Mach) (key va w k : Nat) :
    m.fetched key va w (k + 1) = (m.fetched key va w k).reached (key + 2 * k) ((va + w * k) % 2 ^ 64) w := by
  simp only [fetched, List.range_succ, List.foldl_append, List.foldl_cons, List.foldl_nil, reached]

theorem Mach.image_succ (m : Mach) (w k : Nat) (loc : Nat → Loc) : m.image w (k + 1) loc = m.image w k loc ++ m.readBuf m.cur (loc k) w := by
  simp only [image, List.range_succ, List.flatMap_append, List.flatMap_cons, List.flatMap_nil, List.append_nil]

/-- The first k reads of an image give its first k words: what is free and clean stays so, and the machine translates as if the words were
translated alone. -/
theorem Mach.loadsFrom_image {m : Mach} {win : Win} {key va w n : Nat} {loc : Nat → Loc} (h : m.Image win key va w n loc) (k : Nat) (hk : k ≤ n) :
    ∃ m', m.loadsFrom win key va w k = .ok (m', m.image w k loc) ∧ m.Reads m' ∧ (m.fetched key va w k).Alike m' := by
  induction k with
  | zero => exact ⟨m, rfl, .refl m, .refl m⟩
  | succ k ih =>
    obtain ⟨m', hload, hreads, halike⟩ := ih (by omega)
    have halike' := halike.reached (key + 2 * k) ((va + w * k) % 2 ^ 64) w
    have hhere := h.here k hk
    rw [fetched_succ, ← halike'.resolve, ← hreads.cur] at hhere
    have hread := scalarReadAt_ok (firstPart_of_aligned k h.whole) hhere (h.local_ k hk) (hreads.loadFree (h.free k hk))
      ((hreads.poisonBuf 0 _).trans (h.clean k hk))
    rw [hreads.readBuf] at hread
    have hcost := halike'.trans (alike_readCost _ m'.cur 0 [(loc k, w)])
    refine ⟨_, ?_, hreads.trans ((m'.reads_reached _ _ _).trans (reads_readCost _ _ _ _)), fetched_succ .. ▸ hcost⟩
    rw [image_succ]
    simp only [loadsFrom, hload, bind, Except.bind, hread, pure, Except.pure]

/-! ### `pmld` -/

/-- A context whose bank queue is empty and whose runs no NMU holds has none outstanding (R264). -/
theorem Mach.runsDue_eq_false {m : Mach} {c : Nat} : m.runsDue c = false ↔ (m.ctx c).bankq = [] ∧ m.runsOf c = 0 := by
  simp only [runsDue, runsOf, Bool.or_eq_false_iff, Bool.not_eq_false', List.isEmpty_iff, List.any_eq_false, List.sum_eq_zero_iff, List.mem_map,
    forall_exists_index, and_imp, forall_apply_eq_imp_iff₂]
  refine and_congr_right fun _ => forall₂_congr fun e _ => ?_
  cases e.2.cur <;> simp [List.filter_eq_nil_iff]

/-- What loading microprogram stores changes. -/
theorem Mach.loadStores_eq (m : Mach) (ns : List Nat) (at_ : Nat) (ws : List Nat) :
    m.loadStores ns at_ ws = { m with nmus := (m.loadStores ns at_ ws).nmus } := by
  induction ns generalizing m with
  | nil => rfl
  | cons k ns ih => exact ih _

/-- What is loaded rests on the stores alone. -/
theorem Mach.loadStores_nmus {m n : Mach} (h : n.nmus = m.nmus) (ns : List Nat) (at_ : Nat) (ws : List Nat) :
    (n.loadStores ns at_ ws).nmus = (m.loadStores ns at_ ws).nmus := by
  induction ns generalizing m n with
  | nil => exact h
  | cons k ns ih => exact ih (by simp only [updNmu, nmu, h])

/-- Where no target executes a run, all are written at once (R427). -/
theorem Mach.pmldWrite_idle {m : Mach} {ns : List Nat} (h : ∀ u ∈ ns, (m.nmu u).cur = none) (at_ : Nat) (ws : List Nat) :
    m.pmldWrite at_ ws ns = .ok ((m.loadStores ns at_ ws).upd fun x => { x with pload := some (ws, some []) }) := by
  have hnow : (ns.filter fun u => (m.nmu u).cur.isNone) = ns := List.filter_eq_self.mpr fun u hu => by simp [h u hu]
  have hleft : (ns.filter fun u => (m.nmu u).cur.isSome) = [] := List.filter_eq_nil_iff.mpr fun u hu => by simp [h u hu]
  simp only [pmldWrite, hnow, hleft, List.isEmpty_nil, if_true]

/-- The machine of a `pmld` that has read its words ws (R427 step 1). -/
def Mach.pmldHeld (m : Mach) (ws : List Nat) : Mach := (m.dropReqs m.cur m.me.pc).upd fun x => { x with pload := some (ws, none) }

theorem Mach.pmldHeld_eq (m : Mach) (ws : List Nat) :
    ∃ rs cs, m.pmldHeld ws = { m with ctxs := cs, troupe := { m.troupe with reqs := rs } } := by
  unfold pmldHeld dropReqs
  split
  · exact ⟨m.troupe.reqs, _, rfl⟩
  · exact ⟨_, _, rfl⟩

theorem Mach.pmldHeld_cur (m : Mach) (ws : List Nat) : (m.pmldHeld ws).cur = m.cur := by
  obtain ⟨_, _, h⟩ := m.pmldHeld_eq ws
  rw [h]

theorem Mach.pmldHeld_nmus (m : Mach) (ws : List Nat) : (m.pmldHeld ws).nmus = m.nmus := by
  obtain ⟨_, _, h⟩ := m.pmldHeld_eq ws
  rw [h]

theorem Mach.ctx_dropReqs (m : Mach) (c : Nat) (pc : Word) (d : Nat) : (m.dropReqs c pc).ctx d = m.ctx d := by
  unfold dropReqs
  split <;> rfl

theorem Mach.dropReqs_cur (m : Mach) (c : Nat) (pc : Word) : (m.dropReqs c pc).cur = m.cur := by
  unfold dropReqs
  split <;> rfl

theorem Mach.me_pmldHeld (m : Mach) (ws : List Nat) : (m.pmldHeld ws).me = { m.me with pload := some (ws, none) } := by
  rw [pmldHeld, me_upd, me, me, ctx_dropReqs, dropReqs_cur]

theorem Mach.ctx_pmldHeld_ne (m : Mach) (ws : List Nat) {c : Nat} (h : c ≠ m.cur) : (m.pmldHeld ws).ctx c = m.ctx c := by
  rw [pmldHeld, ctx_upd_ne _ _ _ (by rwa [dropReqs_cur]), ctx_dropReqs]

theorem Mach.sameMaps_pmldHeld (m : Mach) (ws : List Nat) : m.SameMaps (m.pmldHeld ws) m.cur := by
  have hme : (m.pmldHeld ws).me = _ := m.me_pmldHeld ws
  obtain ⟨rs, cs, he⟩ := m.pmldHeld_eq ws
  have hcur := m.pmldHeld_cur ws
  have hctx : (m.pmldHeld ws).ctx m.cur = { m.ctx m.cur with pload := some (ws, none) } := (congrArg (m.pmldHeld ws).ctx hcur).symm.trans hme
  refine ⟨by rw [he], by rw [he], by rw [he], by rw [he], hcur, by rw [hme], by rw [hctx], by rw [hctx], ?_, ?_⟩
  all_goals
    rw [he]
    rfl

theorem Mach.pmldSet_pmldHeld (m : Mach) (ws : List Nat) (w : Nat) : pmldSet (m.pmldHeld ws) w = pmldSet m w := by
  have hcur := m.pmldHeld_cur ws
  have hq : (m.pmldHeld ws).qOf m.cur = m.qOf m.cur := (m.sameMaps_pmldHeld ws).qOf
  obtain ⟨_, _, h⟩ := m.pmldHeld_eq ws
  simp only [pmldSet, bankset, hcur, bstRaw, hq]
  rw [h]
  rfl

/-- Which members a `pmld` names does not change as its words are read. -/
theorem Mach.Reads.pmldSet {m n : Mach} (h : m.Reads n) (w : Nat) : pmldSet n w = pmldSet m w := by
  obtain ⟨ks, hctx⟩ := h.ctx m.cur
  have hq : n.qOf m.cur = m.qOf m.cur := by rw [Mach.qOf, hctx, Mach.qOf]
  have haddr : n.bstAddr = m.bstAddr := by
    funext q k
    rw [Mach.bstAddr, Mach.part, h.parts, Mach.bstAddr, Mach.part]
  have hraw : n.bstRaw m.cur = m.bstRaw m.cur := by
    funext k
    simp only [Mach.bstRaw, h.bstc, hq, haddr, Mach.readPa_congr h.parts h.mem]
  simp only [Machine.pmldSet, Mach.bankset, h.cur, hraw]

/-- The words of a `pmld` of a legal operand (R427 step 1). -/
theorem Mach.pmldRead_image {m : Mach} {va w : Nat} {loc : Nat → Loc} (hva : va % 4 = 0) (hzero : bitsOf w 63 30 = 0) (hn : bitsOf w 18 9 ≠ 0)
    (hend : bitsOf w 8 0 + bitsOf w 18 9 ≤ 512) (hset : w.testBit 19 = true → (pmldSet m w).isSome) (hp : m.me.pload = none)
    (h : m.Image .all 0 va 4 (bitsOf w 18 9) loc) :
    let ws := chunks 4 (bitsOf w 18 9) (m.image 4 (bitsOf w 18 9) loc)
    ∃ m', m.pmldRead va w = .ok (m'.pmldHeld ws, ws, none) ∧ m.Reads m' ∧ (m.fetched 0 va 4 (bitsOf w 18 9)).Alike m' := by
  obtain ⟨m', hload, hreads, halike⟩ := loadsFrom_image h _ le_rfl
  refine ⟨m', ?_, hreads, halike⟩
  have hlegal : (va % 4 != 0 || bitsOf w 63 30 != 0 || bitsOf w 18 9 = 0 || 512 < bitsOf w 18 9 || 512 < bitsOf w 8 0 + bitsOf w 18 9 ||
      (bitOf w 19 && (pmldSet m w).isNone)) = false := by
    have hlen : ¬ 512 < bitsOf w 18 9 := by omega
    have hover : ¬ 512 < bitsOf w 8 0 + bitsOf w 18 9 := by omega
    cases hb : w.testBit 19 <;> simp_all [bitOf]
  simp only [pmldRead, hp]
  rw [hlegal]
  simp only [hload, bind, Except.bind, pure, Except.pure, pmldHeld, Bool.false_eq_true, if_false]

/-- The targets of a `pmld` are those that machines which translate alike name. -/
theorem Mach.SameMaps.pmldTargets {m n : Mach} {c : Nat} (h : m.SameMaps n c) (b : Option Bst) : n.pmldTargets c b = m.pmldTargets c b := by
  cases b with
  | none => simp only [Mach.pmldTargets, Mach.partNmus, h.qOf, Mach.part, h.parts]
  | some b => simp only [Mach.pmldTargets, h.members, h.banksOf]

/-- A `pmld` that need not wait for the context's runs as it starts need not once its words are read (R427 step 2). -/
theorem Mach.Reads.pmldHeld_free {m n : Mach} (h : m.Reads n) (ws : List Nat) (hsafe : m.me.anyUnsafe = false) (hruns : m.runsDue m.cur = false) :
    (!(n.pmldHeld ws).me.anyUnsafe && !(n.pmldHeld ws).runsDue m.cur) = true := by
  obtain ⟨hq, hof⟩ := Mach.runsDue_eq_false.mp hruns
  obtain ⟨ks, hn⟩ := h.me
  have hme : (n.pmldHeld ws).me = { m.me with counted := ks, pload := some (ws, none) } := by rw [n.me_pmldHeld, hn]
  have hheld : (n.pmldHeld ws).me.anyUnsafe = m.me.anyUnsafe := by rw [hme]; rfl
  have hdue : (n.pmldHeld ws).runsDue m.cur = false := by
    have hcur : (n.pmldHeld ws).cur = m.cur := (n.pmldHeld_cur ws).trans h.cur
    have hbank : (n.pmldHeld ws).me.bankq = m.me.bankq := by rw [hme]
    have hcount : (n.pmldHeld ws).runsOf m.cur = n.runsOf m.cur := by rw [Mach.runsOf, pmldHeld_nmus, Mach.runsOf]
    have hle := h.runs m.cur
    rw [Mach.me, hcur] at hbank
    exact Mach.runsDue_eq_false.mpr ⟨hbank.trans hq, by omega⟩
  rw [hheld, hsafe, hdue]
  rfl

/-- An instruction that leaves of the acting context what completing clears, and changes else only stores and requests, has read memory and
gone on. -/
theorem State.readsTo_retire {s : State} {m n : Mach} (h : s.m.Reads m) {p : Option (List Nat × Option (List Nat))}
    (hn : ∃ cs rs nm, n = { m with ctxs := cs, troupe := { m.troupe with reqs := rs }, nmus := nm }) (hme : n.me = { m.me with pload := p })
    (hctx : ∀ c, c ≠ m.cur → n.ctx c = m.ctx c) : s.readsTo { s with m := n.retire } s.m := by
  obtain ⟨hret, hother, -⟩ := n.onlyMe_retire
  obtain ⟨cs, rs, nm, he⟩ := hn
  have hcur : n.cur = m.cur := by rw [he]
  obtain ⟨ks, hm⟩ := h.me
  refine ⟨?_, fun c hc => ?_, ?_⟩
  · have hdid : (s.did s.m).m.me = _ := s.m.me_retireTo _
    rw [hdid]
    refine (n.me_retireTo _).trans ?_
    rw [hme, hm]
  · rw [← h.cur] at hc
    exact (hother c (hcur ▸ hc)).trans ((hctx c hc).trans (h.others c (h.cur ▸ hc)))
  · obtain ⟨_, _, _, _, _, _, _, _, _, rfl⟩ := h.rest
    subst he
    refine ⟨?_, ?_, ?_, ?_, ?_, ?_, rfl⟩
    all_goals
      rw [hret]

/-- A `pmld` whose words may be read and whose targets execute no run completes (R427). -/
theorem pmld_ok {s : State} {a b : BitVec 5} {va w : Nat} {loc : Nat → Loc} {ns : List Nat} (hr : s.ready [a, b]) (hxa : (s.x a).toNat = va)
    (hxb : (s.x b).toNat = w) (hva : va % 4 = 0) (hzero : bitsOf w 63 30 = 0) (hn : bitsOf w 18 9 ≠ 0) (hend : bitsOf w 8 0 + bitsOf w 18 9 ≤ 512)
    (himage : s.m.Image .all 0 va 4 (bitsOf w 18 9) loc) (hset : w.testBit 19 = true → (pmldSet s.m w).isSome)
    (htargets : (s.m.fetched 0 va 4 (bitsOf w 18 9)).pmldTargets s.m.cur (pmldSet s.m w) = .ok ns) (hp : s.m.me.pload = none)
    (hsafe : s.m.me.anyUnsafe = false) (hruns : s.m.runsDue s.m.cur = false) (hidle : ∀ u ∈ ns, (s.m.nmu u).cur = none) :
    ∃ t, exec (.pmld a b) s = .next t ∧ s.readsTo t s.m ∧ t.m.nmus = ((s.m.fetched 0 va 4 (bitsOf w 18 9)).loadStores ns (bitsOf w 8 0)
      (chunks 4 (bitsOf w 18 9) (s.m.image 4 (bitsOf w 18 9) loc))).nmus := by
  obtain ⟨m', hread, hreads, halike⟩ := Mach.pmldRead_image hva hzero hn hend hset hp himage
  generalize chunks 4 (bitsOf w 18 9) (s.m.image 4 (bitsOf w 18 9) loc) = ws at hread
  have htargets' : (m'.pmldHeld ws).pmldTargets s.m.cur (pmldSet (m'.pmldHeld ws) w) = .ok ns := by
    rw [m'.pmldSet_pmldHeld, hreads.pmldSet, ← hreads.cur, (m'.sameMaps_pmldHeld ws).pmldTargets, hreads.cur, (halike.sameMaps _).pmldTargets,
      htargets]
  have hwrite := Mach.pmldWrite_idle (m := m'.pmldHeld ws) (fun u hu => by
    rw [Mach.nmu, m'.pmldHeld_nmus]
    exact hreads.idle u (hidle u hu)) (bitsOf w 8 0) ws
  refine ⟨_, exec_pmld.trans (scalarStep_ok (m' := ((m'.pmldHeld ws).loadStores ns (bitsOf w 8 0) ws).upd fun x =>
    { x with pload := some (ws, some []) }) hr ?_), State.readsTo_retire (p := some (ws, some [])) hreads ?_ ?_ fun c hc => ?_, ?_⟩
  · have hxa' : (s.m.me.rx a.toNat).toNat = va := hxa
    have hxb' : (s.m.me.rx b.toNat).toNat = w := hxb
    simp only [hxa', hxb', hread, bind, Except.bind, waitFor, hreads.pmldHeld_free ws hsafe hruns, htargets', hwrite, if_true]
  · obtain ⟨rs, cs, he⟩ := m'.pmldHeld_eq ws
    rw [Mach.loadStores_eq, he]
    exact ⟨_, rs, _, rfl⟩
  · have hme : ((m'.pmldHeld ws).loadStores ns (bitsOf w 8 0) ws).me = (m'.pmldHeld ws).me := by
      rw [Mach.loadStores_eq]
      rfl
    rw [Mach.me_upd, hme, m'.me_pmldHeld]
  · have hother : ((m'.pmldHeld ws).loadStores ns (bitsOf w 8 0) ws).ctx c = (m'.pmldHeld ws).ctx c := by
      rw [Mach.loadStores_eq]
      rfl
    have hcur : ((m'.pmldHeld ws).loadStores ns (bitsOf w 8 0) ws).cur = m'.cur := by
      rw [Mach.loadStores_eq]
      exact m'.pmldHeld_cur ws
    rw [Mach.ctx_upd_ne _ _ _ (hcur ▸ hc), hother, m'.ctx_pmldHeld_ne ws hc]
  · have hret := (((m'.pmldHeld ws).loadStores ns (bitsOf w 8 0) ws).upd fun x => { x with pload := some (ws, some []) }).onlyMe_retire.1
    refine (congrArg Mach.nmus hret).trans (Mach.loadStores_nmus ?_ ns _ ws)
    rw [m'.pmldHeld_nmus, halike.nmus]

end Sys2Proof.Machine
end

section
/-!
PROOFS. The steps of NMUs: queueing, starting, yielding, parking and unparking, and activations (R123, R156, R309, R310, R429).
-/

namespace Sys2Proof.Machine

/-! ### Slices of written and read bytes -/

/-- Item i of equally long items laid out one after another. -/
theorem take_drop_flatMap {α β : Type} {f : α → List β} {w : Nat} (hf : ∀ x, (f x).length = w) (xs : List α) (rest : List β) {i : Nat}
    (hi : i < xs.length) : ((xs.flatMap f ++ rest).drop (w * i)).take w = f xs[i] := by
  induction xs generalizing i with
  | nil => simp at hi
  | cons x xs ih =>
    cases i with
    | zero => simp [← hf x]
    | succ i =>
      have hi' : i < xs.length := by simpa using hi
      rw [List.flatMap_cons, List.append_assoc, Nat.mul_succ, Nat.add_comm, ← List.drop_drop, List.drop_left' (hf x), ih hi']
      rfl

/-- What is read of bytes just written. -/
theorem cgetRange_csetRange {w : Nat} {t : Cells w} (h : cellsWf t = true) (k : Nat) (vs : List (BitVec w)) {o n : Nat} (hn : o + n ≤ vs.length) :
    cgetRange (csetRange t k vs) (k + o) n = (vs.drop o).take n := by
  rw [cgetRange_eq (cellsWf_csetRange h k vs)]
  refine List.ext_getElem (by simp; omega) fun i hi _ => ?_
  simp only [List.length_map, List.length_range] at hi
  have hin : k ≤ k + o + i ∧ k + o + i < k + vs.length := by omega
  have hplace : k + o + i - k = o + i := by omega
  simp only [List.getElem_map, List.getElem_range, cget_csetRange h, if_pos hin, hplace, List.getElem_take, List.getElem_drop]
  exact List.getD_eq_getElem _ _ (by omega)

/-- A slice of bytes read is read at its place. -/
theorem take_drop_cgetRange {w : Nat} {t : Cells w} (h : cellsWf t = true) (k : Nat) {n o l : Nat} (hl : o + l ≤ n) :
    ((cgetRange t k n).drop o).take l = cgetRange t (k + o) l := by
  rw [cgetRange_eq h, cgetRange_eq h]
  refine List.ext_getElem (by simp; omega) fun i _ _ => ?_
  simp [Nat.add_assoc]

theorem getElem_chunks (e n : Nat) (bs : List Byte) {i : Nat} (hi : i < (chunks e n bs).length) :
    (chunks e n bs)[i] = leVal ((bs.drop (e * i)).take e) := by
  induction n generalizing bs i with
  | zero => simp [chunks] at hi
  | succ n ih =>
    cases i with
    | zero => simp [chunks]
    | succ i =>
      simp only [chunks, List.getElem_cons_succ, ih, List.drop_drop, Nat.mul_succ, Nat.add_comm]

/-! ### The park row -/

/-- The n bytes of a value of 8 n bits hold it. -/
theorem leVal_leBytes_toNat {w n : Nat} (h : w = 8 * n) (v : BitVec w) : leVal (leBytes n v.toNat) = v.toNat := by
  have hpow : 256 ^ n = 2 ^ w := by rw [h, Nat.pow_mul]
  rw [leVal_leBytes, hpow, Nat.mod_eq_of_lt v.isLt]

/-- Value i of values laid out in n bytes each. -/
theorem take_drop_flatMap_leBytes {w : Nat} (n : Nat) (vs : List (BitVec w)) (rest : List Byte) {i : Nat} (hi : i < vs.length) :
    (((vs.flatMap fun v => leBytes n v.toNat) ++ rest).drop (n * i)).take n = leBytes n vs[i].toNat :=
  take_drop_flatMap (f := fun v : BitVec w => leBytes n v.toNat) (fun v => leBytes_length n v.toNat) vs rest hi

theorem length_flatMap_leBytes {α : Type} (n : Nat) (f : α → Nat) (xs : List α) : (xs.flatMap fun x => leBytes n (f x)).length = n * xs.length := by
  simp [List.length_flatMap, Nat.mul_comm]

theorem vecAt_eq_getElem {α : Type} {n : Nat} (d : α) (v : Vector α n) {i : Nat} (h : i < v.toList.length) : vecAt d v i = v.toList[i] :=
  List.getD_eq_getElem _ _ h

section
variable (u : Nmu)

/-- The run queue as its 504 parked bytes. -/
def Nmu.queueBytes : List Byte :=
  let q := (u.queue.flatMap NRun.parkBytes).take 504
  q ++ List.replicate (504 - q.length) 0

theorem Nmu.queueBytes_length : u.queueBytes.length = 504 := by
  simp [queueBytes]

theorem Nmu.parkBytes_eq : u.parkBytes = (u.b.toList.flatMap fun v => leBytes 64 v.toNat) ++ ((u.k.toList.flatMap fun v => leBytes 2 v.toNat) ++
    (u.queueBytes ++ (List.range 512).flatMap fun i => leBytes 4 (cget u.store i).toNat)) := by
  simp only [parkBytes, queueBytes, List.append_assoc]

/-- The bytes of B0 to B7, those of K0 to K3, and those of the store. -/
theorem Nmu.parkBytes_lengths :
    (u.b.toList.flatMap fun v => leBytes 64 v.toNat).length = 512 ∧ (u.k.toList.flatMap fun v => leBytes 2 v.toNat).length = 8 ∧
    ((List.range 512).flatMap fun i => leBytes 4 (cget u.store i).toNat).length = 2048 := by
  simp only [length_flatMap_leBytes, Vector.length_toList, List.length_range, and_self]

theorem Nmu.parkBytes_length : u.parkBytes.length = 3072 := by
  obtain ⟨hb, hk, hstore⟩ := u.parkBytes_lengths
  rw [parkBytes_eq, List.length_append, List.length_append, List.length_append, hb, hk, hstore, queueBytes_length]

theorem Nmu.parkBytes_b {i : Nat} (hi : i < 8) : leVal ((u.parkBytes.drop (64 * i)).take 64) = (u.b_ i).toNat := by
  have hi' : i < u.b.toList.length := by simpa using hi
  rw [parkBytes_eq, take_drop_flatMap_leBytes 64 _ _ hi', leVal_leBytes_toNat rfl, b_, vecAt_eq_getElem 0 u.b hi']

theorem Nmu.parkBytes_k {i : Nat} (hi : i < 4) : leVal ((u.parkBytes.drop (512 + 2 * i)).take 2) = (u.k_ i).toNat := by
  have hi' : i < u.k.toList.length := by simpa using hi
  obtain ⟨hb, -, -⟩ := u.parkBytes_lengths
  rw [parkBytes_eq, ← List.drop_drop, List.drop_left' hb, take_drop_flatMap_leBytes 2 _ _ hi', leVal_leBytes_toNat rfl, k_,
    vecAt_eq_getElem 0 u.k hi']

theorem Nmu.parkBytes_store {i : Nat} (hi : i < 512) : leVal ((u.parkBytes.drop (1024 + 4 * i)).take 4) = (cget u.store i).toNat := by
  have hi' : i < (List.range 512).length := by simpa using hi
  have hitem := take_drop_flatMap (fun i => leBytes_length 4 (cget u.store i).toNat) (List.range 512) [] hi'
  have hplace : 1024 + 4 * i = 512 + (8 + (504 + 4 * i)) := by omega
  obtain ⟨hb, hk, -⟩ := u.parkBytes_lengths
  rw [List.append_nil, List.getElem_range] at hitem
  rw [parkBytes_eq, hplace, ← List.drop_drop, List.drop_left' hb, ← List.drop_drop, List.drop_left' hk, ← List.drop_drop,
    List.drop_left' u.queueBytes_length, hitem, leVal_leBytes_toNat rfl]

end

end Sys2Proof.Machine
end

section
/-!
PROOFS. `NmuSteps` (R123, R156, R309, R310, R427, R429).
-/

namespace Sys2Proof.Machine

/-! ### Runs -/

/-- A transfer across dies costs flits alone. -/
theorem Mach.charge_keeps (m : Mach) (a b cls n : Nat) :
    (∀ c, (m.charge a b cls n).ctx c = m.ctx c) ∧ (∀ k, (m.charge a b cls n).nmu k = m.nmu k) ∧ (m.charge a b cls n).mem = m.mem := by
  obtain ⟨_, _, h⟩ := m.charge_eq a b cls n
  rw [h]
  exact ⟨fun _ => rfl, fun _ => rfl, rfl⟩

/-- The first run of a context enters the queue of its NMU, where there is room (R156). -/
theorem Mach.toNmu_room {m : Mach} {c : Nat} {r : Run} {rest : List Run} (hq : (m.ctx c).bankq = r :: rest)
    (hroom : (m.nmu r.nmu).queue.length < 8) (hawake : (m.nmu r.nmu).power = .awake) (hpend : (m.nmu r.nmu).pend = none) :
    ((m.toNmu c).ctx c).bankq = rest ∧ (m.toNmu c).nmu r.nmu = { m.nmu r.nmu with queue := (m.nmu r.nmu).queue ++ [⟨r, r.entry, 0, false⟩] } ∧
      (m.toNmu c).mem = m.mem := by
  have henter : (decide (8 ≤ (m.nmu r.nmu).queue.length) || (m.nmu r.nmu).power != .awake || (m.nmu r.nmu).pend.isSome) = false := by
    simp [hawake, hpend, hroom]
  have hto : m.toNmu c = ((m.updCtx c fun x => { x with bankq := rest }).updNmu r.nmu fun u =>
      { u with queue := u.queue ++ [⟨r, r.entry, 0, false⟩] }).charge (dieOf c) (r.nmu / 256) 2 64 := by
    simp only [toNmu, hq, henter, Bool.false_eq_true, if_false]
  obtain ⟨hctx, hnmu, hmem⟩ := Mach.charge_keeps ((m.updCtx c fun x => { x with bankq := rest }).updNmu r.nmu fun u =>
      { u with queue := u.queue ++ [⟨r, r.entry, 0, false⟩] }) (dieOf c) (r.nmu / 256) 2 64
  refine ⟨?_, ?_, ?_⟩
  · have hrest : ((m.updCtx c fun x => { x with bankq := rest }).ctx c).bankq = rest := by rw [ctx_updCtx]
    rw [hto, hctx]
    exact hrest
  · rw [hto, hnmu, nmu_updNmu, nmu, updCtx_nmus, nmu]
  · rw [hto, hmem]
    rfl

/-- A run that yields goes to the end of the queue where there is room (R145). -/
theorem Nmu.suspend_room {u : Nmu} (h : u.queue.length < 8) (r : NRun) : u.suspend r = { u with cur := none, queue := u.queue ++ [r] } := by
  unfold suspend
  split
  · rw [if_neg (by omega)]
  next hq => rw [hq]; rfl

/-- Where the queue is full, its head takes the place of a run that yields. -/
theorem Nmu.suspend_full {u : Nmu} {h : NRun} {rest : List NRun} (hq : u.queue = h :: rest) (hfull : 8 ≤ u.queue.length) (r : NRun) :
    u.suspend r = u.begin_ h (rest ++ [r]) := by
  unfold suspend
  split
  next h' rest' hq' =>
    rw [if_pos hfull]
    rw [hq] at hq'
    cases hq'
    rfl
  next hq' => rw [hq'] at hq; cases hq

/-- A change of an NMU is what it makes of the NMU. -/
theorem Mach.updNmu_congr {m : Mach} {n : Nat} {f g : Nmu → Nmu} (h : f (m.nmu n) = g (m.nmu n)) : m.updNmu n f = m.updNmu n g := by
  simp only [updNmu, h]

theorem Mach.runStart_awake {m : Mach} {n : Nat} {r : NRun} {rest : List NRun} (hcur : (m.nmu n).cur = none) (hq : (m.nmu n).queue = r :: rest)
    (hawake : (m.nmu n).power = .awake) (hpend : (m.nmu n).pend = none) : m.runStart n = m.updNmu n fun u => u.begin_ r rest :=
  updNmu_congr (by simp [hcur, hq, hawake, hpend])

theorem Mach.runYield_cur {m : Mach} {n : Nat} {r : NRun} (hcur : (m.nmu n).cur = some r) :
    m.runYield n = m.updNmu n fun u => u.suspend { r with steps := 0 } :=
  updNmu_congr (by simp only [hcur])

theorem Mach.forceYield_room {m : Mach} {n : Nat} {r : NRun} (hcur : (m.nmu n).cur = some r) (h : 4096 ≤ r.steps)
    (hroom : (m.nmu n).queue.length < 8) :
    m.forceYield n = m.updNmu n fun u => { u with cur := none, queue := u.queue ++ [{ r with steps := 0 }] } := by
  simp only [forceYield, hcur, if_pos h, runYield_cur hcur]
  exact updNmu_congr (Nmu.suspend_room hroom _)

theorem Mach.forceYield_full {m : Mach} {n : Nat} {r h : NRun} {rest : List NRun} (hcur : (m.nmu n).cur = some r) (hsteps : 4096 ≤ r.steps)
    (hq : (m.nmu n).queue = h :: rest) (hfull : 8 ≤ (m.nmu n).queue.length) :
    m.forceYield n = m.updNmu n fun u => u.begin_ h (rest ++ [{ r with steps := 0 }]) := by
  simp only [forceYield, hcur, if_pos hsteps, runYield_cur hcur]
  exact updNmu_congr (Nmu.suspend_full hq hfull _)

theorem Mach.forceYield_early {m : Mach} {n : Nat} {r : NRun} (hcur : (m.nmu n).cur = some r) (h : r.steps < 4096) : m.forceYield n = m := by
  have hearly : ¬ 4096 ≤ r.steps := by omega
  simp only [forceYield, hcur, if_neg hearly]

/-! ### Parking -/

/-- An NMU at rest, whose port's chains are closed, parks (R309). -/
theorem Mach.parkIn_rest {m : Mach} {n : Nat} {p : Power} (hpend : (m.nmu n).pend = some p) (hcur : (m.nmu n).cur = none)
    (hawake : (m.nmu n).power = .awake) (hclosed : ∀ ch ∈ m.chains, ¬ (ch.key < Config.dramEnd ∧ pcOf ch.key = n)) :
    m.parkIn n = (m.poke (parkKey n) (m.nmu n).parkBytes).updNmu n fun u => { u with power := p, pend := none } := by
  have hchains : (m.chains.any fun ch => ch.key < Config.dramEnd && pcOf ch.key = n) = false := by simpa using hclosed
  simp only [parkIn, hpend, hcur, hawake]
  rw [hchains]
  rfl

theorem Mach.nmu_poke (m : Mach) (k : Nat) (bs : List Byte) (n : Nat) : (m.poke k bs).nmu n = m.nmu n := by
  obtain ⟨_, _, _, h⟩ := m.corrected_eccWrite k bs.length
  simp only [poke, h]
  rfl

/-- The park row of an NMU that has parked holds its registers and its store (R309). -/
theorem Mach.parkIn_spec {m : Mach} {n : Nat} {p : Power} (hpend : (m.nmu n).pend = some p) (hcur : (m.nmu n).cur = none)
    (hawake : (m.nmu n).power = .awake) (hclosed : ∀ ch ∈ m.chains, ¬ (ch.key < Config.dramEnd ∧ pcOf ch.key = n)) (hwf : m.mem.wf = true) :
    (m.parkIn n).nmu n = { m.nmu n with power := p, pend := none } ∧
      (∀ i, i < 8 → leVal (cgetRange (m.parkIn n).mem (parkKey n + 64 * i) 64) = ((m.nmu n).b_ i).toNat) ∧
      (∀ i, i < 4 → leVal (cgetRange (m.parkIn n).mem (parkKey n + 512 + 2 * i) 2) = ((m.nmu n).k_ i).toNat) ∧
      ∀ i, i < 512 → leVal (cgetRange (m.parkIn n).mem (parkKey n + 1024 + 4 * i) 4) = (cget (m.nmu n).store i).toNat := by
  have hlen := (m.nmu n).parkBytes_length
  have hmem : (m.parkIn n).mem = csetRange m.mem (parkKey n) (m.nmu n).parkBytes := by
    rw [parkIn_rest hpend hcur hawake hclosed]
    exact poke_mem m _ _
  have hread : ∀ o l, o + l ≤ 3072 → cgetRange (m.parkIn n).mem (parkKey n + o) l = ((m.nmu n).parkBytes.drop o).take l := fun o l hl => by
    rw [hmem]
    exact cgetRange_csetRange hwf _ _ (hlen ▸ hl)
  refine ⟨?_, fun i hi => ?_, fun i hi => ?_, fun i hi => ?_⟩
  · rw [parkIn_rest hpend hcur hawake hclosed, nmu_updNmu, nmu_poke]
  · rw [hread _ _ (by omega), Nmu.parkBytes_b _ hi]
  · rw [Nat.add_assoc, hread _ _ (by omega), Nmu.parkBytes_k _ hi]
  · rw [Nat.add_assoc, hread _ _ (by omega), Nmu.parkBytes_store _ hi]

/-- An NMU that powers up takes B, K and the store from its park row (R310). -/
theorem Mach.parkOut_spec {m : Mach} {n : Nat} (hpower : (m.nmu n).power ≠ .awake) (hclean : m.poison = []) (hwf : m.mem.wf = true) :
    ((m.parkOut n).nmu n).power = .awake ∧ ((m.parkOut n).nmu n).queue = (m.nmu n).queue ∧
      (∀ i, i < 8 → ((m.parkOut n).nmu n).b_ i = .ofNat 512 (leVal (cgetRange m.mem (parkKey n + 64 * i) 64))) ∧
      (∀ i, i < 4 → ((m.parkOut n).nmu n).k_ i = .ofNat 16 (leVal (cgetRange m.mem (parkKey n + 512 + 2 * i) 2))) ∧
      ∀ i, i < 512 → cget ((m.parkOut n).nmu n).store i = .ofNat 32 (leVal (cgetRange m.mem (parkKey n + 1024 + 4 * i) 4)) := by
  obtain ⟨so, dc, ic, he⟩ := m.corrected_eccKeys (parkKey n) Config.parkBytes
  have hout : (m.parkOut n).nmu n = { m.nmu n with
      power := .awake
      b := vecOf 8 fun i => BitVec.ofNat 512 (leVal (cgetRange m.mem (parkKey n + 64 * i) 64))
      k := vecOf 4 fun i => BitVec.ofNat 16 (leVal (cgetRange m.mem (parkKey n + 512 + 2 * i) 2))
      store := csetRange [] 0 ((chunks 4 512 (cgetRange m.mem (parkKey n + 1024) 2048)).map fun w => BitVec.ofNat 32 w) } := by
    simp only [parkOut, if_neg hpower, he, hclean, List.any_nil, Bool.false_eq_true, if_false, nmu_updNmu]
    rfl
  rw [hout]
  refine ⟨rfl, rfl, fun i hi => vecAt_vecOf 0 8 _ hi, fun i hi => vecAt_vecOf 0 4 _ hi, fun i hi => ?_⟩
  have hi' : i < (chunks 4 512 (cgetRange m.mem (parkKey n + 1024) 2048)).length := by rwa [chunks_length]
  have hin : 0 ≤ i ∧ i < 0 + ((chunks 4 512 (cgetRange m.mem (parkKey n + 1024) 2048)).map fun w => BitVec.ofNat 32 w).length := by
    rw [List.length_map]
    omega
  rw [cget_csetRange rfl, if_pos hin, List.getD_eq_getElem _ _ (by simpa using hi), List.getElem_map]
  simp only [Nat.sub_zero]
  rw [getElem_chunks _ _ _ hi', take_drop_cgetRange hwf _ (by omega)]

/-! ### Activations -/

/-- A due activation of a stack happens while fewer than 8 lie in its window (R122, R123). -/
theorem Mach.activateNext_room {m : Mach} {n : Nat} {a : PAct} (h : m.pacts.find? (fun a => a.stack == n && decide (a.earliest ≤ m.cycle)) = some a)
    (hroom : ((nthD [] m.acts n).filter fun u => decide (5 * m.cycle < u + 384)).length < 8) :
    m.activateNext n = { m with
      pacts := m.pacts.erase a
      acts := m.acts.set n ((nthD [] m.acts n).filter (fun u => decide (5 * m.cycle < u + 384)) ++ [5 * m.cycle]) } := by
  simp only [activateNext, h, if_pos hroom]

/-! ### The obligation -/

/-- The outcome of a meaning that changes the machine alone. -/
theorem onMach_eq {s : State} {f : Mach → Mach} {m : Mach} (h : f s.m = m) : onMach s f = .next { s with m := m } := by rw [onMach, h]

/-- Translating an image leaves the partition, whose NMUs are all the targets. -/
theorem Mach.Image.targets {m : Mach} {win : Win} {key va w n : Nat} {loc : Nat → Loc} (h : m.Image win key va w n loc) :
    (m.fetched key va w n).pmldTargets m.cur none = .ok (m.partNmus (m.qOf m.cur)) := by
  obtain ⟨m', _, hreads, halike⟩ := Mach.loadsFrom_image h n le_rfl
  have hq : m'.qOf m.cur = m.qOf m.cur := by
    obtain ⟨_, hctx⟩ := hreads.ctx m.cur
    rw [Mach.qOf, hctx, Mach.qOf]
  have hparts : m'.partNmus (m.qOf m.cur) = m.partNmus (m.qOf m.cur) := by simp only [Mach.partNmus, Mach.part, hreads.parts]
  rw [← (halike.sameMaps _).pmldTargets, Mach.pmldTargets, hq, hparts]

/-- Settles O34, clause by clause: `pmld` reads its words one after another, and every read leaves what the next, and the targets, rest on; the
park row is read back slice by slice; the other steps are their definitions' branches. -/
theorem nmuSteps : Obligations.NmuSteps := by
  unfold Obligations.NmuSteps
  intro s n c
  refine ⟨?_, fun r rest hq hroom hawake hpend => ?_, fun r rest hcur hq hawake hpend => ?_,
    fun r hcur => ⟨fun hsteps hroom => ?_, fun h rest hsteps hq hfull => ?_, fun hsteps => ?_⟩,
    fun p hpend hcur hawake hclosed hwf => ?_, fun hpower hclean hwf => ?_, fun a ha hnear => ?_⟩
  · intro a b loc ns hr w va len hva hzero hlen hend himage hsets hp hsafe hruns hidle
    obtain ⟨hset, htargets⟩ : (w.testBit 19 = true → (pmldSet s.m w).isSome) ∧
        (s.m.fetched 0 va 4 len).pmldTargets s.m.cur (pmldSet s.m w) = .ok ns := by
      obtain ⟨hbit, rfl⟩ | ⟨hbit, y, hy, hns⟩ := hsets
      · have hset : pmldSet s.m w = none := if_neg (by simp [bitOf, hbit])
        exact ⟨fun h => absurd h (by simp [hbit]), by rw [hset]; exact himage.targets⟩
      · have hset : pmldSet s.m w = some y := (if_pos hbit).trans (by rw [hy])
        exact ⟨fun _ => by rw [hset]; rfl, by rw [hset]; exact hns⟩
    exact pmld_ok hr rfl rfl hva hzero hlen hend himage hset htargets hp hsafe hruns hidle
  · exact ⟨_, exec_runToNmu, Mach.toNmu_room hq hroom hawake hpend⟩
  · exact exec_nmuRunStart.trans (onMach_eq (Mach.runStart_awake hcur hq hawake hpend))
  · exact exec_forcedYield.trans (onMach_eq (Mach.forceYield_room hcur hsteps hroom))
  · exact exec_forcedYield.trans (onMach_eq (Mach.forceYield_full hcur hsteps hq hfull))
  · exact exec_forcedYield.trans (onMach_eq (Mach.forceYield_early hcur hsteps))
  · exact ⟨_, exec_parkEntry, Mach.parkIn_spec hpend hcur hawake hclosed hwf⟩
  · exact ⟨_, exec_parkExit, parkOut_mem s.m n, Mach.parkOut_spec hpower hclean hwf⟩
  · exact exec_memberActivation.trans (onMach_eq (Mach.activateNext_room ha hnear))

end Sys2Proof.Machine
end

section
/-!
PROOFS. The platform's limits, which every step keeps (R164, R195, R465, R466), and the budgets of a die (R163, R164).
-/

namespace Sys2Proof.Machine

open Sys2Proof.Config

/-! ### The parts of the platform that the limits speak of -/

/-- Two platforms agree in everything that `Plat.Ok` speaks of. -/
structure Plat.SameLimits (p q : Plat) : Prop where
  islands : q.islands = p.islands
  tripped : q.tripped = p.tripped
  budgets : q.budgets = p.budgets
  written : q.budNext = p.budNext
  sites : q.sites = p.sites

theorem Plat.SameLimits.refl (p : Plat) : p.SameLimits p := ⟨rfl, rfl, rfl, rfl, rfl⟩

theorem Plat.SameLimits.trans {p q r : Plat} (h : p.SameLimits q) (k : q.SameLimits r) : p.SameLimits r :=
  ⟨k.islands.trans h.islands, k.tripped.trans h.tripped, k.budgets.trans h.budgets, k.written.trans h.written, k.sites.trans h.sites⟩

theorem Plat.SameLimits.ok {p q : Plat} (h : p.SameLimits q) (hp : p.Ok) : q.Ok where
  islands := by rw [h.islands, h.tripped]; exact hp.islands
  budgets := by rw [h.budgets]; exact hp.budgets
  written := by rw [h.written]; exact hp.written
  sites := by rw [h.sites]; exact hp.sites

/-! ### Messages, connections and sessions -/

theorem Plat.sameLimits_say (p : Plat) (n : Nat) (what : String) (body : List Byte) : p.SameLimits (p.say n what body) := ⟨rfl, rfl, rfl, rfl, rfl⟩
theorem Plat.sameLimits_err (p : Plat) (n code : Nat) : p.SameLimits (p.err n code) := ⟨rfl, rfl, rfl, rfl, rfl⟩
theorem Plat.sameLimits_updConn (p : Plat) (n : Nat) (f : Conn → Conn) : p.SameLimits (p.updConn n f) := ⟨rfl, rfl, rfl, rfl, rfl⟩
theorem Plat.sameLimits_updSession (p : Plat) (id : Nat) (f : Session → Session) : p.SameLimits (p.updSession id f) := ⟨rfl, rfl, rfl, rfl, rfl⟩
theorem Plat.sameLimits_dropSession (p : Plat) (id : Nat) : p.SameLimits (p.dropSession id) := ⟨rfl, rfl, rfl, rfl, rfl⟩

theorem Plat.sameLimits_respond (p : Plat) (n : Nat) (what : String) (body : List Byte) : p.SameLimits (p.respond n what body) := by
  unfold respond
  split
  · exact p.sameLimits_say n what body
  · exact (p.sameLimits_updConn n _).trans (sameLimits_err _ n errLarge)

theorem Plat.SameLimits.within {p : Plat} {f : Plat → Plat} (h : p.SameLimits (f p)) (id : Nat) : p.SameLimits (p.within id f) :=
  ⟨h.islands, h.tripped, h.budgets, h.written, h.sites⟩

theorem Plat.sameLimits_chunkOut (p : Plat) (n : Nat) : p.SameLimits (p.chunkOut n) := by
  unfold chunkOut
  dsimp only
  split
  · exact p.sameLimits_err n errUnexpected
  · exact (p.sameLimits_updConn n _).trans (sameLimits_say _ n _ _)

theorem Plat.sameLimits_asks (p : Plat) (n : Nat) (what : String) (body : List Byte) (now : Nat) : p.SameLimits (p.asks n what body now) := by
  unfold asks
  dsimp only
  split <;> exact ⟨rfl, rfl, rfl, rfl, rfl⟩

theorem Plat.sameLimits_request (p : Plat) (n : Nat) (what : String) (body : List Byte) (now : Nat) :
    p.SameLimits (p.request n what body now) := by
  unfold request
  split
  · exact .refl p
  · exact ((p.sameLimits_updSession _ _).trans ((sameLimits_say _ n what body).within _)).trans (sameLimits_asks _ n what body now)

theorem Plat.sameLimits_tableStatus (p : Plat) (m : Mach) (ok : Bool) : p.SameLimits (p.tableStatus m ok) := by
  cases ok <;> exact ⟨rfl, rfl, rfl, rfl, rfl⟩

/-! ### Outcomes that keep the limits -/

/-- An outcome whose state, if it has one, has a platform within its limits. -/
def Out.WithinLimits (r : Out) : Prop := ∀ t, r = .next t → t.plat.Ok

theorem Out.withinLimits_next {t : State} (h : t.plat.Ok) : Out.WithinLimits (.next t) := by
  rintro _ ⟨⟩
  exact h

theorem Out.withinLimits_same {s t : State} (hs : s.plat.Ok) (h : s.plat.SameLimits t.plat) : Out.WithinLimits (.next t) :=
  withinLimits_next (h.ok hs)

theorem Out.WithinLimits.of_machine {s : State} {r : Out} (hs : s.plat.Ok) (h : ∃ m, r = .next { s with m := m }) : r.WithinLimits := by
  obtain ⟨m, rfl⟩ := h
  exact withinLimits_next hs

section
variable {s : State} (hs : s.plat.Ok)
include hs

theorem onAgent_withinLimits {f : Plat → Plat} (hf : ∀ p : Plat, p.SameLimits (f p)) : Out.WithinLimits (onAgent s f) := by
  unfold onAgent
  split
  · exact Out.withinLimits_same hs (hf _)
  · exact Out.withinLimits_next hs

theorem onFull_withinLimits (n : Nat) {f : Plat → Plat} (hf : ∀ p : Plat, p.SameLimits (f p)) : Out.WithinLimits (onFull n s f) := by
  refine onAgent_withinLimits hs fun p => ?_
  split
  · exact p.sameLimits_err n errUnsupported
  · exact hf p

theorem inSession_withinLimits (n id : Nat) {f : Plat → Plat} (hf : ∀ p : Plat, p.SameLimits (f p)) : Out.WithinLimits (inSession n id s f) := by
  refine onFull_withinLimits hs n fun p => ?_
  split
  · split
    · exact (p.sameLimits_updSession id _).trans ((hf _).within id)
    · exact p.sameLimits_err n errSession
  · exact p.sameLimits_err n errSession

theorem tableWrite_withinLimits (r : Option Mach) : Out.WithinLimits (tableWrite s r) := by
  unfold tableWrite
  split
  · exact Out.withinLimits_next hs
  · split <;> exact Out.withinLimits_same hs (Plat.sameLimits_tableStatus ..)

end

/-! ### Frequencies -/

theorem mem_mapAt {α : Type} {l : List α} {i : Nat} {f : α → α} {b : α} (h : b ∈ mapAt l i f) : b ∈ l ∨ ∃ a, l[i]? = some a ∧ b = f a := by
  induction l generalizing i with
  | nil => exact .inl h
  | cons a t ih =>
    cases i with
    | zero =>
      obtain rfl | hb := List.mem_cons.mp h
      · exact .inr ⟨a, rfl, rfl⟩
      · exact .inl (List.mem_cons_of_mem a hb)
    | succ i =>
      obtain rfl | hb := List.mem_cons.mp h
      · exact .inl List.mem_cons_self
      · exact (ih hb).imp_left (List.mem_cons_of_mem a)

theorem mem_zipIdx_map {α β : Type} {l : List α} {f : Nat → α → β} {b : β} (h : b ∈ l.zipIdx.map fun e => f e.2 e.1) :
    ∃ a ∈ l, ∃ i, b = f i a := by
  obtain ⟨e, he, rfl⟩ := List.mem_map.mp h
  exact ⟨e.1, List.fst_mem_of_mem_zipIdx he, e.2, rfl⟩

/-- A throttle step keeps an island that has not stopped at a legal frequency (R465). -/
theorem Island.Ok.lower {i : Island} (h : i.Ok false) : i.lower.Ok false := by
  obtain ⟨hceil, ⟨hmhz, hle⟩ | ⟨htrip, -⟩⟩ := h
  · rw [mhzOk_iff] at hmhz
    rw [Island.lower_eq]
    split
    · refine ⟨hceil, .inl ⟨?_, ?_⟩⟩
      · rw [mhzOk_iff]
        dsimp only
        omega
      · exact (Nat.sub_le ..).trans hle
    · exact ⟨hceil, .inl ⟨(mhzOk_iff _).mpr hmhz, hle⟩⟩
  · cases htrip

theorem Island.Ok.tripped {b : Bool} {i : Island} (h : i.Ok b) : i.Ok true :=
  ⟨h.1, h.2.imp_right fun h => ⟨rfl, h.2⟩⟩

theorem Island.Ok.stopped {b : Bool} {i : Island} (h : i.Ok b) : ({ i with mhz := 0 } : Island).Ok true := ⟨h.1, .inr ⟨rfl, rfl⟩⟩

/-- Code 4 gives the island a legal frequency as its ceiling; no other request changes the platform (R449, R465). -/
theorem serveRequest_ok (m : Mach) {p : Plat} (hp : p.Ok) (code arg : Nat) : (serveRequest m p code arg).2.1.Ok := by
  by_cases hset : code = 4 ∧ (mhzOk arg && !p.tripped) = true
  · obtain ⟨rfl, h⟩ := hset
    have hmhz : mhzOk arg = true := (Bool.and_eq_true_iff.mp h).1
    rw [serveRequest, if_pos h]
    refine { hp with islands := fun i hi => ?_ }
    obtain hi | ⟨a, -, rfl⟩ := mem_mapAt hi
    · exact hp.islands i hi
    · exact ⟨hmhz, .inl ⟨hmhz, le_rfl⟩⟩
  · suffices hsame : (serveRequest m p code arg).2.1 = p by rwa [hsame]
    unfold serveRequest
    dsimp only
    split
    case h_4 => rw [if_neg fun h => hset ⟨rfl, h⟩]
    case h_5 => rfl
    case h_6 => rfl
    all_goals split <;> rfl

theorem preqStep_withinLimits {s : State} (hs : s.plat.Ok) (a b : BitVec 5) : Out.WithinLimits (preqStep a b s) := by
  unfold preqStep
  dsimp only
  split
  · exact Out.withinLimits_next hs
  · split
    · exact Out.withinLimits_next hs
    · exact Out.withinLimits_next (serveRequest_ok _ hs _ _)

theorem changeOfFrequency_withinLimits {s : State} (hs : s.plat.Ok) (island mhz : Nat) : Out.WithinLimits (execChangeOfFrequency island mhz s) := by
  unfold execChangeOfFrequency
  dsimp only
  split
  next h =>
    have hmhz : mhzOk mhz = true := (Bool.and_eq_true_iff.mp h).1
    refine Out.withinLimits_next { hs with islands := fun i hi => ?_ }
    obtain hi | ⟨a, ha, rfl⟩ := mem_mapAt hi
    · exact hs.islands i hi
    · have hok := hs.islands a (List.mem_of_getElem? ha)
      split
      next hle => exact ⟨hok.1, .inl ⟨hmhz, hle⟩⟩
      next => exact hok
  next => exact Out.withinLimits_next hs

theorem thermalThrottle_withinLimits {s : State} (hs : s.plat.Ok) (die temp : Nat) : Out.WithinLimits (execThermalThrottle die temp s) := by
  by_cases h : 100 < temp ∧ s.plat.tripped = false
  · obtain ⟨hhot, htrip⟩ := h
    rw [thermalThrottle_hot die hhot htrip]
    refine Out.withinLimits_next { hs with islands := fun i hi => ?_ }
    obtain ⟨a, ha, n, rfl⟩ := mem_zipIdx_map (f := fun n (i : Island) => if islandOf die n then i.lower else i) hi
    have hok : a.Ok false := htrip ▸ hs.islands a ha
    change Island.Ok s.plat.tripped _
    rw [htrip]
    split
    · exact hok.lower
    · exact hok
  · have hoff : (100 < temp && !s.plat.tripped) = false := by simpa using h
    rw [execThermalThrottle]
    simp only [hoff, Bool.false_eq_true, if_false]
    exact Out.withinLimits_next { hs with }

theorem thermalTrip_withinLimits {s : State} (hs : s.plat.Ok) (die temp : Nat) : Out.WithinLimits (execThermalTrip die temp s) := by
  by_cases h : temp < 115
  · rw [thermalTrip_cool s die h]
    exact Out.withinLimits_next hs
  · rw [thermalTrip_hot s die (Nat.le_of_not_lt h)]
    refine Out.withinLimits_next { hs with islands := fun i hi => ?_ }
    obtain ⟨a, ha, n, rfl⟩ := mem_zipIdx_map (f := fun n (i : Island) => if n = alwaysOn then i else { i with mhz := 0 }) hi
    dsimp only
    split
    · exact (hs.islands a ha).tripped
    · exact (hs.islands a ha).stopped

/-! ### Budgets and pair sites -/

/-- A row of budgets within the limits of R164. -/
def BudgetRow (r : List Nat) : Prop := r.length = 6 ∧ (∀ b ∈ r, 1 ≤ b) ∧ r.sum ≤ 1024

theorem budgetOk_iff (r : List Nat) : budgetOk r = true ↔ (∀ b ∈ r, 1 ≤ b) ∧ r.sum ≤ 1024 := by
  simp [budgetOk]

theorem length_budgetRow (row : BitVec 66) : (budgetRow row).length = 6 := by simp [budgetRow]

theorem budgetWrite_withinLimits {s : State} (hs : s.plat.Ok) (die : Nat) (row : BitVec 66) : Out.WithinLimits (execBudgetWrite die row s) := by
  unfold execBudgetWrite
  dsimp only
  split
  · exact Out.withinLimits_next hs
  · split
    next h =>
      have hrow : BudgetRow (budgetRow row) := ⟨length_budgetRow row, (budgetOk_iff _).mp (Bool.and_eq_true_iff.mp h).2⟩
      refine Out.withinLimits_next ((Plat.sameLimits_tableStatus ..).ok { hs with written := fun r hr => ?_ })
      obtain hr | rfl := List.mem_or_eq_of_mem_set hr
      · exact hs.written r hr
      · exact hrow
    next => exact Out.withinLimits_same hs (Plat.sameLimits_tableStatus ..)

theorem networkPeriod_withinLimits {s : State} (hs : s.plat.Ok) (die : Nat) : Out.WithinLimits (execNetworkPeriod die s) := by
  unfold execNetworkPeriod
  split
  · refine Out.withinLimits_next { hs with budgets := fun r hr => ?_ }
    obtain hr | ⟨a, ha, rfl⟩ := mem_mapAt hr
    · exact hs.budgets r hr
    · rw [List.getD_eq_getElem?_getD]
      cases hnext : s.plat.budNext[die]? with
      | none => exact hs.budgets a (List.mem_of_getElem? ha)
      | some r => exact hs.written r (List.mem_of_getElem? hnext)
  · exact Out.withinLimits_next hs

theorem runtimeRepair_withinLimits {s : State} (hs : s.plat.Ok) (die idx site : Nat) : Out.WithinLimits (execRuntimeRepair die idx site s) := by
  unfold execRuntimeRepair
  split
  next h =>
    have hfree : s.plat.siteFree die site = true := (Bool.and_eq_true_iff.mp h).2
    simp only [Plat.siteFree, Bool.and_eq_true, decide_eq_true_eq, Bool.not_eq_true', List.contains_eq_mem, decide_eq_false_iff_not] at hfree
    obtain ⟨⟨hlt, -⟩, hnew⟩ := hfree
    refine Out.withinLimits_next { hs with sites := fun l hl => ?_ }
    obtain hl | ⟨a, ha, rfl⟩ := mem_mapAt hl
    · exact hs.sites l hl
    · obtain ⟨hlen, hnodup, hbound⟩ := hs.sites a (List.mem_of_getElem? ha)
      have hnew : site ∉ a := by rwa [nthD, List.getD_eq_getElem?_getD, ha] at hnew
      refine ⟨by rw [List.length_set, hlen], hnodup.set hnew, fun x hx => ?_⟩
      obtain hx | rfl := List.mem_or_eq_of_mem_set hx
      · exact hbound x hx
      · exact hlt
  next => exact Out.withinLimits_next hs

/-! ### Bring-up -/

theorem nodup_eraseDups {α : Type} [BEq α] [LawfulBEq α] (l : List α) : l.eraseDups.Nodup := by
  induction h : l.length using Nat.strong_induction_on generalizing l with
  | _ n ih =>
    cases l with
    | nil => exact List.nodup_nil
    | cons a t =>
      rw [List.eraseDups_cons, List.nodup_cons]
      refine ⟨fun ha => ?_, ih _ ?_ _ rfl⟩
      · simpa using List.mem_eraseDups.mp ha
      · rw [← h, List.length_cons]
        exact Nat.lt_succ_of_le (List.length_filter_le ..)

/-- No stage before the one that stops bring-up fails. -/
theorem stageFails_before {b : BootInput} {j : Nat} (h1 : 1 ≤ j) (h7 : j ≤ 7) (h : ∀ k, bootFails b = some k → j < k) : stageFails b j = false := by
  have hj : j ∈ List.range' 1 7 := List.mem_range'_1.mpr ⟨h1, by omega⟩
  cases hfirst : bootFails b with
  | none => exact Bool.eq_false_iff.mpr (List.find?_eq_none.mp hfirst j hj)
  | some k =>
    obtain ⟨-, i, hi, hk, hpre⟩ := List.find?_eq_some_iff_getElem.mp hfirst
    have hlt := h k hfirst
    rw [List.getElem_range'] at hk
    have hbefore := hpre (j - 1) (by omega)
    rw [List.getElem_range', Bool.not_eq_true'] at hbefore
    rwa [show 1 + 1 * (j - 1) = j by omega] at hbefore

/-- Bring-up that completes stage 5 has found 64 good sites on each die (R461). -/
theorem goodSites_of_stage5 {b : BootInput} (h : ∀ k, bootFails b = some k → 5 < k) {d : Nat} (hd : d < 4) : 64 ≤ (goodSites b d).length := by
  have hpass := stageFails_before (j := 5) (by decide) (by decide) h
  simp only [stageFails, Bool.or_eq_false_iff, List.any_eq_false, decide_eq_true_eq, Nat.not_lt] at hpass
  exact hpass.2 d (List.mem_range.mpr hd)

theorem bootSites_ok {b : BootInput} (h : ∀ d < 4, 64 ≤ (goodSites b d).length) :
    ∀ l ∈ bootSites b, l.length = 64 ∧ l.Nodup ∧ ∀ x ∈ l, x < 68 := by
  intro l hl
  obtain ⟨d, hd, rfl⟩ := List.mem_map.mp hl
  refine ⟨by rw [List.length_take, Nat.min_eq_left (h d (List.mem_range.mp hd))], (nodup_eraseDups _).sublist (List.take_sublist ..), fun x hx => ?_⟩
  have hgood := List.mem_eraseDups.mp (List.mem_of_mem_take hx)
  exact of_decide_eq_true (List.mem_filter.mp hgood).2

theorem platReset_ok : Plat.reset.Ok where
  islands := by
    intro i hi
    obtain rfl := List.eq_of_mem_replicate hi
    exact ⟨by decide, .inl ⟨by decide, le_rfl⟩⟩
  budgets := by decide
  written := by decide
  sites := by decide

theorem bootPlat_ok (b : BootInput) : (bootPlat b).Ok := by
  refine { platReset_ok with sites := ?_ }
  simp only [bootPlat]
  cases hfirst : bootFails b with
  | none => exact bootSites_ok fun d hd => goodSites_of_stage5 (by simp [hfirst]) hd
  | some k =>
    dsimp only
    split
    next hstage =>
      refine bootSites_ok fun d hd => goodSites_of_stage5 (fun j hj => ?_) hd
      obtain rfl : k = j := Option.some.inj (hfirst.symm.trans hj)
      cases k with
      | zero => exact absurd hstage (by decide)
      | succ k => exact Nat.succ_le_succ hstage
    next => exact platReset_ok.sites

/-! ### Every move -/

theorem chunkIn_sameLimits (p : Plat) (n : Nat) (part : List Byte) : p.SameLimits (p.chunkIn n part) :=
  (p.sameLimits_updConn n _).trans (Plat.sameLimits_say ..)

theorem chunkSend_withinLimits {s : State} (hs : s.plat.Ok) (n id : Nat) (part : List Byte) (last : Bool) :
    Out.WithinLimits (execChunkSend n id part last s) := by
  have hin : s.plat.SameLimits ((s.plat.within id fun p => p.chunkIn n part).updSession id fun e => { e with last := s.m.cycle }) :=
    ((chunkIn_sameLimits s.plat n part).within id).trans (Plat.sameLimits_updSession ..)
  unfold execChunkSend
  split
  · exact Out.withinLimits_next hs
  split
  · exact Out.withinLimits_same hs (s.plat.sameLimits_err n _)
  split
  · exact Out.withinLimits_same hs (s.plat.sameLimits_err n _)
  generalize (s.plat.within id fun p => p.chunkIn n part).updSession id (fun e => { e with last := s.m.cycle }) = p at hin
  dsimp only
  split
  · exact Out.withinLimits_next ((p.sameLimits_updConn n fun c => { c with inb := [] }).ok (hin.ok hs))
  · exact Out.withinLimits_same hs hin

theorem chunkGet_withinLimits {s : State} (hs : s.plat.Ok) (n id : Nat) : Out.WithinLimits (execChunkGet n id s) := by
  unfold execChunkGet
  split
  · exact onFull_withinLimits hs n fun p => p.sameLimits_chunkOut n
  · exact inSession_withinLimits hs n id fun p => p.sameLimits_chunkOut n

theorem sessionTimeout_withinLimits {s : State} (hs : s.plat.Ok) (id : Nat) : Out.WithinLimits (execSessionTimeout id s) := by
  unfold execSessionTimeout
  split
  · split
    · exact Out.withinLimits_same hs (s.plat.sameLimits_dropSession id)
    · exact Out.withinLimits_next hs
  · exact Out.withinLimits_next hs

theorem heartbeatPeriod_withinLimits {s : State} (hs : s.plat.Ok) (id : Nat) : Out.WithinLimits (execHeartbeatPeriod id s) := by
  unfold execHeartbeatPeriod
  dsimp only
  split
  · split
    · exact Out.withinLimits_same hs ⟨rfl, rfl, rfl, rfl, rfl⟩
    · exact Out.withinLimits_next hs
  · exact Out.withinLimits_next hs

theorem negotiateAlgorithms_withinLimits {s : State} (hs : s.plat.Ok) (n : Nat) (o : AlgOffer) :
    Out.WithinLimits (execNegotiateAlgorithms n o s) := by
  refine onAgent_withinLimits hs fun p => ?_
  split
  · exact p.sameLimits_err n _
  split
  · exact p.sameLimits_err n _
  split
  · exact p.sameLimits_err n _
  · exact (p.sameLimits_updConn n _).trans (Plat.sameLimits_respond _ n _ _)

theorem getCapabilities_withinLimits {s : State} (hs : s.plat.Ok) (n : Nat) : Out.WithinLimits (execGetCapabilities n s) := by
  refine onAgent_withinLimits hs fun p => ?_
  split
  · exact p.sameLimits_err n _
  · exact (p.sameLimits_updConn n _).trans (Plat.sameLimits_respond ..)

theorem getDigests_withinLimits {s : State} (hs : s.plat.Ok) (n : Nat) : Out.WithinLimits (execGetDigests n s) := by
  refine onAgent_withinLimits hs fun p => ?_
  split
  · exact p.sameLimits_respond n _ _
  · exact p.sameLimits_err n _

theorem getCertificate_withinLimits {s : State} (hs : s.plat.Ok) (n slot : Nat) : Out.WithinLimits (execGetCertificate n slot s) := by
  refine onAgent_withinLimits hs fun p => ?_
  split
  · exact p.sameLimits_err n _
  split
  · exact p.sameLimits_err n _
  · exact p.sameLimits_respond n _ _

theorem challenge_withinLimits {s : State} (hs : s.plat.Ok) (n slot : Nat) (nonce : List Byte) :
    Out.WithinLimits (execChallenge n slot nonce s) := by
  refine onFull_withinLimits hs n fun p => ?_
  split
  · exact p.sameLimits_err n _
  split
  · exact p.sameLimits_err n _
  · exact p.sameLimits_respond n _ _

theorem getMeasurements_withinLimits {s : State} (hs : s.plat.Ok) (n index : Nat) (sign : Bool) (nonce : List Byte) :
    Out.WithinLimits (execGetMeasurements n index sign nonce s) := by
  refine onAgent_withinLimits hs fun p => ?_
  split
  · exact p.sameLimits_err n _
  split
  · exact p.sameLimits_err n _
  dsimp only
  split
  · exact p.sameLimits_err n _
  · exact p.sameLimits_respond n _ _

theorem keyExchange_withinLimits {s : State} (hs : s.plat.Ok) (n slot : Nat) (share : List Byte) :
    Out.WithinLimits (execKeyExchange n slot share s) := by
  refine onFull_withinLimits hs n fun p => ?_
  split
  · exact p.sameLimits_err n _
  split
  · exact p.sameLimits_err n _
  · have hopen : p.SameLimits { p with sessions := p.sessions ++ [⟨p.freeSession, n, false, s.m.cycle, s.m.cycle, 0, false⟩] } :=
      ⟨rfl, rfl, rfl, rfl, rfl⟩
    exact hopen.trans (Plat.sameLimits_respond ..)

theorem finish_withinLimits {s : State} (hs : s.plat.Ok) (n id : Nat) (proof : Bool) : Out.WithinLimits (execFinish n id proof s) := by
  refine onFull_withinLimits hs n fun p => ?_
  split
  · split
    · exact p.sameLimits_err n _
    split
    · exact (p.sameLimits_updSession id _).trans ((Plat.sameLimits_respond ..).within id)
    · exact (p.sameLimits_dropSession id).trans (Plat.sameLimits_err ..)
  · exact p.sameLimits_err n _

/-- The events and instructions that act on the platform: they are the management agent's and Ringmaster's, and those of power, heat and
bring-up. Every other changes the machine alone. -/
def Instr.onPlatform : Instr → Bool
  | .preqPowerDown _ _ | .preqSelfRefresh _ _ | .preqWake _ _ | .preqSetIsland _ _ | .preqEndSlice _ _ => true
  | .getVersion _ | .getCapabilities _ | .negotiateAlgorithms _ _ | .getDigests _ | .getCertificate _ _ | .challenge _ _ _ => true
  | .getMeasurements _ _ _ _ | .keyExchange _ _ _ | .finish _ _ _ | .heartbeat _ _ | .keyUpdate _ _ | .endSession _ _ => true
  | .chunkSend _ _ _ _ | .chunkGet _ _ | .unsupportedRequest _ _ | .sessionTimeout _ | .heartbeatPeriod _ => true
  | .partitionCreation _ _ | .partitionTeardown _ | .partitionTableWrite _ _ | .budgetWrite _ _ | .networkPeriod _ => true
  | .runtimeRepair _ _ _ | .thermalThrottle _ _ | .thermalTrip _ _ | .changeOfFrequency _ _ | .packageReset _ => true
  | .hostLaunch _ | .prepare _ => true
  | _ => false

theorem exec_machine {i : Instr} (h : Instr.onPlatform i = false) (s : State) : ∃ m, exec i s = .next { s with m := m } := by
  cases i <;> cases h <;> exact ⟨_, rfl⟩

theorem hostLaunch_machine (g : LaunchMsg) (s : State) : ∃ m, execHostLaunch g s = .next { s with m := m } := by
  unfold execHostLaunch
  split <;> exact ⟨_, rfl⟩

theorem prepare_machine (p : PrepareMsg) (s : State) : ∃ m, execPrepare p s = .next { s with m := m } := by
  unfold execPrepare
  split <;> exact ⟨_, rfl⟩

theorem exec_withinLimits (i : Instr) {s : State} (hs : s.plat.Ok) : Out.WithinLimits (exec i s) := by
  by_cases h : Instr.onPlatform i = false
  · exact .of_machine hs (exec_machine h s)
  · cases i <;> try exact absurd rfl h
    case preqPowerDown a b => exact preqStep_withinLimits hs a b
    case preqSelfRefresh a b => exact preqStep_withinLimits hs a b
    case preqWake a b => exact preqStep_withinLimits hs a b
    case preqSetIsland a b => exact preqStep_withinLimits hs a b
    case preqEndSlice a b => exact preqStep_withinLimits hs a b
    case getVersion n => exact onAgent_withinLimits hs fun p => (p.sameLimits_updConn n _).trans (Plat.sameLimits_respond ..)
    case getCapabilities n => exact getCapabilities_withinLimits hs n
    case negotiateAlgorithms n o => exact negotiateAlgorithms_withinLimits hs n o
    case getDigests n => exact getDigests_withinLimits hs n
    case getCertificate n slot => exact getCertificate_withinLimits hs n slot
    case challenge n slot nonce => exact challenge_withinLimits hs n slot nonce
    case getMeasurements n index sign nonce => exact getMeasurements_withinLimits hs n index sign nonce
    case keyExchange n slot share => exact keyExchange_withinLimits hs n slot share
    case finish n id proof => exact finish_withinLimits hs n id proof
    case heartbeat n id => exact inSession_withinLimits hs n id fun p => p.sameLimits_respond n _ _
    case keyUpdate n id => exact inSession_withinLimits hs n id fun p => (p.sameLimits_updSession id _).trans (Plat.sameLimits_respond ..)
    case endSession n id => exact inSession_withinLimits hs n id fun p => (p.sameLimits_dropSession id).trans (Plat.sameLimits_respond ..)
    case chunkSend n id part last => exact chunkSend_withinLimits hs n id part last
    case chunkGet n id => exact chunkGet_withinLimits hs n id
    case unsupportedRequest n code => exact onAgent_withinLimits hs fun p => p.sameLimits_err n _
    case sessionTimeout id => exact sessionTimeout_withinLimits hs id
    case heartbeatPeriod id => exact heartbeatPeriod_withinLimits hs id
    case partitionCreation q e => exact tableWrite_withinLimits hs _
    case partitionTeardown q => exact tableWrite_withinLimits hs _
    case partitionTableWrite q e => exact tableWrite_withinLimits hs _
    case budgetWrite die row => exact budgetWrite_withinLimits hs die row
    case networkPeriod die => exact networkPeriod_withinLimits hs die
    case runtimeRepair die idx site => exact runtimeRepair_withinLimits hs die idx site
    case thermalThrottle die temp => exact thermalThrottle_withinLimits hs die temp
    case thermalTrip die temp => exact thermalTrip_withinLimits hs die temp
    case changeOfFrequency island mhz => exact changeOfFrequency_withinLimits hs island mhz
    case packageReset b => exact Out.withinLimits_next (bootPlat_ok b)
    case hostLaunch g => exact .of_machine hs (hostLaunch_machine g s)
    case prepare p => exact .of_machine hs (prepare_machine p s)

theorem runCtx_withinLimits (c : Nat) (lag : Bool) {s : State} (hs : s.plat.Ok) : Out.WithinLimits (runCtx c lag s) := by
  unfold runCtx execWord
  split
  · exact Out.withinLimits_next hs
  split
  · exact Out.withinLimits_next hs
  · exact Out.withinLimits_next hs
  · split
    · exact exec_withinLimits _ hs
    · exact Out.withinLimits_next hs

theorem runNmu_withinLimits (n : Nat) {s : State} (hs : s.plat.Ok) : Out.WithinLimits (runNmu n s) := by
  unfold runNmu nmuBad nmuHint
  split
  · exact Out.withinLimits_next hs
  dsimp only
  split
  · exact Out.withinLimits_next hs
  split
  · exact Out.withinLimits_next hs
  split
  · exact exec_withinLimits _ hs
  · exact Out.withinLimits_next hs

theorem netMove_ok (e : NetMove) {s : State} (hs : s.plat.Ok) : (netMove e s).plat.Ok := by
  cases e <;> simp only [netMove]
  case read | readIsland => exact (Plat.sameLimits_say ..).ok hs
  case request n what body => exact (s.plat.sameLimits_request n what body _).ok hs
  case ucie => split <;> exact hs
  case spare die kind n =>
    have huse : (s.useSpare die kind n).plat.Ok := by
      unfold State.useSpare
      split
      · exact hs
      · exact { hs with }
    split <;> exact huse
  all_goals exact hs

theorem runMove_withinLimits (mv : Move) {s : State} (hs : s.plat.Ok) : Out.WithinLimits (runMove mv s) := by
  unfold runMove
  split
  · exact Out.withinLimits_next hs
  cases mv with
  | run c lag =>
    dsimp only
    split
    · exact runCtx_withinLimits c lag hs
    · rintro _ ⟨⟩
  | nmu n =>
    dsimp only
    split
    · exact runNmu_withinLimits n hs
    · rintro _ ⟨⟩
  | ev i => exact exec_withinLimits i hs
  | join n key chain meas chal sig h =>
    refine Out.withinLimits_next ?_
    unfold State.join
    split <;> exact hs
  | net e => exact Out.withinLimits_next (netMove_ok e hs)

/-! ### After a move -/

theorem mailCtl_sameLimits (s : State) (p : Nat × Nat × List Byte) : s.plat.SameLimits (s.mailCtl p).plat := by
  unfold State.mailCtl
  dsimp only
  split
  · exact .refl _
  · split
    · exact ⟨rfl, rfl, rfl, rfl, rfl⟩
    · exact .refl _

theorem mailOne_sameLimits (s : State) (g : Mgmt) : s.plat.SameLimits (s.mailOne g).plat := by
  unfold State.mailOne
  dsimp only
  split
  · exact ⟨rfl, rfl, rfl, rfl, rfl⟩
  · split <;> exact ⟨rfl, rfl, rfl, rfl, rfl⟩

theorem foldl_sameLimits {α : Type} {f : State → α → State} (hf : ∀ (s : State) a, s.plat.SameLimits (f s a).plat) (l : List α) (s : State) :
    s.plat.SameLimits (l.foldl f s).plat := by
  induction l generalizing s with
  | nil => exact .refl _
  | cons a t ih => exact (hf s a).trans (ih _)

theorem mailAll_sameLimits (s : State) : s.plat.SameLimits (s.plat.out.foldl State.mailOne { s with plat := { s.plat with out := [] } }).plat :=
  .trans (q := { s.plat with out := [] }) ⟨rfl, rfl, rfl, rfl, rfl⟩
    (foldl_sameLimits mailOne_sameLimits s.plat.out { s with plat := { s.plat with out := [] } })

theorem mail_sameLimits (s : State) : s.plat.SameLimits s.mail.plat := by
  unfold State.mail
  dsimp only
  split
  · exact .refl _
  · exact (foldl_sameLimits mailCtl_sameLimits s.m.goIfReady.troupe.prep
      { s with m := s.m.goIfReady.updTroupe fun t => { t with prep := [] } }).trans (mailAll_sameLimits _)

theorem afterMove_withinLimits {r : Out} (h : r.WithinLimits) : Out.WithinLimits (afterMove r) := by
  cases r with
  | next s => exact Out.withinLimits_next ((mail_sameLimits s).ok (h s rfl))
  | fault => rintro _ ⟨⟩
  | refused => rintro _ ⟨⟩

theorem nextMove_plat (s : State) : (nextMove s).2.plat = s.plat := by
  unfold nextMove
  split <;> rfl

/-- Settles O57: the limits are an invariant of every move, the instructions and events that act on the platform one by one, and of what
follows a move. -/
theorem platKept : Obligations.PlatKept := by
  unfold Obligations.PlatKept
  intro s t hs hstep
  have hnext : (nextMove s).2.plat.Ok := by rwa [nextMove_plat]
  exact afterMove_withinLimits (runMove_withinLimits _ hnext) t hstep

/-- Settles O56. -/
theorem platReset : Obligations.PlatReset := platReset_ok

/-! ### The budgets of a die -/

theorem nthD_mapAt_ne {α : Type} (d : α) (l : List α) {i j : Nat} (f : α → α) (h : j ≠ i) : nthD d (mapAt l i f) j = nthD d l j := by
  induction l generalizing i j with
  | nil => rfl
  | cons a t ih =>
    cases i <;> cases j
    case zero.zero => exact absurd rfl h
    case zero.succ => rfl
    case succ.zero => rfl
    case succ.succ i j => exact ih fun hij => h (congrArg (· + 1) hij)

theorem budgetOk_eq_false {r : List Nat} (h : (∃ b ∈ r, b = 0) ∨ 1024 < r.sum) : budgetOk r = false := by
  rw [Bool.eq_false_iff, ne_eq, budgetOk_iff]
  rintro ⟨hpos, hsum⟩
  obtain ⟨b, hb, rfl⟩ | hover := h
  · exact absurd (hpos 0 hb) (by decide)
  · omega

theorem tableStatus_refused (p : Plat) (m : Mach) :
    p.tableStatus m false = { p with out := p.out ++ [⟨m.troupe.node, "STATUS", leBytes 1 1, 0⟩] } := rfl

theorem Mach.overBudget_used (m : Mach) (die : Nat) (budgets : List Nat) : (m.overBudget die budgets).used = m.used := by
  unfold overBudget
  generalize List.range 6 = cs
  suffices ∀ n : Mach, n.used = m.used →
      (cs.foldl (fun n c => n.dieNote die (.budget c) (nthD 0 (nthD [] n.used die) c - nthD 0 budgets c)) n).used = m.used from this m rfl
  induction cs with
  | nil => exact fun n h => h
  | cons c t ih => exact fun n h => ih _ h

/-- Settles O48: a write either replaces the budgets that wait, or only reports; a period takes the die's, and clears its counts. -/
theorem budgets : Obligations.Budgets := by
  unfold Obligations.Budgets
  intro s
  refine ⟨fun die row hup => ⟨fun hdie hpos hsum => ?_, fun hbad => ?_⟩, fun die hstart hdie hbud hnext hused => ?_⟩
  · have hok : (die < 4 && budgetOk (budgetRow row)) = true := Bool.and_eq_true_iff.mpr ⟨decide_eq_true hdie, (budgetOk_iff _).mpr ⟨hpos, hsum⟩⟩
    refine ⟨_, (if_neg (by simp [hup])).trans (if_pos hok), ?_⟩
    exact ⟨(Plat.sameLimits_tableStatus ..).budgets, (Plat.sameLimits_tableStatus ..).written⟩
  · have hno : ¬ (die < 4 && budgetOk (budgetRow row)) = true := by simp [budgetOk_eq_false hbad]
    refine ⟨_, (if_neg (by simp [hup])).trans (if_neg hno), ?_⟩
    rw [tableStatus_refused]
    exact ⟨rfl, by simp, by simp⟩
  · refine ⟨_, if_pos hstart, ?_, ?_, fun j hj => ⟨nthD_mapAt_ne _ _ _ hj, ?_⟩⟩
    · have hget : s.plat.budNext[die]? = some s.plat.budNext[die] := List.getElem?_eq_getElem _
      rw [nthD_mapAt_same, if_pos (by omega)]
      simp [nthD, hget]
    · dsimp only
      rw [nthD_mapAt_same, Mach.overBudget_used, if_pos (by omega)]
      intro u hu
      obtain ⟨-, -, rfl⟩ := List.mem_map.mp hu
      rfl
    · exact (nthD_mapAt_ne _ _ _ hj).trans (congrArg (nthD [] · j) (Mach.overBudget_used ..))

end Sys2Proof.Machine
end

section
/-!
PROOFS. Scalar atomics (R150, R404 to R406).
-/

namespace Sys2Proof.Machine

/-! ### The operations -/

theorem amoNew_max (o y e : Word) : amoNew 2 o y e = if o.toInt < y.toInt then y else o := by simp [amoNew, BitVec.slt]
theorem amoNew_min (o y e : Word) : amoNew 3 o y e = if y.toInt < o.toInt then y else o := by simp [amoNew, BitVec.slt]
theorem amoNew_maxu (o y e : Word) : amoNew 4 o y e = if o.toNat < y.toNat then y else o := by simp [amoNew, BitVec.ult]
theorem amoNew_minu (o y e : Word) : amoNew 5 o y e = if y.toNat < o.toNat then y else o := by simp [amoNew, BitVec.ult]

theorem amoWrites_of_ne {f : Nat} (h : f ≠ 9) (o e : Word) : amoWrites f o e = true := by simp [amoWrites, h]
theorem amoWrites_cas (o e : Word) : amoWrites 9 o e = true ↔ o = e := by simp [amoWrites]

/-! ### At once, or by the store buffer -/

theorem State.lag_reach (s : State) (key va n : Nat) : (s.reach key va n).lag = s.m.lag := by
  obtain ⟨_, _, _, _, _, _, _, _, _, hn⟩ := (s.m.reads_reached key va n).rest
  have hreach : s.reach key va n = s.m.reached key va n := by simp only [State.reach, Mach.reached, Mach.countKey]
  rw [hreach, hn]

section
variable {s : State} {d a b : BitVec 5} {ss : List (Loc × Nat)} {f : Nat} (hr : s.ready [d, a, b]) (ha : s.Atomic ((s.x a).toNat / 8 * 8) ss)
include hr ha

/-- Where nothing older must be performed first, an atomic is performed at its home (R150, R405). -/
theorem amo_first (hf : s.first ((s.x a).toNat / 8 * 8) ss = true) :
    amo f d a b s = .next (s.did
      (let r := (s.reach 0 ((s.x a).toNat / 8 * 8) 8).amoHere s.m.cur f (s.x b) (s.x d) ss
       r.1.setX d.toNat r.2)) := by
  obtain ⟨hhere, hlocal, hclean, hwalks⟩ := ha
  rw [State.first, ← s.lag_reach 0 ((s.x a).toNat / 8 * 8) 8] at hf
  simp only [State.x, State.reach] at *
  refine scalarStep_ok hr ?_
  simp only [waitFor, orRaise, bind, Except.bind, pure, Except.pure, hwalks, hhere, hlocal, hclean, hf, Bool.not_false, if_true]

/-- Else it enters the store buffer, where there is room (R150, R405). -/
theorem amo_later (hf : s.first ((s.x a).toNat / 8 * 8) ss = false) (hroom : s.m.me.sb.length < 32) :
    amo f d a b s = .next (s.atomicLater ((s.x a).toNat / 8 * 8) f ss d b) := by
  obtain ⟨hhere, hlocal, hclean, hwalks⟩ := ha
  have hroom : ¬ 32 ≤ s.m.me.sb.length := by omega
  rw [State.first, ← s.lag_reach 0 ((s.x a).toNat / 8 * 8) 8] at hf
  simp only [State.atomicLater, State.x, State.reach] at *
  refine scalarStep_ok hr ?_
  simp only [waitFor, orRaise, bind, Except.bind, hwalks, hhere, hlocal, hclean, hf, if_neg hroom, Bool.not_false, if_true, Bool.false_eq_true,
    if_false]

/-- An atomic performed at once, by its new value and by whether it stores one. -/
theorem amo_atomic (hf : s.first ((s.x a).toNat / 8 * 8) ss = true) {new : Word → Word} {store : Word → Prop} [DecidablePred store]
    (hstore : ∀ o, amoWrites f o (s.x d) = true ↔ store o) (hnew : ∀ o, store o → amoNew f o (s.x b) (s.x d) = new o) :
    amo f d a b s = .next (s.atomic ((s.x a).toNat / 8 * 8) ss d new store) := by
  rw [amo_first hr ha hf]
  simp only [State.atomic, Mach.amoHere, zextW]
  by_cases h : store (BitVec.ofNat 64 (leVal ((s.reach 0 ((s.x a).toNat / 8 * 8) 8).readSegs ss)))
  · simp only [if_pos h, if_pos ((hstore _).mpr h), hnew _ h]
  · simp only [if_neg h, Bool.eq_false_iff.mpr ((hstore _).not.mpr h), Bool.false_eq_true, if_false]

/-- The same for an operation that always stores its value. -/
theorem amo_always (hf : s.first ((s.x a).toNat / 8 * 8) ss = true) (h9 : f ≠ 9) {new : Word → Word}
    (hnew : ∀ o, amoNew f o (s.x b) (s.x d) = new o) :
    amo f d a b s = .next (s.atomic ((s.x a).toNat / 8 * 8) ss d new fun _ => True) :=
  amo_atomic hr ha hf (fun o => ⟨fun _ => trivial, fun _ => amoWrites_of_ne h9 o _⟩) fun o _ => hnew o

end

/-- Settles O14: an atomic is performed at once or enters the store buffer, and the ten differ in their new value alone. -/
theorem scalarAtomics : Obligations.ScalarAtomics := by
  unfold Obligations.ScalarAtomics
  intro s d a b ss hr va y ha
  refine ⟨fun hf => ⟨?add, ?swap, ?max, ?min, ?maxu, ?minu, ?and, ?or, ?xor, ?cas⟩, fun hf hroom p hp => ?later⟩
  case add => exact amo_always hr ha hf (by decide) fun o => rfl
  case swap => exact amo_always hr ha hf (by decide) fun o => rfl
  case max => exact amo_always hr ha hf (by decide) fun o => amoNew_max o _ _
  case min => exact amo_always hr ha hf (by decide) fun o => amoNew_min o _ _
  case maxu => exact amo_always hr ha hf (by decide) fun o => amoNew_maxu o _ _
  case minu => exact amo_always hr ha hf (by decide) fun o => amoNew_minu o _ _
  case and => exact amo_always hr ha hf (by decide) fun o => rfl
  case or => exact amo_always hr ha hf (by decide) fun o => rfl
  case xor => exact amo_always hr ha hf (by decide) fun o => rfl
  case cas => exact amo_atomic hr ha hf (fun o => amoWrites_cas o _) fun o ho => if_pos ho
  case later =>
    simp only [List.mem_cons, List.not_mem_nil, or_false] at hp
    rcases hp with rfl | rfl | rfl | rfl | rfl | rfl | rfl | rfl | rfl | rfl <;> exact amo_later hr ha hf hroom

end Sys2Proof.Machine
end

section
/-!
PROOFS. Carousel (R437): the counterexample to O35, a graph image whose first word is read twice through different translations.
-/

namespace Sys2Proof.Machine

/-! ### A graph image that changes between two reads

`cgld` reads the first 64 bytes of an image to learn its length, then the image whole, from its first word on. As with a group image
(`shortEntry`), the obligation asks of each word only that it resolves once it has itself been translated. The TLB of the pair holds an entry of
8 bytes for the first word alone; the page that the second word's walk fills stands before it from then on, so the second read of the first word
goes to a poisoned place, and `cgld` traps. -/

/-- A readable and writable leaf of memory type 1 for a place in the scratchpad. -/
def graphLeaf (off : Nat) : Nat := launchPad + off + 0x47

/-- The virtual addresses of the image and of its status record. -/
def graphVa : Nat := 0x40003000
def graphStatusVa : Nat := 0x40005000

/-- A page table that maps the gigabyte of the image to the scratchpad; the image, of one copy of 64 bytes with one base address: its first word
where the cached translation finds it, the others where the page table puts them. -/
def graphMem : Cells 8 :=
  let table := csetRange (csetRange [] launchPad (leBytes 8 (launchPad + 1))) (launchPad + 8) (leBytes 8 (graphLeaf 0))
  let status := csetRange table (launchPad + 0x3008) (leBytes 8 graphStatusVa)
  cset (cset status (launchPad + 0x304C) 64) (launchPad + 0x2001) 0x10

/-- The machine before `cgld X3, X2`: X2 holds the image's address. -/
def shortGraph : State := { State.reset with m := { Mach.reset with
  ctxs := [(0, { launchCtx with x := vecSet Ctx.reset.x 2 (BitVec.ofNat 64 graphVa) })]
  parts := [(0, launchPart)]
  pairs := [(0, { Pair.reset with tlb := [⟨0, graphVa, 8, graphLeaf 0x2000, 0⟩] })]
  mem := graphMem
  poison := [launchPad + 0x3000] } }

/-- Where the words of the image lie, each at its first read. -/
def graphLoc (i : Nat) : Loc := .pa (launchPad + (if i = 0 then 0x2000 else 0x3000) + 8 * i)

/-- The image's operation. -/
def graphOps : List GOp := (blocksOf 64 1 ((shortGraph.m.image 8 16 graphLoc).drop 64)).map fun b => gopOf (leVal b)

theorem shortGraph_may_load : shortGraph.ready [3, 2] ∧ (shortGraph.x 2).toNat = graphVa ∧ shortGraph.m.me.engineReady = true ∧
    shortGraph.m.findSlot (shortGraph.m.qOf shortGraph.m.cur) = some 0 := by
  unfold State.ready
  decide +kernel

/-- Each word of the image can be read once it has been translated, for the first time. -/
theorem shortGraph_image : shortGraph.m.Image .no 0 graphVa 8 16 graphLoc := by
  constructor <;> decide +kernel

theorem shortGraph_header : bitsOf (leVal (shortGraph.m.image 8 8 graphLoc)) 11 0 = 0 ∧
    bitsOf (leVal (shortGraph.m.image 8 8 graphLoc)) 15 12 = 1 ∧ bitsOf (leVal (shortGraph.m.image 8 8 graphLoc)) 63 16 = 0 ∧
    bitsOf (leVal (shortGraph.m.image 8 8 graphLoc)) 127 64 = graphStatusVa ∧
    bitsOf (leVal (shortGraph.m.image 8 8 graphLoc)) 511 128 = 0 := by
  decide +kernel

/-- The image is legal: its one copy waits for nothing. -/
theorem shortGraph_legal : graphOps.all (fun o => o.legal 0 1) = true ∧ graphOk graphOps = true := by decide +kernel

/-- The status record lies in memory and may be written. -/
theorem shortGraph_status : ((shortGraph.m.fetched 0 graphVa 8 16).touchN 0 graphStatusVa 64).resolve 0 kWrite graphStatusVa 64 .no =
    .ok [(.pa (launchPad + 0x5000), 64)] ∧ (shortGraph.m.keyOf (launchPad + 0x5000)).isSome = true := by
  decide +kernel

/-- `cgld` traps: the second read of the image's first word finds the poison. -/
theorem shortGraph_cgld_poison : faultAfter (exec (.cgld 3 2) shortGraph) = some (0x20C, BitVec.ofNat 64 graphVa) := by decide +kernel

/-- The state of slot 0 after an instruction, where it has a next state. -/
def slotAfter : Out → Option Nat
  | .next t => some (t.m.slot 0).state
  | _ => none

/-- So slot 0 stays free. -/
theorem shortGraph_cgld_slot : slotAfter (exec (.cgld 3 2) shortGraph) = some 0 := by decide +kernel

/-- The slot as the obligation wants it: loaded, idle. -/
theorem shortGraph_loaded (k : Slot) (hk : k.state = 1) (d : Nat) (v : Word) :
    (((shortGraph.m.updSlot 0 fun _ => k).setX d v).slot 0).state = 1 := hk

/-- Refutes O35: where the pair's TLB holds an entry smaller than a page, each word of a legal graph image may resolve when it is first
translated, and its first word resolve elsewhere when `cgld` reads it again; `cgld` then traps and loads no slot. -/
theorem not_carousel : ¬ Obligations.Carousel := by
  unfold Obligations.Carousel
  intro h
  obtain ⟨hslots, -⟩ := h
  obtain ⟨hcgld, -⟩ := hslots shortGraph 3 2 0
  obtain ⟨hready, hva, hengine, hslot⟩ := shortGraph_may_load
  obtain ⟨hn, hnb, hreserved, hstatus, hreserved'⟩ := shortGraph_header
  obtain ⟨hlegal, hgraph⟩ := shortGraph_legal
  obtain ⟨hresolve, hkey⟩ := shortGraph_status
  have hload := hcgld graphLoc [] 64 (launchPad + 0x5000) 0 hready
  simp only [hva, hn, hnb, hstatus] at hload
  obtain ⟨t, hexec, hreads⟩ := hload (by decide) hengine shortGraph_image hreserved hreserved' (by decide) hresolve hkey hlegal hgraph hslot
  obtain ⟨-, -, -, -, hslots, -⟩ := hreads
  have hfree : (t.m.slot 0).state = 0 := Option.some.inj ((congrArg slotAfter hexec).symm.trans shortGraph_cgld_slot)
  have hloaded : (t.m.slot 0).state = 1 := (congrArg (fun l => (nthD Slot.free l 0).state) hslots).trans (shortGraph_loaded _ rfl 3 _)
  omega

end Sys2Proof.Machine
end

section
/-!
PROOFS. Writes to memory: what they rest on, and what they leave (R118, R200, R209).
-/

namespace Sys2Proof.Machine

/-! ### The barrier words that are named -/

/-- The barrier word that a buffered `tbinit` or `tbexp` names (R200). -/
def SbEnt.tbWord (e : SbEnt) : List Nat :=
  match e.op, e.segs with
  | .tbinit _, (.pa a, _) :: _ => [a]
  | .tbexp _, (.pa a, _) :: _ => [a]
  | _, _ => []

/-- The barrier words that a context's sleep, and its held and queued copies, name when a store with place w is performed (R200). -/
def Mach.tbWaits (m : Mach) (w : Place) (c : Nat) : List Nat :=
  match (m.ctx c).sleep.map Sleep.on with | some (.tb (.pa a) _ _) => if w.any (fun p => p.1 == c) then [] else [a] | _ => []
def Mach.tbCopies (m : Mach) (w : Place) (c : Nat) : List Nat :=
  ((((m.ctx c).hold.filter fun h => w.after c h.after h.mark).filterMap fun h => match h.cmd with | .copy k => k.tb | _ => none) ++
    ((m.ctx c).copyq.filter fun e => w.after c e.age e.mark).filterMap fun e => e.cmd.tb).map (m.spPa c)

theorem Mach.tbNamed_eq (m : Mach) (w : Place) (c : Nat) :
    m.tbNamed w c = m.tbWaits w c ++ (((m.ctx c).sb.filter fun e => w.after c e.after e.id).flatMap SbEnt.tbWord) ++ m.tbCopies w c := rfl

theorem SbEnt.tbWord_eq_nil {e : SbEnt} (hinit : ∀ n, e.op ≠ .tbinit n) (hexp : ∀ n, e.op ≠ .tbexp n) : e.tbWord = [] := by
  unfold tbWord
  split
  · exact absurd ‹_› (hinit _)
  · exact absurd ‹_› (hexp _)
  · rfl

/-- The barrier words that a context's instructions and copies name, from the context's own registers. -/
theorem Mach.tbNamed_congr {m n : Mach} {c : Nat} (h : ∃ x : Ctx, n.ctx c = { x with
    sleep := (m.ctx c).sleep, sb := (m.ctx c).sb, hold := (m.ctx c).hold, copyq := (m.ctx c).copyq, spBase := (m.ctx c).spBase }) (w : Place) :
    n.tbNamed w c = m.tbNamed w c := by
  obtain ⟨x, hx⟩ := h
  have hsp : n.spPa c = m.spPa c := funext fun _ => by simp only [spPa, hx]
  simp only [tbNamed, hx, hsp]

/-- The barrier words that the contexts name when a store with place w is performed (R200). -/
def Mach.named (m : Mach) (w : Place) : List Nat := m.ctxs.flatMap fun e => m.tbNamed w e.1

/-- Setting an entry of a table changes nothing of what its keys give, unless it adds a key that gives something. -/
theorem flatMap_tabSet {α β : Type} (f : Nat → List β) (k : Nat) (v : α) {t : Tab α} (h : tabFind t k = none → f k = []) :
    (tabSet t k v).flatMap (fun e => f e.1) = t.flatMap fun e => f e.1 := by
  induction t with
  | nil => simp [tabSet, h rfl]
  | cons e t ih =>
    simp only [tabFind] at h
    simp only [tabSet]
    split
    next hk => simp [hk]
    next hk =>
      rw [if_neg hk] at h
      split
      next hlt => simp [h (if_pos hlt)]
      next hlt =>
        rw [if_neg hlt] at h
        simp only [List.flatMap_cons, ih h]

/-- A context whose own named words stay leaves the named words as they are. -/
theorem Mach.named_updCtx (m : Mach) (c : Nat) {f : Ctx → Ctx} {w : Place} (h : (m.updCtx c f).tbNamed w c = m.tbNamed w c) :
    (m.updCtx c f).named w = m.named w := by
  have hall : ∀ d, (m.updCtx c f).tbNamed w d = m.tbNamed w d := fun d => by
    by_cases hd : d = c
    · rw [hd, h]
    · exact tbNamed_congr ⟨m.ctx d, m.ctx_updCtx_ne c d f hd⟩ w
  have hkeys := flatMap_tabSet (m.tbNamed w) c (f (m.ctx c)) (t := m.ctxs) fun hnone => by
    have hc : m.ctx c = .reset := by simp [ctx, tabGet, hnone]
    simp [tbNamed, hc, Ctx.reset]
  simp only [named, hall]
  exact hkeys

/-- What names a word when w is performed names it when anything is. -/
theorem Mach.named_subset (m : Mach) (w : Place) : m.named w ⊆ m.named none := by
  refine fun v hv => ?_
  obtain ⟨e, he, hv⟩ := List.mem_flatMap.mp hv
  refine List.mem_flatMap.mpr ⟨e, he, ?_⟩
  simp only [tbNamed_eq, List.mem_append] at hv ⊢
  obtain (hsleep | hsb) | hcopy := hv
  · refine .inl (.inl ?_)
    simp only [tbWaits] at hsleep ⊢
    split at hsleep
    · split at hsleep
      · cases hsleep
      · simpa using hsleep
    · cases hsleep
  · obtain ⟨b, hb, hv⟩ := List.mem_flatMap.mp hsb
    exact .inl (.inr (List.mem_flatMap.mpr ⟨b, by simpa [Place.after] using (List.mem_filter.mp hb).1, hv⟩))
  · obtain ⟨u, hu, hv⟩ := List.mem_map.mp hcopy
    refine .inr (List.mem_map.mpr ⟨u, ?_, hv⟩)
    obtain hu | hu := List.mem_append.mp hu
    · obtain ⟨b, hb, hv⟩ := List.mem_filterMap.mp hu
      exact List.mem_append.mpr (.inl (List.mem_filterMap.mpr ⟨b, by simpa [Place.after] using (List.mem_filter.mp hb).1, hv⟩))
    · obtain ⟨b, hb, hv⟩ := List.mem_filterMap.mp hu
      exact List.mem_append.mpr (.inr (List.mem_filterMap.mpr ⟨b, by simpa [Place.after] using (List.mem_filter.mp hb).1, hv⟩))

/-! ### What a write changes -/

/-- The contexts differ in what a write through a window changes: registers, accumulators, and their dirty bits and poison (R7, R96). -/
def Ctx.Written (x y : Ctx) : Prop :=
  ∃ vr vd vh vp ac ap, y = { x with vrf := vr, vdirty := vd, vhwm := vh, vrPoison := vp, acc := ac, accPoison := ap }

theorem Ctx.Written.refl (x : Ctx) : x.Written x := ⟨_, _, _, _, _, _, rfl⟩

theorem Ctx.Written.trans {x y z : Ctx} (h : x.Written y) (k : y.Written z) : x.Written z := by
  obtain ⟨_, _, _, _, _, _, rfl⟩ := h
  obtain ⟨a, b, c, d, e, f, rfl⟩ := k
  exact ⟨a, b, c, d, e, f, rfl⟩

theorem Ctx.Written.sb {x y : Ctx} (h : x.Written y) : y.sb = x.sb := by obtain ⟨_, _, _, _, _, _, rfl⟩ := h; rfl
theorem Ctx.Written.x_eq {x y : Ctx} (h : x.Written y) : y.x = x.x := by obtain ⟨_, _, _, _, _, _, rfl⟩ := h; rfl
theorem Ctx.Written.status {x y : Ctx} (h : x.Written y) : y.status = x.status := by obtain ⟨_, _, _, _, _, _, rfl⟩ := h; rfl
theorem Ctx.Written.copyq {x y : Ctx} (h : x.Written y) : y.copyq = x.copyq := by obtain ⟨_, _, _, _, _, _, rfl⟩ := h; rfl

theorem Ctx.written_vwrite (x : Ctx) (v b : Nat) (bs : List Byte) : x.Written (x.vwrite v b bs) := by
  unfold vwrite
  split
  · exact .refl x
  · exact ⟨_, _, _, _, _, _, rfl⟩

theorem Ctx.written_vwriteSlice (fuel : Nat) : ∀ (x : Ctx) (off : Nat) (bs : List Byte), x.Written (x.vwriteSlice fuel off bs) := by
  induction fuel with
  | zero => exact fun x _ _ => .refl x
  | succ fuel ih =>
    intro x off bs
    simp only [vwriteSlice]
    split
    · exact .refl x
    · exact (x.written_vwrite _ _ _).trans (ih _ _ _)

theorem Ctx.written_setAccBytes (x : Ctx) (off : Nat) (bs : List Byte) :
    x.Written (bs.zipIdx.foldl (fun x e => x.setAccByte (off + e.2) e.1) x) :=
  foldl_keep (fun y => x.Written y) _ _ _ (.refl x) fun _ _ hy => hy.trans ⟨_, _, _, _, _, _, rfl⟩

/-- From m to n bytes of this chip have been written: bytes, poison, errors, undefined barriers, registers behind windows, and counts and
clocks of links have changed, and nothing else. -/
structure Mach.WroteTo (m n : Mach) : Prop where
  rest : ∃ me po so dc ic us cl fr tb cs, n = { m with
    mem := me, poison := po, soft := so, dieCnt := dc, iodCnt := ic, used := us, clocks := cl, free := fr, tbs := tb, ctxs := cs }
  ctx : ∀ c, (m.ctx c).Written (n.ctx c)
  named : ∀ w, n.named w = m.named w

theorem Mach.WroteTo.refl (m : Mach) : m.WroteTo m := ⟨⟨_, _, _, _, _, _, _, _, _, _, rfl⟩, fun _ => .refl _, fun _ => rfl⟩

theorem Mach.WroteTo.trans {m n o : Mach} (h : m.WroteTo n) (k : n.WroteTo o) : m.WroteTo o where
  rest := by
    obtain ⟨_, _, _, _, _, _, _, _, _, _, hn⟩ := h.rest
    obtain ⟨a, b, c, d, e, f, g, i, j, l, ho⟩ := k.rest
    exact ⟨a, b, c, d, e, f, g, i, j, l, by rw [ho, hn]⟩
  ctx c := (h.ctx c).trans (k.ctx c)
  named w := (k.named w).trans (h.named w)

theorem Mach.WroteTo.foldl {α : Type} {f : Mach → α → Mach} (hf : ∀ (m : Mach) a, m.WroteTo (f m a)) (l : List α) (m : Mach) :
    m.WroteTo (l.foldl f m) := foldl_keep (fun n => m.WroteTo n) f l m (.refl m) fun n a hn => hn.trans (hf n a)

theorem Mach.WroteTo.parts {m n : Mach} (h : m.WroteTo n) : n.parts = m.parts := by obtain ⟨_, _, _, _, _, _, _, _, _, _, rfl⟩ := h.rest; rfl
theorem Mach.WroteTo.pairs {m n : Mach} (h : m.WroteTo n) : n.pairs = m.pairs := by obtain ⟨_, _, _, _, _, _, _, _, _, _, rfl⟩ := h.rest; rfl
theorem Mach.WroteTo.troupe {m n : Mach} (h : m.WroteTo n) : n.troupe = m.troupe := by obtain ⟨_, _, _, _, _, _, _, _, _, _, rfl⟩ := h.rest; rfl
theorem Mach.WroteTo.chains {m n : Mach} (h : m.WroteTo n) : n.chains = m.chains := by obtain ⟨_, _, _, _, _, _, _, _, _, _, rfl⟩ := h.rest; rfl

theorem Mach.Wrote.wroteTo {m n : Mach} (h : m.Wrote n) : m.WroteTo n := by
  obtain ⟨_, _, _, _, _, _, _, rfl⟩ := h
  exact ⟨⟨_, _, _, _, _, _, _, _, _, _, rfl⟩, fun _ => .refl _, fun _ => rfl⟩

/-- A barrier word whose fields become undefined: the place keeps its key and takes free values (R200). -/
def Mach.undefine (m : Mach) (t : Nat) : Mach :=
  { m with mem := csetRange m.mem t ((List.range 16).map fun i => Config.freeByte (m.free + i)), free := m.free + 16, tbs := t :: m.tbs.filter (· != t) }

/-- The barrier words that a write of n bytes at key k undefines (R200). -/
def Mach.hits (m : Mach) (k n : Nat) (w : Place) : List Nat :=
  ((m.tbs ++ m.named w).eraseDups).filter fun t => decide (t < k + n) && decide (k < t + 16)

theorem Mach.clobberTb_eq (m : Mach) (k n : Nat) (w : Place) :
    m.clobberTb k n w = if k < Config.dramEnd then m else (m.hits k n w).foldl undefine m := rfl

theorem Mach.wroteTo_undefine (m : Mach) (t : Nat) : m.WroteTo (m.undefine t) :=
  ⟨⟨_, _, _, _, _, _, _, _, _, _, rfl⟩, fun _ => .refl _, fun _ => rfl⟩

theorem Mach.wroteTo_clobberTb (m : Mach) (k n : Nat) (w : Place) : m.WroteTo (m.clobberTb k n w) := by
  rw [clobberTb_eq]
  split
  · exact .refl m
  · exact .foldl wroteTo_undefine _ m

theorem Mach.wroteTo_writePa (m : Mach) (pa : Nat) (bs : List Byte) (w : Place) : m.WroteTo (m.writePa pa bs w) := by
  refine .foldl (fun n r => ?_) _ m
  split
  · exact (n.wrote_poke _ _).wroteTo.trans (wroteTo_clobberTb _ _ _ _)
  · exact .refl n

/-- A change of a context that a write through a window can make. -/
theorem Mach.wroteTo_updCtx (m : Mach) (c : Nat) {f : Ctx → Ctx} (h : (m.ctx c).Written (f (m.ctx c))) : m.WroteTo (m.updCtx c f) := by
  refine ⟨⟨_, _, _, _, _, _, _, _, _, _, rfl⟩, fun d => ?_, fun w => m.named_updCtx c (tbNamed_congr ?_ w)⟩
  · by_cases hd : d = c
    · rw [hd, ctx_updCtx]
      exact h
    · rw [m.ctx_updCtx_ne c d f hd]
      exact .refl _
  · obtain ⟨_, _, _, _, _, _, hf⟩ := h
    exact ⟨f (m.ctx c), by rw [ctx_updCtx, hf]⟩

theorem Mach.wroteTo_write (m : Mach) (l : Loc) (bs : List Byte) (w : Place) : m.WroteTo (m.write l bs w) := by
  cases l with
  | pa a => exact m.wroteTo_writePa a bs w
  | vr c off => exact m.wroteTo_updCtx c (f := fun x => x.vwriteSlice 65 off bs) (Ctx.written_vwriteSlice ..)
  | acc c off =>
    have hbytes := (m.ctx c).written_setAccBytes off bs
    exact m.wroteTo_updCtx c (f := fun x =>
      let x := bs.zipIdx.foldl (fun x e => x.setAccByte (off + e.2) e.1) x
      { x with accPoison := x.accPoison.filter fun u => !(decide (off ≤ u * 4) && decide (u * 4 + 8 ≤ off + bs.length)) })
      (hbytes.trans ⟨_, _, _, _, _, _, rfl⟩)

theorem Mach.wroteTo_writeFrom (m : Mach) (d cls : Nat) (ss : List (Loc × List Byte)) (w : Place) : m.WroteTo (m.writeFrom d cls ss w) :=
  (m.wrote_cross d cls ss).1.wroteTo.trans (.foldl (fun n s => n.wroteTo_write s.1 s.2 w) ss _)

/-! ### What a write rests on -/

/-- Two machines in which stores to memory do the same: their memories, partitions, undefined barriers and named words are equal. -/
structure Mach.SameStore (m n : Mach) : Prop where
  mem : n.mem = m.mem
  parts : n.parts = m.parts
  free : n.free = m.free
  tbs : n.tbs = m.tbs
  named : ∀ w, n.named w = m.named w

theorem Mach.SameStore.refl (m : Mach) : m.SameStore m := ⟨rfl, rfl, rfl, rfl, fun _ => rfl⟩

theorem Mach.SameStore.symm {m n : Mach} (h : m.SameStore n) : n.SameStore m :=
  ⟨h.mem.symm, h.parts.symm, h.free.symm, h.tbs.symm, fun w => (h.named w).symm⟩

theorem Mach.SameStore.trans {m n o : Mach} (h : m.SameStore n) (k : n.SameStore o) : m.SameStore o :=
  ⟨k.mem.trans h.mem, k.parts.trans h.parts, k.free.trans h.free, k.tbs.trans h.tbs, fun w => (k.named w).trans (h.named w)⟩

theorem Mach.SameStore.foldl {α : Type} {f : Mach → α → Mach} (hf : ∀ {m n : Mach} a, m.SameStore n → (f m a).SameStore (f n a)) (l : List α)
    {m n : Mach} (h : m.SameStore n) : (l.foldl f m).SameStore (l.foldl f n) := by
  induction l generalizing m n with
  | nil => exact h
  | cons a l ih => exact ih (hf a h)

/-- A machine that has paid for an access stores as before. -/
theorem Mach.Wrote.sameStore {m n : Mach} (h : m.Wrote n) (hm : n.mem = m.mem) : m.SameStore n := by
  obtain ⟨_, _, _, _, _, _, _, rfl⟩ := h
  exact ⟨hm, rfl, rfl, rfl, fun _ => rfl⟩

theorem Mach.Alike.sameStore {m n : Mach} (h : m.Alike n) : m.SameStore n := by
  obtain ⟨_, _, _, _, _, rfl⟩ := h.rest
  exact ⟨rfl, rfl, rfl, rfl, fun _ => rfl⟩

section
variable {m n : Mach} (h : m.SameStore n)
include h

theorem Mach.SameStore.poke (k : Nat) (bs : List Byte) : (m.poke k bs).SameStore (n.poke k bs) := by
  have hm := m.wrote_poke k bs
  have hn := n.wrote_poke k bs
  have hmem : (n.poke k bs).mem = (m.poke k bs).mem := by rw [poke_mem, poke_mem, h.mem]
  obtain ⟨_, _, _, _, _, _, _, hm⟩ := hm
  obtain ⟨_, _, _, _, _, _, _, hn⟩ := hn
  rw [hm, hn] at hmem ⊢
  exact ⟨hmem, h.parts, h.free, h.tbs, h.named⟩

theorem Mach.SameStore.undefine (t : Nat) : (m.undefine t).SameStore (n.undefine t) := by
  refine ⟨?_, h.parts, ?_, ?_, h.named⟩
  all_goals simp only [Mach.undefine, h.mem, h.free, h.tbs]

theorem Mach.SameStore.clobberTb (k l : Nat) (w : Place) : (m.clobberTb k l w).SameStore (n.clobberTb k l w) := by
  have hits : n.hits k l w = m.hits k l w := by simp only [hits, h.tbs, h.named]
  rw [clobberTb_eq, clobberTb_eq, hits]
  split
  · exact h
  · exact .foldl (fun t h => h.undefine t) _ h

theorem Mach.SameStore.writePa (pa : Nat) (bs : List Byte) (w : Place) : (m.writePa pa bs w).SameStore (n.writePa pa bs w) := by
  unfold Mach.writePa
  rw [keyRuns_congr h.parts]
  refine .foldl (fun r h => ?_) _ h
  obtain ⟨k, bs⟩ := r
  cases k with
  | none => exact h
  | some k => exact (h.poke k bs).clobberTb k bs.length w

theorem Mach.SameStore.write (l : Loc) (bs : List Byte) (w : Place) : (m.write l bs w).SameStore (n.write l bs w) := by
  have hm := (m.wroteTo_write l bs w).named
  have hn := (n.wroteTo_write l bs w).named
  cases l with
  | pa a => exact h.writePa a bs w
  | vr c off => exact ⟨h.mem, h.parts, h.free, h.tbs, fun w => (hn w).trans ((h.named w).trans (hm w).symm)⟩
  | acc c off => exact ⟨h.mem, h.parts, h.free, h.tbs, fun w => (hn w).trans ((h.named w).trans (hm w).symm)⟩

theorem Mach.SameStore.writeFrom (d d' cls cls' : Nat) (ss : List (Loc × List Byte)) (w : Place) :
    (m.writeFrom d cls ss w).SameStore (n.writeFrom d' cls' ss w) := by
  have hm := (m.wrote_cross d cls ss).1.sameStore (m.wrote_cross d cls ss).2
  have hn := (n.wrote_cross d' cls' ss).1.sameStore (n.wrote_cross d' cls' ss).2
  exact .foldl (fun s h => h.write s.1 s.2 w) ss (hm.symm.trans (h.trans hn))

end

/-! ### What a write leaves -/

/-- Cell q has been kept since m, and lies in no barrier word that is named or undefined. -/
structure Mach.Spares (m : Mach) (q : Nat) (n : Mach) : Prop where
  wrote : m.WroteTo n
  wf : n.mem.wf = true
  kept : cget n.mem q = cget m.mem q
  apart : ∀ v ∈ n.tbs ++ m.named none, ¬ (v ≤ q ∧ q < v + 16)

theorem Mach.Spares.poke {m n : Mach} {q k : Nat} {bs : List Byte} (h : m.Spares q n) (hq : ¬ (k ≤ q ∧ q < k + bs.length)) :
    m.Spares q (n.poke k bs) := by
  refine ⟨h.wrote.trans (n.wrote_poke k bs).wroteTo, poke_wf n k bs h.wf, ?_, ?_⟩
  · rw [poke_byte n k bs h.wf, if_neg hq, h.kept]
  · obtain ⟨_, _, _, _, _, _, _, hn⟩ := n.wrote_poke k bs
    rw [hn]
    exact h.apart

theorem Mach.Spares.undefine {m n : Mach} {q t : Nat} (h : m.Spares q n) (ht : ¬ (t ≤ q ∧ q < t + 16)) : m.Spares q (n.undefine t) := by
  have hlen : ((List.range 16).map fun i => Config.freeByte (n.free + i)).length = 16 := by simp
  refine ⟨h.wrote.trans (n.wroteTo_undefine t), ?_, ?_, fun v hv => ?_⟩
  · exact cellsWf_csetRange (w := 8) h.wf t ((List.range 16).map fun i => Config.freeByte (n.free + i))
  · exact (cget_csetRange h.wf t _ q).trans ((if_neg (by rwa [hlen])).trans h.kept)
  · obtain hv | hv := List.mem_append.mp hv
    · obtain rfl | hv := List.mem_cons.mp hv
      · exact ht
      · exact h.apart v (List.mem_append.mpr (.inl (List.mem_filter.mp hv).1))
    · exact h.apart v (List.mem_append.mpr (.inr hv))

theorem Mach.Spares.clobberTb {m n : Mach} {q : Nat} (h : m.Spares q n) (k l : Nat) (w : Place) : m.Spares q (n.clobberTb k l w) := by
  rw [clobberTb_eq]
  split
  · exact h
  · refine List.foldlRecOn _ _ h fun o ho t ht => ho.undefine (h.apart t ?_)
    obtain ht | ht := List.mem_append.mp (List.mem_eraseDups.mp (List.mem_filter.mp ht).1)
    · exact List.mem_append.mpr (.inl ht)
    · exact List.mem_append.mpr (.inr (m.named_subset w (h.wrote.named w ▸ ht)))

theorem Mach.Spares.write {m n : Mach} {q : Nat} (h : m.Spares q n) {l : Loc} {bs : List Byte} (w : Place) (hq : ¬ m.covers [(l, bs.length)] q) :
    m.Spares q (n.write l bs w) := by
  have hw := h.wrote.trans (n.wroteTo_write l bs w)
  cases l with
  | vr c off => exact ⟨hw, h.wf, h.kept, h.apart⟩
  | acc c off => exact ⟨hw, h.wf, h.kept, h.apart⟩
  | pa a =>
    refine List.foldlRecOn _ _ h fun o ho r hr => ?_
    obtain ⟨k, cs⟩ := r
    cases k with
    | none => exact ho
    | some k =>
      refine (ho.poke fun hle => hq ?_).clobberTb k cs.length w
      obtain ⟨r', hr', hkey, hlen⟩ := splitRuns_mem _ hr
      have hlen : cs.length ≤ r'.2 := hlen
      rw [keyRuns_congr h.wrote.parts] at hr'
      exact ⟨_, List.mem_singleton_self _, a, rfl, r', hr', k, hkey, hle.1, by omega⟩

/-- A write keeps every byte outside its locations and the barrier words that are named or undefined (R200). -/
theorem Mach.keepsBut_writeFrom {m : Mach} (hwf : m.mem.wf = true) (d cls : Nat) (ss : List (Loc × List Byte)) (w : Place) {t : Mach}
    (ht : t.mem = (m.writeFrom d cls ss w).mem) : m.keepsBut t (ss.map fun s => (s.1, s.2.length)) := by
  intro q hq hnamed
  have hc := m.wrote_cross d cls ss
  have hstart : m.Spares q (m.cross d cls ss) := by
    refine ⟨hc.1.wroteTo, hc.2 ▸ hwf, by rw [hc.2], ?_⟩
    rw [(hc.1.sameStore hc.2).tbs]
    exact hnamed
  rw [ht]
  refine (List.foldlRecOn ss _ hstart fun n hn s hs => hn.write w fun hcov => hq ?_).kept
  exact covers_of_mem (List.mem_map_of_mem (f := fun s : Loc × List Byte => (s.1, s.2.length)) hs) hcov

/-- The runs of a shorter access begin as those of a longer one, and are not longer. -/
theorem Mach.keyRuns_mono (m : Mach) {f f' : Nat} (hf : f' ≤ f) : ∀ {pa n n' : Nat}, n' ≤ n → ∀ r ∈ m.keyRuns f' pa n',
    ∃ u ∈ m.keyRuns f pa n, u.1 = r.1 ∧ r.2 ≤ u.2 := by
  induction f' generalizing f with
  | zero => exact fun _ _ h => nomatch h
  | succ f' ih =>
    obtain ⟨f, rfl⟩ := Nat.exists_eq_succ_of_ne_zero (Nat.ne_zero_of_lt hf)
    intro pa n n' hn r hr
    simp only [keyRuns] at hr ⊢
    split at hr
    · cases hr
    next hne =>
      rw [if_neg (by omega)]
      obtain rfl | hr := List.mem_cons.mp hr
      · exact ⟨_, List.mem_cons_self, rfl, by dsimp only; omega⟩
      · by_cases hk : n' ≤ 256 - pa % 256
        · rw [Nat.min_eq_left hk, Nat.sub_self] at hr
          cases f' <;> cases hr
        · rw [Nat.min_eq_right (by omega)] at hr ⊢
          obtain ⟨u, hu, huv⟩ := ih (Nat.le_of_succ_le_succ hf) (Nat.sub_le_sub_right hn _) r hr
          exact ⟨u, List.mem_cons_of_mem _ hu, huv⟩

theorem Mach.covers_mono {m : Mach} {l : Loc} {n n' q : Nat} (hn : n' ≤ n) (h : m.covers [(l, n')] q) : m.covers [(l, n)] q := by
  obtain ⟨s, hs, a, ha, r, hr, k, hk, hle, hlt⟩ := h
  obtain rfl := List.mem_singleton.mp hs
  obtain ⟨u, hu, hur, hlen⟩ := m.keyRuns_mono (f := n / 256 + 2) (by have := Nat.div_le_div_right (c := 256) hn; omega) hn r hr
  exact ⟨_, List.mem_singleton_self _, a, ha, u, hu, k, hur.trans hk, hle, by omega⟩

/-- Bytes put into segments lie within them. -/
theorem segBytes_within {ss : List (Loc × Nat)} : ∀ {bs : List Byte}, ∀ s ∈ segBytes ss bs, ∃ n, (s.1, n) ∈ ss ∧ s.2.length ≤ n := by
  induction ss with
  | nil => exact fun _ h => nomatch h
  | cons r ss ih =>
    intro bs s hs
    obtain rfl | hs := List.mem_cons.mp hs
    · exact ⟨r.2, List.mem_cons_self, by rw [List.length_take]; exact Nat.min_le_left _ _⟩
    · obtain ⟨n, hn, hlen⟩ := ih s hs
      exact ⟨n, List.mem_cons_of_mem _ hn, hlen⟩

/-- A write of bytes to segments keeps what lies outside the segments (R200). -/
theorem Mach.keepsBut_segBytes {m : Mach} (hwf : m.mem.wf = true) (d cls : Nat) (ss : List (Loc × Nat)) (bs : List Byte) (w : Place) {t : Mach}
    (ht : t.mem = (m.writeFrom d cls (segBytes ss bs) w).mem) : m.keepsBut t ss := by
  refine fun q hq hnamed => keepsBut_writeFrom hwf d cls _ w ht q (fun hcov => hq ?_) hnamed
  obtain ⟨s, hs, hcov⟩ := hcov
  obtain ⟨u, hu, rfl⟩ := List.mem_map.mp hs
  obtain ⟨n, hn, hlen⟩ := segBytes_within u hu
  exact covers_of_mem hn (covers_mono hlen ⟨_, List.mem_singleton_self _, hcov⟩)

end Sys2Proof.Machine
end

section
/-!
PROOFS. Stores, deltas and chains at their homes (R150, R159, R241, R244, R332, R405, R414).
-/

namespace Sys2Proof.Machine

/-! ### Tasks that are not ending -/

/-- A task that is not ending is not finished. -/
theorem Mach.settle_of_not_ending {m : Mach} {c : Nat} (h : ∀ f v, (m.ctx c).status ≠ .ending f v) : m.settle c = m := by
  unfold settle
  split
  next hst => exact absurd hst (h _ _)
  · rfl

theorem Mach.settle_of_running {m : Mach} {c : Nat} (h : (m.ctx c).status = .running) : m.settle c = m :=
  settle_of_not_ending fun _ _ hst => by rw [h] at hst; cases hst

/-- No task has changed its status. -/
def Mach.SameStatus (m n : Mach) : Prop := ∀ c, (n.ctx c).status = (m.ctx c).status

theorem Mach.SameStatus.refl (m : Mach) : m.SameStatus m := fun _ => rfl

theorem Mach.SameStatus.trans {m n o : Mach} (h : m.SameStatus n) (k : n.SameStatus o) : m.SameStatus o := fun c => (k c).trans (h c)

theorem Mach.sameStatus_of_ctxs {m n : Mach} (h : n.ctxs = m.ctxs) : m.SameStatus n := fun c => by rw [ctx, ctx, h]

theorem Mach.sameStatus_updCtx (m : Mach) (c : Nat) {f : Ctx → Ctx} (hf : ∀ x, (f x).status = x.status) : m.SameStatus (m.updCtx c f) := fun d => by
  by_cases hd : d = c
  · rw [hd, ctx_updCtx, hf]
  · rw [m.ctx_updCtx_ne c d f hd]

theorem Mach.WroteTo.sameStatus {m n : Mach} (h : m.WroteTo n) : m.SameStatus n := fun c => (h.ctx c).status

/-! ### What a change of the store buffer leaves -/

/-- A store buffer from which a store or an atomic has left, whole or in part, names the same barrier words (R200). -/
theorem Mach.named_sb (m : Mach) (c : Nat) {e : SbEnt} {rest left : List SbEnt} (hsb : (m.ctx c).sb = e :: rest)
    (hop : ∀ b ∈ e :: left, (∀ n, b.op ≠ .tbinit n) ∧ ∀ n, b.op ≠ .tbexp n) (w : Place) :
    (m.updCtx c fun x => { x with sb := left ++ rest }).named w = m.named w := by
  have hnone : ∀ bs : List SbEnt, (∀ b ∈ bs, (∀ n, b.op ≠ .tbinit n) ∧ ∀ n, b.op ≠ .tbexp n) →
      ((bs.filter fun e => w.after c e.after e.id).flatMap SbEnt.tbWord) = [] := fun bs hbs => List.flatMap_eq_nil_iff.mpr fun b hb => by
    obtain ⟨hinit, hexp⟩ := hbs b (List.mem_filter.mp hb).1
    exact SbEnt.tbWord_eq_nil hinit hexp
  have hleft := hnone left fun b hb => hop b (by simp [hb])
  have he := hnone [e] fun b hb => hop b (by simp only [List.mem_singleton] at hb; simp [hb])
  have hsp : (m.updCtx c fun x => { x with sb := left ++ rest }).spPa c = m.spPa c := funext fun _ => by simp only [spPa, ctx_updCtx]
  refine m.named_updCtx c ?_
  have hcons : e :: rest = [e] ++ rest := rfl
  simp only [tbNamed_eq, tbWaits, tbCopies, ctx_updCtx, hsp, hsb, hcons, List.filter_append, List.flatMap_append, hleft, he]

theorem Mach.sameStore_sb (m : Mach) (c : Nat) {e : SbEnt} {rest left : List SbEnt} (hsb : (m.ctx c).sb = e :: rest)
    (hop : ∀ b ∈ e :: left, (∀ n, b.op ≠ .tbinit n) ∧ ∀ n, b.op ≠ .tbexp n) : m.SameStore (m.updCtx c fun x => { x with sb := left ++ rest }) :=
  ⟨rfl, rfl, rfl, rfl, m.named_sb c hsb hop⟩

/-- A location reads the same, and is poisoned as before. -/
theorem Mach.reads_sb (m : Mach) (c : Nat) (sb : List SbEnt) (l : Loc) (n : Nat) :
    (m.updCtx c fun x => { x with sb := sb }).read l n = m.read l n ∧
    (m.updCtx c fun x => { x with sb := sb }).poisonSegs 0 [(l, n)] = m.poisonSegs 0 [(l, n)] := by
  have hctx : ∀ d, ∃ b, (m.updCtx c fun x => { x with sb := sb }).ctx d = { m.ctx d with sb := b } := fun d => by
    by_cases hd : d = c
    · exact ⟨sb, by rw [hd, ctx_updCtx]⟩
    · exact ⟨_, m.ctx_updCtx_ne c d _ hd⟩
  cases l with
  | pa a =>
    have hread := readPa_congr (m := m) (n := m.updCtx c fun x => { x with sb := sb }) rfl rfl a n
    have hpoison := poisonAt_pa_congr (m := m) (n := m.updCtx c fun x => { x with sb := sb }) rfl rfl a n
    exact ⟨hread, by simp only [poisonSegs, hpoison]⟩
  | vr d off =>
    obtain ⟨b, hb⟩ := hctx d
    simp only [read, poisonSegs, poisonAt, hb]
    exact ⟨rfl, rfl⟩
  | acc d off =>
    obtain ⟨b, hb⟩ := hctx d
    simp only [read, poisonSegs, poisonAt, hb]
    exact ⟨rfl, trivial⟩

/-- The beats of an access are nothing that a translation sees. -/
theorem Mach.alike_accessBeats (m : Mach) (c : Nat) (ss : List (Loc × Nat)) : m.Alike (m.accessBeats c ss) :=
  (alike_beats _ _ _ _).trans (alike_beats _ _ _ _)

/-- An update of a barrier changes no more than its bytes, errors, counts and clocks (R201). -/
theorem Mach.wrote_tbUpd (m : Mach) (c a : Nat) (f : Tb → Tb) : m.Wrote (m.tbUpd c a f) := by
  unfold tbUpd
  split
  · exact (m.wrote_carry _ _ _ _).1.trans (wrote_poke _ _ _)
  · exact .refl m

theorem Mach.Wrote.tbs {m n : Mach} (h : m.Wrote n) : n.tbs = m.tbs := by obtain ⟨_, _, _, _, _, _, _, rfl⟩ := h; rfl

theorem Mach.tbUpd_mem_congr {m n : Mach} (hm : n.mem = m.mem) (hp : n.parts = m.parts) (c a : Nat) (f : Tb → Tb) :
    (n.tbUpd c a f).mem = (m.tbUpd c a f).mem := by
  simp only [tbUpd, tb, keyOf_congr hp, readPa_congr hp hm]
  split
  · rw [poke_mem, poke_mem, carry_mem, carry_mem, hm]
  · exact hm

/-! ### The oldest buffered store -/

/-- What is left of an entry after its next part: the other part of a store of two (R332). -/
def SbEnt.left (e : SbEnt) : List SbEnt :=
  match e.op, e.segs with
  | .store, _ :: s :: t => [{ e with segs := s :: t }]
  | _, _ => []

theorem SbEnt.left_store {e : SbEnt} {g : Loc × List Byte} {gs : List (Loc × List Byte)} (hop : e.op = .store) (hsegs : e.segs = g :: gs) :
    e.left = if gs = [] then [] else [{ e with segs := gs }] := by
  rw [left, hop, hsegs]
  cases gs <;> rfl

theorem SbEnt.left_other {e : SbEnt} (hop : e.op ≠ .store) : e.left = [] := by
  unfold left
  split
  · exact absurd ‹_› hop
  · rfl

/-- The entry at the head of a store buffer that may be performed (R150, R261, R264). -/
structure Mach.NextStore (m : Mach) (c : Nat) (e : SbEnt) (rest : List SbEnt) (g : Loc × List Byte) (gs : List (Loc × List Byte)) : Prop where
  running : (m.ctx c).status = .running
  sb : (m.ctx c).sb = e :: rest
  safe : (m.ctx c).unsafeUpTo e.after = false
  plural : (m.ctx c).pluralAhead e.after e.touches = false
  xp : (m.ctx c).xpAhead e.after = false
  segs : e.segs = g :: gs
  local_ : ∀ g ∈ e.segs, apertureOf g.1 = none
  free : m.chainBusy e.touches = false

section
variable {m : Mach} {c : Nat} {e : SbEnt} {rest : List SbEnt} {g : Loc × List Byte} {gs : List (Loc × List Byte)} (h : m.NextStore c e rest g gs)
include h

theorem Mach.NextStore.here : apertureOf g.1 = none := h.local_ g (by simp [h.segs])

theorem Mach.NextStore.storeOut : m.storeOut c = ((m.updCtx c fun x => { x with sb := e.left ++ rest }).performPart c e).settle c := by
  have hstall : m.segsStalled e.touches = false := by
    have hg := h.here
    simp only [segsStalled, List.any_eq_false]
    intro s hs
    have hs1 : s.1 = g.1 := by
      have hsegs := h.segs
      simp only [SbEnt.touches, hsegs] at hs
      split at hs <;> simp_all
    rw [hs1, hg]
    simp
  simp only [Mach.storeOut, h.sb, h.safe, h.plural, h.xp, h.free, hstall, Bool.or_false, Bool.false_eq_true, if_false]
  rfl

/-- A store of one part, or the next part of one of two (R332). -/
theorem Mach.NextStore.store (hop : e.op = .store) : ∃ t, m.storeOut c = t ∧
    t.mem = (m.writeFrom (dieOf c) 0 [g] (some (c, e.after, e.id + 1))).mem ∧ (t.ctx c).sb = (if gs = [] then rest else { e with segs := gs } :: rest) := by
  have hl := SbEnt.left_store hop h.segs
  have hop' : ∀ b ∈ e :: e.left, b.op = .store := fun b hb => by
    rw [hl] at hb
    split at hb <;> simp_all
    obtain rfl | rfl := hb
    · exact hop
    · rfl
  have hsame := m.sameStore_sb c (left := e.left) h.sb fun b hb => by simp [hop' b hb]
  have hout := h.storeOut
  have hctx : (m.updCtx c fun x => { x with sb := e.left ++ rest }).ctx c = { m.ctx c with sb := e.left ++ rest } := ctx_updCtx ..
  generalize (m.updCtx c fun x => { x with sb := e.left ++ rest }) = n at hsame hout hctx
  have hpart : n.performPart c e = (n.writeFrom (dieOf c) 0 [g] (some (c, e.after, e.id + 1))).accessBeats c e.touches := by
    simp only [performPart, hop, h.segs, storeSegs, List.foldlM_cons, List.foldlM_nil, h.here]
    rfl
  have hw := n.wroteTo_writeFrom (dieOf c) 0 [g] (some (c, e.after, e.id + 1))
  have hbeats := alike_accessBeats (n.writeFrom (dieOf c) 0 [g] (some (c, e.after, e.id + 1))) c e.touches
  have hx : ((n.performPart c e).ctx c).sb = (n.ctx c).sb ∧ ((n.performPart c e).ctx c).status = (n.ctx c).status := by
    rw [hpart, hbeats.ctx]
    exact ⟨(hw.ctx c).sb, (hw.ctx c).status⟩
  rw [hctx] at hx
  refine ⟨_, rfl, ?_⟩
  rw [hout, settle_of_running (hx.2.trans h.running)]
  refine ⟨?_, hx.1.trans ?_⟩
  · rw [hpart, hbeats.sameStore.mem, (hsame.writeFrom ..).mem]
  · rw [hl]
    split <;> rfl

/-- Any other entry leaves the store buffer. -/
theorem Mach.NextStore.other (hop : e.op ≠ .store) :
    m.storeOut c = ((m.updCtx c fun x => { x with sb := rest }).performPart c e).settle c := by
  have hout := h.storeOut
  rwa [SbEnt.left_other hop] at hout

/-- A `tbinit` or `tbexp` updates its barrier in one step (R201, R414). -/
theorem Mach.NextStore.barrier {f : Tb → Tb} {a : Nat} {init : Bool} (hop : e.op ≠ .store)
    (hpart : ∀ n : Mach, n.performPart c e =
      ({ n.tbUpd c a f with tbs := if init then (n.tbUpd c a f).tbs.filter (· != a) else (n.tbUpd c a f).tbs } : Mach).accessBeats c e.touches) :
    ∃ t, m.storeOut c = t ∧ (t.ctx c).sb = rest ∧ t.mem = (m.tbUpd c a f).mem ∧ t.tbs = if init then m.tbs.filter (· != a) else m.tbs := by
  have hout := h.other hop
  have hctx : (m.updCtx c fun x => { x with sb := rest }).ctx c = { m.ctx c with sb := rest } := ctx_updCtx ..
  obtain ⟨hmem, hparts, htbs⟩ : (m.updCtx c fun x => { x with sb := rest }).mem = m.mem ∧
      (m.updCtx c fun x => { x with sb := rest }).parts = m.parts ∧ (m.updCtx c fun x => { x with sb := rest }).tbs = m.tbs := ⟨rfl, rfl, rfl⟩
  generalize (m.updCtx c fun x => { x with sb := rest }) = n at hmem hparts htbs hout hctx
  have hw := n.wrote_tbUpd c a f
  have hx : (n.performPart c e).ctx c = n.ctx c := by
    rw [hpart, (alike_accessBeats _ c e.touches).ctx, ← hw.ctx c]
    rfl
  refine ⟨_, rfl, ?_⟩
  rw [hout, settle_of_running (by rw [hx, hctx]; exact h.running)]
  refine ⟨by rw [hx, hctx], ?_, ?_⟩
  · rw [hpart, (alike_accessBeats _ c e.touches).sameStore.mem]
    exact tbUpd_mem_congr hmem hparts c a f
  · rw [hpart, (alike_accessBeats _ c e.touches).sameStore.tbs, hw.tbs, htbs]

/-- An atomic writes its new value, where it stores one, and its register (R404, R405). -/
theorem Mach.NextStore.atomic {f d : Nat} {b ex pc : Word} (hop : e.op = .amo f d b ex pc) (hclean : m.poisonSegs 0 [(g.1, 8)] = none) :
    let old : Word := .ofNat 64 (leVal (m.readSegs [(g.1, 8)]))
    let new := leBytes 8 (amoNew f old b ex).toNat
    ∃ t, m.storeOut c = t ∧ (t.ctx c).sb = rest ∧ (t.ctx c).x = ((m.ctx c).wx d old).x ∧
      t.mem = (if amoWrites f old ex then m.writeFrom (dieOf c) 0 (segBytes [(g.1, 8)] new) else m).mem := by
  intro old new
  have hout := h.other (by rw [hop]; exact SbOp.noConfusion)
  have hsame := m.sameStore_sb c (left := []) h.sb fun b hb => by
    rw [List.mem_singleton.mp hb, hop]
    exact ⟨fun _ => SbOp.noConfusion, fun _ => SbOp.noConfusion⟩
  have hctx : (m.updCtx c fun x => { x with sb := rest }).ctx c = { m.ctx c with sb := rest } := ctx_updCtx ..
  obtain ⟨hread, hpoison⟩ := m.reads_sb c rest g.1 8
  rw [List.nil_append] at hsame
  generalize (m.updCtx c fun x => { x with sb := rest }) = n at hsame hout hctx hread hpoison
  have hold : zextW (leVal (n.readSegs [(g.1, 8)])) = old := by simp only [readSegs, List.flatMap_cons, List.flatMap_nil, hread, zextW, old]
  have hpart : n.performPart c e = ((if amoWrites f old ex then (n.readCost c 0 [(g.1, 8)]).writeFrom (dieOf c) 0 (segBytes [(g.1, 8)] new)
      else n.readCost c 0 [(g.1, 8)]).updCtx c fun x => x.wx d old) := by
    simp only [performPart, hop, h.segs, amoOut, h.here, hpoison, hclean, amoHere, hold]
    rfl
  have hcost := n.alike_readCost c 0 [(g.1, 8)]
  obtain ⟨k, hk, hwritten, hmem⟩ : ∃ k, k = (if amoWrites f old ex then (n.readCost c 0 [(g.1, 8)]).writeFrom (dieOf c) 0 (segBytes [(g.1, 8)] new)
      else n.readCost c 0 [(g.1, 8)]) ∧ ((n.ctx c).Written (k.ctx c)) ∧
      k.mem = (if amoWrites f old ex then m.writeFrom (dieOf c) 0 (segBytes [(g.1, 8)] new) else m).mem := by
    refine ⟨_, rfl, ?_⟩
    rw [← hcost.ctx c]
    split
    · exact ⟨(wroteTo_writeFrom ..).ctx c, ((hsame.trans hcost.sameStore).writeFrom ..).mem⟩
    · exact ⟨.refl _, (hsame.trans hcost.sameStore).mem⟩
  rw [← hk] at hpart
  have hx : (n.performPart c e).ctx c = (k.ctx c).wx d old := by rw [hpart, ctx_updCtx]
  obtain ⟨hsb, hreg, hst⟩ : ((k.ctx c).wx d old).sb = (k.ctx c).sb ∧ ((k.ctx c).wx d old).x = ({ m.ctx c with sb := rest }.wx d old).x ∧
      ((k.ctx c).wx d old).status = (k.ctx c).status := by
    simp only [Ctx.wx, hwritten.x_eq, hctx]
    split
    · exact ⟨rfl, hwritten.x_eq.trans (by rw [hctx]), rfl⟩
    · exact ⟨rfl, rfl, rfl⟩
  refine ⟨_, rfl, ?_⟩
  rw [hout, settle_of_running (by rw [hx, hst, hwritten.status, hctx]; exact h.running), hx]
  refine ⟨by rw [hsb, hwritten.sb, hctx], hreg.trans ?_, ?_⟩
  · simp only [Ctx.wx]
    split <;> rfl
  · rw [hpart]
    exact hmem

end

/-! ### Deltas -/

theorem Mach.Tended.mem {m n : Mach} (h : m.Tended n) : n.mem = m.mem := by obtain ⟨_, _, _, _, _, rfl⟩ := h.rest; rfl
theorem Mach.Tended.ctxs {m n : Mach} (h : m.Tended n) : n.ctxs = m.ctxs := by obtain ⟨_, _, _, _, _, rfl⟩ := h.rest; rfl
theorem Mach.Tended.pairs {m n : Mach} (h : m.Tended n) : n.pairs = m.pairs := by obtain ⟨_, _, _, _, _, rfl⟩ := h.rest; rfl
theorem Mach.Tended.parts {m n : Mach} (h : m.Tended n) : n.parts = m.parts := by obtain ⟨_, _, _, _, _, rfl⟩ := h.rest; rfl
theorem Mach.Wrote.ctxs {m n : Mach} (h : m.Wrote n) : n.ctxs = m.ctxs := by obtain ⟨_, _, _, _, _, _, _, rfl⟩ := h; rfl
theorem Mach.Wrote.pairs {m n : Mach} (h : m.Wrote n) : n.pairs = m.pairs := by obtain ⟨_, _, _, _, _, _, _, rfl⟩ := h; rfl
theorem Mach.Wrote.chains {m n : Mach} (h : m.Wrote n) : n.chains = m.chains := by obtain ⟨_, _, _, _, _, _, _, rfl⟩ := h; rfl

theorem Mach.recWord_congr {m n : Mach} (hp : n.parts = m.parts) (hc : n.chains = m.chains) (q tid : Nat) : n.recWord q tid = m.recWord q tid := by
  simp only [recWord, keyOf_congr hp, recAddr_congr hp, hc]

/-- A delta whose record has no home only makes the device read the record's entry (R244, R306). -/
theorem Mach.tended_applyDelta {m : Mach} {d : Delta} (h : m.recWord d.q d.tid = none) : m.Tended (m.applyDelta d) := by
  have hread := (m.tended_ownRead (m.titAddr d.q d.tid) 64).trans (tended_ownRead _ (m.recAddr d.q d.tid) 128)
  have hkey : m.keyOf (m.recAddr d.q d.tid) = none := Option.map_eq_none_iff.mp h
  simp only [applyDelta, keyOf_congr hread.parts, hkey]
  split
  · exact hread
  · exact hread.trans (tended_pfaults _ _)

theorem Mach.chainAdd_eq (m : Mach) (w : Nat) (o : ChainOp) : ∃ dc ch, m.chainAdd w o = { m with dieCnt := dc, chains := ch } := by
  unfold chainAdd
  split
  · exact ⟨_, _, rfl⟩
  · exact ⟨_, _, rfl⟩

/-- Which chain an operation joins, or that it opens one, depends on the chains alone (R159). -/
theorem Mach.chainAdd_chains_congr {m n : Mach} (h : n.chains = m.chains) (w : Nat) (o : ChainOp) : (n.chainAdd w o).chains = (m.chainAdd w o).chains := by
  simp only [chainAdd, chainOf, h]
  split
  · rfl
  · simp only [dieNote, h]

/-- The oldest delta of a pair's queue, whose context is not ending (R158, R159). -/
structure Mach.NextDelta (m : Mach) (p : Nat) (d : Delta) (rest : List Delta) : Prop where
  sq : (m.pair p).sq = d :: rest
  live : ∀ f v, (m.ctx d.c).status ≠ .ending f v

section
variable {m : Mach} {p : Nat} {d : Delta} {rest : List Delta} (h : m.NextDelta p d rest)
include h

theorem Mach.NextDelta.waits {w : Nat} (hw : m.recWord d.q d.tid = some w) (hroom : m.chainRoom w = false) :
    m.deltaOut p = m.dieNote (dieOfKey w) .chainWaits 1 := by
  simp [deltaOut, h.sq, hw, hroom]

theorem Mach.NextDelta.homeless (hw : m.recWord d.q d.tid = none) :
    (m.deltaOut p).mem = (m.applyDelta d).mem ∧ ((m.deltaOut p).pair p).sq = rest ∧ (m.deltaOut p).ctxs = m.ctxs := by
  have hout : m.deltaOut p = ((m.updPair p fun x => { x with sq := rest }).applyDelta d).settle d.c := by simp only [deltaOut, h.sq, hw]
  have hw' : (m.updPair p fun x => { x with sq := rest }).recWord d.q d.tid = none := (recWord_congr rfl rfl _ _).trans hw
  have htended := tended_applyDelta hw'
  have hctxs : ((m.updPair p fun x => { x with sq := rest }).applyDelta d).ctxs = m.ctxs := htended.ctxs
  rw [hout, settle_of_not_ending (by rw [sameStatus_of_ctxs hctxs]; exact h.live)]
  refine ⟨htended.mem.trans (tended_applyDelta hw).mem.symm, ?_, hctxs⟩
  rw [pair, htended.pairs]
  exact congrArg Pair.sq (m.pair_updPair p _)

theorem Mach.NextDelta.joins {w : Nat} (hw : m.recWord d.q d.tid = some w) (hroom : m.chainRoom w = true) :
    (m.deltaOut p).mem = m.mem ∧ ((m.deltaOut p).pair p).sq = rest ∧ (m.deltaOut p).ctxs = m.ctxs ∧
      (m.deltaOut p).chains = (m.chainAdd w (.delta d (some p))).chains := by
  obtain ⟨hcarry, hmem⟩ := (m.updPair p fun x => { x with sq := rest }).wrote_carry (dieOfPair p) (dieOfKey w) 3 64
  have hword : ((m.updPair p fun x => { x with sq := rest }).carry (dieOfPair p) (dieOfKey w) 3 64).recWord d.q d.tid = some w :=
    (recWord_congr (m := m) hcarry.parts hcarry.chains _ _).trans hw
  have hout : m.deltaOut p = ((m.updPair p fun x => { x with sq := rest }).carry (dieOfPair p) (dieOfKey w) 3 64).chainAdd w (.delta d (some p)) := by
    simp only [deltaOut, h.sq, hw, hroom, Bool.not_true, Bool.false_eq_true, if_false, deltaAt, hword]
  have hchains := chainAdd_chains_congr (m := m) hcarry.chains w (.delta d (some p))
  rw [hout]
  generalize ((m.updPair p fun x => { x with sq := rest }).carry (dieOfPair p) (dieOfKey w) 3 64) = n at hcarry hmem hchains
  obtain ⟨dc, ch, hadd⟩ := n.chainAdd_eq w (.delta d (some p))
  refine ⟨?_, ?_, ?_, hchains⟩
  · rw [hadd]
    exact hmem
  · rw [hadd]
    exact (congrArg (fun ps => (tabGet Pair.reset ps p).sq) hcarry.pairs).trans (congrArg Pair.sq (m.pair_updPair p _))
  · rw [hadd]
    exact hcarry.ctxs

end

/-! ### Chains -/

theorem Mach.sameStatus_pokePa (m : Mach) (pa : Nat) (bs : List Byte) : m.SameStatus (m.pokePa pa bs) := by
  unfold pokePa
  refine foldl_keep (fun n => m.SameStatus n) _ _ _ (sameStatus_of_ctxs (m.tended_wake _).ctxs) fun n r hn => ?_
  split
  · exact hn.trans (sameStatus_of_ctxs (n.wrote_poke _ _).ctxs)
  · exact hn

theorem Mach.sameStatus_applyDelta (m : Mach) (d : Delta) : m.SameStatus (m.applyDelta d) := by
  have hread : m.SameStatus _ :=
    sameStatus_of_ctxs ((m.tended_ownRead (m.titAddr d.q d.tid) 64).trans (tended_ownRead _ (m.recAddr d.q d.tid) 128)).ctxs
  simp only [applyDelta]
  split
  · exact hread
  · split
    · exact hread
    · split
      · exact hread.trans (sameStatus_pokePa _ _ _)
      · exact hread.trans (sameStatus_pokePa _ _ _)

theorem Mach.sameStatus_deltaAt (m : Mach) (d : Delta) (sq : Option Nat) : m.SameStatus (m.deltaAt d sq) := by
  unfold deltaAt
  split
  · obtain ⟨_, _, h⟩ := m.chainAdd_eq ‹_› (.delta d sq)
    exact sameStatus_of_ctxs (by rw [h])
  · exact m.sameStatus_applyDelta d

theorem Mach.sameStatus_homeDelta (m : Mach) (die c q tid : Nat) (vals : List XV) (ovf psn : Bool) (x : Option Int) :
    m.SameStatus (m.homeDelta die c q tid vals ovf psn x) := by
  simp only [homeDelta]
  split
  · exact .refl m
  · have hdelta : m.SameStatus ((match m.recWord q tid with
        | some w => m.carry die (dieOfKey w) 3 64
        | none => m).deltaAt (deltaOf q tid (m.titHome q tid).anchor vals ovf psn x c)) := by
      refine .trans ?_ (sameStatus_deltaAt _ _ _)
      split
      · exact sameStatus_of_ctxs (m.wrote_carry _ _ _ _).1.ctxs
      · exact .refl m
    split
    · exact hdelta
    · refine hdelta.trans fun d => ?_
      rw [ctx_count]
      exact sameStatus_updCtx _ c (f := fun x => { x with wrote := (x.wrote ++ [tid]).eraseDups }) (fun _ => rfl) d

theorem Mach.sameStatus_addAnswer (m : Mach) (dest : AddTo) (r : Option (List Byte)) : m.SameStatus (m.addAnswer dest r) := by
  cases dest with
  | elem c stamp i => exact m.sameStatus_updCtx c fun _ => rfl
  | node src seq => exact .refl m

theorem Mach.sameStatus_chainOp (m : Mach) (o : ChainOp) : m.SameStatus (m.chainOp o) := by
  have hstore : ∀ k bs l, m.SameStatus ((m.poke k bs).clobberTb k l) := fun k bs l =>
    ((m.wrote_poke k bs).wroteTo.trans (wroteTo_clobberTb _ k l none)).sameStatus
  cases o with
  | delta d sq => exact m.sameStatus_applyDelta d
  | add key ty fmt x code q tid => exact (hstore _ _ _).trans (sameStatus_homeDelta _ _ _ _ _ _ _ _ _)
  | vamo key ty rm code q tid c dest =>
    simp only [chainOp]
    split
    · exact m.sameStatus_addAnswer _ _
    · exact ((hstore _ _ _).trans (sameStatus_homeDelta _ _ _ _ _ _ _ _ _)).trans (sameStatus_addAnswer _ _ _)

/-- The oldest chain that can be applied, with no task that is ending, applies its operations in order (R159). -/
theorem Mach.chainApply_eq {m : Mach} {port : Nat} {ch : Chain} (h : m.chains.find? (fun ch => ch.port == port && m.chainFits ch) = some ch)
    (hlive : ∀ c f v, (m.ctx c).status ≠ .ending f v) :
    m.chainApply port = ch.ops.foldl chainOp (({ m with chains := m.chains.erase ch } : Mach).eccUnitRead ch.key) := by
  have hstatus : m.SameStatus (ch.ops.foldl chainOp (({ m with chains := m.chains.erase ch } : Mach).eccUnitRead ch.key)) :=
    foldl_keep (fun n => m.SameStatus n) _ _ _ (sameStatus_of_ctxs (corrected_eccUnitRead _ _).tended.ctxs) fun n o hn => hn.trans (n.sameStatus_chainOp o)
  have hsettle : ∀ c, (ch.ops.foldl chainOp (({ m with chains := m.chains.erase ch } : Mach).eccUnitRead ch.key)).settle c =
      ch.ops.foldl chainOp (({ m with chains := m.chains.erase ch } : Mach).eccUnitRead ch.key) := fun c =>
    settle_of_not_ending fun f v => by
      rw [hstatus c]
      exact hlive c f v
  simp only [chainApply, h]
  generalize ch.ops.foldl chainOp (({ m with chains := m.chains.erase ch } : Mach).eccUnitRead ch.key) = n at hsettle ⊢
  refine foldl_keep (fun k => k = n) _ _ _ rfl fun k o hk => ?_
  rw [hk]
  cases o with
  | delta d sq => exact hsettle d.c
  | add => rfl
  | vamo key ty rm code q tid c dest => exact hsettle c

/-- Settles O43: the oldest buffered store by what it is, then the oldest delta by its record's home, then the oldest chain. -/
theorem homeSteps : Obligations.HomeSteps := by
  unfold Obligations.HomeSteps
  intro s
  refine ⟨fun c e rest g gs hst hsb hsafe hplural hxp hsegs hlocal hfree => ?_, fun p d rest hsq hlive => ?_, fun port ch hch hlive => ?_⟩
  · have h : s.m.NextStore c e rest g gs := ⟨hst, hsb, hsafe, hplural, hxp, hsegs, hlocal, hfree⟩
    refine ⟨fun hop => ?store, fun n a hop hg => ?tbinit, fun n a hop hg => ?tbexp, fun f d b ex pc hop hclean => ?amo⟩
    case store =>
      obtain ⟨t, ht, hmem, hleft⟩ := h.store hop
      exact ⟨_, exec_storePerformed.trans (onMach_eq ht), hmem, fun hwf => s.m.keepsBut_writeFrom hwf _ _ [g] _ hmem, hleft⟩
    case tbinit =>
      obtain ⟨t, ht, hrest, hmem, htbs⟩ := h.barrier (f := fun t => t.init n) (a := a) (init := true) (by rw [hop]; exact SbOp.noConfusion) fun m => by
        obtain ⟨l, bs⟩ := g
        obtain rfl : l = .pa a := hg
        simp only [Mach.performPart, hop, hsegs]
        rfl
      exact ⟨_, exec_storePerformed.trans (onMach_eq ht), hrest, hmem, htbs⟩
    case tbexp =>
      obtain ⟨t, ht, hrest, hmem, -⟩ := h.barrier (f := fun t => t.addSec n) (a := a) (init := false) (by rw [hop]; exact SbOp.noConfusion) fun m => by
        obtain ⟨l, bs⟩ := g
        obtain rfl : l = .pa a := hg
        simp only [Mach.performPart, hop, hsegs]
        rfl
      exact ⟨_, exec_storePerformed.trans (onMach_eq ht), hrest, hmem⟩
    case amo =>
      obtain ⟨t, ht, hrest, hx, hmem⟩ := h.atomic hop hclean
      exact ⟨_, exec_storePerformed.trans (onMach_eq ht), hrest, hx, hmem⟩
  · have h : s.m.NextDelta p d rest := ⟨hsq, hlive⟩
    exact ⟨fun w hw hroom => exec_deltaApplication.trans (onMach_eq (h.waits hw hroom)),
      fun hw => ⟨_, exec_deltaApplication.trans (onMach_eq rfl), h.homeless hw⟩,
      fun w hw hroom => ⟨_, exec_deltaApplication.trans (onMach_eq rfl), h.joins hw hroom⟩⟩
  · exact exec_scatterAddChainApply.trans (onMach_eq (Mach.chainApply_eq hch hlive))

end Sys2Proof.Machine
end

section
/-!
PROOFS. Fabric loads (R151, R440): the counterexample to O32, a request that keeps bytes of its own.
-/

namespace Sys2Proof.Machine

/-! ### A reply that is not taken as it came

A request keeps the bytes that the store buffer held when it was issued (R151), and they stand in the places of the reply's. The obligation
takes the reply's bytes for every request that the instruction finds, and no hypothesis says that it keeps none. Here the request under the
PC of the `fld` keeps one byte, as that of a scalar load does. -/

/-- The address of the load, in a page that leads to the aperture of member 5. -/
def replyVa : Nat := 0x40000008

/-- The request at the PC of the load: byte 0 is 1, whatever the reply brings, and the reply is 0. -/
def replyReq : FabReq := ⟨0, launchCtx.pc, 0, 5, clsReq, 0, [(0, 1)], [], some (List.replicate 8 0), none⟩

/-- The machine before `fld X3, [X2 + 8]`: X2 holds the page, which the TLB of the pair translates. -/
def ownByte : State := { State.reset with m := ({ Mach.reset with
  ctxs := [(0, { launchCtx with x := vecSet Ctx.reset.x 2 (BitVec.ofNat 64 0x40000000) })]
  parts := [(0, launchPart)]
  pairs := [(0, { Pair.reset with tlb := [⟨0, 0x40000000, 2 ^ 30, 0xC5000000008F, 0⟩] })] } : Mach).updTroupe fun t => { t with reqs := [replyReq] } }

theorem ownByte_may_load : ownByte.ready [3, 2] ∧ ownByte.ea 2 8 / 8 * 8 = replyVa ∧ ownByte.m.walkWaits ownByte.m.cur replyVa 8 = false ∧
    (ownByte.reach 0 replyVa 8).apertureWord kRead replyVa = .ok (5, 8) ∧ ownByte.m.me.engineReady = true ∧
    ownByte.m.findReq ownByte.m.cur ownByte.m.me.pc 0 = some replyReq := by
  unfold State.ready
  decide +kernel

/-- What X3 of context 0 holds after an instruction. -/
def x3After : Out → Option Word
  | .next t => some ((t.m.ctx 0).rx 3)
  | _ => none

/-- The load takes the byte that the request keeps. -/
theorem ownByte_fld : x3After (exec (.fld 3 2 8) ownByte) = some 1 := by decide +kernel

/-- The obligation's state holds the reply as it came. -/
theorem ownByte_reply : x3After (.next (ownByte.did ((((ownByte.reach 0 replyVa 8).dropReqs ownByte.m.cur ownByte.m.me.pc).setX (BitVec.toNat (3 : BitVec 5))
    (zextW (leVal (List.replicate 8 0)))).acquire ownByte.m.cur))) = some 0 := by
  decide +kernel

/-- Refutes O32: a `fld` that finds a request with bytes of its own takes these bytes, not the reply's in their places. -/
theorem not_fabric : ¬ Obligations.Fabric := by
  unfold Obligations.Fabric
  intro h
  obtain ⟨hscalar, -⟩ := h
  obtain ⟨hready, hva, hwalk, hword, hengine, hfind⟩ := ownByte_may_load
  have hload := hscalar ownByte 3 2 8 (5, 8)
  simp only [hva] at hload
  obtain ⟨hfld, -⟩ := hload hwalk
  obtain ⟨hreply, -⟩ := hfld hready hword hengine
  have hexec := hreply replyReq (List.replicate 8 0) hfind rfl rfl
  exact absurd ((congrArg x3After hexec).symm.trans ownByte_fld) (by rw [ownByte_reply]; decide)

end Sys2Proof.Machine
end

section
/-!
PROOFS. Sub-links, flits and replay (R166, R274, R275).
-/

namespace Sys2Proof.Machine

/-! ### Numbers made of fields -/

/-- The lowest field of a number. -/
theorem bitsOf_low {a r n hi : Nat} (ha : a < 2 ^ n) (hn : hi + 1 = n) : bitsOf (a + 2 ^ n * r) hi 0 = a := by
  rw [bitsOf, Nat.sub_zero, hn, pow_zero, Nat.div_one, Nat.add_mul_mod_self_left, Nat.mod_eq_of_lt ha]

/-- A field above the lowest. -/
theorem bitsOf_high {a r n hi lo hi' lo' : Nat} (ha : a < 2 ^ n) (hlo : lo = n + lo') (hhi : hi = n + hi') :
    bitsOf (a + 2 ^ n * r) hi lo = bitsOf r hi' lo' := by
  have hdiv : (a + 2 ^ n * r) / 2 ^ n = r := by
    rw [Nat.add_mul_div_left _ _ (Nat.two_pow_pos n), Nat.div_eq_of_lt ha, Nat.zero_add]
  rw [bitsOf, bitsOf, hlo, hhi, pow_add, ← Nat.div_div_eq_div_mul, hdiv]
  congr 2
  omega

theorem fields_lt {a r n k m : Nat} (ha : a < 2 ^ n) (hr : r < 2 ^ k) (hm : m = n + k) : a + 2 ^ n * r < 2 ^ m := by
  rw [hm, pow_add]
  calc a + 2 ^ n * r < 2 ^ n + 2 ^ n * r := by omega
    _ = 2 ^ n * (r + 1) := by rw [Nat.mul_succ, Nat.add_comm]
    _ ≤ 2 ^ n * 2 ^ k := Nat.mul_le_mul_left _ hr

/-- The low bytes of a number do not show what lies above them. -/
theorem leBytes_add_mul (n a r : Nat) : leBytes n (a + 256 ^ n * r) = leBytes n a := by
  induction n generalizing a with
  | zero => rfl
  | succ n ih =>
    have hsplit : a + 256 ^ (n + 1) * r = a + 256 * (256 ^ n * r) := by rw [pow_succ]; ring
    have hbyte : BitVec.ofNat 8 (a + 256 * (256 ^ n * r)) = BitVec.ofNat 8 a := by
      apply BitVec.eq_of_toNat_eq
      simp only [BitVec.toNat_ofNat]
      omega
    have hrest : (a + 256 * (256 ^ n * r)) / 256 = a / 256 + 256 ^ n * r := by omega
    rw [leBytes, leBytes, hsplit, hbyte, hrest, ih]

/-! ### The flits that a sub-link makes -/

/-- The fields of a flit: LSEQ, type, data, acknowledgement, its mark, pauses, reserved bits, CRC (R275). -/
def flitWord (lseq typ data ack mark pause crc : Nat) : Nat :=
  lseq + 2 ^ 12 * (typ + 2 ^ 4 * (data + 2 ^ 1920 * (ack + 2 ^ 12 * (mark + 2 ^ 4 * (pause + 2 ^ 8 * (0 + 2 ^ 24 * crc))))))

section
variable {lseq typ data ack mark pause crc : Nat} (hl : lseq < 2 ^ 12) (ht : typ < 2 ^ 4) (hd : data < 2 ^ 1920) (ha : ack < 2 ^ 12) (hm : mark < 2)
  (hp : pause < 2 ^ 8)
include hl ht hd ha hm hp

theorem bitsOf_flitWord (hc : crc < 2 ^ 64) : let v := flitWord lseq typ data ack mark pause crc
    bitsOf v 11 0 = lseq ∧ bitsOf v 15 12 = typ ∧ bitsOf v 1935 16 = data ∧ bitsOf v 1951 1949 = 0 ∧ bitsOf v 1959 1952 = pause ∧
      bitsOf v 1983 1960 = 0 ∧ bitsOf v 2047 1984 = crc := by
  have hm' : mark < 2 ^ 4 := by omega
  simp only [flitWord]
  refine ⟨bitsOf_low hl rfl, ?_, ?_, ?_, ?_, ?_, ?_⟩
  · rw [bitsOf_high hl (hi' := 3) (lo' := 0) rfl rfl, bitsOf_low ht rfl]
  · rw [bitsOf_high hl (hi' := 1923) (lo' := 4) rfl rfl, bitsOf_high ht (hi' := 1919) (lo' := 0) rfl rfl, bitsOf_low hd rfl]
  · rw [bitsOf_high hl (hi' := 1939) (lo' := 1937) rfl rfl, bitsOf_high ht (hi' := 1935) (lo' := 1933) rfl rfl,
      bitsOf_high hd (hi' := 15) (lo' := 13) rfl rfl, bitsOf_high ha (hi' := 3) (lo' := 1) rfl rfl, bitsOf]
    omega
  · rw [bitsOf_high hl (hi' := 1947) (lo' := 1940) rfl rfl, bitsOf_high ht (hi' := 1943) (lo' := 1936) rfl rfl,
      bitsOf_high hd (hi' := 23) (lo' := 16) rfl rfl, bitsOf_high ha (hi' := 11) (lo' := 4) rfl rfl,
      bitsOf_high hm' (hi' := 7) (lo' := 0) rfl rfl, bitsOf_low hp rfl]
  · rw [bitsOf_high hl (hi' := 1971) (lo' := 1948) rfl rfl, bitsOf_high ht (hi' := 1967) (lo' := 1944) rfl rfl,
      bitsOf_high hd (hi' := 47) (lo' := 24) rfl rfl, bitsOf_high ha (hi' := 35) (lo' := 12) rfl rfl,
      bitsOf_high hm' (hi' := 31) (lo' := 8) rfl rfl, bitsOf_high hp (hi' := 23) (lo' := 0) rfl rfl, bitsOf_low (by decide) rfl]
  · rw [bitsOf_high hl (hi' := 2035) (lo' := 1972) rfl rfl, bitsOf_high ht (hi' := 2031) (lo' := 1968) rfl rfl,
      bitsOf_high hd (hi' := 111) (lo' := 48) rfl rfl, bitsOf_high ha (hi' := 99) (lo' := 36) rfl rfl,
      bitsOf_high hm' (hi' := 95) (lo' := 32) rfl rfl, bitsOf_high hp (hi' := 87) (lo' := 24) rfl rfl,
      bitsOf_high (by decide) (hi' := 63) (lo' := 0) rfl rfl, bitsOf, Nat.sub_zero, pow_zero, Nat.div_one, Nat.mod_eq_of_lt hc]

theorem flitWord_lt (k : Nat) (hc : crc < 2 ^ k) : flitWord lseq typ data ack mark pause crc < 2 ^ (1984 + k) :=
  fields_lt hl (fields_lt ht (fields_lt hd (fields_lt ha (fields_lt (show mark < 2 ^ 4 by omega) (fields_lt hp
    (fields_lt (show 0 < 2 ^ 24 by decide) hc rfl) rfl) rfl) rfl) rfl) rfl) (by omega)

end

theorem flitWord_crc (lseq typ data ack mark pause crc : Nat) :
    flitWord lseq typ data ack mark pause crc = flitWord lseq typ data ack mark pause 0 + 2 ^ 1984 * crc := by
  have hpow : (2 : Nat) ^ 1984 = 2 ^ 12 * 2 ^ 4 * 2 ^ 1920 * 2 ^ 12 * 2 ^ 4 * 2 ^ 8 * 2 ^ 24 := by simp only [← pow_add]
  rw [hpow, flitWord, flitWord]
  generalize (2 : Nat) ^ 1920 = z
  ring

/-- The acknowledgement that a sub-link's flits carry, and its mark. -/
def Sublink.ackField (k : Sublink) : Nat := if k.heard then (k.rxl - 1).toNat else 0
def Sublink.ackMark (k : Sublink) : Nat := if k.heard then 1 else 0

theorem Sublink.ackField_lt (k : Sublink) : k.ackField < 2 ^ 12 := by
  unfold ackField
  split
  · exact BitVec.isLt _
  · decide

theorem Sublink.ackMark_lt (k : Sublink) : k.ackMark < 2 := by
  unfold ackMark
  split <;> decide

theorem Sublink.flitOf_eq (k : Sublink) (pause typ lseq data : Nat) :
    k.flitOf pause typ lseq data = withCrc (flitWord lseq typ (data % 2 ^ 1920) k.ackField k.ackMark pause 0) := by
  have h16 : (2 : Nat) ^ 16 = 2 ^ 12 * 2 ^ 4 := by simp only [← pow_add]
  have h1936 : (2 : Nat) ^ 1936 = 2 ^ 12 * 2 ^ 4 * 2 ^ 1920 := by simp only [← pow_add]
  have h1948 : (2 : Nat) ^ 1948 = 2 ^ 12 * 2 ^ 4 * 2 ^ 1920 * 2 ^ 12 := by simp only [← pow_add]
  have h1952 : (2 : Nat) ^ 1952 = 2 ^ 12 * 2 ^ 4 * 2 ^ 1920 * 2 ^ 12 * 2 ^ 4 := by simp only [← pow_add]
  rw [flitOf, flitWord, h16, h1936, h1948, h1952, ackField, ackMark]
  generalize (2 : Nat) ^ 1920 = z
  refine congrArg withCrc ?_
  split <;> ring

/-- The CRC stands above the 248 bytes that it covers. -/
theorem withCrc_toNat {w : Nat} (hw : w < 2 ^ 1984) : (withCrc w).toNat = w + 2 ^ 1984 * (crc64 (leBytes 248 w)).toNat := by
  rw [withCrc, BitVec.toNat_ofNat, Nat.mod_eq_of_lt hw, Nat.mul_comm _ (2 ^ 1984)]
  exact Nat.mod_eq_of_lt (fields_lt (m := 2048) hw (crc64 (leBytes 248 w)).isLt rfl)

/-- Of a flit that a sub-link makes, every field reads back, and the CRC holds (R275). -/
theorem Sublink.flitOf_good (k : Sublink) {pause typ lseq data : Nat} (hp : pause < 256) (ht : typ ≤ 2) (hl : lseq < 4096) :
    flitBad (k.flitOf pause typ lseq data) = false ∧ bitsOf (k.flitOf pause typ lseq data).toNat 15 12 = typ ∧
      bitsOf (k.flitOf pause typ lseq data).toNat 11 0 = lseq ∧ bitsOf (k.flitOf pause typ lseq data).toNat 1959 1952 = pause ∧
      bitsOf (k.flitOf pause typ lseq data).toNat 1935 16 = data % 2 ^ 1920 := by
  have hd : data % 2 ^ 1920 < 2 ^ 1920 := Nat.mod_lt data (Nat.two_pow_pos 1920)
  have ht' : typ < 2 ^ 4 := by omega
  have hw := flitWord_lt hl ht' hd k.ackField_lt k.ackMark_lt hp 0 (crc := 0) (by decide)
  have hv : (k.flitOf pause typ lseq data).toNat = flitWord lseq typ (data % 2 ^ 1920) k.ackField k.ackMark pause
      (crc64 (leBytes 248 (flitWord lseq typ (data % 2 ^ 1920) k.ackField k.ackMark pause 0))).toNat := by
    rw [flitOf_eq, withCrc_toNat hw, ← flitWord_crc]
  have hcrc : leBytes 248 (k.flitOf pause typ lseq data).toNat = leBytes 248 (flitWord lseq typ (data % 2 ^ 1920) k.ackField k.ackMark pause 0) := by
    have h256 : (2 : Nat) ^ 1984 = 256 ^ 248 := by rw [show (256 : Nat) = 2 ^ 8 from rfl, ← pow_mul]
    rw [flitOf_eq, withCrc_toNat hw, h256, leBytes_add_mul]
  obtain ⟨hlseq, htyp, hdata, hres, hpause, hres', hc⟩ := bitsOf_flitWord hl ht' hd k.ackField_lt k.ackMark_lt hp
    (crc64 (leBytes 248 (flitWord lseq typ (data % 2 ^ 1920) k.ackField k.ackMark pause 0))).isLt
  rw [← hv] at hlseq htyp hdata hres hpause hres' hc
  refine ⟨?_, htyp, hlseq, hpause, hdata⟩
  have htyp' : ¬ 2 < typ := by omega
  simp [flitBad, hcrc, hc, hres, hres', htyp, htyp']

/-! ### Sub-links of a machine -/

/-- An update that keeps the names of sub-links updates the one that it is for. -/
theorem Mach.link_updLink (m : Mach) (l : Nat) {f : Sublink → Sublink} (hf : ∀ k, (f k).id = k.id) :
    (m.updLink l f).link l = (m.link l).map f := by
  simp only [link, updLink, List.find?_map]
  have hid : ((fun k : Sublink => k.id == l) ∘ fun k => if k.id = l then f k else k) = fun k => k.id == l := funext fun k => by
    by_cases hk : k.id = l <;> simp [hk, hf]
  rw [hid]
  cases hfind : m.links.find? fun k => k.id == l with
  | none => rfl
  | some k =>
    have hk : k.id = l := beq_iff_eq.mp (List.find?_some (p := fun k : Sublink => k.id == l) hfind)
    simp [hk]

@[simp] theorem Mach.link_iodNote (m : Mach) (src : EvSrc) (n l : Nat) : (m.iodNote src n).link l = m.link l := rfl

section
variable {m : Mach} {l : Nat} {k : Sublink} (hk : m.link l = some k)
include hk

theorem Mach.link_updLink_some {f : Sublink → Sublink} (hf : ∀ k, (f k).id = k.id) : (m.updLink l f).link l = some (f k) := by
  rw [link_updLink m l hf, hk, Option.map_some]

theorem Mach.link_linkDown (hup : k.up = true) :
    (m.linkDown l).link l = some { k with up := false, replay := [], discard := false, request := none } := by
  rw [linkDown, link_updLink_some hk]
  · simp only [hup, if_true]
  · intro k
    split <;> rfl

/-- A replay resends what is due, and counts it (R275). -/
theorem Mach.replayFrom_eq (hup : k.up = true) (n : BitVec 12) :
    let due := k.replay.filter fun f => decide ((f.1 - n).toNat < 2048)
    let again := k.replay.map fun f => if (f.1 - n).toNat < 2048 then (f.1, f.2.1, f.2.2 + 1) else f
    let sent := (m.updLink l fun k => { k with replay := again, out := k.out ++ due.map fun f => f.2.1 }).iodNote .retransmits due.length
    sent.link l = some { k with replay := again, out := k.out ++ due.map fun f => f.2.1 } ∧
      m.replayFrom l n = if ∃ f ∈ again, 16 ≤ f.2.2 then sent.linkDown l else sent := by
  intro due again sent
  refine ⟨link_updLink_some hk fun _ => rfl, ?_⟩
  simp only [replayFrom, hk, hup, List.length_map, decide_eq_true_eq, List.any_eq_true, Bool.not_true, Bool.false_eq_true, if_false]
  rfl

/-- A bad flit, or a data flit that is not next, starts the discard and asks for a replay (R275). -/
theorem Mach.flitIn_drop (hup : k.up = true) {w : BitVec 2048} (hdiscard : k.discard = false)
    (hw : flitBad w = true ∨ (bitsOf w.toNat 15 12 = 1 ∧ ¬ (bitsOf w.toNat 15 12 = 1 ∧ bitsOf w.toNat 11 0 = k.rxl.toNat))) :
    m.flitIn l w = m.updLink l fun k => { k.tell (m.pauseOut l) 2 k.rxl.toNat with discard := true, request := some k.rxl } := by
  simp only [flitIn, hk, hup, hdiscard, Bool.not_true, Bool.false_eq_true, if_false, Bool.false_and]
  obtain hbad | ⟨htyp, hnext⟩ := hw
  · simp only [hbad, if_true]
  · have hseq : ¬ bitsOf w.toNat 11 0 = k.rxl.toNat := fun h => hnext ⟨htyp, h⟩
    split
    · rfl
    · simp [htyp, hseq]

/-- While it discards, a sub-link takes nothing but the flit that it waits for (R275). -/
theorem Mach.flitIn_discard {w : BitVec 2048} (hdiscard : k.discard = true)
    (hw : flitBad w = true ∨ ¬ (bitsOf w.toNat 15 12 = 1 ∧ bitsOf w.toNat 11 0 = k.rxl.toNat)) : m.flitIn l w = m := by
  simp only [flitIn, hk, hdiscard, if_true, Bool.true_and]
  split
  · rfl
  · split
    · rfl
    next hgood =>
      have hnext := hw.resolve_left hgood
      rw [if_pos (by simpa [imp_iff_not_or] using hnext)]

/-- The next data flit is accepted (R275). -/
theorem Mach.flitIn_next (hup : k.up = true) {w : BitVec 2048} (hgood : flitBad w = false) (htyp : bitsOf w.toNat 15 12 = 1)
    (hseq : bitsOf w.toNat 11 0 = k.rxl.toNat) :
    (m.flitIn l w).ctxs = m.ctxs ∧ (m.flitIn l w).link l = some { k.heed w.toNat with
      rxl := k.rxl + 1, discard := false, request := none, heard := true, data := .ofNat 1920 (bitsOf w.toNat 1935 16) } := by
  have hheed : ∀ k : Sublink, (k.heed w.toNat).id = k.id ∧ (k.heed w.toNat).rxl = k.rxl := fun k => by
    unfold Sublink.heed
    split <;> exact ⟨rfl, rfl⟩
  have hlink := link_updLink_some hk (f := fun k => k.heed w.toNat) fun k => (hheed k).1
  simp only [flitIn, hk, hup, hgood, htyp, hseq, Bool.not_true, Bool.false_eq_true, if_false, decide_true, Bool.and_self, Bool.and_false, if_true]
  refine ⟨rfl, ?_⟩
  refine (link_updLink_some (k := k.heed w.toNat) (by rw [link_iodNote]; exact hlink) (f := fun k => { k with
    rxl := k.rxl + 1, discard := false, request := none, heard := true, data := .ofNat 1920 (bitsOf w.toNat 1935 16) }) fun _ => rfl).trans ?_
  rw [(hheed k).2]

/-- An idle flit is heeded (R275). -/
theorem Mach.flitIn_idle (hup : k.up = true) {w : BitVec 2048} (hgood : flitBad w = false) (htyp : bitsOf w.toNat 15 12 = 0)
    (hdiscard : k.discard = false) : (m.flitIn l w).link l = some (k.heed w.toNat) := by
  have hheed : ∀ k : Sublink, (k.heed w.toNat).id = k.id := fun k => by
    unfold Sublink.heed
    split <;> rfl
  simp only [flitIn, hk, hup, hgood, htyp, hdiscard, Bool.not_true, Bool.false_eq_true, if_false, Bool.false_and]
  exact link_updLink_some hk (f := fun k => k.heed w.toNat) hheed

end

end Sys2Proof.Machine
end

section
/-!
PROOFS. Packets, acknowledgements, rejects and retransmission (R165, R191, R279 to R282, R284).
-/

namespace Sys2Proof.Machine

/-! ### A packet on a sub-link -/

@[simp] theorem Sublink.push_out_length (k : Sublink) (pause : Nat) (data : List Byte) : (k.push pause data).out.length = k.out.length + 1 := by
  simp [push]

theorem Sublink.foldl_push (pause : Nat) (data : Nat → List Byte) (is : List Nat) (k : Sublink) :
    (is.foldl (fun k i => k.push pause (data i)) k).out.length = k.out.length + is.length := by
  induction is generalizing k with
  | nil => rfl
  | cons i is ih =>
    rw [List.foldl_cons, ih, push_out_length, List.length_cons]
    omega

/-- Whether a sub-link can take a packet of partition q and class cls (R165, R166, R281). -/
def Mach.takes (m : Mach) (q : Option Nat) (cls : Nat) (k : Sublink) : Bool := k.up && m.serves q k.id && !k.pauseRx.getLsbD cls

theorem Mach.carries_eq (m : Mach) (q : Option Nat) (cls : Nat) : m.carries q cls = m.links.any (m.takes q cls) := by
  refine congrArg m.links.any (funext fun k => ?_)
  have hserves : m.serves q k.id = ((q.bind m.part).map fun p => p.e.subl.getLsbD k.id).getD true := by
    simp only [serves]
    cases q.bind m.part <;> rfl
  rw [takes, hserves, Bool.and_right_comm]

theorem packet_cls_lt (p : Packet) : p.cls < 8 := Nat.mod_lt _ (by decide)

theorem Mach.emit_takes (m : Mach) (q : Option Nat) (p : Packet) :
    (fun k : Sublink => k.up && m.serves q k.id && !(decide (bitsOf p.hdr.toNat 6 4 < 8) && k.pauseRx.getLsbD (bitsOf p.hdr.toNat 6 4))) =
      m.takes q p.cls := funext fun k => by
  have hcls : bitsOf p.hdr.toNat 6 4 < 8 := packet_cls_lt p
  simp only [hcls, decide_true, Bool.true_and]
  rfl

theorem Troupe.wire_length (t : Troupe) (p : Packet) : 1 ≤ (t.wire p).length := by
  have hhdr : 16 ≤ (hdrBytes p.hdr).length := by
    rw [hdrBytes, leBytes_length]
    split <;> omega
  simp only [wire]
  split
  · rw [List.length_append]
    omega
  · rw [List.length_append, List.length_append]
    omega

/-- A packet that no sub-link can take stays. -/
theorem Mach.emit_none {m : Mach} {q : Option Nat} {p : Packet} (h : m.carries q p.cls = false) : m.emit q p = none := by
  have hfind : m.links.find? (m.takes q p.cls) = none := by
    rw [carries_eq] at h
    exact List.find?_eq_none.mpr fun k hk => by simpa using List.any_eq_false.mp h k hk
  simp only [emit, emit_takes, hfind]

/-- A packet that a sub-link can take is put on it, in at least one flit. -/
theorem Mach.emit_some {m : Mach} {q : Option Nat} {p : Packet} (h : m.carries q p.cls = true) :
    ∃ ls c, m.emit q p = some { m with links := ls, iodCnt := c } ∧ (ls.map fun k => k.out.length) ≠ m.links.map fun k => k.out.length := by
  rw [carries_eq, List.any_eq_true] at h
  obtain ⟨k0, hk0, htakes⟩ := h
  cases hfind : m.links.find? (m.takes q p.cls) with
  | none => exact absurd htakes (by simpa using List.find?_eq_none.mp hfind k0 hk0)
  | some k =>
    simp only [emit, emit_takes, hfind]
    refine ⟨_, _, rfl, fun heq => ?_⟩
    rw [List.map_map, List.map_inj_left] at heq
    have hk := heq k (List.mem_of_find?_eq_some hfind)
    have hlen := m.troupe.wire_length p
    simp only [Function.comp, if_true, Sublink.foldl_push, List.length_range] at hk
    omega

/-! ### Sending again -/

/-- The machine's Troupe with f noted on the kept packets that are x (R281). -/
def Mach.notedTroupe (m : Mach) (x : TxPkt) (f : TxPkt → TxPkt) : Troupe := { m.troupe with
  txq := m.troupe.txq.map fun y => if y.dst = x.dst ∧ y.cls = x.cls ∧ y.pkt.hdr = x.pkt.hdr then f y else y }

theorem Mach.notePkt_eq (m : Mach) (x : TxPkt) (f : TxPkt → TxPkt) : m.notePkt x f = { m with troupe := m.notedTroupe x f } := by
  simp only [notePkt, updTroupe, notedTroupe, Bool.and_eq_true, decide_eq_true_eq, and_assoc]

section
variable {m : Mach} {x : TxPkt} {f g : TxPkt → TxPkt}

theorem Mach.sendAgain_carried (h : m.carries x.part x.pkt.cls = true) :
    (m.sendAgain x f g).troupe = m.notedTroupe x (fun y => { f y with last := m.cycle }) ∧ (m.sendAgain x f g).ctxs = m.ctxs ∧
      ((m.sendAgain x f g).links.map fun k => k.out.length) ≠ m.links.map fun k => k.out.length := by
  obtain ⟨ls, c, hemit, hout⟩ := emit_some h
  have hagain : m.sendAgain x f g = { m with links := ls, iodCnt := c, troupe := m.notedTroupe x fun y => { f y with last := m.cycle } } := by
    simp only [sendAgain, hemit, notePkt_eq, notedTroupe]
  rw [hagain]
  exact ⟨rfl, rfl, hout⟩

theorem Mach.sendAgain_paused (h : m.carries x.part x.pkt.cls = false) (hup : ∃ k ∈ m.links, k.up = true ∧ m.serves x.part k.id = true) :
    m.sendAgain x f g = { m with troupe := m.notedTroupe x g } := by
  have hany : m.links.any (fun k => k.up && m.serves x.part k.id) = true := List.any_eq_true.mpr (by simpa using hup)
  simp only [sendAgain, emit_none h, hany, if_true, notePkt_eq]

theorem Mach.sendAgain_lost (hdown : ∀ k ∈ m.links, k.up = true → m.serves x.part k.id = false) :
    m.sendAgain x f g = { m with troupe := m.notedTroupe x (fun y => { f y with last := m.cycle }) } := by
  have hany : m.links.any (fun k => k.up && m.serves x.part k.id) = false := List.any_eq_false.mpr fun k hk => by
    cases hk' : k.up
    · simp
    · simp [hdown k hk hk']
  have hcarries : m.carries x.part x.pkt.cls = false := by
    rw [carries_eq]
    refine List.any_eq_false.mpr fun k hk => ?_
    have hno : (k.up && m.serves x.part k.id) = false := Bool.eq_false_iff.mpr (List.any_eq_false.mp hany k hk)
    simp [takes, hno]
  simp only [sendAgain, emit_none hcarries, hany, notePkt_eq]
  rfl

end

/-! ### Arrivals (R279) -/

theorem Mach.readyIfDrained_of_none {m : Mach} (h : m.troupe.curtain = none) : m.readyIfDrained = m := by simp only [readyIfDrained, h]

theorem Mach.packetIn_far {m : Mach} {p : Packet} (h : p.dst ≠ m.troupe.node) : m.packetIn p = m := by simp [packetIn, h]

theorem Mach.packetIn_bad {m : Mach} {p : Packet} (hdst : p.dst = m.troupe.node) (h : p.bad = true) : m.packetIn p = m.authFail p.src := by
  simp [packetIn, hdst, screen, h]

/-- A secured packet of a stream that passes steps 1 and 2 here. -/
structure Mach.Arrives (m : Mach) (p : Packet) : Prop where
  dst : p.dst = m.troupe.node
  screen : m.screen p = none
  secured : p.uns = false
  stream : p.cls ≠ 7

section
variable {m : Mach} {p : Packet} (h : m.Arrives p)
include h

theorem Mach.Arrives.again (hseq : p.seq < nthD 0 (m.troupe.mem p.src).rx p.cls) : m.packetIn p = (m.iodNote .dupDrop 1).owesAck p.src p.cls := by
  simp [packetIn, h.dst, h.screen, h.secured, h.stream, hseq]

theorem Mach.Arrives.ahead (hseq : nthD 0 (m.troupe.mem p.src).rx p.cls < p.seq) : m.packetIn p = m.authFail p.src := by
  simp [packetIn, h.dst, h.screen, h.secured, h.stream, hseq, Nat.not_lt.mpr hseq.le]

theorem Mach.Arrives.forged (hseq : p.seq = nthD 0 (m.troupe.mem p.src).rx p.cls) (htag : p.tag ≠ m.troupe.tagOf p.hdr p.op) :
    m.packetIn p = (m.authFail p.src).sendAck p.src p.cls 1 p.seq := by
  simp [packetIn, h.dst, h.screen, h.secured, h.stream, hseq, htag]

/-- The next packet of its stream, with a right tag and no curtain, does what it asks for and is acknowledged (R279, R280). -/
theorem Mach.Arrives.accepted {n : Mach} (hseq : p.seq = nthD 0 (m.troupe.mem p.src).rx p.cls) (htag : p.tag = m.troupe.tagOf p.hdr p.op)
    (happly : m.applyPacket p = some n) (hcurtain : n.troupe.curtain = none) :
    m.packetIn p = (n.updTroupe fun t => t.updMem p.src fun e => { e with rx := mapAt e.rx p.cls (· + 1) }).owesAck p.src p.cls := by
  have hready : ((n.updTroupe fun t => t.updMem p.src fun e => { e with rx := mapAt e.rx p.cls (· + 1) }).owesAck p.src p.cls).troupe.curtain = none := by
    unfold owesAck
    split <;> exact hcurtain
  have hlt : ¬ p.seq < p.seq := Nat.lt_irrefl _
  have hdst : (p.dst != m.troupe.node) = false := by simp [h.dst]
  have htag' : (p.tag != m.troupe.tagOf p.hdr p.op) = false := by simp [← htag]
  simp only [packetIn, hdst, h.screen, h.secured, h.stream, ← hseq, hlt, htag', happly, Bool.false_eq_true, if_false]
  exact readyIfDrained_of_none hready

end

theorem Mach.mem_owesAck (m : Mach) (src cls : Nat) : (src, cls) ∈ (m.owesAck src cls).troupe.ackDue := by
  unfold owesAck
  split
  next h => exact List.contains_iff_mem.mp h
  next => exact List.mem_append_right _ (List.mem_singleton_self _)

theorem Mach.mem_of_owesAck (m : Mach) (src cls : Nat) : (m.owesAck src cls).mem = m.mem := by
  unfold owesAck
  split <;> rfl

/-- A plain write has room, and is performed where it leads (R285). -/
theorem Mach.serve_write {m : Mach} {src cls seq via off : Nat} {bs : List Byte} {ss : List (Loc × Nat)}
    (hss : m.inbound via kWrite off bs.length = .ok ss) (hfree : m.chainBusy ss = false) :
    m.serve src cls seq via (.write off bs 0 .none) = some (m.writeFrom 4 4 (segBytes ss bs)) := by
  have hroom : m.recRoom (off / 2 ^ 34 % 64) 0 5 = true := by
    unfold recRoom
    split <;> rfl
  simp only [serve, hss, hfree, hroom, inWrite, homeDeltas, Bool.not_true, Bool.or_self, Bool.false_eq_true, if_false, if_true]

/-! ### Operations that end -/

/-- Of the Troupe's state only the requests have changed. -/
def Mach.SameFabric (m n : Mach) : Prop := ∃ rq, n.troupe = { m.troupe with reqs := rq }

theorem Mach.sameFabric_of_troupe {m n : Mach} (h : n.troupe = m.troupe) : m.SameFabric n := ⟨m.troupe.reqs, h⟩

theorem Mach.SameFabric.refl (m : Mach) : m.SameFabric m := sameFabric_of_troupe rfl

theorem Mach.SameFabric.trans {m n o : Mach} (h : m.SameFabric n) (k : n.SameFabric o) : m.SameFabric o := by
  obtain ⟨_, hn⟩ := h
  obtain ⟨rq, ho⟩ := k
  exact ⟨rq, by rw [ho, hn]⟩

theorem Mach.SameFabric.foldl {α : Type} {f : Mach → α → Mach} (hf : ∀ (m : Mach) a, m.SameFabric (f m a)) (l : List α) (m : Mach) :
    m.SameFabric (l.foldl f m) := foldl_keep (fun n => m.SameFabric n) f l m (.refl m) fun n a hn => hn.trans (hf n a)

theorem Mach.sameFabric_freeCtx (m : Mach) (c : Nat) : m.SameFabric (m.freeCtx c) := by
  simp only [freeCtx]
  split <;> exact ⟨_, rfl⟩

theorem Mach.sameFabric_updPart (m : Mach) (q : Nat) (f : Part → Part) : m.SameFabric (m.updPart q f) := by
  obtain ⟨_, h⟩ := m.updPart_eq q f
  exact sameFabric_of_troupe (by rw [h])

theorem Mach.sameFabric_charge (m : Mach) (a b cls n : Nat) : m.SameFabric (m.charge a b cls n) := by
  obtain ⟨_, _, h⟩ := m.charge_eq a b cls n
  exact sameFabric_of_troupe (by rw [h])

theorem Mach.sameFabric_closeTask (m : Mach) (c : Nat) (l : Launcher) : m.SameFabric (m.closeTask c l) := by
  have hcharge := m.sameFabric_charge (dieOf c) 4 5 64
  simp only [closeTask]
  generalize m.charge (dieOf c) 4 5 64 = n at hcharge ⊢
  exact (show m.SameFabric { n.updWindow l _ with windows := _ } from hcharge).trans (sameFabric_freeCtx _ c)

theorem Mach.sameFabric_updCast (m : Mach) (q id : Nat) (f : Cast → Cast) : m.SameFabric (m.updCast q id f) := sameFabric_updPart _ _ _

theorem Mach.sameFabric_finishTask (m : Mach) (c : Nat) (faulted : Bool) (v : Word) : m.SameFabric (m.finishTask c faulted v) := by
  cases hk : m.cast (m.ctx c).task.q (m.ctx c).task.cast with
  | none =>
    have hf : m.finishTask c faulted v = m.closeTask c (.task (m.ctx c).task.q (m.ctx c).task.cast (m.ctx c).task.idx) := by
      simp only [finishTask, hk]
      rfl
    rw [hf]
    exact sameFabric_closeTask _ _ _
  | some k =>
    have hf : m.finishTask c faulted v = ((m.updWindow k.launcher fun w => { w with
        ended := w.ended ++ [Report.mk (k.seq0 + (m.ctx c).task.idx) (m.ctx c).task.cast (m.ctx c).task.idx faulted v] }).updCast
          (m.ctx c).task.q (m.ctx c).task.cast fun k => { k with ended := k.ended + 1 }).closeTask c
            (.task (m.ctx c).task.q (m.ctx c).task.cast (m.ctx c).task.idx) := by
      simp only [finishTask, hk]
      rfl
    rw [hf]
    exact ((sameFabric_of_troupe (n := m.updWindow _ _) rfl).trans (sameFabric_updCast _ _ _ _)).trans (sameFabric_closeTask _ _ _)

theorem Mach.sameFabric_settle (m : Mach) (c : Nat) : m.SameFabric (m.settle c) := by
  unfold settle
  split
  · split
    · exact m.sameFabric_finishTask _ _ _
    · exact .refl m
  · exact .refl m

theorem Mach.sameFabric_settleOwners (m : Mach) (ps : List TxPkt) : m.SameFabric (m.settleOwners ps) := by
  refine .foldl (fun m p => ?_) ps m
  split
  · exact m.sameFabric_settle _
  · exact .refl m

theorem Mach.sameFabric_putStatus (m : Mach) (n : Nat) (bs : List Byte) : m.SameFabric (m.putStatus n bs) := by
  obtain ⟨_, _, _, _, _, hw⟩ := (m.tended_wake [(.pa (m.slot n).status, bs.length)]).rest
  exact sameFabric_of_troupe ((wroteTo_writeFrom _ 4 1 [(.pa (m.slot n).status, bs)] none).troupe.trans (by rw [hw]))

theorem Mach.sameFabric_graphIssuer (m : Mach) (n : Nat) (g : GRun) (f : Flt) : m.SameFabric (m.graphIssuer n g f) := by
  simp only [graphIssuer]
  split
  · exact .refl m
  · split <;> exact .refl m

theorem Mach.sameFabric_graphFault (m : Mach) (n : Nat) (g : GRun) (op : Option Nat) (f : Flt) : m.SameFabric (m.graphFault n g op f) := by
  have hstatus := m.sameFabric_putStatus n (statusBytes g.absent g.poison (m.slot n).runs.toNat op)
  simp only [graphFault]
  generalize m.putStatus n (statusBytes g.absent g.poison (m.slot n).runs.toNat op) = k at hstatus ⊢
  have hslot : k.SameFabric { k.updSlot n (fun e => { e with state := 3, run := none }) with ready := k.ready.filter fun r => r.2.1 != n } := ⟨_, rfl⟩
  exact ((hstatus.trans hslot).trans (sameFabric_graphIssuer _ n g f)).trans (sameFabric_settle _ _)

theorem Mach.sameFabric_failOp (m : Mach) (code : Nat) (p : TxPkt) : m.SameFabric (m.failOp code p) := by
  unfold failOp
  split
  · split <;> exact .refl m
  · exact ⟨_, rfl⟩
  · split
    · exact .refl m
    · split
      · exact m.sameFabric_graphFault _ _ _ _
      · exact .refl m
  · exact .refl m
  · exact .refl m

/-- Of what is abandoned the packets go; else only requests change (R282, R293). -/
theorem Mach.abandon_troupe (m : Mach) (sel : TxPkt → Bool) (gone : FabReq → Bool) (code : Nat) :
    ∃ rq, (m.abandon sel gone code).troupe = { m.troupe with txq := m.troupe.txq.filter fun p => !sel p, reqs := rq } := by
  obtain ⟨rq, h⟩ := (SameFabric.foldl (fun m p => m.sameFabric_failOp code p) (m.troupe.txq.filter sel) (m.updTroupe fun t => { t with
    txq := t.txq.filter (fun p => !sel p),
    reqs := t.reqs.map (fun r => if gone r && r.data.isNone && r.err.isNone then { r with err := some (code, 0) } else r) })).trans
      (sameFabric_settleOwners _ (m.troupe.txq.filter sel))
  exact ⟨rq, h⟩

/-- Owners that all run are not finished. -/
theorem Mach.settleOwners_of_running {m : Mach} {ps : List TxPkt}
    (h : ∀ x ∈ ps, ∀ c w va o, x.owner = .ctx c w va o → (m.ctx c).status = .running) : m.settleOwners ps = m := by
  refine List.foldlRecOn (motive := fun n => n = m) ps _ rfl fun n hn x hx => ?_
  rw [hn]
  split
  next c w va o ho => exact settle_of_running (h x hx c w va o ho)
  · rfl

/-! ### Packets of control messages -/

/-- From m to n every packet that has come is of the management class. -/
def Mach.OnlyMgmt (m n : Mach) : Prop := ∀ y ∈ n.troupe.txq, y ∈ m.troupe.txq ∨ y.cls = clsMgmt

theorem Mach.onlyMgmt_of_subset {m n : Mach} (h : n.troupe.txq ⊆ m.troupe.txq) : m.OnlyMgmt n := fun _ hy => .inl (h hy)

theorem Mach.OnlyMgmt.refl (m : Mach) : m.OnlyMgmt m := onlyMgmt_of_subset fun _ h => h

theorem Mach.OnlyMgmt.trans {m n o : Mach} (h : m.OnlyMgmt n) (k : n.OnlyMgmt o) : m.OnlyMgmt o := fun y hy =>
  (k y hy).elim (fun hn => h y hn) .inr

theorem Mach.OnlyMgmt.foldl {α : Type} {f : Mach → α → Mach} (hf : ∀ (m : Mach) a, m.OnlyMgmt (f m a)) (l : List α) (m : Mach) :
    m.OnlyMgmt (l.foldl f m) := foldl_keep (fun n => m.OnlyMgmt n) f l m (.refl m) fun n a hn => hn.trans (hf n a)

theorem Mach.onlyMgmt_abandon (m : Mach) (sel : TxPkt → Bool) (gone : FabReq → Bool) (code : Nat) : m.OnlyMgmt (m.abandon sel gone code) := by
  obtain ⟨_, h⟩ := m.abandon_troupe sel gone code
  exact onlyMgmt_of_subset (by rw [h]; exact List.filter_subset_self _)

theorem Mach.onlyMgmt_ctl (m : Mach) (dst code : Nat) (body : List Byte) : m.OnlyMgmt (m.ctl dst code body) := by
  simp only [ctl]
  split
  · exact .refl m
  · split
    · intro y hy
      obtain hy | hy := List.mem_append.mp hy
      · exact .inl hy
      · exact .inr (by rw [List.mem_singleton.mp hy])
    · exact .refl m

theorem Mach.onlyMgmt_switch (m : Mach) (k : Curtain) : m.OnlyMgmt (m.switch k) := onlyMgmt_of_subset (List.filter_subset_self _)

theorem Mach.onlyMgmt_goIfReady (m : Mach) : m.OnlyMgmt m.goIfReady := by
  unfold goIfReady
  split
  · split
    · refine .trans (.foldl (fun m e => ?_) _ m) (onlyMgmt_switch _ _)
      split
      · exact .refl m
      · exact m.onlyMgmt_ctl _ _ _
    · exact .refl m
  · exact .refl m

theorem Mach.onlyMgmt_readyIfDrained (m : Mach) : m.OnlyMgmt m.readyIfDrained := by
  unfold readyIfDrained
  split
  · split
    · split
      · exact .trans (onlyMgmt_of_subset fun _ h => h) (onlyMgmt_goIfReady _)
      · exact .trans (onlyMgmt_of_subset fun _ h => h) (onlyMgmt_ctl _ _ _ _)
    · exact .refl m
  · exact .refl m

theorem Mach.onlyMgmt_stall (m : Mach) (k : Curtain) : m.OnlyMgmt (m.stall k) :=
  ((onlyMgmt_of_subset (n := m.updTroupe _) fun _ h => h).trans (onlyMgmt_abandon _ _ _ _)).trans (onlyMgmt_readyIfDrained _)

theorem Mach.onlyMgmt_startCurtain (m : Mach) (gen : Nat) (ms : List (Nat × BitVec 64 × Bool)) : m.OnlyMgmt (m.startCurtain gen ms) := by
  have hprep : ∀ (k : Mach) (body : List Byte), k.OnlyMgmt (ms.foldl (fun m e => if e.1 = m.troupe.node then m else m.ctl e.1 1 body) k) := fun k body =>
    .foldl (fun m e => by
      split
      · exact .refl m
      · exact m.onlyMgmt_ctl _ _ _) ms k
  simp only [startCurtain]
  refine .trans (.trans ?_ (hprep _ _)) (onlyMgmt_stall _ _)
  exact onlyMgmt_of_subset fun _ h => h

theorem Mach.onlyMgmt_askRekey (m : Mach) : m.OnlyMgmt m.askRekey := by
  simp only [askRekey, rekeyNow]
  split
  · split
    · exact m.onlyMgmt_startCurtain _ _
    · exact .refl m
  · split
    · exact .refl m
    · exact .trans (onlyMgmt_of_subset fun _ h => h) (onlyMgmt_ctl _ _ _ _)

theorem Mach.onlyMgmt_askThenReady (m : Mach) : m.OnlyMgmt m.askRekey.readyIfDrained := m.onlyMgmt_askRekey.trans (onlyMgmt_readyIfDrained _)

/-! ### Acknowledgements and rejects (R280, R281) -/

/-- An acknowledgement or a reject, of class 7, that passes every check of R279 and R280. -/
structure Mach.Acked (m : Mach) (p : Packet) (cls kind seq : Nat) : Prop where
  op : p.op = .ack cls kind seq true
  dst : p.dst = m.troupe.node
  class7 : p.cls = 7
  screen : m.screen p = none
  tag : p.tag = m.troupe.tagOf p.hdr p.op
  stream : cls ≤ 5
  len : p.len = 16
  curtain : m.troupe.curtain = none

section
variable {m : Mach} {p : Packet} {cls kind seq : Nat} (h : m.Acked p cls kind seq)
include h

theorem Mach.Acked.ackPacket (hkind : kind ≤ 1) :
    m.ackPacket p kind = if kind = 0 then m.ackIn p.src cls seq else m.rejectIn p.src cls seq := by
  have htag : (p.tag != m.troupe.tagOf p.hdr (.ack cls kind seq true)) = false := by rw [← h.op]; simp [← h.tag]
  have hstream : ¬ 5 < cls := Nat.not_lt.mpr h.stream
  have hkind' : ¬ 1 < kind := Nat.not_lt.mpr hkind
  simp [Mach.ackPacket, h.op, h.dst, h.class7, h.screen, cls7, htag, hstream, hkind', h.len]

/-- An acknowledgement ends what it covers (R280). -/
theorem Mach.Acked.ends (hrunning : ∀ x ∈ m.troupe.txq, ∀ c w va o, x.owner = .ctx c w va o → (m.ctx c).status = .running) :
    (m.ackIn p.src cls seq).ctxs = m.ctxs ∧ (m.ackIn p.src cls seq).troupe.txq = m.troupe.txq.filter fun y =>
      !((y.dst == p.src && y.cls == cls && m.troupe.present y) && decide (y.seq ≤ seq)) := by
  simp only [ackIn]
  rw [settleOwners_of_running (m := m.updTroupe _) fun x hx => hrunning x (List.mem_filter.mp hx).1, readyIfDrained_of_none]
  · exact ⟨rfl, List.filter_congr fun y _ => congrArg not (Bool.and_right_comm ..)⟩
  · exact h.curtain

end

/-- The fourth reject of a packet abandons its stream from it on (R281). -/
theorem Mach.rejectIn_fourth {m : Mach} {src cls seq : Nat} {x : TxPkt}
    (hx : m.troupe.txq.find? (fun p => p.dst == src && p.cls == cls && p.seq == seq && m.troupe.present p) = some x) (hrejects : 3 ≤ x.rejects)
    (hcls : cls ≠ clsMgmt) : ∀ y ∈ (m.rejectIn src cls seq).troupe.txq,
      ¬ ((y.dst == src && y.cls == cls && m.troupe.present y) = true ∧ seq ≤ y.seq) := by
  intro y hy ⟨hmine, hseq⟩
  simp only [rejectIn, hx, show 4 ≤ x.rejects + 1 by omega, if_true] at hy
  simp only [Bool.and_eq_true, beq_iff_eq] at hmine
  obtain ⟨⟨hdst, hclass⟩, hpresent⟩ := hmine
  obtain hy | hy := onlyMgmt_askThenReady _ y hy
  · obtain ⟨_, habandon⟩ := m.abandon_troupe (fun p => p.dst == src && p.cls == cls && decide (seq ≤ p.seq) && m.troupe.present p)
      (fun r => r.dst == src && r.cls == cls && decide (seq ≤ r.seq)) 0x10
    rw [habandon] at hy
    simpa [hdst, hclass, hpresent, hseq] using (List.mem_filter.mp hy).2
  · exact hcls (hclass.symm.trans hy)

theorem Mach.rejectIn_again {m : Mach} {src cls seq : Nat} {x : TxPkt}
    (hx : m.troupe.txq.find? (fun p => p.dst == src && p.cls == cls && p.seq == seq && m.troupe.present p) = some x) (hrejects : x.rejects < 3) :
    m.rejectIn src cls seq = m.sendAgain x (fun y => { y with rejects := y.rejects + 1 }) fun y => { y with rejects := y.rejects + 1, sent := false } := by
  simp only [rejectIn, hx, show ¬ 4 ≤ x.rejects + 1 by omega, if_false]

/-- A packet that is sent again goes out where a sub-link carries it, waits where only a pause holds it back, and is lost where none is up. -/
def State.Resent (s : State) (r : Out) (x : TxPkt) (f paused : TxPkt → TxPkt) : Prop :=
  (s.m.carries x.part x.pkt.cls = true → ∃ t, r = .next t ∧ t.m.troupe = s.m.notedTroupe x (fun y => { f y with last := s.m.cycle }) ∧
    t.m.ctxs = s.m.ctxs ∧ (t.m.links.map fun k => k.out.length) ≠ s.m.links.map fun k => k.out.length) ∧
  (s.m.carries x.part x.pkt.cls = false → (∃ k ∈ s.m.links, k.up = true ∧ s.m.serves x.part k.id = true) →
    r = .next { s with m := { s.m with troupe := s.m.notedTroupe x paused } }) ∧
  ((∀ k ∈ s.m.links, k.up = true → s.m.serves x.part k.id = false) →
    r = .next { s with m := { s.m with troupe := s.m.notedTroupe x fun y => { f y with last := s.m.cycle } } })

theorem State.resent_sendAgain (s : State) (x : TxPkt) (f g : TxPkt → TxPkt) :
    s.Resent (.next { s with m := s.m.sendAgain x f g }) x f g :=
  ⟨fun h => ⟨_, rfl, Mach.sendAgain_carried h⟩, fun h hup => by rw [Mach.sendAgain_paused h hup], fun h => by rw [Mach.sendAgain_lost h]⟩

/-! ### A path that fails (R281, R306) -/

/-- From m to n the leader, this node, the members' states and the partition faults stay. -/
structure Mach.SameMembers (m n : Mach) : Prop where
  leader : n.troupe.leader = m.troupe.leader
  node : n.troupe.node = m.troupe.node
  state : ∀ k, (n.troupe.mem k).state = (m.troupe.mem k).state
  pfaults : n.pfaults = m.pfaults

theorem Mach.sameMembers_ctl (m : Mach) (dst code : Nat) (body : List Byte) : m.SameMembers (m.ctl dst code body) := by
  simp only [ctl]
  split
  · exact ⟨rfl, rfl, fun _ => rfl, rfl⟩
  · split
    · refine ⟨rfl, rfl, fun k => ?_, rfl⟩
      by_cases hk : k = dst
      · rw [hk]
        simp only [send, Troupe.updMem, Troupe.mem, nthD_mapAt_same]
        split
        · rfl
        next hlen => rw [nthD, List.getD_eq_default _ _ (Nat.not_lt.mp hlen)]
      · simp only [send, Troupe.updMem, Troupe.mem, nthD_mapAt_ne _ _ _ hk]
    · exact ⟨rfl, rfl, fun _ => rfl, rfl⟩

/-- A member that has sent READY has sent a message at most. -/
theorem Mach.readyIfDrained_member {m : Mach} (h : m.troupe.leader ≠ m.troupe.node) (n : Nat) :
    m.readyIfDrained.troupe.leader = m.troupe.leader ∧ m.readyIfDrained.troupe.node = m.troupe.node ∧
      (m.readyIfDrained.troupe.mem n).state = (m.troupe.mem n).state := by
  simp only [readyIfDrained, h, if_false]
  split
  next k _ =>
    split
    · have hctl := sameMembers_ctl (m.updTroupe fun t => { t with curtain := some { k with sent := true } }) m.troupe.leader 2 (leBytes 4 k.gen)
      exact ⟨hctl.leader, hctl.node, hctl.state n⟩
    · exact ⟨rfl, rfl, rfl⟩
  · exact ⟨rfl, rfl, rfl⟩

/-- At a member, the destination of a failed path is marked failed, and Ringmaster hears of it (R281, R306). -/
theorem Mach.pathFailed_member {m : Mach} {n q : Nat} (hleader : m.troupe.leader ≠ m.troupe.node) (hn : n < m.troupe.member.length) :
    ((m.pathFailed n q).troupe.mem n).state = 4 ∧ PFault.mk q 0x0F n ∈ (m.pathFailed n q).pfaults := by
  obtain ⟨rq, hdrop⟩ := abandon_troupe (m.updTroupe fun t => t.updMem n fun e => { e with state := 4 }) (fun p => p.dst == n) (fun r => r.dst == n) 0x0F
  obtain ⟨hl, hnode, hstate⟩ := readyIfDrained_member (m := (m.updTroupe fun t => t.updMem n fun e => { e with state := 4 }).dropMember n)
    (by rw [dropMember, hdrop]; exact hleader) n
  have hfailed : ((m.markFailed n).troupe.mem n).state = 4 := by
    rw [markFailed, hstate, dropMember, hdrop]
    simp only [updTroupe, Troupe.updMem, Troupe.mem, nthD_mapAt_same, hn, if_true]
  have hmember : (m.markFailed n).troupe.leader ≠ (m.markFailed n).troupe.node := by
    rw [markFailed, hl, hnode, dropMember, hdrop]
    exact hleader
  simp only [pathFailed, hmember, if_false]
  have hctl := sameMembers_ctl { m.markFailed n with pfaults := m.pfaults ++ [PFault.mk q 0x0F n] } (m.markFailed n).troupe.leader 6 (leBytes 1 n)
  exact ⟨(hctl.state n).trans hfailed, by rw [hctl.pfaults]; simp⟩

/-! ### What the events do -/

section
variable {s : State} {l : Nat} {k : Sublink} (hk : s.m.link l = some k)
include hk

/-- A replay whose flits have been replayed less than 16 times resends them, and any other takes the sub-link down (R275). -/
theorem replayRequest_resends (hup : k.up = true) (n : BitVec 12) :
    let due := k.replay.filter fun f => decide ((f.1 - n).toNat < 2048)
    let again := k.replay.map fun f => if (f.1 - n).toNat < 2048 then (f.1, f.2.1, f.2.2 + 1) else f
    ((∀ f ∈ again, f.2.2 < 16) → ∃ t, exec (.replayRequest l n) s = .next t ∧ t.m.iodCnt = noteAll s.m.iodCnt .retransmits due.length ∧
      t.m.link l = some { k with replay := again, out := k.out ++ due.map fun f => f.2.1 }) ∧
    ((∃ f ∈ again, 16 ≤ f.2.2) → ∃ t k', exec (.replayRequest l n) s = .next t ∧ t.m.link l = some k' ∧ k'.up = false) := by
  obtain ⟨hlink, hreplay⟩ := Mach.replayFrom_eq hk hup n
  refine ⟨fun hfew => ?_, fun hmany => ?_⟩
  · rw [if_neg (by simpa using hfew)] at hreplay
    exact ⟨_, exec_replayRequest.trans (onMach_eq hreplay), rfl, hlink⟩
  · rw [if_pos hmany] at hreplay
    exact ⟨_, _, exec_replayRequest.trans (onMach_eq hreplay), Mach.link_linkDown hlink hup, rfl⟩

/-- A sub-link that loses training goes down, and no other changes (R274). -/
theorem sublinkLosesTraining_down (hup : k.up = true) :
    ∃ t, exec (.sublinkLosesTraining l) s = .next t ∧ (∀ x ∈ s.m.links, x.id ≠ l → x ∈ t.m.links) ∧
      t.m.link l = some { k with up := false, replay := [], discard := false, request := none } :=
  ⟨_, rfl, fun x hx hne => List.mem_map.mpr ⟨x, hx, if_neg hne⟩, Mach.link_linkDown hk hup⟩

end

/-- The next management message of its stream goes to the agent, and is acknowledged (R279, R289). -/
theorem Mach.Arrives.message {m : Mach} {p : Packet} (h : m.Arrives p) (hseq : p.seq = nthD 0 (m.troupe.mem p.src).rx p.cls)
    (htag : p.tag = m.troupe.tagOf p.hdr p.op) (hcurtain : m.troupe.curtain = none) {typ code se : Nat} {b : List Byte}
    (hop : p.op = .mgmt typ code se b) :
    m.packetIn p = ((m.updTroupe fun t => { t with inbox := t.inbox ++ [(p.src, typ, code, b)] }).updTroupe fun t => t.updMem p.src fun e =>
      { e with rx := mapAt e.rx p.cls (· + 1) }).owesAck p.src p.cls :=
  h.accepted hseq htag (by simp only [applyPacket, hop, serve]) hcurtain

/-- The next write of its stream is performed where it leads, keeps every other byte, and is acknowledged (R279, R285). -/
theorem Mach.Arrives.write {m : Mach} {p : Packet} (h : m.Arrives p) (hseq : p.seq = nthD 0 (m.troupe.mem p.src).rx p.cls)
    (htag : p.tag = m.troupe.tagOf p.hdr p.op) (hcurtain : m.troupe.curtain = none) {off : Nat} {bs : List Byte} {ss : List (Loc × Nat)}
    (hop : p.op = .write off bs 0 .none) (hss : m.inbound p.via kWrite off bs.length = .ok ss) (hfree : m.chainBusy ss = false)
    (hwf : m.mem.wf = true) :
    (m.packetIn p).mem = (m.writeFrom 4 4 (segBytes ss bs)).mem ∧ m.keepsBut (m.packetIn p) ss ∧
      (p.src, p.cls) ∈ (m.packetIn p).troupe.ackDue := by
  have happly : m.applyPacket p = some (m.writeFrom 4 4 (segBytes ss bs)) := by
    simp only [applyPacket, hop]
    exact serve_write hss hfree
  have hin := h.accepted hseq htag happly (by rw [(m.wroteTo_writeFrom 4 4 (segBytes ss bs) none).troupe, hcurtain])
  have hmem : (m.packetIn p).mem = (m.writeFrom 4 4 (segBytes ss bs)).mem := by rw [hin, mem_of_owesAck]; rfl
  exact ⟨hmem, keepsBut_segBytes hwf 4 4 ss bs none hmem, by rw [hin]; exact mem_owesAck _ _ _⟩

/-- An acknowledgement that is due goes out, up to what is completed (R280). -/
theorem Mach.ackOut_due {m : Mach} {dst cls : Nat} (hdue : (dst, cls) ∈ m.troupe.ackDue)
    (hheld : ∀ ch ∈ m.chains, ∀ o ∈ ch.ops, o.holdsAck dst cls = false) (hopen : m.firstOpen dst cls ≠ 0) :
    m.ackOut dst cls =
      (m.updTroupe fun t => { t with ackDue := t.ackDue.filter (· != (dst, cls)) }).sendAck dst cls 0 (m.firstOpen dst cls - 1) := by
  have hany : (m.chains.any fun ch => ch.ops.any fun o => o.holdsAck dst cls) = false :=
    List.any_eq_false.mpr fun ch hch => by simpa using hheld ch hch
  simp [ackOut, hdue, hany, hopen]

/-- A counter at its limit makes a member ask the leader for a new generation (R191, R280). -/
theorem Mach.exhausted_member {m : Mach} {n : Nat} (h : (∃ x ∈ (m.troupe.mem n).tx, 2 ^ 47 ≤ x) ∨ 2 ^ 47 ≤ m.troupe.ackCtr)
    (hleader : m.troupe.leader ≠ m.troupe.node) (hrekey : m.troupe.rekey = false) :
    m.exhausted n = (m.updTroupe fun t => { t with rekey := true }).ctl m.troupe.leader 7 [] := by
  have hdue : ((m.troupe.mem n).tx.any (fun s => decide (2 ^ 47 ≤ s)) || decide (2 ^ 47 ≤ m.troupe.ackCtr)) = true := by simpa using h
  rw [exhausted, if_pos hdue, askRekey, if_neg hleader, hrekey]
  rfl

theorem Mach.retransmit_due {m : Mach} {dst cls seq : Nat} {p : TxPkt} (hp : m.troupe.txq.find?
      (fun p => p.dst == dst && p.cls == cls && p.seq == seq && p.sent && decide (p.last + 2400 ≤ m.cycle)) = some p) :
    m.retransmit dst cls seq =
      if 8 ≤ p.sends then m.pathFailed dst (p.part.getD 0) else m.sendAgain p (fun y => { y with sends := y.sends + 1 }) id := by
  simp only [retransmit, hp]

/-- Settles O44: each event's outcome, from the lemma about it. -/
theorem linksAndPackets : Obligations.LinksAndPackets := by
  unfold Obligations.LinksAndPackets
  refine ⟨fun s l k hk => ⟨fun w hup => ⟨fun hdrop hdiscard => exec_flitReceive.trans (onMach_eq (Mach.flitIn_drop hk hup hdiscard hdrop)),
      fun hw hdiscard => exec_flitReceive.trans (onMach_eq (Mach.flitIn_discard hk hdiscard hw)),
      fun hgood hnext => ⟨_, rfl, Mach.flitIn_next hk hup hgood hnext.1 hnext.2⟩,
      fun hgood htyp hdiscard => ⟨_, rfl, Mach.flitIn_idle hk hup hgood htyp hdiscard⟩⟩,
    fun pause typ lseq data hpause htyp hlseq => k.flitOf_good hpause htyp hlseq,
    fun n hup => replayRequest_resends hk hup n, sublinkLosesTraining_down hk⟩, fun s => ⟨fun p => ⟨?_, fun hdst => ⟨?_, ?_, ?_⟩⟩, ?_, ?_, ?_⟩⟩
  case refine_1 => exact fun hfar => exec_packetReceive.trans (onMach_eq (Mach.packetIn_far hfar))
  case refine_2 => exact fun hbad => exec_packetReceive.trans (onMach_eq (Mach.packetIn_bad hdst hbad))
  case refine_3 =>
    intro hscreen huns hcls
    have h : s.m.Arrives p := ⟨hdst, hscreen, huns, hcls⟩
    refine ⟨fun hseq => exec_packetReceive.trans (onMach_eq (h.again hseq)),
      fun hseq => exec_packetReceive.trans (onMach_eq (h.ahead hseq)),
      fun hseq htag => exec_packetReceive.trans (onMach_eq (h.forged hseq htag)),
      fun hseq htag hcurtain => ⟨fun typ code se b hop => exec_packetReceive.trans (onMach_eq (h.message hseq htag hcurtain hop)),
        fun off bs ss hop hss hfree hwf => ⟨_, rfl, h.write hseq htag hcurtain hop hss hfree hwf⟩⟩⟩
  case refine_4 =>
    intro cls kind seq hop hclass hscreen htag hstream hlen hcurtain
    have h : s.m.Acked p cls kind seq := ⟨hop, hdst, hclass, hscreen, htag, hstream, hlen, hcurtain⟩
    refine ⟨fun hkind hrunning => ?_, fun x hkind hx => ?_⟩
    · subst hkind
      exact ⟨_, exec_ackReceive.trans (onMach_eq (h.ackPacket (by decide))), h.ends hrunning⟩
    · subst hkind
      have hexec : exec (.rejectReceive p) s = .next { s with m := s.m.rejectIn p.src cls seq } :=
        exec_rejectReceive.trans (onMach_eq (h.ackPacket (by decide)))
      refine ⟨fun hfew => ?_, fun hmany hmgmt _ => ⟨_, hexec, Mach.rejectIn_fourth hx hmany hmgmt⟩⟩
      rw [hexec, Mach.rejectIn_again hx hfew]
      exact s.resent_sendAgain x _ _
  case refine_5 => exact fun dst cls hdue hheld hopen => exec_ackSend.trans (onMach_eq (Mach.ackOut_due hdue hheld hopen))
  case refine_6 =>
    intro dst cls seq p hp
    have hexec : exec (.retransmitTimeout dst cls seq) s = .next { s with m := s.m.retransmit dst cls seq } := rfl
    rw [Mach.retransmit_due hp] at hexec
    refine ⟨fun hfew => ?_, fun hmany hleader hdst => ?_⟩
    · rw [hexec, if_neg (Nat.not_le.mpr hfew)]
      exact s.resent_sendAgain p _ _
    · rw [if_pos hmany] at hexec
      exact ⟨_, hexec, Mach.pathFailed_member hleader hdst⟩
  case refine_7 => exact fun n h hleader hrekey => exec_sequenceExhausted.trans (onMach_eq (Mach.exhausted_member h hleader hrekey))

end Sys2Proof.Machine
end

section
/-!
PROOFS. Copy instructions: what they place in the command hold (R152, R201, R421 to R426).
-/

namespace Sys2Proof.Machine

/-- A field of the low 64 bits. -/
theorem bitsOf_ofNat64 {w hi : Nat} (lo : Nat) (hhi : hi < 64) (hlo : lo ≤ hi) : bitsOf (BitVec.ofNat 64 w).toNat hi lo = bitsOf w hi lo := by
  refine Nat.eq_of_testBit_eq fun i => ?_
  simp only [testBit_bitsOf, BitVec.toNat_ofNat, Nat.testBit_mod_two_pow]
  by_cases hi' : i < hi + 1 - lo
  · simp [hi', show lo + i < 64 by omega]
  · simp [hi']

/-- The barrier that the low 64 bits name. -/
theorem ctrlTb_ofNat (w : Nat) : ctrlTb (BitVec.ofNat 64 w) = if w.testBit 36 then some (bitsOf w 53 37 * 16) else none := by
  have hbit : (BitVec.ofNat 64 w).getLsbD 36 = w.testBit 36 := by
    rw [BitVec.getLsbD, BitVec.toNat_ofNat, Nat.testBit_mod_two_pow]
    rfl
  rw [ctrlTb, hbit, bitsOf_ofNat64 37 (by decide) (by decide)]

/-- The levels of a descriptor, by the positions of their fields (R425). -/
theorem nestOf_eq (l : Nat) : nestOf l = (List.range 6).map fun j =>
    (bitsOf l (271 + 128 * j) (256 + 128 * j), sx 32 (bitsOf l (351 + 128 * j) (320 + 128 * j)), sx 32 (bitsOf l (383 + 128 * j) (352 + 128 * j))) := by
  refine List.map_congr_left fun j _ => ?_
  simp only [show 256 + 128 * j + 15 = 271 + 128 * j by omega, show 256 + 128 * j + 95 = 351 + 128 * j by omega,
    show 256 + 128 * j + 64 = 320 + 128 * j by omega, show 256 + 128 * j + 127 = 383 + 128 * j by omega, show 256 + 128 * j + 96 = 352 + 128 * j by omega]

/-- The acting context with one more command in its hold (R152). -/
def Ctx.holding (x : Ctx) (k : CopyCmd) : Ctx :=
  { x with hold := x.hold ++ [HoldEnt.mk x.stamp x.sbNext x.ir (.copy k)], sbNext := x.sbNext + 1 }

theorem Mach.toHold_ok {m : Mach} (h : m.me.hold.length < 16) (k : CopyCmd) : m.toHold (.copy k) = .ok (m.upd fun x => x.holding k) := by
  rw [toHold, if_neg (Nat.not_le.mpr h)]
  rfl

theorem Ctx.tbCheck_ok {x : Ctx} {tb : Option Nat} (h : ∀ o, tb = some o → o < x.spSize) : x.tbCheck tb = .ok () := by
  cases tb with
  | none => rfl
  | some o => rw [tbCheck, if_neg (Nat.not_le.mpr (h o rfl))]

section
variable {s : State} {d a b : BitVec 5} (hroom : s.m.me.hold.length < 16) (hr : s.ready [d, a, b])
  (hfits : ∀ o, ctrlTb (s.x b) = some o → o < s.m.me.spSize)
include hroom hr hfits

theorem cpy_ok : exec (.cpy d a b) s = .next (s.did (s.m.upd fun x => x.holding (s.m.me.copyCmd 0 0 d a b))) := by
  refine exec_cpy.trans (scalarStep_ok hr ?_)
  have htb : s.m.me.tbCheck (s.m.me.copyCmd 0 0 d a b).tb = .ok () := Ctx.tbCheck_ok hfits
  simp only [htb, orRaise, bind, Except.bind]
  exact Mach.toHold_ok hroom _

theorem cpyQ_ok (hxf : bitsOf (s.x b).toNat 58 54 ≤ 2) (htid : ctrlTid (s.x b) ≠ 0) :
    exec (.cpyQ d a b) s = .next (s.did (s.m.upd fun x => x.holding (s.m.me.copyCmd 1 (bitsOf (s.x b).toNat 58 54) d a b))) := by
  refine exec_cpyQ.trans (scalarStep_ok hr ?_)
  generalize hk : s.m.me.copyCmd 1 (bitsOf (s.x b).toNat 58 54) d a b = k
  have hk' : s.m.me.copyCmd 1 (bitsOf (s.m.me.rx b.toNat).toNat 58 54) d a b = k := hk
  have htb : s.m.me.tbCheck k.tb = .ok () := by rw [← hk]; exact Ctx.tbCheck_ok hfits
  have hxf' : ¬ 2 < k.xf := by rw [← hk]; exact Nat.not_lt.mpr hxf
  have htid' : ¬ k.tid = 0 := by rw [← hk]; exact htid
  simp only [hk', hxf', htid', htb, orRaise, bind, Except.bind, if_false]
  exact Mach.toHold_ok hroom k

/-- A gang multicast to a $vr window of its own task (R128, R424). -/
theorem cpyG_ok {g : Group} (hgroup : s.Member (bitsOf (s.x b).toNat 61 54) 2 g) (hlo : 0xFF40000000000000 ≤ (s.x d).toNat)
    (hhi : (s.x d).toNat < 0xFF60000000000000) :
    exec (.cpyG d a b) s = .next (s.did (s.m.upd fun x => x.holding (s.m.me.copyCmd 2 (bitsOf (s.x b).toNat 61 54) d a b))) := by
  obtain ⟨⟨z, hcast, hg⟩, hkind, -, hmem⟩ := hgroup
  refine exec_cpyG.trans (scalarStep_ok hr ?_)
  have hwindow : (isWindow (s.x d).toNat && (s.x d).toNat / 2 ^ 54 % 4 == 1 && (s.x d).toNat / 2 ^ 53 % 2 == 0) = true := by
    simp only [isWindow, Bool.and_eq_true, beq_iff_eq, bne_iff_ne]
    omega
  have hmember : s.m.group s.m.cur (bitsOf (s.x b).toNat 61 54) 2 = .ok g := by
    have hfind : ((s.m.cast (s.m.ctx s.m.cur).task.q (s.m.ctx s.m.cur).task.cast).bind fun k => k.groups[bitsOf (s.x b).toNat 61 54]?) = some g :=
      (congrArg (Option.bind · _) hcast).trans hg
    have hmine : g.mem.contains (s.m.ctx s.m.cur).task.idx = true := hmem
    simp only [Mach.group, hfind, hkind, hmine]
    rfl
  generalize hk : s.m.me.copyCmd 2 (bitsOf (s.x b).toNat 61 54) d a b = k
  have hdst : k.dst = (s.x d).toNat := by rw [← hk]; rfl
  have hxf : k.xf = bitsOf (s.x b).toNat 61 54 := by rw [← hk]; rfl
  have htb : s.m.me.tbCheck k.tb = .ok () := by rw [← hk]; exact Ctx.tbCheck_ok hfits
  have hk' : s.m.me.copyCmd 2 (bitsOf (s.m.me.rx b.toNat).toNat 61 54) d a b = k := hk
  simp only [hk', hxf, hdst, hmember, hwindow, htb, orRaise, bind, Except.bind, Bool.not_true, Bool.false_eq_true, if_false]
  exact Mach.toHold_ok hroom k

end

/-- Reading memory changes of the acting context only the marks of what is counted. -/
theorem State.readsTo_upd {s : State} {m n : Mach} (h : s.m.Reads m) (hn : ∃ rs, n = { m with troupe := { m.troupe with reqs := rs } }) (f : Ctx → Ctx)
    (hf : ∀ x ks, ∃ ks', f { x with counted := ks } = { f x with counted := ks' }) : s.readsTo { s with m := (n.upd f).retire } (s.m.upd f) := by
  obtain ⟨rs, he⟩ := hn
  obtain ⟨hret, hother, -⟩ := (n.upd f).onlyMe_retire
  have hcur : n.cur = s.m.cur := by rw [he]; exact h.cur
  have hctx : ∀ c, n.ctx c = m.ctx c := fun c => by rw [he]; rfl
  obtain ⟨ks, hks⟩ := h.ctx s.m.cur
  obtain ⟨ks', hks'⟩ := hf s.m.me ks
  have hme : (n.upd f).me = { (s.m.upd f).me with counted := ks' } := by
    rw [Mach.me_upd, Mach.me_upd, ← hks', Mach.me, hcur, hctx, hks]
    rfl
  refine ⟨?_, fun c hc => ?_, ?_⟩
  · refine ((n.upd f).me_retireTo _).trans (Eq.trans ?_ ((s.m.upd f).me_retireTo _).symm)
    rw [hme]
  · have hc' : c ≠ n.cur := hcur ▸ hc
    rw [hother c hc', n.ctx_upd_ne c f hc', hctx, h.others c hc, s.m.ctx_upd_ne c f hc]
  · obtain ⟨_, _, _, _, _, _, _, _, _, rfl⟩ := h.rest
    subst he
    refine ⟨?_, ?_, ?_, ?_, ?_, ?_, rfl⟩
    all_goals
      rw [hret]
      rfl

theorem Mach.dropReqs_eq (m : Mach) (c : Nat) (pc : Word) : ∃ rs, m.dropReqs c pc = { m with troupe := { m.troupe with reqs := rs } } := by
  unfold dropReqs
  split <;> exact ⟨_, rfl⟩

/-- A loop nest that its descriptor gives (R425). -/
theorem lns_ok {s : State} {a : BitVec 5} {loc : Nat → Loc} (hroom : s.m.me.hold.length < 16) (hr : s.ready [a]) (hva : (s.x a).toNat % 128 = 0)
    (himage : s.m.Image .all 0 (s.x a).toNat 8 16 loc) {l : Nat} (hl : leVal (s.m.image 8 16 loc) = l)
    (hfits : ∀ o, ctrlTb (BitVec.ofNat 64 l) = some o → o < s.m.me.spSize) :
    ∃ t, exec (.lns a) s = .next t ∧ s.readsTo t (s.m.upd fun x => x.holding ⟨0, bitsOf l 127 64, bitsOf l 191 128, ctrlLen (BitVec.ofNat 64 l),
      ctrlTid (BitVec.ofNat 64 l), ctrlTb (BitVec.ofNat 64 l), 0, nestOf l, s.m.me.ir⟩) := by
  obtain ⟨m', hload, hreads, -⟩ := Mach.loadsFrom_image himage 16 le_rfl
  obtain ⟨ks, hme⟩ := hreads.me
  obtain ⟨rs, hdrop⟩ := m'.dropReqs_eq m'.cur m'.me.pc
  generalize hn : m'.dropReqs m'.cur m'.me.pc = n at hdrop
  have hnme : n.me = m'.me := by rw [hdrop]; rfl
  have hheld : n.me.hold.length < 16 := by rw [hnme, hme]; exact hroom
  have hir : n.me.ir = s.m.me.ir := by rw [hnme, hme]
  have htb : n.me.tbCheck (ctrlTb (BitVec.ofNat 64 l)) = .ok () := Ctx.tbCheck_ok fun o ho => by rw [hnme, hme]; exact hfits o ho
  have hread : s.m.imageRead (s.x a).toNat 16 = .ok (n, s.m.image 8 16 loc) := by
    simp only [Mach.imageRead, hload, hn, bind, Except.bind, pure, Except.pure]
  refine ⟨_, exec_lns.trans (scalarStep_ok hr (m' := n.upd fun x => x.holding ⟨0, bitsOf l 127 64, bitsOf l 191 128, ctrlLen (BitVec.ofNat 64 l),
      ctrlTid (BitVec.ofNat 64 l), ctrlTb (BitVec.ofNat 64 l), 0, nestOf l, s.m.me.ir⟩) ?_),
    State.readsTo_upd hreads ⟨rs, hdrop⟩ _ fun x ks => ⟨ks, rfl⟩⟩
  have hxa : (s.m.me.rx a.toNat).toNat = (s.x a).toNat := rfl
  simp only [hxa, hva, hread, hl, htb, hir, orRaise, bind, Except.bind, bne_self_eq_false, Bool.false_eq_true, if_false]
  exact Mach.toHold_ok hheld _

end Sys2Proof.Machine
end

section
/-!
PROOFS. The release and the start of copy commands (R97, R152, R155, R177, R178, R246, R259).
-/

namespace Sys2Proof.Machine

/-! ### Machines with the same tasks -/

/-- Setting a present entry changes nothing of where a search ends that does not see what is set. -/
theorem find?_tabSet {α : Type} {t : Tab α} {k : Nat} {u v : α} {p : Nat × α → Bool} (h : tabFind t k = some u) (hp : p (k, v) = p (k, u)) :
    ((tabSet t k v).find? p).map Prod.fst = (t.find? p).map Prod.fst := by
  induction t with
  | nil => cases h
  | cons e t ih =>
    simp only [tabFind] at h
    simp only [tabSet]
    split at h
    next hk =>
      have he : e = (k, u) := Prod.ext hk.symm (Option.some.inj h)
      rw [if_pos hk, he]
      simp only [List.find?_cons, hp]
      cases p (k, u) <;> rfl
    next hk =>
      split at h
      · cases h
      next hlt =>
        rw [if_neg hk, if_neg hlt]
        simp only [List.find?_cons]
        cases p e
        · exact ih h
        · rfl

theorem Mach.tabFind_of_ctx {m : Mach} {c : Nat} (h : m.ctx c ≠ .reset) : tabFind m.ctxs c = some (m.ctx c) := by
  rw [ctx, tabGet] at h ⊢
  cases hfind : tabFind m.ctxs c with
  | none => simp [hfind] at h
  | some x => rfl

/-- In both machines every context has the same task and registers of one length, and a task is found in the same context. -/
structure Mach.SameTasks (m n : Mach) : Prop where
  parts : n.parts = m.parts
  task : ∀ d, (n.ctx d).task = (m.ctx d).task
  regBytes : ∀ d, (n.ctx d).regBytes = (m.ctx d).regBytes
  ofTask : ∀ q k i, n.ctxOfTask q k i = m.ctxOfTask q k i

theorem Mach.SameTasks.trans {m n o : Mach} (h : m.SameTasks n) (k : n.SameTasks o) : m.SameTasks o :=
  ⟨k.parts.trans h.parts, fun d => (k.task d).trans (h.task d), fun d => (k.regBytes d).trans (h.regBytes d),
    fun q c i => (k.ofTask q c i).trans (h.ofTask q c i)⟩

theorem Mach.sameTasks_of_ctxs {m n : Mach} (hparts : n.parts = m.parts) (hctxs : n.ctxs = m.ctxs) : m.SameTasks n := by
  have hctx : ∀ d, n.ctx d = m.ctx d := fun d => by rw [ctx, ctx, hctxs]
  exact ⟨hparts, fun d => by rw [hctx], fun d => by rw [hctx], fun q k i => by rw [ctxOfTask, ctxOfTask, hctxs]⟩

theorem Mach.sameTasks_updCtx {m : Mach} {c : Nat} (hc : m.ctx c ≠ .reset) {f : Ctx → Ctx} (htask : (f (m.ctx c)).task = (m.ctx c).task)
    (hstatus : (f (m.ctx c)).status = (m.ctx c).status) (hbytes : (f (m.ctx c)).regBytes = (m.ctx c).regBytes) : m.SameTasks (m.updCtx c f) := by
  refine ⟨rfl, fun d => ?_, fun d => ?_, fun q k i => find?_tabSet (tabFind_of_ctx hc) ?_⟩
  · by_cases hd : d = c
    · rw [hd, ctx_updCtx, htask]
    · rw [m.ctx_updCtx_ne c d f hd]
  · by_cases hd : d = c
    · rw [hd, ctx_updCtx, hbytes]
    · rw [m.ctx_updCtx_ne c d f hd]
  · simp only [htask, hstatus]

section
variable {m n : Mach} (h : m.SameTasks n)
include h

theorem Mach.SameTasks.qOf (c : Nat) : n.qOf c = m.qOf c := by rw [Mach.qOf, Mach.qOf, h.task]

theorem Mach.SameTasks.cast (q id : Nat) : n.cast q id = m.cast q id := by simp only [Mach.cast, part, h.parts]

theorem Mach.SameTasks.gangCtxs (c : Nat) (k : CopyCmd) : n.gangCtxs c k = m.gangCtxs c k := by
  simp only [Mach.gangCtxs, h.task, h.cast, h.ofTask]

theorem Mach.SameTasks.vrAt (c va l : Nat) : n.vrAt c va l = m.vrAt c va l := by
  simp only [Mach.vrAt, windowCtx, h.task, h.ofTask, h.regBytes]

/-- The registers that a command writes rest on the tasks alone (R97, R259). -/
theorem Mach.SameTasks.copyRegs (c : Nat) (k : CopyCmd) (t : Tit) : n.copyRegs c k t = m.copyRegs c k t := by
  simp only [Mach.copyRegs, h.gangCtxs, h.vrAt, h.regBytes]

end

/-! ### The scoreboard -/

/-- A change of the counts of the registers that a command holds (R97). -/
def Mach.rescore (m : Mach) (f : Nat → Nat) (held : List (Nat × Nat)) : Mach :=
  held.foldl (fun m h => m.updCtx h.1 fun x => { x with score := mapAt x.score h.2 f }) m

theorem Mach.score_eq (m : Mach) (held : List (Nat × Nat)) : m.score held = m.rescore (· + 1) held := rfl
theorem Mach.unscore_eq (m : Mach) (held : List (Nat × Nat)) : m.unscore held = m.rescore (· - 1) held := rfl

/-- Of contexts only the scoreboard counts change, and of those only the counts of what is held. -/
theorem Mach.rescore_spec (m : Mach) (f : Nat → Nat) (held : List (Nat × Nat)) :
    (∃ cs, m.rescore f held = { m with ctxs := cs }) ∧
      ∀ d, ∃ sc, (m.rescore f held).ctx d = { m.ctx d with score := sc } ∧ ∀ v, (d, v) ∉ held → nthD 0 sc v = nthD 0 (m.ctx d).score v := by
  induction held generalizing m with
  | nil => exact ⟨⟨_, rfl⟩, fun d => ⟨_, rfl, fun _ _ => rfl⟩⟩
  | cons h held ih =>
    obtain ⟨⟨cs, hcs⟩, hctx⟩ := ih (m.updCtx h.1 fun x => { x with score := mapAt x.score h.2 f })
    refine ⟨⟨cs, hcs⟩, fun d => ?_⟩
    obtain ⟨sc, hsc, hkeep⟩ := hctx d
    by_cases hd : d = h.1
    · subst hd
      rw [ctx_updCtx] at hsc hkeep
      refine ⟨sc, hsc, fun v hv => ?_⟩
      rw [List.mem_cons, not_or] at hv
      have hne : v ≠ h.2 := fun heq => hv.1 (by rw [heq])
      exact (hkeep v hv.2).trans (nthD_mapAt_ne 0 _ f hne)
    · rw [m.ctx_updCtx_ne h.1 d _ hd] at hsc hkeep
      exact ⟨sc, hsc, fun v hv => hkeep v fun hmem => hv (List.mem_cons_of_mem _ hmem)⟩

theorem Mach.rescore_mem (m : Mach) (f : Nat → Nat) (held : List (Nat × Nat)) : (m.rescore f held).mem = m.mem := by
  obtain ⟨⟨_, h⟩, -⟩ := m.rescore_spec f held
  rw [h]

theorem Mach.rescore_copyq (m : Mach) (f : Nat → Nat) (held : List (Nat × Nat)) (c : Nat) :
    ((m.rescore f held).ctx c).copyq = (m.ctx c).copyq ∧ ((m.rescore f held).ctx c).hold = (m.ctx c).hold := by
  obtain ⟨-, hctx⟩ := m.rescore_spec f held
  obtain ⟨_, hc, -⟩ := hctx c
  rw [hc]
  exact ⟨rfl, rfl⟩

/-! ### Release (R152) -/

section
variable {s : State} {c : Nat} {h : HoldEnt} {rest : List HoldEnt} (hhold : (s.m.ctx c).hold = h :: rest)
  (hsafe : (s.m.ctx c).unsafeUpTo h.after = false)
include hhold hsafe

/-- A released copy is at the end of its queue, with the registers of its own task that it holds (R152, R259). -/
theorem commandRelease_copy {k : CopyCmd} (hcmd : h.cmd = .copy k) (hroom : (s.m.ctx c).copyq.length < 32) :
    ∃ t, exec (.commandRelease c) s = .next t ∧ (t.m.ctx c).hold = rest ∧ s.queued t c ((s.m.ctx c).copyq ++ [CopyEnt.mk k h.after h.mark false 0 0 []
      ((s.m.copyRegs c k (s.m.tit c k.tid)).filter fun r => r.1 == c) none false 0 []]) := by
  have hrelease : s.m.release c = (s.m.updCtx c fun x => { x with hold := rest }).releaseCopy c h k := by
    simp only [Mach.release, hhold, hsafe, hcmd, Nat.not_le.mpr hroom, Bool.false_eq_true, if_false]
  refine ⟨_, exec_commandRelease.trans (onMach_eq hrelease), ?_⟩
  have hpop : (s.m.updCtx c fun x => { x with hold := rest }).ctx c = { s.m.ctx c with hold := rest } := s.m.ctx_updCtx c _
  have hsame : s.m.SameTasks (s.m.updCtx c fun x => { x with hold := rest }) := by
    refine Mach.sameTasks_updCtx (fun hreset => ?_) rfl rfl rfl
    rw [hreset] at hhold
    cases hhold
  have htit : (s.m.updCtx c fun x => { x with hold := rest }).tit c k.tid = s.m.tit c k.tid :=
    congrArg (fun q => titOf (s.m.titRaw (pairOf c) q k.tid)) (hsame.qOf c)
  have hregs := hsame.copyRegs c k (s.m.tit c k.tid)
  generalize hn : (s.m.updCtx c fun x => { x with hold := rest }) = n at hpop htit hregs
  have hmem : n.mem = s.m.mem := by rw [← hn]; rfl
  simp only [Mach.releaseCopy, htit, hregs, Mach.score_eq]
  generalize (s.m.copyRegs c k (s.m.tit c k.tid)).filter (fun r => r.1 == c) = held
  obtain ⟨hq, hh⟩ := n.rescore_copyq (· + 1) held c
  refine ⟨?_, ?_, ?_, rfl⟩
  · rw [Mach.ctx_updCtx]
    exact hh.trans (by rw [hpop])
  · rw [Mach.ctx_updCtx]
    simp only [hq, hpop]
  · exact (n.rescore_mem _ held).trans hmem

/-- A released run waits at its slot (R438). -/
theorem commandRelease_run {n va : Nat} (hcmd : h.cmd = .cgrun n va) (hmark : ∀ e ∈ (s.m.ctx c).sb, h.mark ≤ e.id) :
    exec (.commandRelease c) s = .next { s with m := (s.m.updCtx c fun x => { x with hold := rest }).updSlot n fun z =>
      { z with wait := z.wait ++ [GRun.mk c (s.m.ctx c).task h.word h.after (h.mark + 1) va [] [] [] [] [] 0 0 none] } } := by
  have hmarked : ((s.m.ctx c).sb.any fun e => decide (e.id < h.mark)) = false :=
    List.any_eq_false.mpr fun e he => by simpa using hmark e he
  refine exec_commandRelease.trans (onMach_eq ?_)
  simp only [Mach.release, hhold, hsafe, hcmd, hmarked, Bool.not_false, Bool.not_true, Bool.false_eq_true, if_false]

end

/-! ### Snapshots (R246) -/

/-- A cached snapshot is used only where one may be, and only the choice itself is spent (R246). -/
theorem Mach.snapCached_spec (m : Mach) (c tid : Nat) (t : Tit) : ∃ f, (m.snapCached c tid t).1 = { m with free := f } ∧
    ((m.snapCached c tid t).2 = none ∨ ∃ sn, (m.snapCached c tid t).2 = some sn ∧ m.MaySnap c tid t sn) := by
  simp only [snapCached]
  cases hfind : m.snapFind c tid with
  | none => exact ⟨m.free, rfl, .inl rfl⟩
  | some sn =>
    by_cases hok : m.snapOk c t sn = true
    · simp only [hok, if_true]
      refine ⟨m.free + 1, rfl, ?_⟩
      by_cases hfree : Config.freeBool m.free = true
      · exact .inr ⟨sn, if_pos hfree, .inr ⟨hfind, hok⟩⟩
      · exact .inl (if_neg hfree)
    · simp only [hok]
      exact ⟨m.free, rfl, .inl rfl⟩

/-- From m to n no task, no command and no byte of memory has changed. -/
structure Mach.SameQueue (m n : Mach) (c : Nat) : Prop where
  tasks : m.SameTasks n
  ctx : n.ctx c = m.ctx c
  mem : n.mem = m.mem

theorem Mach.SameQueue.trans {m n o : Mach} {c : Nat} (h : m.SameQueue n c) (k : n.SameQueue o c) : m.SameQueue o c :=
  ⟨h.tasks.trans k.tasks, k.ctx.trans h.ctx, k.mem.trans h.mem⟩

theorem Mach.sameQueue_of_ctxs {m n : Mach} (c : Nat) (hparts : n.parts = m.parts) (hctxs : n.ctxs = m.ctxs) (hmem : n.mem = m.mem) :
    m.SameQueue n c := ⟨sameTasks_of_ctxs hparts hctxs, by rw [Mach.ctx, Mach.ctx, hctxs], hmem⟩

/-- A context that is updated to what it is. -/
theorem Mach.sameQueue_updCtx {m : Mach} {c : Nat} (hc : m.ctx c ≠ .reset) {f : Ctx → Ctx} (hf : f (m.ctx c) = m.ctx c) :
    m.SameQueue (m.updCtx c f) c :=
  ⟨sameTasks_updCtx hc (by rw [hf]) (by rw [hf]) (by rw [hf]), by rw [ctx_updCtx, hf], rfl⟩

/-- A quantiser that need not wait has a snapshot that it may use (R246). -/
theorem Mach.snapshot_ready {m : Mach} {c tid : Nat} (hc : m.ctx c ≠ .reset) (hreqs : (m.ctx c).snapReqs = []) (hlag : m.lag = false)
    (hrec : m.recReady (m.qOf c) tid = true) (w : Who) (t : Tit) :
    ∃ n sn, m.snapshot c w tid t = .ok (n, sn) ∧ m.MaySnap c tid t sn ∧ m.SameQueue n c := by
  have hfor : (m.ctx c).snapFor w = none := by simp [Ctx.snapFor, hreqs]
  have hdone : ∀ k : Mach, m.SameQueue k c → m.SameQueue (k.updCtx c fun x => if x.snapReqs.isEmpty then x else x.dropSnap w) c := fun k hk =>
    hk.trans (sameQueue_updCtx (by rwa [hk.ctx]) (by rw [hk.ctx, hreqs]; rfl))
  obtain ⟨f, hr1, hr2⟩ := m.snapCached_spec c tid t
  simp only [snapshot, hfor]
  obtain hnone | ⟨sn, hsome, hmay⟩ := hr2
  · have hgo : (m.lag || !m.recReady (m.qOf c) tid) = false := by rw [hlag, hrec]; rfl
    obtain ⟨_, _, _, _, _, hown⟩ := (tended_ownRead { m with free := f } (m.recAddr (m.qOf c) tid) 128).rest
    simp only [hnone, hgo, hr1]
    refine ⟨_, _, rfl, .inl rfl, hdone _ ?_⟩
    rw [snapStore, hown]
    exact sameQueue_of_ctxs c rfl rfl rfl
  · simp only [hsome, hr1]
    exact ⟨_, _, rfl, hmay, hdone _ (sameQueue_of_ctxs c rfl rfl rfl)⟩

/-- A quantiser that need not wait starts, unless the policy refuses its scale (R246, R249). -/
theorem Mach.quantStart_ready {m : Mach} {c tid : Nat} (hc : m.ctx c ≠ .reset) (hreqs : (m.ctx c).snapReqs = []) (hlag : m.lag = false)
    (hrec : m.recReady (m.qOf c) tid = true) (w : Who) (t : Tit) :
    ∃ n sn, m.MaySnap c tid t sn ∧ m.SameQueue n c ∧ (t.rescale ≠ 0 ∨ t.over sn = false → m.quantStart c w tid t = .ok (n, t.inUse sn)) := by
  obtain ⟨n, sn, hsnap, hmay, hsame⟩ := snapshot_ready hc hreqs hlag hrec w t
  refine ⟨n, sn, hmay, hsame, fun hpolicy => ?_⟩
  have hgo : ¬ (t.rescale = 0 ∧ t.over sn = true) := by
    rintro ⟨h0, h1⟩
    simp [h0, h1] at hpolicy
  simp only [quantStart, hsnap, quantDecide_eq, if_neg hgo, bind, Except.bind]
  rfl

/-! ### Start (R155) -/

/-- The machine in which the checks of a starting command are made: walks see no buffered store, and the tensor's entry has been read. -/
def Mach.opening (m : Mach) (c tid : Nat) : Mach := { (if tid = 0 then m.walks else m.walks.titFill c tid) with lag := false }

/-- What the command's checks see is what was there before its entry was read. -/
structure Mach.Opened (m n : Mach) (c tid : Nat) : Prop where
  queue : m.SameQueue n c
  lag : n.lag = false
  cycle : n.cycle = m.cycle
  chains : n.chains = m.chains
  sq : (n.pair (pairOf c)).sq = (m.pair (pairOf c)).sq
  snap : n.snapFind c tid = m.snapFind c tid
  free : ∀ ss, m.chainBusy ss = false → n.chainBusy ss = false

theorem Mach.opened (m : Mach) (c tid : Nat) : m.Opened (m.opening c tid) c tid := by
  have hwalks : ∀ ss, m.walks.chainBusy ss = m.chainBusy ss := chainBusy_congr (m := m) (n := m.walks) rfl rfl rfl
  unfold opening
  split
  · exact ⟨sameQueue_of_ctxs c rfl rfl rfl, rfl, rfl, rfl, rfl, rfl,
      fun ss h => (chainBusy_congr (m := m) (n := { m.walks with lag := false }) rfl rfl rfl ss).trans h⟩
  · obtain ⟨⟨_, _, _, _, _, _, hn⟩, hsq, hsnap, hfree⟩ := m.walks.titFill_spec c tid
    refine ⟨?_, rfl, ?_, ?_, hsq, hsnap, fun ss h =>
      (chainBusy_congr (m := m.walks.titFill c tid) (n := { m.walks.titFill c tid with lag := false }) rfl rfl rfl ss).trans (hfree ss ((hwalks ss).trans h))⟩
    · rw [hn]
      exact sameQueue_of_ctxs c rfl rfl rfl
    · rw [hn]
      rfl
    · rw [hn]
      rfl

section
variable {m n : Mach} {c tid : Nat} (h : m.Opened n c tid)
include h

theorem Mach.Opened.sqRoom (k : Nat) : n.sqRoom c k = m.sqRoom c k := by
  rw [Mach.sqRoom, Mach.sqRoom, sqSent, sqSent, h.sq, h.chains]

theorem Mach.Opened.recReady (hrec : m.recReady (m.qOf c) tid = true) : n.recReady (n.qOf c) tid = true := by
  rw [Mach.recReady, Bool.not_eq_true'] at hrec ⊢
  rw [h.queue.tasks.qOf, recAddr_congr h.queue.tasks.parts]
  exact h.free _ hrec

theorem Mach.Opened.maySnap {t : Tit} {sn : Snap} (hmay : n.MaySnap c tid t sn) : m.MaySnap c tid t sn := by
  have hnow : n.snapNow (n.qOf c) tid = m.snapNow (m.qOf c) tid := by
    simp only [snapNow, h.queue.tasks.qOf, record_congr h.queue.tasks.parts h.queue.mem, h.cycle]
  have hok : n.snapOk c t sn = m.snapOk c t sn := by simp only [snapOk, h.cycle, h.queue.ctx]
  rwa [MaySnap, hnow, h.snap, hok] at hmay

end

/-- The tensor's entry that a starting command of context c reads (R177). -/
def Mach.entryRead (m : Mach) (c tid : Nat) : Nat := if tid = 0 then 0 else m.titRaw (pairOf c) (m.qOf c) tid

/-- The head of a queue is replaced, and the step ends. -/
theorem State.queued_setHead {s : State} {k : Mach} {c : Nat} {u : CopyEnt} {rest : List CopyEnt} (hmem : k.mem = s.m.mem)
    (hq : (k.ctx c).copyq = u :: rest) (e : CopyEnt) : s.queued { s with m := { k.setHead c e with seen := none } } c (e :: rest) := by
  have hctx : ({ k.setHead c e with seen := none } : Mach).ctx c = { k.ctx c with copyq := e :: (k.ctx c).copyq.drop 1 } :=
    k.ctx_updCtx c fun x => { x with copyq := e :: x.copyq.drop 1 }
  refine ⟨?_, hmem, rfl⟩
  rw [hctx, hq]
  rfl

/-- The entry of a command once it has started with the decision q (R155). -/
def Mach.startedEnt (m : Mach) (c : Nat) (e : CopyEnt) (q : Option (Int × Nat × Bool × Bool)) : CopyEnt :=
  { e with started := true, held := m.copyRegs c e.cmd (titOf (m.entryRead c e.cmd.tid)), quant := q, tit := m.entryRead c e.cmd.tid,
           done := e.cmd.kind != 1 && e.cmd.sectors == 0 }

section
variable {s : State} {c : Nat} {e : CopyEnt} {rest : List CopyEnt} (hq : (s.m.ctx c).copyq = e :: rest) (hmay : s.m.copyMayStart c e = true)
  {q : Option (Int × Nat × Bool × Bool)}
include hq hmay

/-- A command whose checks pass has started (R155). -/
theorem copyCommandStart_ok {n : Mach} (hopen : (s.m.opening c e.cmd.tid).copyOpen c (true, e.mark) e.cmd (titOf (s.m.entryRead c e.cmd.tid)) = .ok (n, q))
    (hsame : s.m.SameQueue n c) : ∃ t, exec (.copyCommandStart c) s = .next t ∧ s.queued t c (s.m.startedEnt c e q :: rest) := by
  have hq' : (s.m.walks.ctx c).copyq = e :: rest := hq
  have hmay' : s.m.walks.copyMayStart c e = true := hmay
  have hstart : s.m.walks.copyStart c =
      ((n.unscore e.held).score (s.m.copyRegs c e.cmd (titOf (s.m.entryRead c e.cmd.tid)))).setHead c (s.m.startedEnt c e q) := by
    have hraw : (if e.cmd.tid = 0 then 0 else s.m.walks.titRaw (pairOf c) (s.m.walks.qOf c) e.cmd.tid) = s.m.entryRead c e.cmd.tid := rfl
    have hregs := hsame.tasks.copyRegs c e.cmd (titOf (s.m.entryRead c e.cmd.tid))
    simp only [Mach.copyStart, hq', hmay', hraw, Bool.not_true, Bool.false_eq_true, if_false]
    simp only [Mach.opening] at hopen
    simp only [hopen, hregs]
    rfl
  refine ⟨_, exec_copyCommandStart.trans (onMach_eq rfl), ?_⟩
  have hbounded : s.m.bounded 0 (fun m => m.copyStart c) = { s.m.walks.copyStart c with seen := none } := rfl
  rw [hbounded, hstart, Mach.score_eq, Mach.unscore_eq]
  refine State.queued_setHead (u := e) ?_ ?_ _
  · exact (Mach.rescore_mem _ _ _).trans ((n.rescore_mem _ _).trans hsame.mem)
  · rw [(Mach.rescore_copyq _ _ _ c).1, (n.rescore_copyq _ _ c).1, hsame.ctx, hq]

/-- A plain command, or a gang multicast, starts (R155, R178). -/
theorem copyCommandStart_plain (htid : e.cmd.tid = 0 ∨ (titOf (s.m.entryRead c e.cmd.tid)).v = true) (hkind : e.cmd.kind ≠ 1) :
    ∃ t, exec (.copyCommandStart c) s = .next t ∧ s.queued t c (s.m.startedEnt c e none :: rest) := by
  have hcheck : tidCheck (titOf (s.m.entryRead c e.cmd.tid)) e.cmd.tid = .ok () := by
    obtain h | h := htid <;> simp [tidCheck, h]
  refine copyCommandStart_ok hq hmay (n := s.m.opening c e.cmd.tid) ?_ (s.m.opened c e.cmd.tid).queue
  simp only [Mach.copyOpen, hcheck, Mach.copyQuant, orRaise, bind, Except.bind, bne_iff_ne, ne_eq, hkind, not_false_eq_true, if_true]

/-- A quantising command starts with the scale that its policy gives for the snapshot (R246, R249, R423). -/
theorem copyCommandStart_quant {t : Tit} (ht : titOf (s.m.entryRead c e.cmd.tid) = t) (hkind : e.cmd.kind = 1)
    (hv : t.v = true) (hstats : t.stats = true) (hty : quantTy t.ty = true) (hfin : t.tyv.noFinite = false) (hroom : s.m.sqRoom c 1 = true)
    (hreqs : (s.m.ctx c).snapReqs = []) (hrec : s.m.recReady (s.m.qOf c) e.cmd.tid = true) :
    ∃ sn, s.m.MaySnap c e.cmd.tid t sn ∧ (t.rescale ≠ 0 ∨ t.over sn = false →
      ∃ u, exec (.copyCommandStart c) s = .next u ∧
        s.queued u c (s.m.startedEnt c e (some ((t.inUse sn).x, (t.inUse sn).gen, (t.inUse sn).clamp, (t.inUse sn).ovf)) :: rest)) := by
  have hopened := s.m.opened c e.cmd.tid
  have hc : (s.m.opening c e.cmd.tid).ctx c ≠ .reset := fun hreset => by
    rw [hopened.queue.ctx] at hreset
    rw [hreset] at hq
    cases hq
  obtain ⟨n, sn, hsnap, hsame, hstart⟩ := Mach.quantStart_ready hc (by rw [hopened.queue.ctx, hreqs]) hopened.lag (hopened.recReady hrec) (true, e.mark) t
  refine ⟨sn, hopened.maySnap hsnap, fun hpolicy => copyCommandStart_ok hq hmay (n := n) ?_ (hopened.queue.trans hsame)⟩
  have hcheck : tidCheck t e.cmd.tid = .ok () := by simp [tidCheck, hv]
  have hroom' := (hopened.sqRoom 1).trans hroom
  simp only [ht, Mach.copyOpen, hcheck, Mach.copyQuant, orRaise, hkind, hv, hstats, hty, hfin, hroom', hstart hpolicy, bind, Except.bind,
    bne_self_eq_false, Bool.not_true, Bool.or_self, Bool.false_eq_true, if_false]
  rfl

end

end Sys2Proof.Machine
end

section
/-!
PROOFS. The copies that a command performs, and its completion (R83, R97, R155, R201, R422 to R424).
-/

namespace Sys2Proof.Machine

/-! ### What one copy reads and writes -/

/-- A monadic fold whose steps all succeed is a fold. -/
theorem foldlM_ok {α β ε : Type} {f : β → α → Except ε β} (g : β → α → β) {l : List α}
    (h : ∀ b, ∀ a ∈ l, f b a = .ok (g b a)) (b : β) :
    l.foldlM f b = .ok (l.foldl g b) := by
  induction l generalizing b with
  | nil => rfl
  | cons a l ih =>
    rw [List.foldlM_cons, h b a List.mem_cons_self]
    exact ih (fun b a ha => h b a (List.mem_cons_of_mem _ ha)) _

theorem Mach.kept_touchRange (c fuel : Nat) (m : Mach) (va n : Nat) : m.Kept (m.touchRange c fuel va n) := by
  induction fuel generalizing m va n with
  | zero => exact .refl m
  | succ fuel ih =>
    simp only [touchRange]
    split
    · exact .refl m
    · exact (m.kept_touch c va).trans (ih _ _ _)

theorem Mach.kept_touchN (m : Mach) (c va n : Nat) : m.Kept (m.touchN c va n) := kept_touchRange _ _ _ _ _

theorem Mach.kept_accessBeats (m : Mach) (c : Nat) (ss : List (Loc × Nat)) : m.Kept (m.accessBeats c ss) :=
  (kept_beats _ _ _ _).trans (kept_beats _ _ _ _)

theorem Mach.kept_readCost (m : Mach) (c cls : Nat) (ss : List (Loc × Nat)) : m.Kept (m.readCost c cls ss) :=
  ((m.corrected_eccRead ss).tended.kept.trans (kept_accessBeats _ _ _)).trans (kept_fetchFlits _ _ _ _)

section
variable {m n : Mach} (h : m.Kept n)
include h

theorem Mach.Kept.parts : n.parts = m.parts := by obtain ⟨_, _, _, _, _, _, _, _, rfl⟩ := h.rest; rfl

theorem Mach.Kept.sameStore : m.SameStore n := by
  have hctxs := h.ctxs
  obtain ⟨_, _, _, _, _, _, _, _, rfl⟩ := h.rest
  exact ⟨rfl, rfl, rfl, rfl, fun _ => rfl⟩

theorem Mach.Kept.local_ {ss : List (Loc × Nat)} (hl : m.Local ss) : n.Local ss := ⟨hl.1, h.free ss hl.2⟩

end

theorem Mach.foldl_read (m : Mach) (ss : List (Loc × Nat)) (acc : List Byte) (k : Nat) :
    (ss.zipIdx k).foldl (fun (a : Mach × List Byte) s => (a.1, a.2 ++ a.1.read s.1.1 s.1.2)) (m, acc) = (m, acc ++ m.readSegs ss) := by
  induction ss generalizing acc k with
  | nil => simp [readSegs]
  | cons s ss ih =>
    rw [List.zipIdx_cons, List.foldl_cons, ih]
    simp [readSegs, List.append_assoc]

/-- What a copy reads from this chip, where nothing is poisoned (R422). -/
theorem Mach.copyRead_ok {m : Mach} {c : Nat} {e : CopyEnt} {va n : Nat} {ss : List (Loc × Nat)} (hss : m.resolve c kRead va n .all true = .ok ss)
    (hlocal : m.Local ss) (hclean : m.poisonSegs 0 ss = none) :
    m.copyRead c e va n = .ok ((m.touchN c va n).readCost c 1 ss, m.readSegs ss) := by
  simp only [copyRead, hss, orRaise, hlocal.2, waitFor, hclean, bind, Except.bind, Bool.not_false, if_true]
  rw [foldlM_ok (fun (a : Mach × List Byte) (s : (Loc × Nat) × Nat) => (a.1, a.2 ++ a.1.read s.1.1 s.1.2)) fun a s hs => by
    simp only [hlocal.1 s.1 (List.fst_mem_of_mem_zipIdx hs)]
    rfl]
  rw [foldl_read]
  rfl

/-- The machine after a command has written bytes to segments (R422). -/
def Mach.copyStored (m : Mach) (c : Nat) (e : CopyEnt) (ds : List (Loc × Nat)) (bs : List Byte) : Mach :=
  (segBytes ds bs).foldl (fun m p => m.writeFrom (dieOf c) 1 [p] (some (c, e.age, e.mark + 1))) m

theorem Mach.foldl_fst {α : Type} (f : Mach → α → Mach) (g : α → Nat) (l : List α) (m : Mach) (n : Nat) :
    (l.foldl (fun (a : Mach × Nat) s => (f a.1 s, a.2 + g s)) (m, n)).1 = l.foldl f m := by
  induction l generalizing m n with
  | nil => rfl
  | cons s l ih => exact ih _ _

theorem segBytes_local {m : Mach} {ds : List (Loc × Nat)} (h : m.Local ds) (bs : List Byte) : ∀ p ∈ segBytes ds bs, apertureOf p.1 = none := by
  intro p hp
  obtain ⟨n, hn, -⟩ := segBytes_within p hp
  exact h.1 _ hn

theorem Mach.storeSegs_local {m : Mach} {ds : List (Loc × Nat)} (h : m.Local ds) (c : Nat) (e : CopyEnt) (word : BitVec 32) (va tid : Nat)
    (bs : List Byte) (st : WStat) :
    m.storeSegs c e.age (e.mark + 1) word va tid (segBytes ds bs) 1 st = .ok (m.copyStored c e ds bs) := by
  rw [storeSegs, foldlM_ok (fun a s => (a.1.writeFrom (dieOf c) 1 [s] (some (c, e.age, e.mark + 1)), a.2 + s.2.length)) fun a p hp => by
    simp only [segBytes_local h bs p hp]]
  exact congrArg Except.ok (foldl_fst (fun m p => m.writeFrom (dieOf c) 1 [p] (some (c, e.age, e.mark + 1))) (fun p => p.2.length) _ m 0)

theorem Mach.segsStalled_local {m : Mach} {ds : List (Loc × Nat)} (h : m.Local ds) : m.segsStalled ds = false :=
  List.any_eq_false.mpr fun s hs => by simp [h.1 s hs]

/-- What a copy writes on this chip (R422). -/
theorem Mach.copyWrite_ok {m : Mach} {c : Nat} {e : CopyEnt} {va : Nat} {bs : List Byte} {ds : List (Loc × Nat)}
    (hds : m.resolve c kWrite va bs.length .all true = .ok ds) (hlocal : m.Local ds) (st : WStat) :
    m.copyWrite c e va bs st = .ok (((m.copyStored c e ds bs).touchN c va bs.length).accessBeats c ds, ds) := by
  have hstalled := segsStalled_local hlocal
  simp only [copyWrite, hds, orRaise, hlocal.2, hstalled, storeSegs_local hlocal, waitFor, bind, Except.bind, pure, Except.pure, Bool.not_false,
    Bool.and_self, if_true]

theorem Mach.SameStore.copyStored {m n : Mach} (h : m.SameStore n) (c : Nat) (e : CopyEnt) (ds : List (Loc × Nat)) (bs : List Byte) :
    (m.copyStored c e ds bs).SameStore (n.copyStored c e ds bs) := .foldl (fun p h => h.writeFrom _ _ _ _ [p] _) _ h

theorem Mach.wroteTo_copyStored (m : Mach) (c : Nat) (e : CopyEnt) (ds : List (Loc × Nat)) (bs : List Byte) : m.WroteTo (m.copyStored c e ds bs) :=
  .foldl (fun m p => m.wroteTo_writeFrom _ _ [p] _) _ m

theorem Mach.Spares.writeFrom {m n : Mach} {q : Nat} (h : m.Spares q n) (d cls : Nat) (w : Place) {p : Loc × List Byte}
    (hq : ¬ m.covers [(p.1, p.2.length)] q) : m.Spares q (n.writeFrom d cls [p] w) := by
  have hc := n.wrote_cross d cls [p]
  refine Spares.write (n := n.cross d cls [p]) ⟨h.wrote.trans hc.1.wroteTo, hc.2 ▸ h.wf, by rw [hc.2, h.kept], ?_⟩ w hq
  rw [(hc.1.sameStore hc.2).tbs]
  exact h.apart

/-- A copy keeps what lies outside its destination (R200). -/
theorem Mach.keepsBut_copyStored {m t : Mach} (hwf : m.mem.wf = true) (c : Nat) (e : CopyEnt) (ds : List (Loc × Nat)) (bs : List Byte)
    (ht : t.mem = (m.copyStored c e ds bs).mem) : m.keepsBut t ds := by
  intro q hq hnamed
  rw [ht]
  refine (List.foldlRecOn (motive := fun n => m.Spares q n) (segBytes ds bs) _ ⟨.refl m, hwf, rfl, hnamed⟩ fun n hn p hp =>
    hn.writeFrom _ _ _ fun hcov => hq ?_).kept
  obtain ⟨k, hk, hlen⟩ := segBytes_within p hp
  exact covers_of_mem hk (covers_mono hlen hcov)

/-! ### A step of the engine -/

theorem Mach.Kept.ctx {m n : Mach} (h : m.Kept n) (d : Nat) : n.ctx d = m.ctx d := by rw [Mach.ctx, Mach.ctx, h.ctxs]

theorem Mach.dropReqs_mem (m : Mach) (c : Nat) (pc : Word) : (m.dropReqs c pc).mem = m.mem := by
  obtain ⟨_, h⟩ := m.dropReqs_eq c pc
  rw [h]

section
variable {s : State} {c : Nat} {e : CopyEnt} {rest : List CopyEnt} (hq : (s.m.ctx c).copyq = e :: rest) (hstop : (s.m.ctx c).copyStop = false)
  (hstarted : e.started = true) (hdone : e.done = false) (hports : s.m.portsPaid c = true) (hroom : s.m.sqRoom c 5 = true)
include hq hstop hstarted hdone hports hroom

/-- A copy that succeeds leaves the command as it says at the head of the queue (R155, R422). -/
theorem copyPerformed_ok {n : Mach} {e' : CopyEnt} (hnext : s.m.walks.copyNext c e = .ok (n, e')) (hqueue : (n.ctx c).copyq = e :: rest) :
    ∃ t, exec (.copyPerformed c) s = .next t ∧ (t.m.ctx c).copyq = e' :: rest ∧ t.m.mem = n.mem ∧ t.plat = s.plat ∧
      ∀ d, (t.m.ctx d).vrf = (n.ctx d).vrf := by
  have hq' : (s.m.walks.ctx c).copyq = e :: rest := hq
  have hstop' : (s.m.walks.ctx c).copyStop = false := hstop
  have hports' : s.m.walks.portsPaid c = true := hports
  have hroom' : s.m.walks.sqRoom c 5 = true := hroom
  have hstep : s.m.walks.copyStep c = (n.dropReqs c enginePc).setHead c e' := by
    simp only [Mach.copyStep, hq', hstarted, hdone, hstop', hports', hroom', hnext, Bool.not_true, Bool.or_self, Bool.false_eq_true, if_false]
  have hbounded : s.m.bounded 0 (fun m => m.copyStep c) = { s.m.walks.copyStep c with seen := none } := rfl
  refine ⟨_, exec_copyPerformed.trans (onMach_eq hbounded), ?_⟩
  rw [hstep]
  have hctx : ∀ d, ({ (n.dropReqs c enginePc).setHead c e' with seen := none } : Mach).ctx d =
      ((n.dropReqs c enginePc).updCtx c fun x => { x with copyq := e' :: x.copyq.drop 1 }).ctx d := fun _ => rfl
  refine ⟨?_, n.dropReqs_mem c enginePc, rfl, fun d => ?_⟩
  · rw [hctx, Mach.ctx_updCtx, Mach.ctx_dropReqs, hqueue]
    rfl
  · by_cases hd : d = c
    · rw [hctx, hd, Mach.ctx_updCtx, Mach.ctx_dropReqs]
    · rw [hctx, Mach.ctx_updCtx_ne _ c d _ hd, Mach.ctx_dropReqs]

end

/-! ### The copies of plain and of quantising commands (R422, R423) -/

theorem Mach.sameStore_walks (m : Mach) : m.SameStore m.walks := ⟨rfl, rfl, rfl, rfl, fun _ => rfl⟩

theorem Mach.local_walks {m : Mach} {ss : List (Loc × Nat)} (h : m.Local ss) : m.walks.Local ss :=
  ⟨h.1, (chainBusy_congr (m := m) (n := m.walks) rfl rfl rfl ss).trans h.2⟩

theorem Mach.poisonSegs_walks (m : Mach) (ss : List (Loc × Nat)) (o : Nat) : m.walks.poisonSegs o ss = m.poisonSegs o ss := by
  induction ss generalizing o with
  | nil => rfl
  | cons s ss ih =>
    have hat : m.walks.poisonAt s.1 s.2 = m.poisonAt s.1 s.2 := rfl
    simp only [poisonSegs, hat, ih]

theorem Mach.readSegs_walks (m : Mach) (ss : List (Loc × Nat)) : m.walks.readSegs ss = m.readSegs ss := by
  refine congrArg (fun f => ss.flatMap f) (funext fun s => ?_)
  obtain ⟨l, n⟩ := s
  cases l with
  | pa a => exact readPa_congr (m := m) (n := m.walks) rfl rfl a n
  | vr c off => rfl
  | acc c off => rfl

/-- An engine's read of this chip: what it costs is nothing that a write or a translation sees. -/
theorem Mach.copyRead_walks {m : Mach} {c : Nat} (e : CopyEnt) {va n : Nat} {ss : List (Loc × Nat)}
    (hss : m.walks.resolve c kRead va n .all true = .ok ss) (hlocal : m.Local ss) (hclean : m.poisonSegs 0 ss = none) :
    ∃ k, m.walks.copyRead c e va n = .ok (k, m.readSegs ss) ∧ m.walks.Kept k ∧ (m.walks.touchN c va n).Alike k := by
  have hread := copyRead_ok (e := e) hss (local_walks hlocal) ((m.poisonSegs_walks ss 0).trans hclean)
  rw [readSegs_walks] at hread
  exact ⟨_, hread, (kept_touchN _ _ _ _).trans (kept_readCost _ _ _ _), alike_readCost _ _ _ _⟩

/-- A write that is done: its translations and beats change nothing that it wrote, and no queue. -/
theorem Mach.copyStored_done {m k : Mach} (h : m.SameStore k) (c : Nat) (e : CopyEnt) (ds : List (Loc × Nat)) (bs : List Byte) (va n src x : Nat) :
    ((((k.copyStored c e ds bs).touchN c va n).accessBeats c ds).count c src x).mem = (m.copyStored c e ds bs).mem ∧
      (((((k.copyStored c e ds bs).touchN c va n).accessBeats c ds).count c src x).ctx c).copyq = (k.ctx c).copyq := by
  have hkept := (((k.copyStored c e ds bs).kept_touchN c va n).trans (kept_accessBeats _ c ds)).trans (kept_count _ c src x)
  exact ⟨hkept.mem.trans (h.copyStored c e ds bs).mem, (congrArg Ctx.copyq (hkept.ctx c)).trans ((k.wroteTo_copyStored c e ds bs).ctx c).copyq⟩

section
variable {m : Mach} {c : Nat} {e : CopyEnt}

/-- A plain command's copy, up to the next 256-byte boundary of its source (R422). -/
theorem Mach.copyNext_piece {sa da n : Nat} {ss ds : List (Loc × Nat)} (hkind : e.cmd.kind = 0) (hsa : ((e.cmd.at e.iter).1 + e.pos) % 2 ^ 64 = sa)
    (hda : ((e.cmd.at e.iter).2 + e.pos) % 2 ^ 64 = da) (hn : min (e.cmd.len - e.pos) (256 - sa % 256) = n)
    (hss : m.walks.resolve c kRead sa n .all true = .ok ss) (hlss : m.Local ss) (hclean : m.poisonSegs 0 ss = none)
    (hlen : (m.readSegs ss).length = n) (hds : (m.walks.touchN c sa n).resolve c kWrite da n .all true = .ok ds) (hlds : m.Local ds) :
    ∃ k e', m.walks.copyNext c e = .ok (k, e') ∧ (k.ctx c).copyq = (m.ctx c).copyq ∧ e'.cmd = e.cmd ∧
      (e.pos + n < e.cmd.len → e'.iter = e.iter ∧ e'.pos = e.pos + n ∧ e'.done = (e.iter == e.cmd.iters)) ∧
      (e.cmd.len ≤ e.pos + n → e'.iter = e.iter + 1 ∧ e'.pos = 0 ∧ e'.done = (e.iter + 1 == e.cmd.iters)) ∧
      k.mem = (m.copyStored c e ds (m.readSegs ss)).mem := by
  obtain ⟨r, hread, hkept, halike⟩ := copyRead_walks e hss hlss hclean
  have hds' : r.resolve c kWrite da (m.readSegs ss).length .all true = .ok ds := by rw [hlen, halike.resolve, hds]
  have hwrite := copyWrite_ok (e := e) hds' (hkept.local_ (local_walks hlds))
  have hstore := m.sameStore_walks.trans hkept.sameStore
  simp only [copyNext, hkind, copyPiece, hsa, hda, hn, hread, hwrite, bind, Except.bind, pure, Except.pure]
  obtain ⟨hmem, hqueue⟩ := copyStored_done hstore c e ds (m.readSegs ss) da (m.readSegs ss).length evCopySector (sectorsOf e.pos n)
  refine ⟨_, _, rfl, hqueue.trans (congrArg Ctx.copyq (hkept.ctx c)), rfl, fun hlt => ?_, fun hle => ?_, hmem⟩
  · simp only [Nat.not_le.mpr hlt, if_false, and_self]
  · simp only [hle, if_true, and_self]

/-- A quantising command reads its whole source and encodes it (R423). -/
theorem Mach.copyNext_encode {ss : List (Loc × Nat)} {q : Int × Nat × Bool × Bool} (hkind : e.cmd.kind = 1) (htail : e.tail = [])
    (hquant : e.quant = some q) (hss : m.walks.resolve c kRead e.cmd.src e.cmd.len .all true = .ok ss) (hlss : m.Local ss)
    (hclean : m.poisonSegs 0 ss = none) :
    let t := titOf e.tit
    let row := (chunks (tySize e.cmd.xf) (e.cmd.len / tySize e.cmd.xf) (m.readSegs ss)).map fun v => some ((tyOf e.cmd.xf 0).val v)
    let codes := roundRow t.tyv 0 0 0 ((quantRow t.tyv t.blk ⟨q.1, q.2.1, q.2.2.1, q.2.2.2, none⟩ row).map fun v => v.map Prod.fst)
    let exps := (rowBlocks t.tyv t.blk q.1 row ++ [q.1]).map fun b => BitVec.ofNat 8 (wrapN 8 b)
    let out := codes.flatMap (fun v => leBytes (tySize t.ty) (v.getD 0)) ++ exps
    ∃ k z, m.walks.copyNext c e = .ok (k, { e with quant := some z, tail := out }) ∧ (k.ctx c).copyq = (m.ctx c).copyq ∧ k.mem = m.mem ∧
      z.1 = q.1 := by
  intro t row codes exps out
  obtain ⟨r, hread, hkept, -⟩ := copyRead_walks e hss hlss hclean
  have hout : ((codes.map fun v => v.getD 0).flatMap (leBytes (tySize t.ty)) ++ (rowBlocks t.tyv t.blk q.1 row).map fun b => BitVec.ofNat 8 (wrapN 8 b)) ++
      [BitVec.ofNat 8 (wrapN 8 q.1)] = out := by
    simp only [out, exps, List.map_append, List.map_cons, List.map_nil, List.flatMap_map, List.append_assoc]
  simp only [copyNext, hkind, copyQ, htail, List.isEmpty_nil, if_true, copyEncode, hquant, Option.getD_some, hread, bind, Except.bind, pure, Except.pure]
  have htail : ∀ z b, b = out → (Except.ok (r, { e with quant := some z, tail := b }) : Except Stop (Mach × CopyEnt)) =
      .ok (r, { e with quant := some z, tail := out }) := fun z b hb => by rw [hb]
  exact ⟨r, _, htail _ _ hout, congrArg Ctx.copyq (hkept.ctx c), hkept.mem, rfl⟩

/-- A quantising command writes what it has encoded, up to the next 4 KiB boundary (R423; log 29). -/
theorem Mach.copyNext_encoded {da n : Nat} {ds : List (Loc × Nat)} (hkind : e.cmd.kind = 1) (htail : e.tail ≠ [])
    (hda : (e.cmd.dst + e.pos) % 2 ^ 64 = da) (hn : min (e.tail.length - e.pos) (4096 - da % 4096) = n)
    (hds : m.walks.resolve c kWrite da n .all true = .ok ds) (hlds : m.Local ds) :
    ∃ k e', m.walks.copyNext c e = .ok (k, e') ∧ (k.ctx c).copyq = (m.ctx c).copyq ∧ e'.pos = e.pos + n ∧
      e'.done = (e.pos + n == e.tail.length) ∧ e'.tail = e.tail ∧ e'.cmd = e.cmd ∧ k.mem = (m.copyStored c e ds ((e.tail.drop e.pos).take n)).mem := by
  have hlen : ((e.tail.drop e.pos).take n).length = n := by
    rw [List.length_take, List.length_drop]
    omega
  have hds' : m.walks.resolve c kWrite da ((e.tail.drop e.pos).take n).length .all true = .ok ds := by rw [hlen, hds]
  have hwrite := copyWrite_ok (e := e) hds' (local_walks hlds)
  have hne : e.tail.isEmpty = false := by simpa using htail
  simp only [copyNext, hkind, copyQ, hne, hda, hn, hwrite, bind, Except.bind, pure, Except.pure, Bool.false_eq_true, if_false]
  obtain ⟨hmem, hqueue⟩ := copyStored_done m.sameStore_walks c e ds ((e.tail.drop e.pos).take n) da ((e.tail.drop e.pos).take n).length evCopySector
    (sectorsOf (e.cmd.srcDone (tySize (titOf e.tit).ty) e.pos)
      (e.cmd.srcDone (tySize (titOf e.tit).ty) (e.pos + n) - e.cmd.srcDone (tySize (titOf e.tit).ty) e.pos))
  exact ⟨_, _, rfl, hqueue, rfl, rfl, rfl, rfl, hmem⟩

end

/-! ### Gang multicasts (R83, R424) -/

/-- Whether a member of a gang, by its number and context, cannot take n bytes at offset o of register v (R83). -/
def Mach.gangShort (m : Mach) (v o n gvl : Nat) (g : Nat × Option Nat) : Bool :=
  match g.2 with
  | some d => (m.ctx d).tooShort v o n gvl
  | none => false

/-- The write of a gang multicast into one member's register (R424). -/
def Mach.gangPut (m : Mach) (c v o n gvl : Nat) (bs : List Byte) (g : Nat × Option Nat) : Mach :=
  match g.2 with
  | some d => if (m.ctx d).tooShort v o n gvl then m else (m.updCtx d fun z => z.vwrite v o bs).carry (dieOf c) (dieOf d) 1 n
  | none => m

theorem Mach.carry_ctxs (m : Mach) (d h cls n : Nat) : (m.carry d h cls n).ctxs = m.ctxs := (m.wrote_carry d h cls n).1.ctxs

/-- What a member that can take the bytes gets, and nobody else (R424). -/
theorem Mach.gangPut_spec {m : Mach} {v o n gvl d i : Nat} (h : (m.ctx d).tooShort v o n gvl = false) (c : Nat) (bs : List Byte) :
    (m.gangPut c v o n gvl bs (i, some d)).mem = m.mem ∧ (m.gangPut c v o n gvl bs (i, some d)).ctx d = (m.ctx d).vwrite v o bs ∧
      ∀ b, b ≠ d → (m.gangPut c v o n gvl bs (i, some d)).ctx b = m.ctx b := by
  have hctx : ∀ b, (m.gangPut c v o n gvl bs (i, some d)).ctx b = (m.updCtx d fun z => z.vwrite v o bs).ctx b := fun b => by
    simp only [gangPut, h, Bool.false_eq_true, if_false]
    rw [ctx, carry_ctxs]
    rfl
  refine ⟨?_, (hctx d).trans (m.ctx_updCtx d _), fun b hb => (hctx b).trans (m.ctx_updCtx_ne d b _ hb)⟩
  simp only [gangPut, h, Bool.false_eq_true, if_false, carry_mem]
  rfl

/-- Every member gets the bytes once (R424). -/
theorem Mach.gangPut_all {v o n gvl : Nat} {gang : List (Nat × Option Nat)} (c : Nat) (bs : List Byte) : ∀ {m : Mach},
    (∀ g ∈ gang, ∃ d, g.2 = some d ∧ (m.ctx d).tooShort v o n gvl = false) → (gang.filterMap Prod.snd).Nodup →
    let t := gang.foldl (fun m g => m.gangPut c v o n gvl bs g) m
    t.mem = m.mem ∧ (∀ d ∈ gang.filterMap Prod.snd, t.ctx d = (m.ctx d).vwrite v o bs) ∧
      ∀ d, d ∉ gang.filterMap Prod.snd → t.ctx d = m.ctx d := by
  induction gang with
  | nil => exact fun {_} _ _ => ⟨rfl, fun _ h => (List.not_mem_nil h).elim, fun _ _ => rfl⟩
  | cons g gang ih =>
    intro m hgang hnodup
    obtain ⟨i, x⟩ := g
    obtain ⟨d, rfl, hd⟩ := hgang _ List.mem_cons_self
    have hcons : ((i, some d) :: gang).filterMap Prod.snd = d :: gang.filterMap Prod.snd := rfl
    rw [hcons, List.nodup_cons] at hnodup
    obtain ⟨hmem, hctx, hother⟩ := gangPut_spec (i := i) hd c bs
    have hne : ∀ b ∈ gang.filterMap Prod.snd, b ≠ d := fun b hb hbd => hnodup.1 (hbd ▸ hb)
    obtain ⟨hmem', hctx', hother'⟩ := ih (m := m.gangPut c v o n gvl bs (i, some d)) (fun g hg => by
      obtain ⟨b, hb, hshort⟩ := hgang g (List.mem_cons_of_mem _ hg)
      exact ⟨b, hb, by rw [hother b (hne b (List.mem_filterMap.mpr ⟨g, hg, hb⟩)), hshort]⟩) hnodup.2
    rw [hcons, List.foldl_cons]
    refine ⟨hmem'.trans hmem, fun b hb => ?_, fun b hb => ?_⟩
    · obtain rfl | hb := List.mem_cons.mp hb
      · rw [hother' b hnodup.1, hctx]
      · rw [hctx' b hb, hother b (hne b hb)]
    · rw [List.mem_cons, not_or] at hb
      rw [hother' b hb.2, hother b hb.1]

/-- A gang multicast whose members can all take the bytes (R424). -/
theorem Mach.copyG_ok {m n : Mach} {c : Nat} {e : CopyEnt} {bs : List Byte} {off gvl : Nat}
    (hread : m.copyRead c e e.cmd.src e.cmd.len = .ok (n, bs)) (hoff : e.cmd.dst % 2 ^ 24 = off) (hbits : bitsOf e.cmd.dst 36 24 = 0)
    (hfits : off < (n.ctx c).sec * 65536)
    (hgvl : (((n.cast (n.ctx c).task.q (n.ctx c).task.cast).bind fun z => z.groups[e.cmd.xf]?).map Group.gvl).getD 0 = gvl)
    (hgang : ∀ g ∈ n.gangCtxs c e.cmd, ∃ d, g.2 = some d ∧
      (n.ctx d).tooShort (off / (n.ctx c).regBytes) (off % (n.ctx c).regBytes) e.cmd.len gvl = false) :
    m.copyG c e = .ok (((n.gangCtxs c e.cmd).foldl (fun k g => k.gangPut c (off / (n.ctx c).regBytes) (off % (n.ctx c).regBytes) e.cmd.len gvl bs g) n).count
      c evCopySector e.cmd.sectors, { e with iter := 1, done := true }) := by
  have hshort : (n.gangCtxs c e.cmd).find? (n.gangShort (off / (n.ctx c).regBytes) (off % (n.ctx c).regBytes) e.cmd.len gvl) = none :=
    List.find?_eq_none.mpr fun g hg => by
      obtain ⟨d, hd, hfit⟩ := hgang g hg
      simp [gangShort, hd, hfit]
  have hgone : (n.gangCtxs c e.cmd).find? (fun g => g.2.isNone) = none := List.find?_eq_none.mpr fun g hg => by
    obtain ⟨d, hd, -⟩ := hgang g hg
    simp [hd]
  simp only [copyG, hread, hoff, hbits, hgvl, Nat.not_le.mpr hfits, bind, Except.bind, bne_self_eq_false, Bool.false_eq_true, if_false]
  split
  next g _ hsome => exact nomatch hsome.symm.trans hshort
  next g _ hsome => exact nomatch hsome.symm.trans hgone
  next => rfl

/-- A gang multicast writes the register of every member, and nothing else (R83, R424). -/
theorem Mach.copyNext_gang {m : Mach} {c : Nat} {e : CopyEnt} {ss : List (Loc × Nat)} {off gvl : Nat} (hkind : e.cmd.kind = 2)
    (hss : m.walks.resolve c kRead e.cmd.src e.cmd.len .all true = .ok ss) (hlss : m.Local ss) (hclean : m.poisonSegs 0 ss = none)
    (hoff : e.cmd.dst % 2 ^ 24 = off) (hbits : bitsOf e.cmd.dst 36 24 = 0) (hfits : off < (m.ctx c).sec * 65536)
    (hgvl : (((m.cast (m.ctx c).task.q (m.ctx c).task.cast).bind fun z => z.groups[e.cmd.xf]?).map Group.gvl).getD 0 = gvl)
    (hgang : ∀ g ∈ m.gangCtxs c e.cmd, ∃ d, g.2 = some d ∧ off % (m.ctx c).regBytes + e.cmd.len ≤ (m.ctx d).regBytes ∧
      off / (m.ctx c).regBytes < (m.ctx d).nregs ∧ gvl ≤ (m.ctx d).maxvl) (hnodup : ((m.gangCtxs c e.cmd).filterMap Prod.snd).Nodup) :
    ∃ k, m.walks.copyNext c e = .ok (k, { e with iter := 1, done := true }) ∧ (k.ctx c).copyq = (m.ctx c).copyq ∧ k.mem = m.mem ∧
      ∀ d ∈ (m.gangCtxs c e.cmd).filterMap Prod.snd,
        (k.ctx d).vrf = ((m.ctx d).vwrite (off / (m.ctx c).regBytes) (off % (m.ctx c).regBytes) (m.readSegs ss)).vrf := by
  obtain ⟨n, hread, hkept, -⟩ := copyRead_walks e hss hlss hclean
  have hctx : ∀ d, n.ctx d = m.ctx d := hkept.ctx
  have hsame : m.SameTasks n := sameTasks_of_ctxs hkept.parts hkept.ctxs
  have hmembers : ∀ g ∈ n.gangCtxs c e.cmd, ∃ d, g.2 = some d ∧
      (n.ctx d).tooShort (off / (n.ctx c).regBytes) (off % (n.ctx c).regBytes) e.cmd.len gvl = false := by
    rw [hsame.gangCtxs]
    intro g hg
    obtain ⟨d, hd, hbytes, hregs, hmax⟩ := hgang g hg
    refine ⟨d, hd, ?_⟩
    simp only [hctx, Ctx.tooShort, Nat.not_lt.mpr hbytes, Nat.not_le.mpr hregs, Nat.not_lt.mpr hmax, decide_false, Bool.or_self]
  have hdone := copyG_ok hread hoff hbits (by rw [hctx]; exact hfits) (by rw [hsame.cast, hctx]; exact hgvl) hmembers
  obtain ⟨hmem, hgets, hkeeps⟩ := gangPut_all c (m.readSegs ss) hmembers (by rw [hsame.gangCtxs]; exact hnodup)
  simp only [hsame.gangCtxs, hctx] at hdone hmem hgets hkeeps
  have hwritten : ∀ d, (m.ctx d).Written (((m.gangCtxs c e.cmd).foldl (fun k g => k.gangPut c (off / (m.ctx c).regBytes) (off % (m.ctx c).regBytes)
      e.cmd.len gvl (m.readSegs ss) g) n).ctx d) := fun d => by
    by_cases hd : d ∈ (m.gangCtxs c e.cmd).filterMap Prod.snd
    · rw [hgets d hd]
      exact Ctx.written_vwrite _ _ _ _
    · rw [hkeeps d hd]
      exact .refl _
  refine ⟨_, by rw [copyNext, hkind]; exact hdone, ?_, ?_, fun d hd => ?_⟩
  · rw [ctx_count]
    exact (hwritten c).copyq
  · rw [count_mem]
    exact hmem.trans hkept.mem
  · rw [ctx_count, hgets d hd]

/-! ### Completion (R97, R201, R242) -/

/-- Deltas that leave enter the pair's statistics queue; of contexts the list of written TIDs alone changes (R158, R247). -/
theorem Mach.pushDeltas_queue (m : Mach) (c : Nat) (ds : List Delta) :
    ((m.pushDeltas c ds).pair (pairOf c)).sq = (m.pair (pairOf c)).sq ++ ds ∧ (m.pushDeltas c ds).mem = m.mem ∧
      (m.pushDeltas c ds).parts = m.parts ∧ ∃ w, (m.pushDeltas c ds).ctx c = { m.ctx c with wrote := w } := by
  unfold pushDeltas
  split
  next hnil => exact ⟨by rw [List.isEmpty_iff.mp hnil, List.append_nil], rfl, rfl, _, rfl⟩
  next =>
    have hkept := kept_count ((m.updPair (pairOf c) fun p => { p with sq := p.sq ++ ds }).updCtx c fun x =>
      { x with wrote := (x.wrote ++ ds.map fun d => d.tid).eraseDups }) c evStatDelta ds.length
    refine ⟨(hkept.sq _).trans ?_, hkept.mem, hkept.parts, _, (hkept.ctx c).trans (ctx_updCtx _ c _)⟩
    exact congrArg Pair.sq (m.pair_updPair (pairOf c) fun p => { p with sq := p.sq ++ ds })

theorem Mach.wrote_copyReport (m : Mach) (c : Nat) (k : CopyCmd) (err poison : Bool) : m.Wrote (m.copyReport c k err poison) := by
  unfold copyReport
  split
  · exact m.wrote_tbUpd _ _ _
  · exact .refl m

/-- What a report writes rests on memory and on where the barrier lies alone. -/
theorem Mach.copyReport_mem_congr {m n : Mach} {c : Nat} (hm : n.mem = m.mem) (hp : n.parts = m.parts) (hsp : n.spPa c = m.spPa c) (k : CopyCmd)
    (err poison : Bool) : (n.copyReport c k err poison).mem = (m.copyReport c k err poison).mem := by
  unfold copyReport
  rw [hsp]
  split
  · exact tbUpd_mem_congr hm hp _ _ _
  · exact hm

/-- A done command completes with its deltas and its report, and holds its registers no more (R97, R201, R242). -/
theorem copyCompletion_ok {s : State} {c : Nat} {e : CopyEnt} {rest : List CopyEnt} (hq : (s.m.ctx c).copyq = e :: rest)
    (hstop : (s.m.ctx c).copyStop = false) (hdone : e.done = true) (hposted : s.m.copyPosted c e = false) (hroom : s.m.sqRoom c e.sums.length = true)
    (hrunning : (s.m.ctx c).status = .running) :
    ∃ t, exec (.copyCompletion c) s = .next t ∧ (t.m.ctx c).copyq = rest ∧ t.m.mem = (s.m.copyReport c e.cmd false false).mem ∧
      (t.m.pair (pairOf c)).sq = (s.m.pair (pairOf c)).sq ++ e.sums.map Prod.snd ∧
      ∀ v, (c, v) ∉ e.held → nthD 0 (t.m.ctx c).score v = nthD 0 (s.m.ctx c).score v := by
  obtain ⟨hsq, hmem, hparts, w, hctx⟩ := s.m.pushDeltas_queue c (e.sums.map Prod.snd)
  have hstep : s.m.copyDone c = ((((s.m.pushDeltas c (e.sums.map Prod.snd)).copyReport c e.cmd false false).unscore e.held).updCtx c fun x =>
      { x with copyq := x.copyq.drop 1 }).settle c := by
    simp only [Mach.copyDone, hq, hdone, hstop, hposted, hroom, Bool.not_true, Bool.or_self, Bool.false_eq_true, if_false]
  generalize s.m.pushDeltas c (e.sums.map Prod.snd) = n at hsq hmem hparts hctx hstep
  have hsp : n.spPa c = s.m.spPa c := funext fun _ => by simp only [Mach.spPa, hctx]
  have hreport := Mach.copyReport_mem_congr hmem hparts hsp e.cmd false false
  have hwrote := n.wrote_copyReport c e.cmd false false
  generalize n.copyReport c e.cmd false false = r at hreport hwrote hstep
  have hrctx : r.ctx c = { s.m.ctx c with wrote := w } := by rw [Mach.ctx, hwrote.ctxs, ← Mach.ctx, hctx]
  have hrsq : (r.pair (pairOf c)).sq = (s.m.pair (pairOf c)).sq ++ e.sums.map Prod.snd := by rw [Mach.pair, hwrote.pairs, ← Mach.pair, hsq]
  obtain ⟨⟨cs, hcs⟩, hscore⟩ := r.rescore_spec (· - 1) e.held
  obtain ⟨sc, hsc, hkeep⟩ := hscore c
  rw [Mach.unscore_eq] at hstep
  generalize r.rescore (· - 1) e.held = u at hcs hsc hstep
  have hdctx : (u.updCtx c fun x => { x with copyq := x.copyq.drop 1 }).ctx c = { u.ctx c with copyq := (u.ctx c).copyq.drop 1 } := u.ctx_updCtx c _
  rw [hsc, hrctx] at hdctx
  rw [Mach.settle_of_running (by rw [hdctx]; exact hrunning)] at hstep
  refine ⟨_, exec_copyCompletion.trans (onMach_eq hstep), ?_, ?_, ?_, fun v hv => ?_⟩
  · simp only [hdctx, hq, List.drop_succ_cons, List.drop_zero]
  · rw [← hreport]
    rw [← (show u.mem = r.mem by rw [hcs])]
    rfl
  · rw [← hrsq, ← (show u.pair (pairOf c) = r.pair (pairOf c) by rw [hcs]; rfl)]
    rfl
  · simp only [hdctx]
    rw [hkeep v hv, hrctx]

/-! ### The steps of a started command -/

section
variable {s : State} {c : Nat} {e : CopyEnt} {rest : List CopyEnt} (hq : (s.m.ctx c).copyq = e :: rest) (hstop : (s.m.ctx c).copyStop = false)
  (hstarted : e.started = true) (hdone : e.done = false) (hports : s.m.portsPaid c = true) (hroom : s.m.sqRoom c 5 = true)
include hq hstop hstarted hdone hports hroom

theorem copyPerformed_gang {ss : List (Loc × Nat)} {off gvl : Nat} (hkind : e.cmd.kind = 2)
    (hss : s.m.walks.resolve c kRead e.cmd.src e.cmd.len .all true = .ok ss) (hlss : s.m.Local ss) (hclean : s.m.poisonSegs 0 ss = none)
    (hoff : e.cmd.dst % 2 ^ 24 = off) (hbits : bitsOf e.cmd.dst 36 24 = 0) (hfits : off < (s.m.ctx c).sec * 65536)
    (hgvl : (((s.m.cast (s.m.ctx c).task.q (s.m.ctx c).task.cast).bind fun z => z.groups[e.cmd.xf]?).map Group.gvl).getD 0 = gvl)
    (hgang : ∀ g ∈ s.m.gangCtxs c e.cmd, ∃ d, g.2 = some d ∧ off % (s.m.ctx c).regBytes + e.cmd.len ≤ (s.m.ctx d).regBytes ∧
      off / (s.m.ctx c).regBytes < (s.m.ctx d).nregs ∧ gvl ≤ (s.m.ctx d).maxvl) (hnodup : ((s.m.gangCtxs c e.cmd).filterMap Prod.snd).Nodup) :
    ∃ t, exec (.copyPerformed c) s = .next t ∧ s.queued t c ({ e with iter := 1, done := true } :: rest) ∧
      ∀ d ∈ (s.m.gangCtxs c e.cmd).filterMap Prod.snd, (t.m.ctx d).vrf =
        ((s.m.ctx d).vwrite (off / (s.m.ctx c).regBytes) (off % (s.m.ctx c).regBytes) (s.m.readSegs ss)).vrf := by
  obtain ⟨k, hnext, hqueue, hmem, hvrf⟩ := Mach.copyNext_gang hkind hss hlss hclean hoff hbits hfits hgvl hgang hnodup
  obtain ⟨t, hexec, hqt, hmt, hplat, hvt⟩ := copyPerformed_ok hq hstop hstarted hdone hports hroom hnext (hqueue.trans hq)
  exact ⟨t, hexec, ⟨hqt, hmt.trans hmem, hplat⟩, fun d hd => (hvt d).trans (hvrf d hd)⟩

theorem copyPerformed_encode {ss : List (Loc × Nat)} {q : Int × Nat × Bool × Bool} (hkind : e.cmd.kind = 1) (htail : e.tail = [])
    (hquant : e.quant = some q) (hss : s.m.walks.resolve c kRead e.cmd.src e.cmd.len .all true = .ok ss) (hlss : s.m.Local ss)
    (hclean : s.m.poisonSegs 0 ss = none) :
    let t := titOf e.tit
    let row := (chunks (tySize e.cmd.xf) (e.cmd.len / tySize e.cmd.xf) (s.m.readSegs ss)).map fun v => some ((tyOf e.cmd.xf 0).val v)
    let codes := roundRow t.tyv 0 0 0 ((quantRow t.tyv t.blk ⟨q.1, q.2.1, q.2.2.1, q.2.2.2, none⟩ row).map fun v => v.map Prod.fst)
    let exps := (rowBlocks t.tyv t.blk q.1 row ++ [q.1]).map fun b => BitVec.ofNat 8 (wrapN 8 b)
    let out := codes.flatMap (fun v => leBytes (tySize t.ty) (v.getD 0)) ++ exps
    ∃ u z, exec (.copyPerformed c) s = .next u ∧ s.queued u c ({ e with quant := some z, tail := out } :: rest) ∧ z.1 = q.1 := by
  obtain ⟨k, z, hnext, hqueue, hmem, hz⟩ := Mach.copyNext_encode hkind htail hquant hss hlss hclean
  obtain ⟨t, hexec, hqt, hmt, hplat, -⟩ := copyPerformed_ok hq hstop hstarted hdone hports hroom hnext (hqueue.trans hq)
  exact ⟨t, z, hexec, ⟨hqt, hmt.trans hmem, hplat⟩, hz⟩

theorem copyPerformed_encoded (hwf : s.m.mem.wf = true) {da n : Nat} {ds : List (Loc × Nat)} (hkind : e.cmd.kind = 1) (htail : e.tail ≠ [])
    (hda : (e.cmd.dst + e.pos) % 2 ^ 64 = da) (hn : min (e.tail.length - e.pos) (4096 - da % 4096) = n)
    (hds : s.m.walks.resolve c kWrite da n .all true = .ok ds) (hlds : s.m.Local ds) :
    ∃ t e', exec (.copyPerformed c) s = .next t ∧ (t.m.ctx c).copyq = e' :: rest ∧ e'.pos = e.pos + n ∧ e'.done = (e.pos + n == e.tail.length) ∧
      e'.tail = e.tail ∧ e'.cmd = e.cmd ∧ t.m.mem = (s.m.copyStored c e ds ((e.tail.drop e.pos).take n)).mem ∧ s.m.keepsBut t.m ds := by
  obtain ⟨k, e', hnext, hqueue, hpos, hend, hkeep, hcmd, hmem⟩ := Mach.copyNext_encoded hkind htail hda hn hds hlds
  obtain ⟨t, hexec, hqt, hmt, -, -⟩ := copyPerformed_ok hq hstop hstarted hdone hports hroom hnext (hqueue.trans hq)
  have ht := hmt.trans hmem
  exact ⟨t, e', hexec, hqt, hpos, hend, hkeep, hcmd, ht, Mach.keepsBut_copyStored hwf c e ds _ ht⟩

theorem copyPerformed_piece (hwf : s.m.mem.wf = true) {sa da n : Nat} {ss ds : List (Loc × Nat)} (hkind : e.cmd.kind = 0)
    (hsa : ((e.cmd.at e.iter).1 + e.pos) % 2 ^ 64 = sa) (hda : ((e.cmd.at e.iter).2 + e.pos) % 2 ^ 64 = da)
    (hn : min (e.cmd.len - e.pos) (256 - sa % 256) = n) (hss : s.m.walks.resolve c kRead sa n .all true = .ok ss) (hlss : s.m.Local ss)
    (hclean : s.m.poisonSegs 0 ss = none) (hlen : (s.m.readSegs ss).length = n)
    (hds : (s.m.walks.touchN c sa n).resolve c kWrite da n .all true = .ok ds) (hlds : s.m.Local ds) :
    ∃ t e', exec (.copyPerformed c) s = .next t ∧ (t.m.ctx c).copyq = e' :: rest ∧ e'.cmd = e.cmd ∧
      (e.pos + n < e.cmd.len → e'.iter = e.iter ∧ e'.pos = e.pos + n ∧ e'.done = (e.iter == e.cmd.iters)) ∧
      (e.cmd.len ≤ e.pos + n → e'.iter = e.iter + 1 ∧ e'.pos = 0 ∧ e'.done = (e.iter + 1 == e.cmd.iters)) ∧
      t.m.mem = (s.m.copyStored c e ds (s.m.readSegs ss)).mem ∧ s.m.keepsBut t.m ds := by
  obtain ⟨k, e', hnext, hqueue, hcmd, hmore, hlast, hmem⟩ := Mach.copyNext_piece hkind hsa hda hn hss hlss hclean hlen hds hlds
  obtain ⟨t, hexec, hqt, hmt, -, -⟩ := copyPerformed_ok hq hstop hstarted hdone hports hroom hnext (hqueue.trans hq)
  have ht := hmt.trans hmem
  exact ⟨t, e', hexec, hqt, hcmd, hmore, hlast, ht, Mach.keepsBut_copyStored hwf c e ds _ ht⟩

end

/-- Settles O31: the commands are issued, released, started, performed and completed as the lemmas for each say. -/
theorem copies : Obligations.Copies := by
  unfold Obligations.Copies
  refine ⟨fun s d a b loc => ?_, fun s c => ⟨fun h rest hhold hsafe => ⟨fun k hcmd hroom => commandRelease_copy hhold hsafe hcmd hroom,
    fun n va hcmd hmark => commandRelease_run hhold hsafe hcmd hmark⟩, fun e rest hq hstop => ⟨fun hmay htid => ⟨?_, ?_⟩, ?_, ?_⟩⟩⟩
  case refine_1 =>
    refine fun hroom => ⟨fun hr hfits => ⟨cpy_ok hroom hr hfits, fun hxf htid => cpyQ_ok hroom hr hfits hxf htid,
      fun g hgroup hlo hhi => cpyG_ok hroom hr hfits hgroup hlo hhi⟩, fun hr hva himage hfits => ?_⟩
    have hfits' : ∀ o, ctrlTb (BitVec.ofNat 64 (leVal (s.m.image 8 16 loc))) = some o → o < s.m.me.spSize := by
      rw [ctrlTb_ofNat]
      exact hfits
    obtain ⟨t, hexec, ht⟩ := lns_ok hroom hr hva himage rfl hfits'
    rw [ctrlTb_ofNat, nestOf_eq, ctrlLen, ctrlTid, bitsOf_ofNat64 0 (by decide) (by decide), bitsOf_ofNat64 24 (by decide) (by decide)] at ht
    exact ⟨t, hexec, ht⟩
  case refine_2 => exact fun hkind => copyCommandStart_plain hq hmay htid hkind
  case refine_3 =>
    intro hkind _ hv hstats hty hfin hroom hreqs hrec
    exact copyCommandStart_quant hq hmay rfl hkind hv hstats hty hfin hroom hreqs hrec
  case refine_4 =>
    intro hstarted hdone hports hroom hwf
    refine ⟨fun ss hkind hss hlss hclean hbits hfits hgang hnodup =>
        copyPerformed_gang hq hstop hstarted hdone hports hroom hkind hss hlss hclean rfl hbits hfits rfl hgang hnodup,
      fun ss q hkind htail hquant hss hlss hclean =>
        copyPerformed_encode hq hstop hstarted hdone hports hroom hkind htail hquant hss hlss hclean,
      fun ds hkind htail _ hds hlds =>
        copyPerformed_encoded hq hstop hstarted hdone hports hroom hwf hkind htail rfl rfl hds hlds,
      fun ss ds hkind _ hss hlss hclean hlen hds hlds =>
        copyPerformed_piece hq hstop hstarted hdone hports hroom hwf hkind rfl rfl rfl hss hlss hclean hlen hds hlds⟩
  case refine_5 => exact fun hdone hposted hroom hrunning => copyCompletion_ok hq hstop hdone hposted hroom hrunning

end Sys2Proof.Machine
end

section
/-!
PROOFS. Package reset and bring-up (R195, R274, R287, R459 to R461).
-/

namespace Sys2Proof.Machine

/-! ### Which stage stops bring-up -/

theorem firmwareOk_iff (b : BootInput) (i sig : Nat) : firmwareOk b i sig = true ↔
    Config.ed448Verify Config.ouvoftKey (nthD [] b.images i) (nthD [] b.sigs sig) = true ∧
      Config.versionFloor ≤ Config.imageVersion (nthD [] b.images i) := by
  simp [firmwareOk]

theorem bootFails_eq_none_iff (b : BootInput) : bootFails b = none ↔ ∀ k, 1 ≤ k → k ≤ 7 → stageFails b k = false := by
  rw [bootFails, List.find?_eq_none]
  refine ⟨fun h k h1 h7 => Bool.eq_false_iff.mpr (h k (List.mem_range'_1.mpr ⟨h1, by omega⟩)), fun h k hk => ?_⟩
  obtain ⟨h1, h8⟩ := List.mem_range'_1.mp hk
  exact Bool.eq_false_iff.mp (h k h1 (by omega))

theorem bootFails_bounds {b : BootInput} {k : Nat} (h : bootFails b = some k) : 1 ≤ k ∧ k ≤ 7 := by
  obtain ⟨h1, h8⟩ := List.mem_range'_1.mp (List.mem_of_find?_eq_some h)
  exact ⟨h1, by omega⟩

/-- Bring-up stops no later than at the stage given as failing. -/
theorem bootFails_le {b : BootInput} {k j : Nat} (h : bootFails b = some k) (h1 : 1 ≤ j) (hj : b.fails = some j) : k ≤ j := by
  have hk := bootFails_bounds h
  by_contra hlt
  have hpass : stageFails b j = false := stageFails_before h1 (by omega) fun i hi => by
    obtain rfl : k = i := Option.some.inj (h.symm.trans hi)
    omega
  simp [stageFails, hj] at hpass

/-- A stage that is not given as failing passes: 2 and 6 where their firmware verifies, 5 where every die has its sites (R459 to R461). -/
theorem stageFails_eq_false_iff (b : BootInput) (k : Nat) : stageFails b k = false ↔ b.fails ≠ some k ∧
    (k = 2 → firmwareOk b 1 0 = true) ∧ (k = 5 → ∀ d < 4, 64 ≤ (goodSites b d).length) ∧ (k = 6 → firmwareOk b 2 1 = true) := by
  unfold stageFails
  rw [Bool.or_eq_false_iff, beq_eq_false_iff_ne]
  refine and_congr_right fun _ => ?_
  split
  next => simp
  next => simp
  next => simp
  next h2 h5 h6 => exact iff_of_true rfl ⟨fun h => absurd h h2, fun h => absurd h h5, fun h => absurd h h6⟩

theorem bootFails_none_iff_inputs (b : BootInput) : bootFails b = none ↔ (∀ k, 1 ≤ k → k ≤ 7 → b.fails ≠ some k) ∧
    (∀ d, d < 4 → 64 ≤ (goodSites b d).length) ∧ firmwareOk b 1 0 = true ∧ firmwareOk b 2 1 = true := by
  simp only [bootFails_eq_none_iff, stageFails_eq_false_iff]
  constructor
  · intro h
    obtain ⟨-, hring, -, -⟩ := h 2 (by decide) (by decide)
    obtain ⟨-, -, hsites, -⟩ := h 5 (by decide) (by decide)
    obtain ⟨-, -, -, hcarousel⟩ := h 6 (by decide) (by decide)
    exact ⟨fun k h1 h7 => (h k h1 h7).1, hsites rfl, hring rfl, hcarousel rfl⟩
  · intro ⟨hgiven, hsites, hring, hcarousel⟩ k h1 h7
    exact ⟨hgiven k h1 h7, fun _ => hring, fun _ => hsites, fun _ => hcarousel⟩

/-! ### Sub-links -/

theorem Sublink.has_eq_false_iff (l : Sublink) (i : Nat) : l.has i = false ↔ i < l.id ∨ l.id + l.quads ≤ i := by
  simp only [Sublink.has, Bool.and_eq_false_iff, decide_eq_false_iff_not]
  omega

/-- A sub-link is up, of one, two or four quads from a multiple of its size on, and has no failed lane (R274, R461). -/
def Sublink.Sound (bad : List Nat) (k : Sublink) : Prop :=
  k.up = true ∧ (k.quads = 1 ∨ k.quads = 2 ∨ k.quads = 4) ∧ k.id % k.quads = 0 ∧ ∀ i ∈ bad, i < k.id ∨ k.id + k.quads ≤ i

theorem mem_legalLinks {bad : List Nat} {l : List (Nat × Nat)} : ∀ k ∈ legalLinks bad l, k.Sound bad ∧ (k.id, k.quads) ∈ l := by
  refine List.foldlRecOn (motive := fun ls : List Sublink => ∀ k ∈ ls, k.Sound bad ∧ (k.id, k.quads) ∈ l) _ _ (by simp) fun ls hls e he k hk => ?_
  obtain ⟨hmem, hgood⟩ := List.mem_filter.mp he
  dsimp only at hk
  split at hk
  next hlegal =>
    rcases List.mem_append.mp hk with hk | hk
    · exact hls k hk
    · obtain rfl := List.mem_singleton.mp hk
      simp only [Bool.and_eq_true, Bool.or_eq_true, decide_eq_true_eq] at hlegal
      obtain ⟨⟨⟨hsize, -⟩, haligned⟩, -⟩ := hlegal
      refine ⟨⟨rfl, or_assoc.mp hsize, haligned, fun i hi => ?_⟩, hmem⟩
      rw [Bool.not_eq_true', List.any_eq_false] at hgood
      exact (Sublink.has_eq_false_iff _ _).mp (Bool.eq_false_iff.mpr (hgood i hi))
  next => exact hls k hk

/-- The sub-links after bring-up: those of the configuration, whole links for the failure responder, none for silence (R459). -/
theorem bootMach_links (b : BootInput) : (bootMach b).links = (match bootFails b with
    | none => legalLinks b.badQuads b.sublinks
    | some 1 => []
    | some _ => legalLinks b.badQuads ((List.range 16).map fun l => (4 * l, 4))) := rfl

theorem mem_bootMach_links {b : BootInput} : ∀ k ∈ (bootMach b).links, k.Sound b.badQuads := by
  rw [bootMach_links]
  split
  · exact fun k hk => (mem_legalLinks k hk).1
  · exact fun k hk => absurd hk List.not_mem_nil
  · exact fun k hk => (mem_legalLinks k hk).1

/-! ### Measurements -/

/-- The last stage that bring-up completes (R459). -/
theorem bootPlat_stage (b : BootInput) : (bootPlat b).stage = (match bootFails b with | some k => k - 1 | none => 7) := rfl

/-- Block i + 1 is measured once its stage is complete (R287, R459). -/
theorem bootPlat_meas (b : BootInput) {i : Nat} (hi : i < 6) : nthD none (bootPlat b).meas i =
    if measuredAt (i + 1) ≤ (bootPlat b).stage then some (Config.shake256 64 (measuredBytes b (i + 1))) else none := by
  have hmeas : (bootPlat b).meas = (List.range' 1 6).map fun i =>
      if measuredAt i ≤ (bootPlat b).stage then some (Config.shake256 64 (measuredBytes b i)) else none := rfl
  rw [hmeas, nthD, List.getD_eq_getElem?_getD, List.getElem?_map, List.getElem?_range' hi, Option.map_some, Option.getD_some,
    show 1 + 1 * i = i + 1 by omega]

theorem measuredBytes_succ (b : BootInput) (i : Nat) : measuredBytes b (i + 1) =
    if i = 4 then repairBytes b else if i = 5 then tableBytes .reset .reset else nthD [] b.images i := by
  rcases i with _ | _ | _ | _ | _ | _ | i <;> rfl

theorem measuredAt_le (i : Nat) : measuredAt i ≤ 7 := by
  unfold measuredAt
  split <;> decide

/-! ### The platform -/

theorem bootPlat_silent (b : BootInput) : (bootPlat b).silent = (bootFails b == some 1) := rfl

/-- A quad with a failed lane is reported, unless the chip is silent (R461). -/
theorem bootPlat_reports (b : BootInput) : (bootPlat b).silent = true ∨
    ∀ i ∈ b.badQuads, ⟨b.node % 64, "QUAD_UNAVAILABLE", leBytes 1 i, 0⟩ ∈ (bootPlat b).out := by
  rw [bootPlat_silent]
  refine or_iff_not_imp_left.mpr fun hloud i hi => ?_
  have hout : (bootPlat b).out = if bootFails b == some 1 then [] else
      b.badQuads.map fun q => ⟨b.node % 64, "QUAD_UNAVAILABLE", leBytes 1 q, 0⟩ := rfl
  rw [hout, if_neg hloud]
  exact List.mem_map.mpr ⟨i, hi, rfl⟩

/-- What bring-up leaves where no stage fails. -/
structure BootUp (b : BootInput) : Prop where
  stage : (bootPlat b).stage = 7
  failed : (bootPlat b).failed = 0
  responder : (bootPlat b).responder = false
  silent : (bootPlat b).silent = false
  node : (bootMach b).troupe.node = b.node % 64
  sites : (bootPlat b).sites = bootSites b
  spares : (bootPlat b).spares = b.spares

theorem bootUp {b : BootInput} (h : bootFails b = none) : BootUp b := by
  constructor <;> simp [bootPlat, bootMach, h]

theorem nthD_bootSites (b : BootInput) {d : Nat} (hd : d < 4) : nthD [] (bootSites b) d = (goodSites b d).take 64 := by
  simp [nthD, bootSites, List.getD_eq_getElem?_getD, List.getElem?_range hd]

/-- Settles O52: reset leaves the reset values, and bring-up what the stages it completes leave. -/
theorem bringUp : Obligations.BringUp := by
  unfold Obligations.BringUp
  intro s b
  refine ⟨_, exec_packageReset, rfl, rfl, rfl, rfl, rfl, rfl, rfl, rfl, rfl, rfl, fun i hi => ?_, mem_bootMach_links,
    bootPlat_reports b, ?_, ?_⟩
  · rw [bootPlat_meas b hi, measuredBytes_succ b]
    split
    · exact .inr rfl
    · exact .inl rfl
  · rw [bootFails_none_iff_inputs, firmwareOk_iff, firmwareOk_iff]
    simp
  · cases hfirst : bootFails b with
    | none =>
      have up := bootUp hfirst
      refine ⟨up.stage, up.failed, up.responder, up.silent, up.node, fun i hi => ?_, fun d hd => ?_, up.spares, fun k hk => ?_⟩
      · rw [bootPlat_meas b hi, up.stage, if_pos (measuredAt_le _)]
        exact Option.some_ne_none _
      · rw [up.sites, nthD_bootSites b hd]
      · replace hk : k ∈ (bootMach b).links := hk
        rw [bootMach_links, hfirst] at hk
        exact (mem_legalLinks k hk).2
    | some k =>
      obtain ⟨h1, h7⟩ := bootFails_bounds hfirst
      refine ⟨h1, h7, fun j hj hgiven => bootFails_le hfirst hj hgiven, ?_, ?_, fun hk => ?_, fun hk => ?_⟩
      · exact (bootPlat_stage b).trans (by rw [hfirst])
      · simp [bootPlat, hfirst]
      · subst hk
        exact ⟨by rw [bootPlat_silent, hfirst]; rfl, (bootMach_links b).trans (by simp only [hfirst])⟩
      · simp [bootPlat, hfirst, hk]

end Sys2Proof.Machine
end

section
/-!
PROOFS. `grpinfo` and `grpidx`, and Ringmaster's invalidation of TLBs (R82, R185, R446).
-/

namespace Sys2Proof.Machine

/-- An instruction that accepts groups of any kind finds one that holds the task (R82). -/
theorem State.Member.group_any {s : State} {i kind : Nat} {g : Group} (h : s.Member i kind g) : s.m.group s.m.cur i 0 = .ok g := by
  obtain ⟨⟨z, hcast, hg⟩, rfl, hkind, hmem⟩ := h
  have hfind : ((s.m.cast (s.m.ctx s.m.cur).task.q (s.m.ctx s.m.cur).task.cast).bind fun k => k.groups[i]?) = some g :=
    (congrArg (Option.bind · _) hcast).trans hg
  have hmine : (s.m.ctx s.m.cur).task.idx ∈ g.mem := List.contains_iff_mem.mp hmem
  simp [Mach.group, hfind, hkind, hmine]

theorem grpinfo_ok {s : State} {d a : BitVec 5} {g : Group} (h : s.Member ((s.x a).toNat % 256) g.kind g) (hr : s.ready [d, a]) :
    exec (.grpinfo d a) s = .next (s.wrote d
      (.ofNat 64 (g.kind + g.mem.length * 2 ^ 3 + rankOf g.mem s.m.me.task.idx * 2 ^ 12 + g.gvl * 2 ^ 20))) := by
  have hgroup : s.m.group s.m.cur ((s.m.me.rx a.toNat).toNat % 256) 0 = .ok g := h.group_any
  exact exec_grpinfo.trans (scalarStep_ok hr (by rw [hgroup]; rfl))

theorem grpidx_ok {s : State} {d a b : BitVec 5} {g : Group} (h : s.Member ((s.x a).toNat % 256) g.kind g) (hr : s.ready [d, a, b]) :
    exec (.grpidx d a b) s = .next (s.wrote d (match g.mem.find? fun i => rankOf g.mem i == (s.x b).toNat with
      | some i => .ofNat 64 i
      | none => .allOnes 64)) := by
  have hgroup : s.m.group s.m.cur ((s.m.me.rx a.toNat).toNat % 256) 0 = .ok g := h.group_any
  exact exec_grpidx.trans (scalarStep_ok hr (by rw [hgroup]; rfl))

/-- Ringmaster's invalidation leaves no entry of the partition in any TLB or probe bank (R185). -/
theorem Mach.tlbClear_noEntry (m : Mach) (q : Nat) : (m.tlbClear q).NoEntry fun e => e.q = q := by
  intro u hu
  obtain ⟨w, -, rfl⟩ := List.mem_map.mp hu
  exact ⟨fun e he => bne_iff_ne.mp (List.mem_filter.mp he).2, fun e he => bne_iff_ne.mp (List.mem_filter.mp he).2⟩

/-- Settles O39: the group is the task's own, and the entries of the partition are filtered out of every pair. -/
theorem groups : Obligations.Groups := by
  unfold Obligations.Groups
  exact fun s d a b g => ⟨fun h => ⟨grpinfo_ok h, grpidx_ok h⟩,
    fun q => ⟨_, exec_ringmasterTlbInvalidation, rfl, rfl, s.m.tlbClear_noEntry q⟩⟩

end Sys2Proof.Machine
end

section
/-!
PROOFS. The curtain: its start, PREPARE, READY, GO and DONE, timeouts and joins (R191, R283, R290 to R294).
-/

namespace Sys2Proof.Machine

/-! ### A control message -/

/-- From m to n a control message to node dst has been sent, or waits (R289, R290): of the members' entries only dst's numbers of sent packets
have changed, and a packet that has come is a management packet to dst. -/
structure Mach.Told (m n : Mach) (dst : Nat) : Prop where
  rest : ∃ ms tq ou pr, n = { m with troupe := { m.troupe with member := ms, txq := tq, out := ou, prep := pr } }
  member : ∀ k, ∃ tx, n.troupe.mem k = { m.troupe.mem k with tx := tx } ∧ (k ≠ dst → tx = (m.troupe.mem k).tx)
  queue : ∀ p ∈ n.troupe.txq, p ∈ m.troupe.txq ∨ p.dst = dst ∧ p.cls = clsMgmt

theorem Mach.told_ctl (m : Mach) (dst code : Nat) (body : List Byte) : m.Told (m.ctl dst code body) dst := by
  simp only [ctl]
  split
  · exact ⟨⟨_, _, _, _, rfl⟩, fun k => ⟨_, rfl, fun _ => rfl⟩, fun _ hp => .inl hp⟩
  · split
    next hmember =>
      refine ⟨⟨_, _, _, _, rfl⟩, fun k => ?_, fun p hp => ?_⟩
      · by_cases hk : k = dst
        · subst hk
          refine ⟨mapAt (m.troupe.mem k).tx clsMgmt (· + 1), ?_, fun h => absurd rfl h⟩
          simp only [send, Troupe.updMem, Troupe.mem, nthD_mapAt_same]
          rw [if_pos]
          by_contra hlen
          rw [memberOk, Troupe.mem, nthD, List.getD_eq_default _ _ (Nat.not_lt.mp hlen)] at hmember
          exact absurd hmember (by decide)
        · refine ⟨_, ?_, fun _ => rfl⟩
          simp only [send, Troupe.updMem, Troupe.mem, nthD_mapAt_ne _ _ _ hk]
      · obtain hp | hp := List.mem_append.mp hp
        · exact .inl hp
        · exact .inr (by rw [List.mem_singleton.mp hp]; exact ⟨rfl, rfl⟩)
    next => exact ⟨⟨_, _, _, _, rfl⟩, fun k => ⟨_, rfl, fun _ => rfl⟩, fun _ hp => .inl hp⟩

theorem Mach.ctlWaits_congr {m n : Mach} (hmember : n.troupe.member = m.troupe.member) (htxq : n.troupe.txq = m.troupe.txq)
    (hcurtained : n.curtained = m.curtained) (dst code : Nat) : n.ctlWaits dst code = m.ctlWaits dst code := by
  simp only [ctlWaits, memberOk, Troupe.mem, streamRoom, hmember, htxq, hcurtained]

/-! ### PREPARE -/

/-- Where nothing is outstanding nothing ends. -/
theorem Mach.abandon_idle {m : Mach} (htxq : m.troupe.txq = []) (hreqs : m.troupe.reqs = []) (sel : TxPkt → Bool) (gone : FabReq → Bool)
    (code : Nat) : (m.abandon sel gone code).drainedFabric = true := by
  simp [abandon, settleOwners, drainedFabric, updTroupe, htxq, hreqs]

/-- A member that is stalled sends READY once its operations have drained, and stays stalled (R293 step 3). -/
theorem Mach.readyIfDrained_stalled {m : Mach} {k : Curtain} (hk : m.troupe.curtain = some k) (hleader : m.troupe.leader ≠ m.troupe.node)
    (hstalled : k.stalled = true) : ∃ b, (m.drainedFabric = true → b = true) ∧
      ∃ ms tq ou pr, m.readyIfDrained.troupe = { m.troupe with
        curtain := some { k with sent := b }, member := ms, txq := tq, out := ou, prep := pr } := by
  obtain ⟨gen, secret, members, stalled, sent, got, done, since⟩ := k
  obtain rfl : stalled = true := hstalled
  simp only [readyIfDrained, hk, Bool.true_and, if_neg hleader]
  split
  next =>
    obtain ⟨ms, tq, ou, pr, h⟩ := (told_ctl (m.updTroupe fun t => { t with curtain := some ⟨gen, secret, members, true, true, got, done, since⟩ })
      m.troupe.leader 2 (leBytes 4 gen)).rest
    exact ⟨true, fun _ => rfl, ms, tq, ou, pr, congrArg Mach.troupe h⟩
  next hwait =>
    refine ⟨sent, fun hdrained => ?_, m.troupe.member, m.troupe.txq, m.troupe.out, m.troupe.prep, ?_⟩
    · simpa [hdrained] using hwait
    · rw [← hk]

/-- PREPARE of a later generation stalls a member under the leader that it names; one with nothing outstanding sends READY (R293 steps 1 to 3). -/
theorem Mach.prepare_stalls {m : Mach} {p : PrepareMsg} (hgen : m.troupe.gen < p.gen) (hleader : p.leader ≠ m.troupe.node) :
    ∃ k, (m.prepare p).troupe.curtain = some k ∧ k.gen = p.gen ∧ k.members = p.members ∧ k.stalled = true ∧
      (m.troupe.txq = [] → m.troupe.reqs = [] → k.sent = true) ∧ (m.prepare p).troupe.leader = p.leader ∧
      (m.prepare p).troupe.gen = m.troupe.gen := by
  have hnew : ¬ (decide (p.gen ≤ m.troupe.gen) || decide (p.leader = m.troupe.node)) = true := by simp [hgen, hleader]
  rw [prepare, if_neg hnew, stall]
  generalize hk : (⟨p.gen, (List.range 64).map fun i => nthD 0 p.secret i, p.members, true, false, [], [], m.cycle⟩ : Curtain) = k
  dsimp only
  generalize hentered : Mach.updTroupe (m.updTroupe fun t => { t with leader := p.leader }) _ = e
  obtain ⟨hcurtain, hlead, hnode, hgen', htxq, hreqs⟩ : e.troupe.curtain = some k ∧ e.troupe.leader = p.leader ∧ e.troupe.node = m.troupe.node ∧
      e.troupe.gen = m.troupe.gen ∧ e.troupe.txq = m.troupe.txq ∧ e.troupe.reqs = m.troupe.reqs := by
    subst hentered
    exact ⟨rfl, rfl, rfl, rfl, rfl, rfl⟩
  generalize hsel : (fun q : TxPkt => !(k.members.any fun e => e.1 == q.dst)) = sel
  generalize hgone : (fun r : FabReq => !(k.members.any fun e => e.1 == r.dst)) = gone
  obtain ⟨rq, habandon⟩ := e.abandon_troupe sel gone 0x0F
  obtain ⟨b, hsent, ms, tq, ou, pr, hready⟩ := readyIfDrained_stalled (m := e.abandon sel gone 0x0F) (k := k) (by rw [habandon]; exact hcurtain)
    (by rw [habandon]; exact fun h => hleader (hlead.symm.trans (h.trans hnode))) (by rw [← hk])
  refine ⟨{ k with sent := b }, by rw [hready], by rw [← hk], by rw [← hk], by rw [← hk], fun h1 h2 => ?_, ?_, ?_⟩
  · exact hsent (abandon_idle (htxq.trans h1) (hreqs.trans h2) sel gone 0x0F)
  · rw [hready, habandon]
    exact hlead
  · rw [hready, habandon]
    exact hgen'

theorem Mach.prepare_old {m : Mach} {p : PrepareMsg} (h : p.gen ≤ m.troupe.gen) : m.prepare p = m := by
  simp [prepare, h]

/-! ### The switch -/

/-- What the switch to a membership makes of a member's entry (R190, R293 step 4). -/
structure Member.Switched (k : Curtain) (i : Nat) (e f : Member) : Prop where
  gen : f.gen = k.gen
  tx : f.tx = List.replicate 6 0
  rx : f.rx = List.replicate 6 0
  state : f.state = if e.state = 4 then 4 else if (∃ x ∈ k.members, x.1 = i) then 2 else 0
  joined : e.state ≠ 1 → f.chipid = e.chipid ∧ f.host = e.host

/-- Entry i after the switch. -/
def Curtain.switched (k : Curtain) (i : Nat) (e : Member) : Member :=
  let f := { e with gen := k.gen, tx := List.replicate 6 0, rx := List.replicate 6 0 }
  if e.state = 4 then f else match k.members.find? fun x => x.1 == i with
    | some x => if e.state = 1 then { f with state := 2, chipid := x.2.1, host := x.2.2 } else { f with state := 2 }
    | none => { f with state := 0 }

theorem Mach.mem_switch (m : Mach) (k : Curtain) {i : Nat} (hi : i < m.troupe.member.length) :
    (m.switch k).troupe.mem i = k.switched i (m.troupe.mem i) := by
  have hmember : (m.switch k).troupe.member = m.troupe.member.zipIdx.map fun e => k.switched e.2 e.1 := rfl
  rw [Troupe.mem, Troupe.mem, nthD, nthD, hmember, List.getD_eq_getElem _ _ (by simpa using hi), List.getElem_map, List.getElem_zipIdx,
    Nat.zero_add, List.getD_eq_getElem _ _ hi]

theorem Curtain.switched_spec (k : Curtain) (i : Nat) (e : Member) : e.Switched k i (k.switched i e) := by
  unfold Curtain.switched
  by_cases h4 : e.state = 4
  · rw [if_pos h4]
    exact ⟨rfl, rfl, rfl, by rw [if_pos h4, h4], fun _ => ⟨rfl, rfl⟩⟩
  · rw [if_neg h4]
    cases hfind : k.members.find? fun x => x.1 == i with
    | none =>
      have hout : ¬ ∃ x ∈ k.members, x.1 = i := by
        rintro ⟨x, hx, rfl⟩
        simpa using List.find?_eq_none.mp hfind x hx
      exact ⟨rfl, rfl, rfl, by rw [if_neg h4, if_neg hout], fun _ => ⟨rfl, rfl⟩⟩
    | some x =>
      have hin : ∃ x ∈ k.members, x.1 = i := ⟨x, List.mem_of_find?_eq_some hfind, by simpa using List.find?_some hfind⟩
      have hstate : (2 : Nat) = if e.state = 4 then 4 else if (∃ x ∈ k.members, x.1 = i) then 2 else 0 := by rw [if_neg h4, if_pos hin]
      dsimp only
      split
      next h1 => exact ⟨rfl, rfl, rfl, hstate, fun h => absurd h1 h⟩
      next => exact ⟨rfl, rfl, rfl, hstate, fun _ => ⟨rfl, rfl⟩⟩

theorem Mach.go_switches {m : Mach} {k : Curtain} (hk : m.troupe.curtain = some k) (hleader : m.troupe.leader ≠ m.troupe.node)
    (hstalled : k.stalled = true) (hsent : k.sent = true) :
    m.go k.gen = (m.switch k).ctl m.troupe.leader 4 (leBytes 4 k.gen) := by
  have hdue : (k.stalled && k.sent && decide (k.gen = k.gen) && m.troupe.leader != m.troupe.node) = true := by simp [hstalled, hsent, hleader]
  rw [go, hk]
  exact if_pos hdue

/-- What GO leaves at a member (R190, R277, R293 step 4). -/
theorem Mach.go_spec {m : Mach} {k : Curtain} (hk : m.troupe.curtain = some k) (hleader : m.troupe.leader ≠ m.troupe.node)
    (hstalled : k.stalled = true) (hsent : k.sent = true) :
    let t := (m.go k.gen).troupe
    t.gen = k.gen ∧ t.secret = k.secret ∧ t.past = (m.troupe.gen, m.troupe.secret) ∧ t.curtain = none ∧ t.reqs = m.troupe.reqs ∧
      (m.go k.gen).ctxs = m.ctxs ∧ (∀ p ∈ t.txq, p.isGo = true ∨ p.dst = m.troupe.leader ∧ p.cls = clsMgmt) ∧
      ∀ i, i < m.troupe.member.length → (t.mem i).gen = k.gen ∧ (i ≠ m.troupe.leader → (t.mem i).tx = List.replicate 6 0) ∧
        (t.mem i).rx = List.replicate 6 0 ∧ (t.mem i).state =
          (if (m.troupe.mem i).state = 4 then 4 else if (∃ e ∈ k.members, e.1 = i) then 2 else 0) ∧
        ((m.troupe.mem i).state ≠ 1 → (t.mem i).chipid = (m.troupe.mem i).chipid ∧ (t.mem i).host = (m.troupe.mem i).host) := by
  dsimp only
  rw [go_switches hk hleader hstalled hsent]
  have told := (m.switch k).told_ctl m.troupe.leader 4 (leBytes 4 k.gen)
  generalize (m.switch k).ctl m.troupe.leader 4 (leBytes 4 k.gen) = n at told
  have hqueue := told.queue
  have hmember := told.member
  obtain ⟨ms, tq, ou, pr, rfl⟩ := told.rest
  refine ⟨rfl, rfl, rfl, if_neg hleader, rfl, rfl, fun p hp => ?_, fun i hi => ?_⟩
  · exact (hqueue p hp).imp_left fun h => (List.mem_filter.mp h).2
  · obtain ⟨tx, hmem, htx⟩ := hmember i
    have hentry := k.switched_spec i (m.troupe.mem i)
    rw [m.mem_switch k hi] at hmem htx
    rw [hmem]
    exact ⟨hentry.gen, fun h => (htx h).trans hentry.tx, hentry.rx, hentry.state, hentry.joined⟩

/-! ### The leader: READY and DONE -/

/-- READY of a member of the new membership is noted (R293 step 3). -/
def Curtain.heard (k : Curtain) (n : Nat) : Curtain := { k with got := n :: k.got.filter (· != n) }

/-- The leader's machine once READY of node n is noted. -/
def Mach.heard (m : Mach) (k : Curtain) (n : Nat) : Mach := m.updTroupe fun t => { t with curtain := some (k.heard n) }

theorem Curtain.mem_heard {k : Curtain} {n i : Nat} : i ∈ (k.heard n).got ↔ i = n ∨ i ∈ k.got := by
  simp only [heard, List.mem_cons, List.mem_filter, bne_iff_ne]
  by_cases h : i = n <;> simp [h]

theorem Mach.ctlWaits_heard {m : Mach} {k : Curtain} {n : Nat} (hk : m.troupe.curtain = some k) (dst code : Nat) :
    (m.heard k n).ctlWaits dst code = m.ctlWaits dst code := by
  refine ctlWaits_congr (m := m) (n := m.heard k n) rfl rfl ?_ dst code
  rw [curtained, curtained, hk]
  rfl

/-- GO waits for the last READY, and for room in the streams (R293 step 4). -/
theorem Mach.goIfReady_waits {m : Mach} {k : Curtain} {n : Nat} (hk : m.troupe.curtain = some k)
    (h : (∃ e ∈ k.members, e.1 ≠ n ∧ e.1 ∉ k.got) ∨ ∃ e ∈ k.members, e.1 ≠ m.troupe.node ∧ m.ctlWaits e.1 3 = true) :
    (m.heard k n).goIfReady = m.heard k n := by
  have hcurtain : (m.heard k n).troupe.curtain = some (k.heard n) := rfl
  simp only [goIfReady, hcurtain]
  refine if_neg fun hdue => ?_
  simp only [Bool.and_eq_true, List.all_eq_true, List.contains_iff_mem, Curtain.mem_heard, ctlWaits_heard hk, Bool.or_eq_true,
    beq_iff_eq, Bool.not_eq_true'] at hdue
  obtain ⟨⟨-, hall⟩, hroom⟩ := hdue
  rcases h with ⟨e, he, hne, hnot⟩ | ⟨e, he, hne, hwaits⟩
  · exact (hall e he).elim hne hnot
  · exact (hroom e he).elim hne fun h => absurd (h.symm.trans hwaits) (by decide)

section
variable {m : Mach} {k : Curtain} {n : Nat} (hk : m.troupe.curtain = some k) (hleader : m.troupe.leader = m.troupe.node)
include hk hleader

theorem Mach.readyFrom_heard (hstalled : k.stalled = true) (hn : ∃ e ∈ k.members, e.1 = n) : m.readyFrom n k.gen = (m.heard k n).goIfReady := by
  have hdue : (decide (m.troupe.leader = m.troupe.node) && k.stalled && decide (k.gen = k.gen) && k.members.any (fun e => e.1 == n)) = true := by
    simpa [hleader, hstalled] using hn
  rw [readyFrom, hk]
  exact if_pos hdue

/-- With the last READY the leader switches too. -/
theorem Mach.goIfReady_switches (hstalled : k.stalled = true) (hall : ∀ e ∈ k.members, e.1 = n ∨ e.1 ∈ k.got)
    (hroom : ∀ e ∈ k.members, e.1 = m.troupe.node ∨ m.ctlWaits e.1 3 = false) :
    (m.heard k n).goIfReady.troupe.gen = k.gen ∧ (m.heard k n).goIfReady.troupe.secret = k.secret := by
  have hcurtain : (m.heard k n).troupe.curtain = some (k.heard n) := rfl
  have hdue : (decide ((m.heard k n).troupe.leader = (m.heard k n).troupe.node) && (k.heard n).stalled &&
      (k.heard n).members.all (fun e => (k.heard n).got.contains e.1) &&
      (k.heard n).members.all (fun e => e.1 == (m.heard k n).troupe.node || !(m.heard k n).ctlWaits e.1 3)) = true := by
    simp only [Bool.and_eq_true, List.all_eq_true, List.contains_iff_mem, Curtain.mem_heard, ctlWaits_heard hk, Bool.or_eq_true,
      beq_iff_eq, Bool.not_eq_true', decide_eq_true_eq]
    exact ⟨⟨⟨hleader, hstalled⟩, hall⟩, hroom⟩
  simp only [goIfReady, hcurtain, hdue, if_true]
  exact ⟨rfl, rfl⟩

/-- DONE answers the GO of its own generation; the last one ends the curtain (R293 step 5). -/
theorem Mach.done_spec (hstalled : k.stalled = false) (hn : ∃ e ∈ k.members, e.1 = n) :
    (m.done n k.gen).ctxs = m.ctxs ∧
      (∀ p ∈ (m.done n k.gen).troupe.txq, p.isGo = true → p.dst = n → bitsOf p.pkt.hdr.toNat 31 24 = k.gen % 256) ∧
      ((∀ e ∈ k.members, e.1 = n ∨ e.1 ∈ k.done) → (m.done n k.gen).troupe.curtain = none) ∧
      (∀ e ∈ k.members, e.1 ≠ n → e.1 ∉ k.done →
        (m.done n k.gen).troupe.curtain = some { k with done := n :: k.done.filter (· != n) }) := by
  have hdue : (decide (m.troupe.leader = m.troupe.node) && !k.stalled && decide (k.gen = k.gen) && k.members.any (fun e => e.1 == n)) = true := by
    simpa [hleader, hstalled] using hn
  have hmem : ∀ i, (n :: k.done.filter (· != n)).contains i = true ↔ i = n ∨ i ∈ k.done := fun i => by
    by_cases h : i = n <;> simp [h]
  have hdone : m.done n k.gen = (m.updTroupe fun t => { t with
      txq := t.txq.filter fun p => !(p.isGo && p.dst == n && bitsOf p.pkt.hdr.toNat 31 24 != k.gen % 256) }).updTroupe fun t => { t with
        curtain := if k.members.all (fun e => (n :: k.done.filter (· != n)).contains e.1) then none
          else some { k with done := n :: k.done.filter (· != n) } } := by
    rw [done]
    dsimp only [updTroupe]
    rw [hk]
    exact if_pos hdue
  rw [hdone]
  refine ⟨rfl, fun p hp hgo hdst => ?_, fun hall => ?_, fun e he hne hnot => ?_⟩
  · simpa [hgo, hdst] using (List.mem_filter.mp hp).2
  · exact if_pos (List.all_eq_true.mpr fun e he => (hmem e.1).mpr (hall e he))
  · exact if_neg fun hall => ((hmem e.1).mp (List.all_eq_true.mp hall e he)).elim hne hnot

/-- A member that has not sent READY for 1 ms is left out of the next generation (R293 step 6). -/
theorem Mach.readyTimeout_due (hstalled : k.stalled = true) (hne : n ≠ m.troupe.node) (hn : ∃ e ∈ k.members, e.1 = n) (hgot : n ∉ k.got)
    (hdue : k.since + 1200000 ≤ m.cycle) :
    m.readyTimeout n = (m.markFailed n).startCurtain (k.gen + 1) (k.members.filter fun e => e.1 != n) := by
  have hcond : (decide (m.troupe.leader = m.troupe.node) && k.stalled && n != m.troupe.node && k.members.any (fun e => e.1 == n) &&
      !k.got.contains n && decide (k.since + 1200000 ≤ m.cycle)) = true := by
    simpa [hleader, hstalled, hne, hgot, hdue] using hn
  rw [readyTimeout, hk]
  exact if_pos hcond

end

/-! ### The leader: reasons for a curtain -/

section
variable {m : Mach} {n : Nat} (hleader : m.troupe.leader = m.troupe.node) (hnone : m.troupe.curtain = none)
include hleader hnone

/-- A leader that runs no curtain may start one. -/
theorem Mach.troupe_free : m.troupe.free = true := by simp [Troupe.free, hleader, hnone]

theorem Mach.leave_starts (hstate : (m.troupe.mem n).state = 2) (hne : n ≠ m.troupe.node) :
    m.leave n = m.startCurtain (m.troupe.gen + 1) (m.troupe.current.filter fun e => e.1 != n) := by
  simp [leave, troupe_free hleader hnone, hstate, hne]

theorem Mach.failReport_starts (hstate : (m.troupe.mem n).state = 2) (hne : n ≠ m.troupe.node) :
    m.failReport n = (m.markFailed n).startCurtain (m.troupe.gen + 1) (m.markFailed n).troupe.current := by
  simp [failReport, troupe_free hleader hnone, hstate, hne]

theorem Mach.rekeyNow_starts : m.rekeyNow = m.startCurtain (m.troupe.gen + 1) m.troupe.current := by
  simp [rekeyNow, troupe_free hleader hnone]

theorem Mach.join_admitted {key chain meas : List Byte} {host : Bool} (hn : n < 64) (hstate : (m.troupe.mem n).state = 0)
    (hadmits : Config.admits chain meas key host = true) :
    m.join n key chain meas host = m.startCurtain (m.troupe.gen + 1) (m.troupe.current ++ [(n, chipidOf key, host)]) := by
  simp [join, troupe_free hleader hnone, hn, hstate, hadmits]

end

/-! ### Joins (R291) -/

/-- Only the leader that runs no stalled curtain, for an absent node that its policy admits, starts a curtain for a join. -/
theorem Mach.join_refused {m : Mach} {n : Nat} {key chain meas : List Byte} {host : Bool}
    (h : m.troupe.leader ≠ m.troupe.node ∨ (m.troupe.mem n).state ≠ 0 ∨ Config.admits chain meas key host = false) :
    m.join n key chain meas host = m := by
  rw [join]
  refine if_neg fun hall => ?_
  simp only [Troupe.free, Bool.and_eq_true, beq_iff_eq, decide_eq_true_eq] at hall
  obtain ⟨⟨⟨⟨hleader, -⟩, -⟩, hstate⟩, hadmits⟩ := hall
  rcases h with h | h | h
  · exact h hleader
  · exact h hstate
  · exact absurd (h.symm.trans hadmits) (by decide)

theorem Plat.attested_iff (p : Plat) (n : Nat) (key chain meas chal sig : List Byte) (host : Bool) :
    p.attested n key chain meas chal sig host = true ↔ joinAsks.isSublist ((p.conn n).asked.map Prod.fst) = true ∧ p.sessionOf n ≠ 0 ∧
      Config.chainVerifies chain key host = true ∧
      Config.ed448Verify key (p.askedWith n "CHALLENGE" ++ Config.sha3512 chain ++ meas) chal = true ∧
      (p.askedWith n "GET_MEASUREMENTS").take 1 = [0xFF] ∧
      Config.ed448Verify key ((p.askedWith n "GET_MEASUREMENTS").drop 1 ++ meas) sig = true := by
  simp only [attested, Bool.and_eq_true, bne_iff_ne, beq_iff_eq, and_assoc, ne_eq]

theorem State.join_plat (s : State) (n : Nat) (key chain meas chal sig : List Byte) (host : Bool) :
    (s.join n key chain meas chal sig host).plat = s.plat := by
  unfold State.join
  split <;> rfl

theorem State.join_refused {s : State} {n : Nat} {key chain meas chal sig : List Byte} {host : Bool}
    (h : s.plat.attested n key chain meas chal sig host = false ∨ s.m.troupe.leader ≠ s.m.troupe.node ∨ (s.m.troupe.mem n).state ≠ 0 ∨
      Config.admits chain meas key host = false) : s.join n key chain meas chal sig host = s := by
  unfold State.join
  split
  · rfl
  next hgo =>
    obtain h | h := h
    · simp [h] at hgo
    · rw [Mach.join_refused h]

theorem State.join_attested {s : State} {n : Nat} {key chain meas chal sig : List Byte} {host : Bool} (hstage : s.plat.stage = 7)
    (hne : n ≠ s.m.troupe.node) (h : s.plat.attested n key chain meas chal sig host = true) :
    (s.join n key chain meas chal sig host).m = s.m.join n key chain meas host := by
  simp [State.join, hstage, hne, h]

/-! ### Leaving -/

theorem Mach.askLeave_member {m : Mach} (hleader : m.troupe.leader ≠ m.troupe.node) (hstate : (m.troupe.mem m.troupe.node).state = 2) :
    m.askLeave = m.ctl m.troupe.leader 5 (leBytes 1 m.troupe.node) := by
  simp [askLeave, memberOk, hleader, hstate]

/-- Settles O45: each event of a curtain through the lemma of what it does at the leader or at a member. -/
theorem curtains : Obligations.Curtains := by
  unfold Obligations.Curtains
  intro s hstage htripped
  refine ⟨fun p hgen hleader => ?_, fun p hold => ?_, fun u p hu => ?_, fun k hk => ⟨fun hleader hstalled hsent => ?_, fun hleader => ⟨?_, ?_, ?_⟩⟩,
    fun hleader hnone => ⟨fun n hstate hne => ?_, fun r n hstate hne => ?_, fun n hstate => ?_, ?_⟩, ?_, fun hleader hstate => ?_⟩
  case refine_1 =>
    obtain ⟨k, hprepare⟩ := Mach.prepare_stalls hgen hleader
    exact ⟨_, k, exec_prepare.trans (congrArg Host.Outcome.next (if_pos hstage)), hprepare⟩
  case refine_2 =>
    refine exec_prepare.trans (congrArg Host.Outcome.next ((if_pos hstage).trans ?_))
    rw [Mach.prepare_old hold]
  case refine_3 => exact exec_prepare.trans (congrArg Host.Outcome.next (if_neg hu))
  case refine_4 => exact ⟨_, exec_go, Mach.go_spec hk hleader hstalled hsent⟩
  case refine_5 =>
    intro got n hstalled hn
    have hheard := Mach.readyFrom_heard hk hleader hstalled hn
    exact ⟨fun h => exec_ready.trans (onMach_eq (hheard.trans (Mach.goIfReady_waits hk (.inl h)))),
      fun h => exec_ready.trans (onMach_eq (hheard.trans (Mach.goIfReady_waits hk (.inr h)))),
      fun hall hroom => ⟨_, exec_ready.trans (onMach_eq hheard), Mach.goIfReady_switches hk hleader hstalled hall hroom⟩⟩
  case refine_6 => exact fun n hstalled hn => ⟨_, exec_done, Mach.done_spec hk hleader hstalled hn⟩
  case refine_7 =>
    exact fun n hstalled hne hn hgot hdue =>
      exec_readyTimeout.trans (onMach_eq (Mach.readyTimeout_due hk hleader hstalled hne hn hgot hdue))
  case refine_8 => exact exec_leave.trans (onMach_eq (Mach.leave_starts hleader hnone hstate hne))
  case refine_9 => exact exec_failReport.trans (onMach_eq (Mach.failReport_starts hleader hnone hstate hne))
  case refine_10 =>
    exact exec_rekeyRequest.trans (onMach_eq ((if_pos hstate).trans (Mach.rekeyNow_starts hleader hnone)))
  case refine_11 =>
    intro n key chain meas chal sig h hn hne
    have hattested := s.plat.attested_iff n key chain meas chal sig h
    refine ⟨_, (runMove_other htripped).1 n key chain meas chal sig h, s.join_plat n key chain meas chal sig h, ?_, fun hno => ?_⟩
    · rintro ⟨hasked, hsession, hchain, hchal, hindex, hsig, hadmits, habsent⟩
      rw [State.join_attested hstage hne (hattested.mpr ⟨hasked, hsession, hchain, hchal, hindex, hsig⟩),
        Mach.join_admitted hleader hnone hn habsent hadmits]
    · rw [State.join_refused]
      by_contra hall
      simp only [not_or, Bool.not_eq_false, not_not] at hall
      obtain ⟨hatt, -, habsent, hadmits⟩ := hall
      obtain ⟨hasked, hsession, hchain, hchal, hindex, hsig⟩ := hattested.mp hatt
      exact hno ⟨hasked, hsession, hchain, hchal, hindex, hsig, hadmits, habsent⟩
  case refine_12 =>
    intro n key chain meas chal sig h hleader
    rw [(runMove_other htripped).1, State.join_refused (.inr (.inl hleader))]
  case refine_13 =>
    refine ((runMove_other htripped).2 _).trans (congrArg _ ?_)
    rw [netMove, Mach.askLeave_member hleader hstate]

end Sys2Proof.Machine
end

section
/-!
PROOFS. Table instructions and records (R173, R176 to R181, R238 to R240, R445).
-/

namespace Sys2Proof.Machine

/-! ### What the device writes for itself -/

/-- From m to n the device has read and written tables and records for itself: bytes, poison, errors, PCs that come back, counts and clocks of
links have changed, and nothing else (R310, R463). -/
def Mach.Served (m n : Mach) : Prop := ∃ me po so dc ic pf nm us cl, n = { m with
  mem := me, poison := po, soft := so, dieCnt := dc, iodCnt := ic, pfaults := pf, nmus := nm, used := us, clocks := cl }

theorem Mach.Served.trans {m n o : Mach} (h : m.Served n) (k : n.Served o) : m.Served o := by
  obtain ⟨_, _, _, _, _, _, _, _, _, rfl⟩ := h
  obtain ⟨a, b, c, d, e, f, g, i, j, rfl⟩ := k
  exact ⟨a, b, c, d, e, f, g, i, j, rfl⟩

theorem Mach.Tended.served {m n : Mach} (h : m.Tended n) : m.Served n := by
  obtain ⟨_, _, _, _, _, rfl⟩ := h.rest
  exact ⟨_, _, _, _, _, _, _, _, _, rfl⟩

theorem Mach.Wrote.served {m n : Mach} (h : m.Wrote n) : m.Served n := by
  obtain ⟨_, _, _, _, _, _, _, rfl⟩ := h
  exact ⟨_, _, _, _, _, _, _, _, _, rfl⟩

section
variable {m n : Mach} (h : m.Served n)
include h

theorem Mach.Served.cur : n.cur = m.cur := by obtain ⟨_, _, _, _, _, _, _, _, _, rfl⟩ := h; rfl
theorem Mach.Served.ctxs : n.ctxs = m.ctxs := by obtain ⟨_, _, _, _, _, _, _, _, _, rfl⟩ := h; rfl
theorem Mach.Served.pairs : n.pairs = m.pairs := by obtain ⟨_, _, _, _, _, _, _, _, _, rfl⟩ := h; rfl
theorem Mach.Served.parts : n.parts = m.parts := by obtain ⟨_, _, _, _, _, _, _, _, _, rfl⟩ := h; rfl
theorem Mach.Served.ctx (c : Nat) : n.ctx c = m.ctx c := by rw [Mach.ctx, h.ctxs, Mach.ctx]
theorem Mach.Served.me : n.me = m.me := by rw [Mach.me, h.cur, h.ctx, Mach.me]
theorem Mach.Served.pair (p : Nat) : n.pair p = m.pair p := by rw [Mach.pair, h.pairs, Mach.pair]

end

/-- A write of a table or record puts its bytes at the keys under the address. -/
theorem Mach.pokePa_spec (m : Mach) (pa : Nat) (bs : List Byte) : m.Served (m.pokePa pa bs) ∧
    (m.pokePa pa bs).mem = putRuns m.mem (splitRuns (m.keyRuns (bs.length / 256 + 2) pa bs.length) bs) := by
  have hrun : ∀ (rs : List (Option Nat × List Byte)) (n : Mach),
      n.Served (rs.foldl (fun m r => match r.1 with | some k => m.poke k r.2 | none => m) n) ∧
      (rs.foldl (fun m r => match r.1 with | some k => m.poke k r.2 | none => m) n).mem = putRuns n.mem rs := by
    intro rs
    induction rs with
    | nil => exact fun n => ⟨(Wrote.refl n).served, rfl⟩
    | cons r rs ih =>
      intro n
      obtain ⟨_ | k, bs⟩ := r
      · exact ih n
      · obtain ⟨hserved, hmem⟩ := ih (n.poke k bs)
        exact ⟨(n.wrote_poke k bs).served.trans hserved, hmem.trans (by rw [poke_mem]; rfl)⟩
  obtain ⟨hserved, hmem⟩ := hrun (splitRuns (m.keyRuns (bs.length / 256 + 2) pa bs.length) bs) (m.wake [(.pa pa, bs.length)])
  exact ⟨(m.tended_wake _).served.trans hserved, hmem.trans (by rw [wake_mem])⟩

theorem Mach.pokeFrom_spec (m : Mach) (d pa : Nat) (bs : List Byte) : m.Served (m.pokeFrom d pa bs) ∧
    (m.pokeFrom d pa bs).mem = putRuns m.mem (splitRuns (m.keyRuns (bs.length / 256 + 2) pa bs.length) bs) := by
  obtain ⟨hcross, hmem⟩ := m.wrote_cross d 0 [(.pa pa, bs)]
  obtain ⟨hpoke, hput⟩ := (m.cross d 0 [(.pa pa, bs)]).pokePa_spec pa bs
  rw [hmem, keyRuns_congr hcross.parts] at hput
  exact ⟨hcross.served.trans hpoke, hput⟩

/-- Two machines with the same memory and partitions: what the device reads and writes of tables is the same in both. -/
structure Mach.SameBytes (m n : Mach) : Prop where
  parts : n.parts = m.parts
  mem : n.mem = m.mem

theorem Mach.Tended.sameBytes {m n : Mach} (h : m.Tended n) : m.SameBytes n := ⟨h.parts, h.mem⟩

theorem Mach.SameBytes.symm {m n : Mach} (h : m.SameBytes n) : n.SameBytes m := ⟨h.parts.symm, h.mem.symm⟩

theorem Mach.SameBytes.trans {m n o : Mach} (h : m.SameBytes n) (k : n.SameBytes o) : m.SameBytes o :=
  ⟨k.parts.trans h.parts, k.mem.trans h.mem⟩

section
variable {m n : Mach} (h : m.SameBytes n)
include h

theorem Mach.SameBytes.ownRead (pa l : Nat) : (m.ownRead pa l).SameBytes (n.ownRead pa l) :=
  ((m.tended_ownRead pa l).sameBytes.symm.trans h).trans (n.tended_ownRead pa l).sameBytes

/-- Whichever die writes. -/
theorem Mach.SameBytes.pokeFrom (d e pa : Nat) (bs : List Byte) : (m.pokeFrom d pa bs).SameBytes (n.pokeFrom e pa bs) := by
  obtain ⟨hm, hmemm⟩ := m.pokeFrom_spec d pa bs
  obtain ⟨hn, hmemn⟩ := n.pokeFrom_spec e pa bs
  exact ⟨hn.parts.trans (h.parts.trans hm.parts.symm), by rw [hmemm, hmemn, keyRuns_congr h.parts, h.mem]⟩

theorem Mach.SameBytes.record (q t : Nat) : n.record q t = m.record q t := record_congr h.parts h.mem q t

theorem Mach.SameBytes.readPa (pa l : Nat) : n.readPa pa l = m.readPa pa l := readPa_congr h.parts h.mem pa l

end

/-! ### Tasks that end while another runs -/

/-- The end of a drained task resets its context; tables of contexts, casts, windows, requests, saved tasks and pairs, and counts of links, are all
that changes. -/
theorem Mach.finishTask_form (m : Mach) (c : Nat) (faulted : Bool) (v : Word) : ∃ ws pt us dc tr sv ps, m.finishTask c faulted v =
    { m.setCtx c .reset with windows := ws, parts := pt, used := us, dieCnt := dc, troupe := tr, saved := sv, pairs := ps } := by
  simp only [finishTask]
  split
  · obtain ⟨u, d, hcharge⟩ := m.charge_eq (dieOf c) 4 5 64
    rw [hcharge]
    obtain ⟨-, tr, sv, ps, hfree⟩ := freeCtx_eq _ c
    rw [hfree]
    exact ⟨_, _, u, d, tr, sv, ps, rfl⟩
  next k _ =>
    obtain ⟨pt, hcast⟩ := (m.updWindow k.launcher fun w => { w with
      ended := w.ended ++ [Report.mk (k.seq0 + (m.ctx c).task.idx) (m.ctx c).task.cast (m.ctx c).task.idx faulted v] }).updPart_eq
        (m.ctx c).task.q fun p => { p with casts := p.casts.map fun j => if j.id == (m.ctx c).task.cast then { j with ended := j.ended + 1 } else j }
    rw [updCast, hcast]
    obtain ⟨u, d, hcharge⟩ := charge_eq _ (dieOf c) 4 5 64
    rw [hcharge]
    obtain ⟨-, tr, sv, ps, hfree⟩ := freeCtx_eq _ c
    rw [hfree]
    exact ⟨_, pt, u, d, tr, sv, ps, rfl⟩

theorem Mach.settle_mem (m : Mach) (c : Nat) : (m.settle c).mem = m.mem := by
  unfold settle
  split
  · split
    · exact (finishTask_eq m c _ _).2.1
    · rfl
  · rfl

theorem Mach.settleAll_mem (cs : List Nat) (m : Mach) : (cs.foldl Mach.settle m).mem = m.mem :=
  foldl_keep (fun n : Mach => n.mem = m.mem) _ cs m rfl fun n c hn => (n.settle_mem c).trans hn

/-- Settling a context leaves the one that acts, where that one's task runs. -/
theorem Mach.settle_me {m : Mach} (c : Nat) (h : m.me.status = .running) : (m.settle c).me = m.me ∧ (m.settle c).cur = m.cur := by
  by_cases hc : c = m.cur
  · rw [hc, settle_of_running h]
    exact ⟨rfl, rfl⟩
  · unfold settle
    split
    · split
      next f v _ _ =>
        obtain ⟨_, _, _, _, _, _, _, hform⟩ := m.finishTask_form c f v
        rw [hform]
        exact ⟨m.ctx_setCtx_ne c m.cur .reset (Ne.symm hc), rfl⟩
      · exact ⟨rfl, rfl⟩
    · exact ⟨rfl, rfl⟩

theorem Mach.settleAll_me {m : Mach} (cs : List Nat) (h : m.me.status = .running) :
    (cs.foldl Mach.settle m).me = m.me ∧ (cs.foldl Mach.settle m).cur = m.cur := by
  refine foldl_keep (fun n : Mach => n.me = m.me ∧ n.cur = m.cur) _ cs m ⟨rfl, rfl⟩ fun n c ⟨hme, hcur⟩ => ?_
  obtain ⟨hme', hcur'⟩ := n.settle_me c (by rw [hme]; exact h)
  exact ⟨hme'.trans hme, hcur'.trans hcur⟩

/-! ### Cached copies -/

/-- A property of every pair that event counts do not touch holds of every pair after completion. -/
theorem Mach.pairs_retire {m : Mach} {P : Pair → Prop} (hreset : P .reset) (hcarry : ∀ u cs, P u → P { u with carry := cs })
    (h : ∀ p ∈ m.pairs, P p.2) : ∀ p ∈ m.retire.pairs, P p.2 := by
  have hpair : ∀ k, P (m.pair k) := fun k => by
    rw [pair, tabGet]
    cases hfind : tabFind m.pairs k with
    | none => exact hreset
    | some u => exact h _ (tabFind_mem hfind)
  simp only [retire, retireTo, count]
  split
  · intro p hp
    rcases mem_tabSet hp with rfl | hp
    · exact hcarry _ _ (hpair _)
    · exact h p hp
  · exact h

/-- The pair holds no copy of entry t of the tensor table of partition q. -/
def Pair.NoTit (q t : Nat) (u : Pair) : Prop := ∀ x ∈ u.titc, ¬ (x.1 = q ∧ x.2.1 = t)

theorem Pair.noTit_reset (q t : Nat) : Pair.reset.NoTit q t := fun _ h => absurd h List.not_mem_nil

/-- The pair holds no snapshot of record t of partition q. -/
def Pair.NoSnap (q t : Nat) (u : Pair) : Prop := ∀ x ∈ u.snaps, ¬ (x.q = q ∧ x.tid = t)

theorem Pair.noSnap_reset (q t : Nat) : Pair.reset.NoSnap q t := fun _ h => absurd h List.not_mem_nil

/-- The pair holds no copy of entry n of the bank-set table of partition q. -/
def Pair.NoBst (q n : Nat) (u : Pair) : Prop := ∀ x ∈ u.bstc, ¬ (x.1 = q ∧ x.2.1 = n)

theorem Pair.noBst_reset (q n : Nat) : Pair.reset.NoBst q n := fun _ h => absurd h List.not_mem_nil

theorem not_of_not_beq {a b x y : Nat} (h : (!(a == x && b == y)) = true) : ¬ (a = x ∧ b = y) := by
  rintro ⟨rfl, rfl⟩
  simp at h

theorem Mach.noTit_titDrop (m : Mach) (q t : Nat) : ∀ p ∈ (m.titDrop q t).pairs, p.2.NoTit q t ∧ p.2.NoSnap q t := by
  intro p hp
  obtain ⟨w, -, rfl⟩ := List.mem_map.mp hp
  exact ⟨fun x hx => not_of_not_beq (List.mem_filter.mp hx).2, fun x hx => not_of_not_beq (List.mem_filter.mp hx).2⟩

theorem Mach.noSnap_snapDrop (m : Mach) (q t : Nat) : ∀ p ∈ (m.snapDrop q t).pairs, p.2.NoSnap q t := by
  intro p hp
  obtain ⟨w, -, rfl⟩ := List.mem_map.mp hp
  exact fun x hx => not_of_not_beq (List.mem_filter.mp hx).2

theorem Mach.noBst_bstWrite (m : Mach) (q n e : Nat) : ∀ p ∈ (m.bstWrite q n e).pairs, p.2.NoBst q n := by
  intro p hp
  obtain ⟨w, -, rfl⟩ := List.mem_map.mp hp
  exact fun x hx => not_of_not_beq (List.mem_filter.mp hx).2

/-! ### Images -/

/-- An instruction that reads an image goes on in a machine that has read it, with its bytes. -/
theorem Mach.imageRead_ok {m : Mach} {va n : Nat} {loc : Nat → Loc} (h : m.Image .all 0 va 8 n loc) :
    ∃ k rs, m.Reads k ∧ m.imageRead va n = .ok ({ k with troupe := { k.troupe with reqs := rs } }, m.image 8 n loc) := by
  obtain ⟨k, hload, hreads, -⟩ := loadsFrom_image h n le_rfl
  obtain ⟨rs, hdrop⟩ := k.dropReqs_eq k.cur k.me.pc
  refine ⟨k, rs, hreads, ?_⟩
  simp only [imageRead, hload, hdrop, bind, Except.bind, pure, Except.pure]

theorem Mach.Reads.sameBytes {m n : Mach} (h : m.Reads n) : m.SameBytes n := ⟨h.parts, h.mem⟩

/-! ### `tdef` -/

/-- The machine once entry t has been written from an image (R176, R177). -/
def Mach.entryWritten (m : Mach) (q t e : Nat) : Mach :=
  (m.ownRead (m.titAddr q t) 64).pokeFrom (dieOf m.cur) (m.titAddr q t)
    (leBytes 64 (e + (if (titOf e).stats then m.recAddr q t else 0) * 2 ^ 256))

/-- The machine once the record of an entry that begins to have one is fresh (R176, R238). -/
def Mach.recordBegun (m : Mach) (q t e : Nat) : Mach :=
  (m.ownRead (m.recAddr q t) 128).pokeFrom (dieOf m.cur) (m.recAddr q t) (leBytes 128 (freshRec (recGen (m.record q t)) (titOf e)))

/-- Whether the entry in memory has a record (R175). -/
def Mach.hasRecord (m : Mach) (q t : Nat) : Bool := (m.titHome q t).v && (m.titHome q t).stats

theorem Mach.titWrite_record {m : Mach} {q t e : Nat} (h : (titOf e).stats = true) : m.titWrite q t e =
    (if m.hasRecord q t then m.entryWritten q t e else (m.entryWritten q t e).recordBegun q t e).titDrop q t := by
  have hcond : ∀ b : Bool, (true && !b) = true ↔ ¬ b = true := by decide
  simp only [titWrite, h, if_true, hcond, ite_not]
  rw [entryWritten, h]
  rfl

theorem Mach.titWrite_noRecord {m : Mach} {q t e : Nat} (h : (titOf e).stats = false) : m.titWrite q t e =
    (((m.entryWritten q t e).ctxs.map Prod.fst).foldl Mach.settle ((m.entryWritten q t e).deltasDrop q t)).titDrop q t := by
  simp only [titWrite, h, Bool.false_and, Bool.false_eq_true, if_false]
  rw [entryWritten, h]
  rfl

theorem Mach.served_entryWritten (m : Mach) (q t e : Nat) : m.Served (m.entryWritten q t e) :=
  (m.tended_ownRead _ _).served.trans (pokeFrom_spec _ _ _ _).1

theorem Mach.served_recordBegun (m : Mach) (q t e : Nat) : m.Served (m.recordBegun q t e) :=
  (m.tended_ownRead _ _).served.trans (pokeFrom_spec _ _ _ _).1

@[simp] theorem Mach.titDrop_me (m : Mach) (q t : Nat) : (m.titDrop q t).me = m.me := rfl
@[simp] theorem Mach.titDrop_mem (m : Mach) (q t : Nat) : (m.titDrop q t).mem = m.mem := rfl
@[simp] theorem Mach.deltasDrop_me (m : Mach) (q t : Nat) : (m.deltasDrop q t).me = m.me := rfl
@[simp] theorem Mach.deltasDrop_mem (m : Mach) (q t : Nat) : (m.deltasDrop q t).mem = m.mem := rfl

/-- The task that runs sees nothing of the write of an entry in its registers. -/
theorem Mach.titWrite_me {m : Mach} (q t e : Nat) (h : m.me.status = .running) : (m.titWrite q t e).me = m.me := by
  have hentry := m.served_entryWritten q t e
  cases hstats : (titOf e).stats with
  | false =>
    have hdrop : ((m.entryWritten q t e).deltasDrop q t).me = m.me := (deltasDrop_me _ q t).trans hentry.me
    rw [titWrite_noRecord hstats, titDrop_me]
    exact (settleAll_me _ (by rw [hdrop, h])).1.trans hdrop
  | true =>
    rw [titWrite_record hstats, titDrop_me]
    split
    · exact hentry.me
    · exact (hentry.trans (served_recordBegun _ q t e)).me

section
variable {m n : Mach} (h : m.SameBytes n) (q t e : Nat)
include h

theorem Mach.SameBytes.entryWritten : (m.entryWritten q t e).SameBytes (n.entryWritten q t e) := by
  rw [Mach.entryWritten, Mach.entryWritten, titAddr_congr h.parts, recAddr_congr h.parts]
  exact (h.ownRead _ _).pokeFrom _ _ _ _

theorem Mach.SameBytes.recordBegun : (m.recordBegun q t e).SameBytes (n.recordBegun q t e) := by
  rw [Mach.recordBegun, Mach.recordBegun, recAddr_congr h.parts, h.record]
  exact (h.ownRead _ _).pokeFrom _ _ _ _

theorem Mach.SameBytes.hasRecord : n.hasRecord q t = m.hasRecord q t := by
  simp only [Mach.hasRecord, titHome, titAddr_congr h.parts, h.readPa]

/-- What the write of an entry makes of memory rests on memory and on the partitions alone. -/
theorem Mach.SameBytes.titWrite_mem : (n.titWrite q t e).mem = (m.titWrite q t e).mem := by
  have hentry := h.entryWritten q t e
  cases hstats : (titOf e).stats with
  | false =>
    rw [titWrite_noRecord hstats, titWrite_noRecord hstats, titDrop_mem, titDrop_mem, settleAll_mem, settleAll_mem, deltasDrop_mem,
      deltasDrop_mem, hentry.mem]
  | true =>
    rw [titWrite_record hstats, titWrite_record hstats, h.hasRecord, titDrop_mem, titDrop_mem]
    split
    · exact hentry.mem
    · exact (hentry.recordBegun q t e).mem

end

theorem Mach.noTit_titWrite (m : Mach) (q t e : Nat) : ∀ p ∈ (m.titWrite q t e).pairs, p.2.NoTit q t ∧ p.2.NoSnap q t := by
  simp only [titWrite]
  exact noTit_titDrop _ q t

/-- A legal image becomes the entry, and every pair drops its copy (R176, R177). -/
theorem tdef_ok {s : State} {a b : BitVec 5} {loc : Nat → Loc} {e : Nat} (hr : s.ready [a, b]) (htable : s.m.me.tableReady = true)
    (halign : (s.x b).toNat % 64 = 0) (ht : (s.x a).toNat % 4096 ≠ 0) (hrun : s.m.me.status = .running)
    (himage : s.m.Image .all 0 (s.x b).toNat 8 8 loc) (he : leVal (s.m.image 8 8 loc) = e) (hlegal : titImageBad e = false) :
    let q := s.m.qOf s.m.cur
    let t := (s.x a).toNat % 4096
    ∃ u, exec (.tdef a b) s = .next u ∧ u.m.mem = (s.m.titWrite q t e).mem ∧ u.m.me.x = s.m.me.x ∧ u.m.me.pc = s.m.me.pc + 4 ∧
      u.plat = s.plat ∧ ∀ p ∈ u.m.pairs, p.2.NoTit q t ∧ p.2.NoSnap q t := by
  intro q t
  obtain ⟨k, rs, hreads, hread⟩ := Mach.imageRead_ok himage
  generalize hn : ({ k with troupe := { k.troupe with reqs := rs } } : Mach) = n at hread
  have hbytes : s.m.SameBytes n := ⟨by rw [← hn]; exact hreads.parts, by rw [← hn]; exact hreads.mem⟩
  obtain ⟨ks, hme⟩ : ∃ ks, n.me = { s.m.me with counted := ks } := by
    rw [← hn]
    exact hreads.me
  have hwritten : (n.titWrite q t e).me = n.me := n.titWrite_me q t e (by rw [hme]; exact hrun)
  refine ⟨{ s with m := (n.titWrite q t e).retire }, exec_tdef.trans (scalarStep_ok hr ?_), ?_, ?_, ?_, rfl,
    Mach.pairs_retire (P := fun u => u.NoTit q t ∧ u.NoSnap q t) ⟨Pair.noTit_reset q t, Pair.noSnap_reset q t⟩
      (fun _ _ h => h) (n.noTit_titWrite q t e)⟩
  · have hva : (s.m.me.rx b.toNat).toNat = (s.x b).toNat := rfl
    have htid : s.m.me.tidOf a = t := rfl
    simp only [hva, halign, htid, htable, hread, he, hlegal, noImage, waitFor, bind, Except.bind, pure, Except.pure, bne_self_eq_false,
      Bool.false_eq_true, if_false, if_true]
    rw [if_neg ht]
  · rw [(Mach.onlyMe_retire _).1]
    exact hbytes.titWrite_mem q t e
  · rw [Mach.retire_x, hwritten, hme]
  · rw [Mach.retire, Mach.me_retireTo, hwritten, hme]

/-! ### `pdef` -/

/-- The write of a bank set changes no context, slot, table of a partition or window, and nothing of the fabric. -/
theorem Mach.bstWrite_spec (m : Mach) (q n e : Nat) : (m.bstWrite q n e).cur = m.cur ∧ (m.bstWrite q n e).ctxs = m.ctxs ∧
    (m.bstWrite q n e).slots = m.slots ∧ (m.bstWrite q n e).parts = m.parts ∧ (m.bstWrite q n e).windows = m.windows ∧
    (m.bstWrite q n e).troupe = m.troupe := by
  have hserved := (m.pokeFrom_spec (dieOf m.cur) (m.bstAddr q n) (leBytes 32 e)).1
  rw [bstWrite]
  generalize m.pokeFrom (dieOf m.cur) (m.bstAddr q n) (leBytes 32 e) = k at hserved
  obtain ⟨_, _, _, _, _, _, _, _, _, rfl⟩ := hserved
  exact ⟨rfl, rfl, rfl, rfl, rfl, rfl⟩

theorem Mach.SameBytes.bstWrite_mem {m n : Mach} (h : m.SameBytes n) (q i e : Nat) : (n.bstWrite q i e).mem = (m.bstWrite q i e).mem := by
  have haddr : n.bstAddr q i = m.bstAddr q i := by rw [bstAddr, part, h.parts, bstAddr, part]
  rw [bstWrite, bstWrite, haddr]
  exact (h.pokeFrom _ _ _ _).mem

/-- Completion takes the marks of what was counted away. -/
theorem Mach.retire_me_of_counted {m n : Mach} {ks : List Nat} (h : n.me = { m.me with counted := ks }) : n.retire.me = m.retire.me := by
  rw [retire, retire, me_retireTo, me_retireTo, h]

/-- The bank set is written where the image has been read as it would have been before. -/
theorem State.readsTo_bstWrite {s : State} {k n : Mach} {rs : List FabReq} (h : s.m.Reads k)
    (hn : n = { k with troupe := { k.troupe with reqs := rs } }) (q i e : Nat) :
    s.readsTo { s with m := (n.bstWrite q i e).retire } (s.m.bstWrite q i e) := by
  have hbytes : s.m.SameBytes n := ⟨by rw [hn]; exact h.parts, by rw [hn]; exact h.mem⟩
  have hmem := hbytes.bstWrite_mem q i e
  obtain ⟨ks, hme⟩ : ∃ ks, n.me = { s.m.me with counted := ks } := by
    rw [hn]
    exact h.me
  have hother : ∀ c, c ≠ s.m.cur → n.ctx c = s.m.ctx c := by
    rw [hn]
    exact h.others
  have hkept : n.cur = s.m.cur ∧ n.slots = s.m.slots ∧ n.parts = s.m.parts ∧ n.windows = s.m.windows ∧ n.troupe.txq = s.m.troupe.txq := by
    obtain ⟨_, _, _, _, _, _, _, _, _, hrest⟩ := h.rest
    rw [hn, hrest]
    exact ⟨rfl, rfl, rfl, rfl, rfl⟩
  obtain ⟨hcur, hslots, hparts, hwindows, htxq⟩ := hkept
  obtain ⟨hcur', hctxs', hslots', hparts', hwindows', htroupe'⟩ := s.m.bstWrite_spec q i e
  obtain ⟨hcurn, hctxsn, hslotsn, hpartsn, hwindowsn, htroupen⟩ := n.bstWrite_spec q i e
  generalize s.m.bstWrite q i e = z at hmem hcur' hctxs' hslots' hparts' hwindows' htroupe' ⊢
  generalize n.bstWrite q i e = w at hmem hcurn hctxsn hslotsn hpartsn hwindowsn htroupen ⊢
  obtain ⟨hret, hothers, -⟩ := w.onlyMe_retire
  have hzctx : ∀ c, z.ctx c = s.m.ctx c := fun c => by rw [Mach.ctx, hctxs', Mach.ctx]
  have hwctx : ∀ c, w.ctx c = n.ctx c := fun c => by rw [Mach.ctx, hctxsn, Mach.ctx]
  have hzw : w.me = { z.me with counted := ks } := by
    rw [Mach.me, hcurn, hwctx, Mach.me, hcur', hzctx]
    exact hme
  refine ⟨Mach.retire_me_of_counted hzw, fun c hc => ?_, ?_⟩
  · exact (hothers c (by rw [hcurn, hcur]; exact hc)).trans ((hwctx c).trans ((hother c hc).trans (hzctx c).symm))
  · rw [hret]
    exact ⟨hcurn.trans hcur, hmem, hslotsn.trans (hslots.trans hslots'.symm), hpartsn.trans (hparts.trans hparts'.symm),
      hwindowsn.trans (hwindows.trans hwindows'.symm), by
        show w.troupe.txq = _
        rw [htroupen, htroupe', htxq], rfl⟩

/-- A legal image becomes the bank set, and every pair drops its copy (R180, R181). -/
theorem pdef_ok {s : State} {a b : BitVec 5} {loc : Nat → Loc} {e : Nat} (hr : s.ready [a, b]) (htable : s.m.me.tableReady = true)
    (halign : (s.x b).toNat % 32 = 0) (hn : (s.x a).toNat < 1024) (himage : s.m.Image .all 0 (s.x b).toNat 8 4 loc)
    (he : leVal (s.m.image 8 4 loc) = e) (hlegal : bstImageBad e = false) :
    let q := s.m.qOf s.m.cur
    ∃ u, exec (.pdef a b) s = .next u ∧ s.readsTo u (s.m.bstWrite q (s.x a).toNat e) ∧ ∀ p ∈ u.m.pairs, p.2.NoBst q (s.x a).toNat := by
  intro q
  obtain ⟨k, rs, hreads, hread⟩ := Mach.imageRead_ok himage
  generalize hk : ({ k with troupe := { k.troupe with reqs := rs } } : Mach) = n at hread
  refine ⟨{ s with m := (n.bstWrite q (s.x a).toNat e).retire }, exec_pdef.trans (scalarStep_ok hr ?_),
    State.readsTo_bstWrite hreads hk.symm q _ e,
    Mach.pairs_retire (P := Pair.NoBst q (s.x a).toNat) (Pair.noBst_reset q _) (fun _ _ h => h) (n.noBst_bstWrite q _ e)⟩
  have hva : (s.m.me.rx b.toNat).toNat = (s.x b).toNat := rfl
  have hi : (s.m.me.rx a.toNat).toNat = (s.x a).toNat := rfl
  simp only [hva, hi, halign, htable, hread, he, hlegal, waitFor, bind, Except.bind, pure, Except.pure, bne_self_eq_false,
    Bool.false_eq_true, if_false, if_true]
  rw [if_neg (by omega)]

/-! ### `tldf` -/

/-- The narrow format of a described tensor becomes a format of the context (R445). -/
theorem tldf_ok {s : State} {d : BitVec 2} {a : BitVec 5} (hr : s.ready [a]) :
    let c := s.m.cur
    let t := (s.x a).toNat % 4096
    t ≠ 0 → (s.m.tit c t).v = true → (s.m.tit c t).ty = 3 →
      exec (.tldf d a) s = .next (s.did ((s.m.titFill c t).upd fun x => x.setFmt d.toNat (.ofNat 32 ((s.m.tit c t).nfmt % 2 ^ 20)))) := by
  intro c t ht hv hty
  refine exec_tldf.trans (scalarStep_ok hr ?_)
  have htid : s.m.me.tidOf a = t := rfl
  have hv' : (s.m.tit s.m.cur t).v = true := hv
  have hty' : (s.m.tit s.m.cur t).ty = 3 := hty
  simp only [htid, hv', hty', ht, decide_false, Bool.not_true, Bool.or_self, Bool.false_eq_true, if_false, bne_self_eq_false]
  rfl

/-! ### `strs` -/

@[simp] theorem Mach.snapDrop_me (m : Mach) (q t : Nat) : (m.snapDrop q t).me = m.me := rfl

/-- For context c: the tables and the cached entries that it reads are the same in both machines. -/
structure Mach.SameTit (c : Nat) (m n : Mach) : Prop where
  bytes : m.SameBytes n
  part : n.qOf c = m.qOf c
  cached : (n.pair (pairOf c)).titc = (m.pair (pairOf c)).titc

theorem Mach.SameTit.refl (c : Nat) (m : Mach) : m.SameTit c m := ⟨⟨rfl, rfl⟩, rfl, rfl⟩

theorem Mach.SameTit.trans {c : Nat} {m n o : Mach} (h : m.SameTit c n) (k : n.SameTit c o) : m.SameTit c o :=
  ⟨h.bytes.trans k.bytes, k.part.trans h.part, k.cached.trans h.cached⟩

theorem Mach.SameTit.tit {c : Nat} {m n : Mach} (h : m.SameTit c n) (t : Nat) : n.tit c t = m.tit c t := by
  rw [Mach.tit, Mach.tit, titRaw, titRaw, h.cached, h.part, titAddr_congr h.bytes.parts, h.bytes.readPa]

theorem Mach.Tended.sameTit {m n : Mach} (h : m.Tended n) (c : Nat) : m.SameTit c n :=
  ⟨h.sameBytes, by rw [qOf, h.served.ctx, qOf], by rw [h.served.pair]⟩

theorem Mach.sameTit_updPair (m : Mach) (c p : Nat) {f : Pair → Pair} (hf : ∀ u, (f u).titc = u.titc) : m.SameTit c (m.updPair p f) := by
  refine ⟨⟨rfl, rfl⟩, rfl, ?_⟩
  by_cases hp : pairOf c = p
  · rw [hp, pair_updPair, hf]
  · rw [pair_updPair_ne _ _ _ _ hp]

theorem Mach.sameTit_updCtx (m : Mach) (c : Nat) {f : Ctx → Ctx} (hf : ∀ x, (f x).task = x.task) : m.SameTit c (m.updCtx c f) :=
  ⟨⟨rfl, rfl⟩, by rw [qOf, ctx_updCtx, hf, qOf], rfl⟩

theorem Mach.sameTit_count (m : Mach) (c d ev k : Nat) : m.SameTit c (m.count d ev k) := by
  simp only [count]
  split
  · exact m.sameTit_updPair c _ fun _ => rfl
  · exact .refl c m

/-- The deltas of the copies under way are sent: no table changes. -/
theorem Mach.sameTit_flushCopies (m : Mach) (c : Nat) : m.SameTit c (m.flushCopies c) := by
  rw [flushCopies]
  refine .trans ?_ (sameTit_updCtx _ c fun _ => rfl)
  unfold pushDeltas
  split
  · exact .refl c m
  · refine .trans ?_ (sameTit_count _ c c _ _)
    refine .trans ?_ (sameTit_updCtx _ c fun _ => rfl)
    exact m.sameTit_updPair c _ fun _ => rfl

/-- Once for an instruction. -/
theorem Mach.sameTit_flushed (m : Mach) : m.SameTit m.cur (m.countKey 1 fun n => n.flushCopies m.cur) := by
  unfold countKey
  split
  · exact .refl _ m
  · have hcur : (m.flushCopies m.cur).cur = m.cur := (pushDeltas_spec rfl _).2.2
    refine (m.sameTit_flushCopies m.cur).trans ?_
    rw [upd, hcur]
    exact sameTit_updCtx _ _ fun _ => rfl

/-- The fill of the cache leaves what the pair reads of the entry. -/
theorem Mach.tit_titFill (m : Mach) (c t : Nat) : (m.titFill c t).tit c t = m.tit c t := by
  simp only [titFill]
  split
  · rfl
  · have hread := (m.tended_ownRead (m.titAddr (m.qOf c) t) 64).sameTit c
    generalize m.ownRead (m.titAddr (m.qOf c) t) 64 = n at hread ⊢
    have hpart : ∀ f, (n.updPair (pairOf c) f).qOf c = m.qOf c := fun _ => hread.part
    rw [Mach.tit, hpart, titRaw, pair_updPair, List.take_succ_cons, List.find?_cons_of_pos (by simp), Mach.tit]

theorem Mach.titFill_kept (m : Mach) (c t : Nat) : m.SameBytes (m.titFill c t) ∧ (m.titFill c t).me = m.me ∧ (m.titFill c t).cur = m.cur := by
  obtain ⟨⟨_, _, _, _, _, _, hform⟩, -⟩ := m.titFill_spec c t
  rw [hform]
  exact ⟨⟨rfl, rfl⟩, rfl, rfl⟩

theorem Mach.recCheck_ok {m : Mach} {c t : Nat} (ht : t ≠ 0) (hv : (m.tit c t).v = true) (hstats : (m.tit c t).stats = true) :
    m.recCheck c t = .ok () := by
  simp only [recCheck, ht, hv, hstats, decide_false, Bool.not_true, Bool.or_self, Bool.false_eq_true, if_false]

/-- The record written afresh by a die, in a machine that has the tables of m, is what is written in m (R238, R239). -/
theorem Mach.SameBytes.freshRec_mem {m n : Mach} (h : m.SameBytes n) (d q t : Nat) (e : Tit) :
    (n.pokeFrom d (n.recAddr q t) (leBytes 128 (freshRec (recGen (n.record q t)) e))).mem =
      (m.setRec q t (freshRec (recGen (m.record q t)) e)).mem := by
  rw [(n.pokeFrom_spec _ _ _).2, setRec, (m.pokePa_spec _ _).2, h.record, recAddr_congr h.parts, h.mem, keyRuns_congr h.parts]

/-- Where no delta is on its way the record starts afresh, and every pair drops its snapshots (R239). -/
theorem strs_ok {s : State} {a : BitVec 5} {m : Mach} {c q t : Nat} (hr : s.ready [a]) (hc : s.m.cur = c) (hq : s.m.qOf c = q)
    (htid : (s.x a).toNat % 4096 = t) (hm : (s.m.countKey 1 fun n => n.flushCopies c) = m) (ht : t ≠ 0) (hv : (s.m.tit c t).v = true)
    (hstats : (s.m.tit c t).stats = true) (htable : s.m.me.tableReady = true) (hroom : s.m.sqRoom c 5 = true)
    (hto : m.deltasTo q t = false) (hsent : m.sentTids c = false) : ∃ u, exec (.strs a) s = .next u ∧ u.m.me = (s.did m).m.me ∧
      u.m.mem = (s.m.setRec q t (freshRec (recGen (s.m.record q t)) (s.m.tit c t))).mem ∧ ∀ p ∈ u.m.pairs, p.2.NoSnap q t := by
  have htit := s.m.sameTit_flushed
  rw [hc, hm] at htit
  obtain ⟨hfill, hfme, -⟩ := m.titFill_kept c t
  obtain ⟨hrme, -⟩ := (m.titFill c t).ownRead_spec (m.recAddr q t) 128
  have hread := ((m.titFill c t).tended_ownRead (m.recAddr q t) 128).sameTit c
  have hentry : ((m.titFill c t).ownRead (m.recAddr q t) 128).tit c t = s.m.tit c t :=
    (hread.tit t).trans ((m.tit_titFill c t).trans (htit.tit t))
  have hbytes : s.m.SameBytes ((m.titFill c t).ownRead (m.recAddr q t) 128) := htit.bytes.trans (hfill.trans hread.bytes)
  have hexec : exec (.strs a) s = .next (s.did ((((m.titFill c t).ownRead (m.recAddr q t) 128).pokeFrom (dieOf c)
      (((m.titFill c t).ownRead (m.recAddr q t) 128).recAddr q t) (leBytes 128
        (freshRec (recGen (((m.titFill c t).ownRead (m.recAddr q t) 128).record q t)) (s.m.tit c t)))).snapDrop q t)) := by
    refine exec_strs.trans (scalarStep_ok hr ?_)
    have htid' : s.m.me.tidOf a = t := htid
    rw [← hentry]
    simp only [hc, hq, htid', Mach.recCheck_ok ht hv hstats, orRaise, htable, hroom, hm, hto, hsent, waitFor, bind, Except.bind, pure,
      Except.pure, Bool.or_true, Bool.and_self, Bool.not_false, if_true]
  generalize (m.titFill c t).ownRead (m.recAddr q t) 128 = n at hrme hbytes hexec
  have hmem := hbytes.freshRec_mem (dieOf c) q t (s.m.tit c t)
  have hserved := (n.pokeFrom_spec (dieOf c) (n.recAddr q t) (leBytes 128 (freshRec (recGen (n.record q t)) (s.m.tit c t)))).1
  generalize n.pokeFrom (dieOf c) (n.recAddr q t) (leBytes 128 (freshRec (recGen (n.record q t)) (s.m.tit c t))) = w at hserved hmem hexec
  refine ⟨_, hexec, Mach.retire_me_of_counted (ks := m.me.counted) ?_, ?_,
    Mach.pairs_retire (P := Pair.NoSnap q t) (Pair.noSnap_reset q t) (fun _ _ h => h) (w.noSnap_snapDrop q t)⟩
  · rw [Mach.snapDrop_me, hserved.me, hrme, hfme]
  · exact (congrArg Mach.mem (Mach.onlyMe_retire _).1).trans hmem

/-! ### `strd` -/

theorem drop_leBytes (k n v : Nat) : (leBytes n v).drop k = leBytes (n - k) (v / 256 ^ k) := by
  induction k generalizing n v with
  | zero => simp
  | succ k ih =>
    cases n with
    | zero => simp [leBytes]
    | succ n => rw [leBytes, List.drop_succ_cons, ih, Nat.div_div_eq_div_mul, ← pow_succ', Nat.succ_sub_succ]

theorem take_leBytes (k n v : Nat) (h : k ≤ n) : (leBytes n v).take k = leBytes k v := by
  induction k generalizing n v with
  | zero => simp [leBytes]
  | succ k ih =>
    obtain ⟨n, rfl⟩ : ∃ j, n = j + 1 := ⟨n - 1, by omega⟩
    rw [leBytes, List.take_succ_cons, ih n _ (by omega), leBytes]

/-- The bytes of doubleword i of a record. -/
theorem leBytes_word (v : Nat) {i : Nat} (hi : i < 16) : ((leBytes 128 v).drop (8 * i)).take 8 = leBytes 8 (v / 2 ^ (64 * i) % 2 ^ 64) := by
  have hpow : 256 ^ (8 * i) = 2 ^ (64 * i) := by rw [show 256 = 2 ^ 8 from rfl, ← pow_mul]; congr 1; ring
  rw [drop_leBytes, take_leBytes _ _ _ (by omega), hpow]
  conv_lhs => rw [← Nat.mod_add_div (v / 2 ^ (64 * i)) (2 ^ 64)]
  exact leBytes_add_mul 8 _ _

/-- Doubleword i of a record of value v, at its locations. -/
def wordSegs (v : Nat) (ss : Nat → List (Loc × Nat)) (i : Nat) : List (Loc × List Byte) :=
  segBytes (ss i) (leBytes 8 (v / 2 ^ (64 * i) % 2 ^ 64))

/-- The marks of the access to doubleword i of sixteen. -/
def Mach.wordReached (m : Mach) (c va i : Nat) : Mach := m.countKey (15 - i) fun m => m.touchN c ((va + 8 * i) % 2 ^ 64) 8

/-- The machine once the first i of sixteen doublewords are in the store buffer. -/
def Mach.wordsBuffered (m : Mach) (c va : Nat) (segs : Nat → List (Loc × List Byte)) (i : Nat) : Mach :=
  (List.range i).foldl (fun m j => (m.wordReached c va j).buffer .store ((va + 8 * j) % 2 ^ 64) (segs j)) m

/-- Their entries of the store buffer of a context. -/
def Ctx.wordEntries (x : Ctx) (va : Nat) (segs : Nat → List (Loc × List Byte)) (i : Nat) : List SbEnt :=
  (List.range i).map fun j => ⟨x.stamp, x.sbNext + j, .store, (va + 8 * j) % 2 ^ 64, x.ir, segs j⟩

theorem Mach.wordsBuffered_succ (m : Mach) (c va : Nat) (segs : Nat → List (Loc × List Byte)) (i : Nat) : m.wordsBuffered c va segs (i + 1) =
    ((m.wordsBuffered c va segs i).wordReached c va i).buffer .store ((va + 8 * i) % 2 ^ 64) (segs i) := by
  simp only [wordsBuffered, List.range_succ, List.foldl_append, List.foldl_cons, List.foldl_nil]

theorem Mach.wordReached_eq {m : Mach} {c : Nat} (hc : m.cur = c) (va i : Nat) :
    m.wordReached c va i = m.reached (15 - i) ((va + 8 * i) % 2 ^ 64) 8 := by
  rw [wordReached, reached, countKey, countKey, hc]

/-- From m to n the acting context has put entries es into its store buffer, and memory stays. -/
structure Mach.Stores (m n : Mach) (es : List SbEnt) : Prop where
  cur : n.cur = m.cur
  mem : n.mem = m.mem
  troupe : n.troupe = m.troupe
  me : ∃ ks, n.me = { m.me with counted := ks, sb := m.me.sb ++ es, sbNext := m.me.sbNext + es.length }

theorem Mach.Stores.of_me {m n : Mach} (hcur : n.cur = m.cur) (hmem : n.mem = m.mem) (htroupe : n.troupe = m.troupe) (hme : n.me = m.me) :
    m.Stores n [] := by
  refine ⟨hcur, hmem, htroupe, m.me.counted, ?_⟩
  rw [hme, List.append_nil]
  rfl

section
variable {m n : Mach} {es : List SbEnt} (h : m.Stores n es)
include h

theorem Mach.Stores.reads {o : Mach} (k : n.Reads o) : m.Stores o es := by
  obtain ⟨ks, hme⟩ := h.me
  obtain ⟨ks', hme'⟩ := k.me
  refine ⟨k.cur.trans h.cur, k.mem.trans h.mem, Eq.trans ?_ h.troupe, ks', by rw [hme', hme]⟩
  obtain ⟨_, _, _, _, _, _, _, _, _, rfl⟩ := k.rest
  rfl

theorem Mach.Stores.buffer (va : Nat) (segs : List (Loc × List Byte)) :
    m.Stores (n.buffer .store va segs) (es ++ [⟨m.me.stamp, m.me.sbNext + es.length, .store, va, m.me.ir, segs⟩]) := by
  obtain ⟨ks, hme⟩ := h.me
  refine ⟨h.cur, h.mem, h.troupe, ks, ?_⟩
  rw [Mach.buffer, me_upd, hme, List.length_append, List.append_assoc]
  rfl

theorem Mach.Stores.length_sb : n.me.sb.length = m.me.sb.length + es.length := by
  obtain ⟨ks, hme⟩ := h.me
  rw [hme, List.length_append]

theorem Mach.Stores.curtained : n.curtained = m.curtained := by rw [Mach.curtained, h.troupe, Mach.curtained]

theorem Mach.Stores.ownWindowReady (ss : List (Loc × Nat)) : n.ownWindowReady m.cur ss = m.ownWindowReady m.cur ss := by
  obtain ⟨ks, hme⟩ := h.me
  have hctx : n.ctx m.cur = { m.ctx m.cur with counted := ks, sb := m.me.sb ++ es, sbNext := m.me.sbNext + es.length } := by
    rw [← h.cur]
    exact hme.trans (by rw [h.cur]; rfl)
  simp only [Mach.ownWindowReady, hctx]
  rfl

end

theorem Mach.Stores.words {m n : Mach} {c : Nat} (hc : m.cur = c) (h : m.Stores n []) (va : Nat) (segs : Nat → List (Loc × List Byte)) (i : Nat) :
    m.Stores (n.wordsBuffered c va segs i) (m.me.wordEntries va segs i) := by
  induction i with
  | zero => exact h
  | succ i ih =>
    rw [wordsBuffered_succ, wordReached_eq (ih.cur.trans hc)]
    have hbuffered := (ih.reads (reads_reached _ (15 - i) ((va + 8 * i) % 2 ^ 64) 8)).buffer ((va + 8 * i) % 2 ^ 64) (segs i)
    have hentries : m.me.wordEntries va segs (i + 1) = m.me.wordEntries va segs i ++
        [⟨m.me.stamp, m.me.sbNext + (m.me.wordEntries va segs i).length, .store, (va + 8 * i) % 2 ^ 64, m.me.ir, segs i⟩] := by
      simp only [Ctx.wordEntries, List.range_succ, List.map_append, List.length_map, List.length_range, List.map_cons, List.map_nil]
    rw [hentries]
    exact hbuffered

/-- An access within eight aligned bytes is one part. -/
theorem inParts_of_firstPart {va n : Nat} (h : firstPart va n = 0) (ss : List (Loc × Nat)) : inParts va n ss = ss := by
  rw [inParts, h]
  cases ss <;> rfl

/-- A scalar store that nothing holds up enters the store buffer (R150). -/
theorem Mach.scalarStoreAt_ok {m n : Mach} {key va : Nat} {bs : List Byte} {ss : List (Loc × Nat)} (hwalk : m.walkWaits m.cur va bs.length = false)
    (hn : m.reached key va bs.length = n) (hresolve : n.resolve m.cur kWrite va bs.length .all = .ok ss)
    (hready : n.ownWindowReady m.cur ss = true) (hcurtain : n.curtained = false ∨ ∀ l ∈ ss, apertureOf l.1 = none)
    (hroom : n.me.sb.length < 32) (hpart : firstPart va bs.length = 0) : m.scalarStoreAt key va bs = .ok (n.buffer .store va (segBytes ss bs)) := by
  have hopen : (n.curtained && ss.any fun s => (apertureOf s.1).isSome) = false := by
    rw [Bool.and_eq_false_iff]
    refine hcurtain.imp_right fun hnone => List.any_eq_false.mpr fun l hl => ?_
    rw [hnone l hl]
    decide
  have hn' : m.countKey key (fun k => k.touchN m.cur va bs.length) = n := by
    rw [← hn, reached, countKey, countKey]
  simp only [scalarStoreAt, hwalk, hn', hresolve, orRaise, hready, hopen, waitFor, bind, Except.bind, pure, Except.pure, Bool.not_false,
    Bool.and_self, if_true]
  rw [if_neg (by omega), inParts_of_firstPart hpart]

/-- What lets the sixteen stores of a record of value v go: none waits for a walk, each resolves to its locations where it is made, and neither a
window nor a curtain holds it up (R150, R186, R293, R334). -/
def Mach.RecordStorable (m n : Mach) (c va v : Nat) (ss : Nat → List (Loc × Nat)) : Prop :=
  ∀ i < 16, (n.wordsBuffered c va (wordSegs v ss) i).walkWaits c ((va + 8 * i) % 2 ^ 64) 8 = false ∧
    ((n.wordsBuffered c va (wordSegs v ss) i).wordReached c va i).resolve c kWrite ((va + 8 * i) % 2 ^ 64) 8 .all = .ok (ss i) ∧
    m.ownWindowReady c (ss i) = true ∧ (m.curtained = false ∨ ∀ l ∈ ss i, apertureOf l.1 = none)

/-- The doublewords left, k of them, follow those in the buffer. -/
theorem Mach.storesTo_ok {m n : Mach} {c va v : Nat} {ss : Nat → List (Loc × Nat)} (hc : m.cur = c) (h : m.Stores n [])
    (hgo : m.RecordStorable n c va v ss) (hva : va % 8 = 0) (hroom : m.me.sb.length ≤ 16) (k i : Nat) (hi : i + k = 16) :
    (n.wordsBuffered c va (wordSegs v ss) i).storesTo ((va + 8 * i) % 2 ^ 64) k ((leBytes 128 v).drop (8 * i)) =
      .ok (n.wordsBuffered c va (wordSegs v ss) 16) := by
  induction k generalizing i with
  | zero => rw [storesTo, ← hi, Nat.add_zero]
  | succ k ih =>
    have hstored := h.words hc va (wordSegs v ss) i
    have hcur := hstored.cur.trans hc
    have hmarked := hstored.reads (reads_reached _ (15 - i) ((va + 8 * i) % 2 ^ 64) 8)
    have hlen : (m.me.wordEntries va (wordSegs v ss) i).length = i := by rw [Ctx.wordEntries, List.length_map, List.length_range]
    have hwindow := hmarked.ownWindowReady (ss i)
    rw [hc] at hwindow
    obtain ⟨hwalk, hresolve, hready, hcurtain⟩ := hgo i (by omega)
    rw [wordReached_eq hcur] at hresolve
    have hstore := scalarStoreAt_ok (m := n.wordsBuffered c va (wordSegs v ss) i) (key := 15 - i) (va := (va + 8 * i) % 2 ^ 64)
      (bs := leBytes 8 (v / 2 ^ (64 * i) % 2 ^ 64)) (ss := ss i) (by rw [hcur, leBytes_length]; exact hwalk) rfl
      (by rw [hcur, leBytes_length]; exact hresolve)
      (by rw [hcur, leBytes_length]; exact hwindow.trans hready)
      (by rw [leBytes_length, hmarked.curtained]; exact hcurtain)
      (by rw [leBytes_length, hmarked.length_sb, hlen]; omega)
      (by rw [leBytes_length]; exact firstPart_of_aligned i ⟨hva, .inr rfl⟩)
    have hnext : ((va + 8 * i) % 2 ^ 64 + 8) % 2 ^ 64 = (va + 8 * (i + 1)) % 2 ^ 64 := by omega
    obtain rfl : k = 15 - i := by omega
    rw [storesTo, leBytes_word v (by omega), hstore, List.drop_drop, ← Nat.mul_succ]
    have hlast := ih (i + 1) (by omega)
    rw [wordsBuffered_succ, wordReached_eq hcur] at hlast
    simp only [leBytes_length, bind, Except.bind, hnext]
    exact hlast

/-- The record is read at once, and sixteen stores of its doublewords enter the store buffer (R240, R445). -/
theorem strd_ok {s : State} {a b : BitVec 5} {c q t va : Nat} {ss : Nat → List (Loc × Nat)} (hr : s.ready [a, b]) (hc : s.m.cur = c)
    (hq : s.m.qOf c = q) (htid : (s.x a).toNat % 4096 = t) (hva : (s.x b).toNat = va) (halign : va % 128 = 0) (ht : t ≠ 0)
    (hv : (s.m.tit c t).v = true) (hstats : (s.m.tit c t).stats = true) (hwindow : s.m.windowCheck c va = .ok ())
    (hrec : s.m.recReady q t = true) (hroom : s.m.me.sb.length ≤ 16) (hclean : s.m.poisonAt (.pa (s.m.recAddr q t)) 128 = none)
    (hgo : s.m.RecordStorable ((s.m.titFill c t).ownRead (s.m.recAddr q t) 128) c va (s.m.record q t) ss) :
    ∃ u, exec (.strd a b) s = .next u ∧ u.m.mem = s.m.mem ∧ u.m.me.x = s.m.me.x ∧ u.m.me.pc = s.m.me.pc + 4 ∧
      u.m.me.sb = s.m.me.sb ++ s.m.me.wordEntries va (wordSegs (s.m.record q t) ss) 16 := by
  obtain ⟨⟨_, _, _, _, _, _, hfill⟩, -⟩ := s.m.titFill_spec c t
  obtain ⟨_, _, _, _, _, hread⟩ := ((s.m.titFill c t).tended_ownRead (s.m.recAddr q t) 128).rest
  generalize hn : (s.m.titFill c t).ownRead (s.m.recAddr q t) 128 = n at hgo hread
  have hstart : s.m.Stores n [] := by
    rw [hread, hfill]
    exact .of_me rfl rfl rfl rfl
  have hrecord : n.record q t = s.m.record q t := Mach.record_congr (by rw [hread, hfill]) (by rw [hread, hfill]) q t
  have hpoison : n.poisonAt (.pa (n.recAddr q t)) 128 = none := by
    have hparts : n.parts = s.m.parts := by rw [hread, hfill]
    rw [Mach.recAddr_congr hparts, Mach.poisonAt_pa_congr hparts (by rw [hread, hfill])]
    exact hclean
  have hstores := Mach.storesTo_ok hc hstart hgo (by omega) hroom 16 0 rfl
  have hstored := hstart.words hc va (wordSegs (s.m.record q t) ss) 16
  generalize n.wordsBuffered c va (wordSegs (s.m.record q t) ss) 16 = w at hstores hstored
  rw [Nat.mul_zero, Nat.add_zero, List.drop_zero, Nat.mod_eq_of_lt (by rw [← hva]; exact (s.x b).isLt)] at hstores
  obtain ⟨ks, hme⟩ := hstored.me
  refine ⟨s.did w, exec_strd.trans (scalarStep_ok hr ?_), ?_, ?_, ?_, ?_⟩
  · have htid' : s.m.me.tidOf a = t := htid
    have hva' : (s.m.me.rx b.toNat).toNat = va := hva
    simp only [hc, hq, htid', hva', halign, hwindow, Mach.recCheck_ok ht hv hstats, orRaise, hrec, waitFor, hn, hpoison, hrecord, bind,
      Except.bind, bne_self_eq_false, Bool.false_eq_true, Option.isSome_none, if_false, if_true]
    rw [if_neg (by omega)]
    exact hstores
  · exact (congrArg Mach.mem (Mach.onlyMe_retire _).1).trans hstored.mem
  · exact (Mach.retire_x _).trans (by rw [hme])
  · exact (congrArg Ctx.pc (Mach.me_retireTo _ _)).trans (by rw [hme])
  · exact (congrArg Ctx.sb (Mach.me_retireTo _ _)).trans (by rw [hme])

/-! ### The obligation -/

/-- Settles O38: each of the five instructions reaches its end, which is the lemma of its name above (the images, the cache of entries,
the records, the store buffer). -/
theorem tables : Obligations.Tables := by
  intro s d a b loc c q t va
  refine ⟨fun hr htable => ⟨?_, ?_⟩, fun hr => ⟨?_, ?_⟩, ?_⟩
  case refine_1 =>
    intro e halign ht hrun himage hlegal
    exact tdef_ok hr htable halign ht hrun himage rfl hlegal
  case refine_2 =>
    intro e halign hn himage hlegal
    exact pdef_ok hr htable halign hn himage rfl hlegal
  case refine_3 => exact tldf_ok hr
  case refine_4 =>
    intro m ht hv hstats htable hroom hto hsent
    exact strs_ok hr rfl rfl rfl rfl ht hv hstats htable hroom hto hsent
  case refine_5 =>
    intro ss hr halign ht hv hstats hwindow hrec hroom hclean to_ segs mark before hgo
    exact strd_ok hr rfl rfl rfl rfl halign ht hv hstats hwindow hrec hroom hclean hgo

end Sys2Proof.Machine
end
